-- ==== Sys2Proof/Word.lean ====
section
/-!
DEFINITION. Word.lean: the word types of the Spembe Byrax (00 R2, 02 R21, 15 R307).
-/
namespace Sys2Proof

/-- One byte of memory (R2). -/
abbrev Byte := BitVec 8
/-- A scalar register, a PC, a control register or an instruction word (R21, R307). -/
abbrev Word := BitVec 64
/-- A 32-bit word: a vector lane, a token, an Xkwedar instruction (R435, R334). -/
abbrev W32 := BitVec 32
/-- A vector register of 512 bits (R15, R22). -/
abbrev VReg := BitVec 512

end Sys2Proof
end

