-- ==== Sys2Proof/Machine/Bits.lean ====
section
/-!
DEFINITION. Machine/Bits.lean: bit fields of numbers and words, and words from and to bytes (R2, R341).
-/
namespace Sys2Proof.Machine

/-- n[hi:lo] (R2). -/
def bitsN (n hi lo : Nat) : Nat := n / 2 ^ lo % 2 ^ (hi + 1 - lo)

/-- Bit i of a number. -/
def bitN (n i : Nat) : Bool := n / 2 ^ i % 2 == 1

/-- A word's field as a number. -/
def fld (w : Word) (hi lo : Nat) : Nat := bitsN w.toNat hi lo

/-- A number as a word, modulo 2^64. -/
def w64 (n : Nat) : Word := BitVec.ofNat 64 n

/-- A number with the field [hi:lo] replaced. -/
def putBits (n hi lo v : Nat) : Nat :=
  n - bitsN n hi lo * 2 ^ lo + v % 2 ^ (hi + 1 - lo) * 2 ^ lo

/-- A word with the field [hi:lo] replaced. -/
def putFld (w : Word) (hi lo v : Nat) : Word := w64 (putBits w.toNat hi lo v)

/-- A flag as a number. -/
def b2n (b : Bool) : Nat := if b then 1 else 0

/-- The low `n` bytes of a number, least significant first. -/
def toBytes : Nat → Nat → List Byte
  | 0, _ => []
  | n + 1, v => BitVec.ofNat 8 v :: toBytes n (v / 256)

/-- A number from its bytes, least significant first. -/
def fromBytes : List Byte → Nat
  | [] => 0
  | b :: bs => b.toNat + 256 * fromBytes bs

/-- The low n bits of a number, sign-extended to 64 bits (R341). -/
def sextN (n v : Nat) : Word :=
  let x := v % 2 ^ n
  if n ≠ 0 && bitN x (n - 1) then w64 (2 ^ 64 - 2 ^ n + x) else w64 x

/-- n rounded up to a multiple of m. -/
def roundUp (n m : Nat) : Nat := (n + m - 1) / m * m

/-- Insert into a list kept ascending, without repeats. -/
def insertAsc : Nat → List Nat → List Nat
  | k, [] => [k]
  | k, a :: t => if k < a then k :: a :: t else if k = a then a :: t else a :: insertAsc k t

/-- Position of the first element that satisfies a test. -/
def findIdx' {α : Type} (p : α → Bool) : List α → Nat → Option Nat
  | [], _ => none
  | a :: t, i => if p a then some i else findIdx' p t (i + 1)

/-- The low `n` elements of a list from a position. -/
def slice {α : Type} (l : List α) (i n : Nat) : List α := (l.drop i).take n

/-- Disjoint byte ranges [a, a + m) and [b, b + n) share a byte. -/
def overlap (a m b n : Nat) : Bool := a < b + n && b < a + m

end Sys2Proof.Machine
end

