-- ==== Sys2Proof/Syntax.lean ====
section
/-!
DEFINITION. Syntax.lean: every operation and event of the opcode table as one inductive type.
The first 133 constructors are tile-core instructions (15 R307-R333), the next 10 the Xkwedar
instructions (15 R334), the rest the part's steps that no instruction word names (95); an event's
arguments are what the outside world, or a timing the spec leaves open, supplies.
-/
namespace Sys2Proof

/-- Scope suffixes, in the order of their encodings (R5, R321). -/
inductive Scope where
  | cor | clu | die | dev | sys
  deriving DecidableEq, Repr

/-- Access sizes (R321). -/
inductive Size where
  | b | h | w | d
  deriving DecidableEq, Repr

/-- The ordering of an atomic or fabric form with its scope (R184, R321). -/
inductive MemOrd where
  | plain
  | acq (s : Scope)
  | rel (s : Scope)
  | acqRel (s : Scope)
  deriving DecidableEq, Repr

/-- Rounding modes (R237, R321). -/
inductive Rounding where
  | rne | rtz | rdn | rup
  deriving DecidableEq, Repr

/-- Conditions of CMP and VCMP (R321, R359). -/
inductive Cond where
  | eq | ne | lt | le | gt | ge | ltu | leu | gtu | geu
  deriving DecidableEq, Repr

/-- Logic operations of PLOG and KLOG (R321). -/
inductive LogicOp where
  | and | or | xor | andn | orn | nand | nor | xnor
  deriving DecidableEq, Repr

/-- Integer operations of the atomics (R321). -/
inductive IntOp where
  | add | and | or | xor | swap | min | max | minu | maxu
  deriving DecidableEq, Repr

/-- Float operations of the atomics and of VRED (R321, R441). -/
inductive FloatOp where
  | add | min | max
  deriving DecidableEq, Repr

/-- Bit operations of VBIT (R437). -/
inductive BitOp where
  | and | or | xor | andn | not
  deriving DecidableEq, Repr

/-- Shift operations of VSH (R437). -/
inductive ShiftOp where
  | shl | shr | sra
  deriving DecidableEq, Repr

/-- Element types, in the order of their TY codes 0 to 13 (R232). -/
inductive Ty where
  | fp32 | bf16 | fp16 | e4m3 | e5m2 | fp4 | cir8 | int8 | uint8 | int4 | int32 | uint32 | int64 | ue8m0
  deriving DecidableEq, Repr

/-- The guard GRD: a predicate and its inversion (R308). -/
structure Guard where
  pred : BitVec 3
  inv  : Bool
  deriving DecidableEq, Repr

/-- Scalar, vector, predicate, lane-mask and handle register numbers (R311). -/
abbrev SReg := BitVec 6
abbrev VNum := BitVec 10
abbrev PReg := BitVec 3
abbrev KReg := BitVec 3
abbrev HReg := BitVec 4

/-- A scalar shift amount: a register or an immediate (R323). -/
inductive Amount where
  | reg (sb : SReg)
  | imm (n : BitVec 6)
  deriving DecidableEq, Repr

/-- The address of LD and ST in format S3: pointer plus scaled index, or handle plus offset (R325). -/
inductive IdxAddr where
  | gen (sa sb : SReg) (scale : BitVec 2)
  | hnd (h : HReg) (sb : SReg)
  deriving DecidableEq, Repr

/-- The address of an atomic: a pointer, or a handle plus the offset in sc (R325). -/
inductive AtomAddr where
  | gen (sa : SReg)
  | hnd (h : HReg) (sc : SReg)
  deriving DecidableEq, Repr

/-- A vector shift amount (R437). -/
inductive VAmount where
  | vec (vb : VNum)
  | imm (n : BitVec 6)
  deriving DecidableEq, Repr

/-- The two forms of VMOVS (R442). -/
inductive MovsForm where
  | toScalar (sd : SReg) (va : VNum)
  | toVector (vd : VNum) (sa : SReg)
  deriving DecidableEq, Repr

/-- The address of VLD and VST (R444): `ord` is the scope of the .acq or .rel form. -/
inductive VecAddr where
  | gen (sa sb : SReg) (scale : BitVec 2) (ord : Option Scope)
  | hnd (h : HReg) (sb : SReg)
  deriving DecidableEq, Repr

/-- The base of VLDS, VSTS, VGATH and VSCAT (R444). -/
inductive VecBase where
  | gen (sa : SReg)
  | hnd (h : HReg)
  deriving DecidableEq, Repr

/-- The forms of MLB (R397). -/
inductive MlbForm where
  | plain (sa : SReg)
  | x2 (sa : SReg)
  | x4 (sa : SReg)
  | mx (sa sb : SReg)
  | vec (vs : VNum) (n : BitVec 8)
  deriving DecidableEq, Repr

/-- The kinds of MMA, with the index or scale pointer (R400). -/
inductive MmaKind where
  | dense
  | sp64 (sx : SReg)
  | sp32 (sx : SReg)
  | mx (sx : SReg)
  deriving DecidableEq, Repr

/-- The forms of MDRAIN (R392). -/
inductive DrainForm where
  | mem (ty : Ty) (rm : Rounding) (ns mf z : Bool) (sa sr sn : SReg)
  | vec (z : Bool) (vd : VNum) (sr : SReg)
  deriving DecidableEq, Repr

/-- An operand of CPY: a generic pointer, or a handle with an offset register (R329). -/
inductive CopyArg where
  | ptr (s : SReg)
  | hnd (h : HReg) (s : SReg)
  deriving DecidableEq, Repr

/-- The data of FST (R330). -/
inductive FstData where
  | scal (ss : SReg)
  | vec (vs : VNum)
  deriving DecidableEq, Repr

/-- The operation of FAMO: an integer operation, or compare-and-swap with its new value in sc (R330). -/
inductive FamoOp where
  | int (op : IntOp)
  | cas (sc : SReg)
  deriving DecidableEq, Repr

/-- The forms of SPCAST (R332). -/
inductive CastForm where
  | abs
  | priv
  | chk (t : BitVec 4)
  deriving DecidableEq, Repr

/-- The kind of an application-hart access (R118). -/
inductive HartAccess where
  | fetch | load | store | amo
  deriving DecidableEq, Repr

/-- What a response from a peer or switch carries: its code (0 for success), its data bytes, the peer's CCNT when it performed
the access (R173), and the tag of the request that it answers, where several are outstanding (R210, R222). -/
structure Reply where
  code : Nat
  data : List Byte
  time : Nat := 0
  tag  : Option Nat := none
  deriving DecidableEq, Repr

/-- The operation of a fabric request (R210, R204, R206). An atomic without an integer operation compares with `a` and
swaps in `b`; MLDR's reads need the ATOM permission (R212). -/
inductive FabOp where
  | read (n : Nat)
  | reduceRead (n : Nat)
  | write (rel : Bool) (data : List (Option Byte))
  | atom (rel : Bool) (op : Option IntOp) (a b : Word)
  | land (rel : Bool) (key : W32) (len core : Nat) (data : List Byte)
  | reserve (key : W32) (len core : Nat)
  deriving DecidableEq, Repr

/-- A fabric request that reaches this device from a peer: `addr` is an offset of the exported window, or the pointer of a
landing zone, and `cls` the fabric class of the sender's tenant (R300). -/
structure FabReq where
  peer   : Nat
  tag    : Nat
  tenant : Nat
  cls    : Nat
  addr   : Nat
  op     : FabOp
  deriving DecidableEq, Repr

/-- A request to be served: one of this device's own transactions to itself, or one from a peer. -/
inductive Arrival where
  | own (tx : Nat)
  | peer (q : FabReq)
  deriving DecidableEq, Repr

/-- A message that arrives at the endpoint for a tenant: its sender, its tag and its payload (R227, R230). -/
structure EpMsg where
  tenant : Nat
  peer   : Word
  tag    : Word
  data   : List Byte
  deriving DecidableEq, Repr

/-- A firmware image as it is offered: its 256-byte header, the key carried beside it and its body (R303, R304). -/
structure Image where
  header : List Byte
  key    : List Byte
  body   : List Byte
  deriving DecidableEq, Repr

/-- What the I3C target serves (R306). -/
inductive I3cItem where
  | temperatures | power | ready | stepping | crash
  deriving DecidableEq, Repr

/-- Every operation and event of the part, one constructor per row of the opcode table. -/
inductive Instr where
  /-- ADD (R347) -/
  | add (g : Guard) (sd sa sb : SReg)
  /-- ADD_IMM (R347) -/
  | addImm (g : Guard) (sd sa : SReg) (imm : W32)
  /-- SUB -/
  | sub (g : Guard) (sd sa sb : SReg)
  /-- MUL -/
  | mul (g : Guard) (sd sa sb : SReg)
  /-- MULH -/
  | mulh (g : Guard) (u : Bool) (sd sa sb : SReg)
  /-- DIV -/
  | div (g : Guard) (u : Bool) (sd sa sb : SReg)
  /-- REM -/
  | rem (g : Guard) (u : Bool) (sd sa sb : SReg)
  /-- AND -/
  | and (g : Guard) (sd sa sb : SReg)
  /-- AND_IMM -/
  | andImm (g : Guard) (sd sa : SReg) (imm : W32)
  /-- ANDN -/
  | andn (g : Guard) (sd sa sb : SReg)
  /-- OR -/
  | or (g : Guard) (sd sa sb : SReg)
  /-- OR_IMM -/
  | orImm (g : Guard) (sd sa : SReg) (imm : W32)
  /-- XOR -/
  | xor (g : Guard) (sd sa sb : SReg)
  /-- XOR_IMM -/
  | xorImm (g : Guard) (sd sa : SReg) (imm : W32)
  /-- SHL -/
  | shl (g : Guard) (sd sa : SReg) (n : Amount)
  /-- SHR -/
  | shr (g : Guard) (sd sa : SReg) (n : Amount)
  /-- SRA -/
  | sra (g : Guard) (sd sa : SReg) (n : Amount)
  /-- CLZ -/
  | clz (g : Guard) (sd sa : SReg)
  /-- POPC -/
  | popc (g : Guard) (sd sa : SReg)
  /-- MIN -/
  | min (g : Guard) (u : Bool) (sd sa sb : SReg)
  /-- MAX -/
  | max (g : Guard) (u : Bool) (sd sa sb : SReg)
  /-- SEL -/
  | sel (g : Guard) (sd : SReg) (pn : PReg) (sa sb : SReg)
  /-- CMP -/
  | cmp (g : Guard) (c : Cond) (pd : PReg) (sa sb : SReg)
  /-- CMP_IMM -/
  | cmpImm (g : Guard) (c : Cond) (pd : PReg) (sa : SReg) (imm : W32)
  /-- MOVI -/
  | movi (g : Guard) (sd : SReg) (imm : W32)
  /-- MOVHI -/
  | movhi (g : Guard) (sd : SReg) (imm : W32)
  /-- BFX; len1 is LEN - 1 -/
  | bfx (g : Guard) (u : Bool) (sd sa : SReg) (pos len1 : BitVec 6)
  /-- BFI -/
  | bfi (g : Guard) (sd sa : SReg) (pos len1 : BitVec 6)
  /-- PLOG -/
  | plog (g : Guard) (op : LogicOp) (pd pa pb : PReg)
  /-- BRA -/
  | bra (g : Guard) (disp : BitVec 40)
  /-- CALL -/
  | call (g : Guard) (disp : BitVec 40)
  /-- LOOP -/
  | loop (g : Guard) (sr : SReg) (disp : BitVec 40)
  /-- JMP -/
  | jmp (g : Guard) (sa : SReg)
  /-- RET -/
  | ret (g : Guard) (sa : SReg)
  /-- EXIT -/
  | exit (g : Guard)
  /-- YIELD -/
  | yield (g : Guard)
  /-- NOP -/
  | nop (g : Guard)
  /-- TRIG -/
  | trig (g : Guard)
  /-- BKPT -/
  | bkpt (g : Guard) (imm : W32)
  /-- LD -/
  | ld (g : Guard) (u : Bool) (sz : Size) (acq : Option Scope) (sd sa : SReg) (imm : W32)
  /-- LD_INDEXED -/
  | ldIndexed (g : Guard) (u : Bool) (sz : Size) (acq : Option Scope) (sd : SReg) (a : IdxAddr)
  /-- ST -/
  | st (g : Guard) (sz : Size) (rel : Option Scope) (sd sa : SReg) (imm : W32)
  /-- ST_INDEXED -/
  | stIndexed (g : Guard) (sz : Size) (rel : Option Scope) (sd : SReg) (a : IdxAddr)
  /-- LDFE -/
  | ldfe (g : Guard) (sd sa : SReg) (imm : W32)
  /-- LDFF -/
  | ldff (g : Guard) (sd sa : SReg) (imm : W32)
  /-- STEF -/
  | stef (g : Guard) (sd sa : SReg) (imm : W32)
  /-- STFF -/
  | stff (g : Guard) (sd sa : SReg) (imm : W32)
  /-- FESET -/
  | feset (g : Guard) (sd sa : SReg) (imm : W32)
  /-- FEQ -/
  | feq (g : Guard) (sd sa : SReg) (imm : W32)
  /-- AMO; d selects .d -/
  | amo (g : Guard) (op : IntOp) (d : Bool) (ord : MemOrd) (sd : SReg) (a : AtomAddr) (sb : SReg)
  /-- CAS -/
  | cas (g : Guard) (d : Bool) (ord : MemOrd) (sd sa sb sc : SReg)
  /-- AMOF -/
  | amof (g : Guard) (op : FloatOp) (ord : MemOrd) (sd : SReg) (a : AtomAddr) (sb : SReg)
  /-- RED -/
  | red (g : Guard) (op : IntOp) (d : Bool) (rel : Option Scope) (a : AtomAddr) (sb : SReg)
  /-- REDF -/
  | redf (g : Guard) (op : FloatOp) (rel : Option Scope) (a : AtomAddr) (sb : SReg)
  /-- VADD -/
  | vadd (g : Guard) (ty : Ty) (vd va vb : VNum) (km : KReg)
  /-- VSUB -/
  | vsub (g : Guard) (ty : Ty) (vd va vb : VNum) (km : KReg)
  /-- VMUL -/
  | vmul (g : Guard) (ty : Ty) (vd va vb : VNum) (km : KReg)
  /-- VFMA -/
  | vfma (g : Guard) (ty : Ty) (vd va vb vc : VNum) (km : KReg)
  /-- VMIN -/
  | vmin (g : Guard) (ty : Ty) (vd va vb : VNum) (km : KReg)
  /-- VMAX -/
  | vmax (g : Guard) (ty : Ty) (vd va vb : VNum) (km : KReg)
  /-- VABS -/
  | vabs (g : Guard) (ty : Ty) (vd va : VNum) (km : KReg)
  /-- VNEG -/
  | vneg (g : Guard) (ty : Ty) (vd va : VNum) (km : KReg)
  /-- VBIT -/
  | vbit (g : Guard) (op : BitOp) (vd va vb : VNum) (km : KReg)
  /-- VSH -/
  | vsh (g : Guard) (op : ShiftOp) (ty : Ty) (vd va : VNum) (n : VAmount) (km : KReg)
  /-- VCMP -/
  | vcmp (g : Guard) (c : Cond) (ty : Ty) (kd : KReg) (va vb : VNum) (km : KReg)
  /-- VSEL -/
  | vsel (g : Guard) (vd va vb : VNum) (kc km : KReg)
  /-- VCVT -/
  | vcvt (g : Guard) (dty sty : Ty) (ns : Bool) (vd va : VNum) (km : KReg)
  /-- VCVTO -/
  | vcvto (g : Guard) (dty sty : Ty) (ns : Bool) (vd va : VNum) (sb : SReg) (km : KReg)
  /-- VEXP2 (TY is FP32) -/
  | vexp2 (g : Guard) (vd va : VNum) (km : KReg)
  /-- VLOG2 -/
  | vlog2 (g : Guard) (vd va : VNum) (km : KReg)
  /-- VRCP -/
  | vrcp (g : Guard) (vd va : VNum) (km : KReg)
  /-- VRSQ -/
  | vrsq (g : Guard) (vd va : VNum) (km : KReg)
  /-- VSQRT -/
  | vsqrt (g : Guard) (vd va : VNum) (km : KReg)
  /-- VRED -/
  | vred (g : Guard) (op : FloatOp) (ty : Ty) (vd va : VNum) (km : KReg)
  /-- VPERM -/
  | vperm (g : Guard) (vd va vb : VNum) (km : KReg)
  /-- VBCST -/
  | vbcst (g : Guard) (ty : Ty) (vd : VNum) (sa : SReg) (km : KReg)
  /-- VMOVS -/
  | vmovs (g : Guard) (f : MovsForm) (lane : BitVec 4) (km : KReg)
  /-- VIDX -/
  | vidx (g : Guard) (ty : Ty) (vd : VNum) (sa : SReg) (km : KReg)
  /-- VTOPK -/
  | vtopk (g : Guard) (vd va vb : VNum) (km : KReg)
  /-- KLOG -/
  | klog (g : Guard) (op : LogicOp) (kd ka kb : KReg)
  /-- KPOP -/
  | kpop (g : Guard) (sd : SReg) (ka : KReg)
  /-- VLD -/
  | vld (g : Guard) (vr : VNum) (a : VecAddr) (km : KReg)
  /-- VST -/
  | vst (g : Guard) (vr : VNum) (a : VecAddr) (km : KReg)
  /-- VLDS -/
  | vlds (g : Guard) (vr : VNum) (b : VecBase) (sb : SReg) (km : KReg)
  /-- VSTS -/
  | vsts (g : Guard) (vr : VNum) (b : VecBase) (sb : SReg) (km : KReg)
  /-- VGATH -/
  | vgath (g : Guard) (vr : VNum) (b : VecBase) (vx : VNum) (scale : BitVec 2) (km : KReg)
  /-- VSCAT -/
  | vscat (g : Guard) (vr : VNum) (b : VecBase) (vx : VNum) (scale : BitVec 2) (km : KReg)
  /-- MZERO -/
  | mzero (g : Guard)
  /-- MLB -/
  | mlb (g : Guard) (ty : Ty) (f : MlbForm)
  /-- MMA; rag is st of .rag -/
  | mma (g : Guard) (rot : Bool) (rag : Option SReg) (kind : MmaKind) (ty : Ty) (sa sm : SReg)
  /-- MOUT -/
  | mout (g : Guard) (sa sn sb sr sm : SReg)
  /-- MDRAIN -/
  | mdrain (g : Guard) (f : DrainForm)
  /-- MRING -/
  | mring (g : Guard)
  /-- CPY -/
  | cpy (g : Guard) (dst src : CopyArg) (vn : VNum)
  /-- SEAL -/
  | seal (g : Guard) (sd : SReg)
  /-- WAITB -/
  | waitb (g : Guard) (pd : PReg) (sd : SReg) (n : BitVec 4)
  /-- LZRES -/
  | lzres (g : Guard) (pd : PReg) (sd sa sb : SReg)
  /-- LZREL -/
  | lzrel (g : Guard) (pd : PReg) (z : BitVec 2) (ss : SReg)
  /-- LZCLR -/
  | lzclr (g : Guard) (pd : PReg) (z : BitVec 2) (ss : SReg)
  /-- LZWAIT -/
  | lzwait (g : Guard) (pd : PReg) (sd : SReg) (z : BitVec 2) (sm : SReg)
  /-- LZWAIT_ALL -/
  | lzwaitAll (g : Guard) (pd : PReg) (sd : SReg) (z : BitVec 2)
  /-- FLD -/
  | fld (g : Guard) (q : BitVec 2) (sa : SReg)
  /-- QPOP -/
  | qpop (g : Guard) (pd : PReg) (vd : VNum) (q : BitVec 2)
  /-- FST -/
  | fst (g : Guard) (rel : Option Scope) (sa : SReg) (data : FstData)
  /-- FAMO -/
  | famo (g : Guard) (op : FamoOp) (ord : MemOrd) (pd : PReg) (sd sa sb : SReg)
  /-- MLDR -/
  | mldr (g : Guard) (bf16 : Bool) (pd : PReg) (vd : VNum) (sa : SReg)
  /-- RQLD -/
  | rqld (g : Guard) (sd sa : SReg) (f : BitVec 6)
  /-- RQST -/
  | rqst (g : Guard) (sa sb : SReg) (f : BitVec 6)
  /-- RQFLT -/
  | rqflt (g : Guard) (sa sb : SReg)
  /-- STEPDONE -/
  | stepdone (g : Guard) (sa : SReg)
  /-- SAMPLE -/
  | sample (g : Guard) (pd : PReg) (sd sa sb sc : SReg)
  /-- RNG -/
  | rng (g : Guard) (vd : VNum) (sa sb sc : SReg)
  /-- ISOMASK -/
  | isomask (g : Guard) (pd : PReg) (vd : VNum) (sa sb sc : SReg)
  /-- ISOSTEP -/
  | isostep (g : Guard) (pd : PReg) (sd sa sb sc : SReg)
  /-- ACCEPT -/
  | accept (g : Guard) (pd : PReg) (sa sb : SReg) (vn : VNum)
  /-- KVCOMMIT -/
  | kvcommit (g : Guard) (pd : PReg) (sa sb sc : SReg)
  /-- FUTCALL -/
  | futcall (g : Guard) (pd : PReg) (sd sa sb sc : SReg)
  /-- FUTWAIT -/
  | futwait (g : Guard) (sa : SReg)
  /-- FUTQRY -/
  | futqry (g : Guard) (sd sa : SReg)
  /-- MFS -/
  | mfs (g : Guard) (sd : SReg) (n : BitVec 12)
  /-- MTS -/
  | mts (g : Guard) (n : BitVec 12) (sa : SReg)
  /-- TRAP -/
  | trap (g : Guard) (sa : SReg) (imm : BitVec 12)
  /-- FENCE -/
  | fence (g : Guard) (sc : Scope)
  /-- ACQ -/
  | acq (g : Guard) (sc : Scope)
  /-- REL -/
  | rel (g : Guard) (sc : Scope)
  /-- ICINV -/
  | icinv (g : Guard) (sc : Scope)
  /-- XLATE -/
  | xlate (g : Guard) (hd : HReg) (sa : SReg)
  /-- XLATE_SLOT -/
  | xlateSlot (g : Guard) (pd : PReg) (hd : HReg) (sa ss : SReg)
  /-- HREL; none is .all -/
  | hrel (g : Guard) (hd : Option HReg)
  /-- SPTEST -/
  | sptest (g : Guard) (sd sa : SReg)
  /-- SPCAST -/
  | spcast (g : Guard) (f : CastForm) (sd sa : SReg)
  /-- BAR -/
  | bar (g : Guard) (sa sb : SReg)
  /-- LAUNCH -/
  | launch (g : Guard) (pd : PReg) (sd sa : SReg)
  /-- KW_CAPLD -/
  | kwCapld (cd : BitVec 4) (rs1 : BitVec 5)
  /-- KW_CAPNAR -/
  | kwCapnar (cd ca : BitVec 4) (rs1 rs2 : BitVec 5)
  /-- KW_CAPCLR -/
  | kwCapclr (cd : BitVec 4)
  /-- KW_SBXENT -/
  | kwSbxent (rs1 : BitVec 5)
  /-- KW_SBXRET -/
  | kwSbxret
  /-- KW_TQPOP -/
  | kwTqpop (rd : BitVec 5) (cd : BitVec 4) (rs1 rs2 : BitVec 5)
  /-- KW_FUTARG -/
  | kwFutarg (rd : BitVec 5) (ca : BitVec 4) (rs1 : BitVec 5)
  /-- KW_FUTCPL -/
  | kwFutcpl (rd : BitVec 5) (ca : BitVec 4) (rs1 rs2 : BitVec 5)
  /-- KW_FUTFAIL -/
  | kwFutfail (rd : BitVec 5) (ca : BitVec 4) (rs1 : BitVec 5)
  /-- KW_REL -/
  | kwRel
  /-- SANDBOX_ACCESS (R118) -/
  | sandboxAccess (hart : Nat) (kind : HartAccess) (va : Word) (len : Nat)
  /-- ROTATION_COUNT_SPENT (R27) -/
  | rotationCountSpent (core slot : Nat)
  /-- ACCESS_REPLY (R28); r is what a peer's response carries -/
  | accessReply (core slot : Nat) (r : Reply)
  /-- POSTED_WRITE_ACK (R176) -/
  | postedWriteAck (id : Nat) (r : Reply)
  /-- WALK_COMPLETE (R151) -/
  | walkComplete (core slot : Nat)
  /-- FAULTED_SLOT_ARRIVAL (R76) -/
  | faultedSlotArrival (cluster slot : Nat)
  /-- FE_RETRY (R139) -/
  | feRetry (core slot : Nat)
  /-- FE_TIMEOUT (R140) -/
  | feTimeout (core slot : Nat)
  /-- SCOREBOARD_RETIRE (R143) -/
  | scoreboardRetire (core entry : Nat)
  /-- TASK_PLACEMENT (R44) -/
  | taskPlacement (die : Nat)
  /-- AGING_PROMOTION (R44) -/
  | agingPromotion (die entry : Nat)
  /-- POOL_FILL (R43) -/
  | poolFill (die : Nat)
  /-- STEPDONE_RECEIVED (R50) -/
  | stepdoneReceived (core : Nat)
  /-- STEP_BOUNDARY (R50) -/
  | stepBoundary
  /-- KV_SPILL_COPY_DONE (R67) -/
  | kvSpillCopyDone (id : Nat)
  /-- KV_PAGE_FREE_DONE (R75) -/
  | kvPageFreeDone (id : Nat)
  /-- KVCOMMIT_COPIES_DONE (R98) -/
  | kvcommitCopiesDone (core slot : Nat)
  /-- SERVECTL_GO (R74) -/
  | servectlGo
  /-- SERVING_ACTIVATE (R74) -/
  | servingActivate
  /-- SERVECTL_DRAIN (R74) -/
  | servectlDrain
  /-- SERVING_OFF (R74) -/
  | servingOff
  /-- SERVEMASK_WRITE (R74) -/
  | servemaskWrite (die : Nat) (v : Word)
  /-- FUTURE_DEADLINE (R113) -/
  | futureDeadline (idx : Nat)
  /-- FUTURE_COMPLETION_MESSAGE (R230) -/
  | futureCompletionMessage (m : EpMsg)
  /-- TOOL_QUEUE_FORWARD (R121) -/
  | toolQueueForward (q : Nat)
  /-- DEFERRED_RING_WRITE (R110) -/
  | deferredRingWrite (ring : Nat)
  /-- TSCMD_HANDLES (R162) -/
  | tscmdHandles
  /-- TSCMD_TLB (R162) -/
  | tscmdTlb
  /-- TSCMD_BOTH (R162) -/
  | tscmdBoth
  /-- TSCMD_KICK (R162) -/
  | tscmdKick
  /-- SHOOTDOWN_DONE (R162) -/
  | shootdownDone
  /-- SIDELOG_PERIODIC_REPLAY (R155) -/
  | sidelogPeriodicReplay (cluster : Nat)
  /-- SLACT_RETRY (R156) -/
  | slactRetry (cluster : Nat)
  /-- SLACT_DISCARD (R156) -/
  | slactDiscard (cluster : Nat)
  /-- HOME_COHERENT_REQUEST (R171); `src` is a request that arrives from the system cache or the host -/
  | homeCoherentRequest (line : Nat) (src : Option (Nat × Bool))
  /-- SNOOP_RECEIVED (R170); `r` is the data a host that wrote its copy forwards -/
  | snoopReceived (line who : Nat) (r : Reply)
  /-- SC_WRITE_AT_HOME (R173) -/
  | scWriteAtHome (id : Nat)
  /-- CMOCMD_FLUSH (R182) -/
  | cmocmdFlush (v : Word)
  /-- CMO_FLUSH_DONE (R182) -/
  | cmoFlushDone
  /-- TIMED_COMMAND_START (R197) -/
  | timedCommandStart (cluster id : Nat)
  /-- COPY_COMMAND_FINISH (R200) -/
  | copyCommandFinish (cluster id : Nat)
  /-- LZRES_REQUEST (R206) -/
  | lzresRequest (a : Arrival)
  /-- LANDING_WRITE (R204) -/
  | landingWrite (a : Arrival)
  /-- LANDING_SLOT_TIMEOUT (R203) -/
  | landingSlotTimeout (core zone slot : Nat)
  /-- ZONE_DISABLE (R202) -/
  | zoneDisable (core zone : Nat)
  /-- FABRIC_REQUEST_SERVED (R212) -/
  | fabricRequestServed (a : Arrival)
  /-- FABRIC_TIMEOUT (R214) -/
  | fabricTimeout (id : Nat)
  /-- SWITCH_LINK_DOWN_REPORT (R231) -/
  | switchLinkDownReport (sw : Nat)
  /-- PEERFENCE_WRITE (R213) -/
  | peerfenceWrite (j : Nat) (v : Word)
  /-- FABID_WRITE (R213) -/
  | fabidWrite (v : Word)
  /-- TIME_MESSAGE (R225); `off` is the estimated offset from the master -/
  | timeMessage (off : Int)
  /-- EPDB_ARM (R228); the tenant is that of the VF whose BAR0 is written -/
  | epdbArm (tenant : Nat) (v : Word)
  /-- EPDB_DISARM (R228) -/
  | epdbDisarm (tenant : Nat) (v : Word)
  /-- EP_MESSAGE_ARRIVAL (R227) -/
  | epMessageArrival (m : EpMsg)
  /-- EP_TRANSFER_COMPLETE (R228); `r` is what an RMA read returns -/
  | epTransferComplete (id : Nat) (r : Reply)
  /-- EP_ODP_TIMEOUT (R229) -/
  | epOdpTimeout (id : Nat)
  /-- MATRIX_COMMAND_START (R255) -/
  | matrixCommandStart (core : Nat)
  /-- MATRIX_COMMAND_COMPLETE (R255) -/
  | matrixCommandComplete (core : Nat)
  /-- RING_STEP_COMMIT (R265) -/
  | ringStepCommit (core : Nat)
  /-- PAIR_TIMEOUT (R266) -/
  | pairTimeout (core : Nat)
  /-- FAULT_ACK_TIMEOUT (R275) -/
  | faultAckTimeout (cluster : Nat)
  /-- FRPTR_HEAD_WRITE (R275) -/
  | frptrHeadWrite (cluster level : Nat) (v : Word)
  /-- DBGCMD_HALT (R280) -/
  | dbgcmdHalt (core slot : Nat)
  /-- DBGCMD_RESUME (R280) -/
  | dbgcmdResume (core slot : Nat)
  /-- DBGCMD_STEP (R282) -/
  | dbgcmdStep (core slot : Nat)
  /-- DBGCMD_RESTART (R280) -/
  | dbgcmdRestart (core slot : Nat)
  /-- DBGCMD_KILL (R280) -/
  | dbgcmdKill (core slot : Nat)
  /-- RQFAULT_WRITE (R280) -/
  | rqfaultWrite (core slot : Nat) (v : Word)
  /-- DEBUG_WINDOW_ACCESS (R279); a read, or a write of a value -/
  | debugWindowAccess (core off : Nat) (wr : Option Word)
  /-- SQCMD_SAVE (R284) -/
  | sqcmdSave (core who : Nat)
  /-- SQUALL_SAVE_COMPLETE (R284) -/
  | squallSaveComplete (core : Nat)
  /-- SQCMD_RESTORE (R287) -/
  | sqcmdRestore (core : Nat)
  /-- SQUALL_RESTORE_COMPLETE (R287) -/
  | squallRestoreComplete (core : Nat)
  /-- TENANT_TIME_SLICE (R300) -/
  | tenantTimeSlice (core tenant : Nat)
  /-- MC_TRAP (R290) -/
  | mcTrap (pc cause tval status : Word)
  /-- WQ_DOORBELL (R296) -/
  | wqDoorbell (fn q : Nat) (v : Word)
  /-- LAUNCH_ENTRY (R297) -/
  | launchEntry (q : Nat)
  /-- REQUEST_ENTRY (R58) -/
  | requestEntry (q : Nat)
  /-- CANCEL_ENTRY (R59) -/
  | cancelEntry (q : Nat)
  /-- AUTOMATON_ENTRY (R297) -/
  | automatonEntry (q : Nat)
  /-- ZONE_ENTRY (R297) -/
  | zoneEntry (q : Nat)
  /-- TENANT_CTL_ENTRY (R299) -/
  | tenantCtlEntry (q : Nat)
  /-- BADTYPE_ENTRY (R297) -/
  | badtypeEntry (q : Nat)
  /-- CQ_HEAD_WRITE (R295) -/
  | cqHeadWrite (fn r : Nat) (v : Word)
  /-- TRSTCMD_GO (R301) -/
  | trstcmdGo (v : Word)
  /-- FUNCTION_LEVEL_RESET (R301) -/
  | functionLevelReset (tenant : Nat)
  /-- CLURST_WRITE (R302) -/
  | clurstWrite (die : Nat) (v : Word)
  /-- OWNERSHIP_MAP_WRITE (R136) -/
  | ownershipMapWrite (off : Nat) (v : Byte)
  /-- POWER_ON (R302) -/
  | powerOn (imgs : List Image)
  /-- FUNCTION_READY (R302) -/
  | functionReady (bit : Nat)
  /-- ATTESTATION_REQUEST (R305) -/
  | attestationRequest (nonce : List Byte)
  /-- POWER_THROTTLE (R306) -/
  | powerThrottle (core : Nat)
  /-- THERMAL_TRIP (R306) -/
  | thermalTrip
  /-- I3C_REQUEST (R306) -/
  | i3cRequest (what : I3cItem)
  /-- REGISTER_WRITE (R3) -/
  | registerWrite (off : Nat) (v : Word)
  /-- UNDEFINED_OPCODE (R322) -/
  | undefinedOpcode (w : Word)
  /-- XKWEDAR_ILLEGAL_INSTRUCTION (R334) -/
  | xkwedarIllegal (w : W32)
  /-- SRET (R118) -/
  | sret
  /-- SANDBOX_TRAP (R118) -/
  | sandboxTrap (hart : Nat) (cause tval : Word)
  /-- MRET (R290) -/
  | mret
  deriving DecidableEq, Repr

end Sys2Proof
end

