-- ==== Sys2Proof/Machine/Num.lean ====
section
/-!
DEFINITION. Machine/Num.lean: number formats and exact arithmetic (chapter 11): values are exact dyadic numbers, and every
operation rounds its exact result once.
-/
namespace Sys2Proof.Machine

/-- A dyadic magnitude with a sign: `man * 2 ^ exp`; with `st` the magnitude lies strictly between that and
`(man + 1) * 2 ^ exp`. -/
structure Dy where
  neg : Bool
  man : Nat
  exp : Int
  st  : Bool
  deriving DecidableEq, Repr

/-- A decoded operand. -/
inductive FV where
  | nan
  | inf (neg : Bool)
  | num (d : Dy)
  deriving DecidableEq, Repr

/-- The flags of FPMODE, at their places in it (R237). -/
abbrev Flags := BitVec 9
def fNX : Flags := 0x010
def fUF : Flags := 0x020
def fOF : Flags := 0x040
def fDZ : Flags := 0x080
def fNV : Flags := 0x100

/-- Number of significant bits. -/
def bitLen (n : Nat) : Nat := if n = 0 then 0 else Nat.log2 n + 1

/-! ### Binary floating types (R232, R233) -/

/-- A binary floating type: fraction and exponent widths, bias, the exponent field and fraction of its largest finite
value, and whether it has infinities. -/
structure Bin where
  mw   : Nat
  ew   : Nat
  bias : Nat
  maxE : Nat
  maxM : Nat
  infs : Bool
  deriving DecidableEq, Repr

def bFP32 : Bin := { mw := 23, ew := 8, bias := 127, maxE := 254, maxM := 2 ^ 23 - 1, infs := true }

def binOf : Ty → Option Bin
  | .fp32 => some bFP32
  | .bf16 => some { mw := 7, ew := 8, bias := 127, maxE := 254, maxM := 127, infs := true }
  | .fp16 => some { mw := 10, ew := 5, bias := 15, maxE := 30, maxM := 1023, infs := true }
  | .e4m3 => some { mw := 3, ew := 4, bias := 7, maxE := 15, maxM := 6, infs := false }
  | .e5m2 => some { mw := 2, ew := 5, bias := 15, maxE := 30, maxM := 3, infs := true }
  | .fp4 => some { mw := 1, ew := 2, bias := 1, maxE := 3, maxM := 1, infs := false }
  | _ => none

/-- Width of a type in bits. -/
def tyBits : Ty → Nat
  | .fp32 | .int32 | .uint32 => 32
  | .bf16 | .fp16 => 16
  | .e4m3 | .e5m2 | .cir8 | .int8 | .uint8 | .ue8m0 => 8
  | .fp4 | .int4 => 4
  | .int64 => 64

/-- The canonical NaN of a type (R233). -/
def canonNaN : Ty → Nat
  | .fp32 => 0x7FC00000
  | .bf16 => 0x7FC0
  | .fp16 => 0x7E00
  | .e4m3 => 0x7F
  | .e5m2 => 0x7E
  | .cir8 => 0x80
  | .ue8m0 => 0xFF
  | _ => 0

/-- The range of an integer type. -/
def intRange : Ty → Option (Int × Int)
  | .int8 => some (-128, 127)
  | .uint8 => some (0, 255)
  | .int4 => some (-8, 7)
  | .int32 => some (-2147483648, 2147483647)
  | .uint32 => some (0, 4294967295)
  | .int64 => some (-9223372036854775808, 9223372036854775807)
  | _ => none

def dyInt (i : Int) : Dy := { neg := i < 0, man := i.natAbs, exp := 0, st := false }

/-- Magnitude of a Cirrus8 body in units of 2^-15 (R234). -/
def cirMag (x : Nat) : Nat :=
  if x = 0 then 0
  else
    let z := 7 - bitLen x
    let w := 6 - z
    let b := x % 2 ^ w
    let ew := match z with | 0 => 1 | 1 => 2 | 2 => 3 | 3 => 3 | 4 => 2 | 5 => 1 | _ => 0
    let fw := w - ew
    let e := b / 2 ^ fw
    let f := b % 2 ^ fw
    let exps : List Int := match z with
      | 0 => [-1, 0]
      | 1 => [-3, -2, 1, 2]
      | 2 => [-7, -6, -5, -4, 3, 4, 5, 6]
      | 3 => [-11, -10, -9, -8, 7, 8, 9, 10]
      | 4 => [-13, -12, 11, 12]
      | 5 => [-14, 13]
      | _ => [-15]
    (2 ^ fw + f) * 2 ^ ((exps.getD e 0) + 15 - fw).toNat

/-- Decoding a code of a type (R232 to R234). -/
def decodeNum (ty : Ty) (b : Nat) : FV :=
  match binOf ty with
  | some f =>
    let neg := bitN b (f.mw + f.ew)
    let e := b / 2 ^ f.mw % 2 ^ f.ew
    let m := b % 2 ^ f.mw
    if f.infs && e = 2 ^ f.ew - 1 then (if m = 0 then .inf neg else .nan)
    else if ty = .e4m3 && e = 15 && m = 7 then .nan
    else if e = 0 then .num { neg := neg, man := m, exp := 1 - (f.bias : Int) - f.mw, st := false }
    else .num { neg := neg, man := 2 ^ f.mw + m, exp := (e : Int) - f.bias - f.mw, st := false }
  | none =>
    match ty with
    | .cir8 =>
      if b % 256 = 0x80 then .nan
      else .num { neg := bitN b 7, man := cirMag (b % 128), exp := -15, st := false }
    | .ue8m0 => if b % 256 = 0xFF then .nan else .num { neg := false, man := 1, exp := (b % 256 : Int) - 127, st := false }
    | .uint8 | .uint32 => .num (dyInt (b % 2 ^ tyBits ty))
    | _ =>
      let w := tyBits ty
      let x := b % 2 ^ w
      .num (dyInt (if bitN x (w - 1) then (x : Int) - 2 ^ w else x))

/-! ### Rounding (R236, R239, R241, R242) -/

/-- Whether a truncated magnitude is raised to the next: `odd` its last bit, `cmp` how the part cut off compares with
half (0 none, 1 below, 2 half, 3 above). -/
def roundUpBy (rm : Rounding) (neg odd : Bool) (cmp : Nat) : Bool :=
  match rm with
  | .rne => cmp = 3 || (cmp = 2 && odd)
  | .rtz => false
  | .rdn => neg && cmp ≠ 0
  | .rup => !neg && cmp ≠ 0

/-- A magnitude cut at the quantum 2^qe: the integer part, and how the rest compares with half a quantum. -/
def cutAt (d : Dy) (qe : Int) : Nat × Nat :=
  if qe ≤ d.exp then (d.man * 2 ^ (d.exp - qe).toNat, if d.st then 1 else 0)
  else
    let sh := min (qe - d.exp).toNat (bitLen d.man + 2)
    let q := d.man / 2 ^ sh
    let r := d.man % 2 ^ sh
    let h := 2 ^ (sh - 1)
    (q, if r = 0 && !d.st then 0 else if r < h then 1 else if r = h && !d.st then 2 else 3)

/-- A magnitude rounded at a quantum: the integer, and whether it is inexact. -/
def roundAt (rm : Rounding) (d : Dy) (qe : Int) : Nat × Bool :=
  let (q, c) := cutAt d qe
  (if roundUpBy rm d.neg (q % 2 == 1) c then q + 1 else q, c ≠ 0)

/-- An overflow that the mode sends away from the finite range (R241). -/
def overInf (rm : Rounding) (neg : Bool) : Bool :=
  match rm with
  | .rne => true
  | .rtz => false
  | .rdn => neg
  | .rup => !neg

/-- The code of a type's largest finite value with a sign. -/
def maxCode (f : Bin) (neg : Bool) : Nat := b2n neg * 2 ^ (f.mw + f.ew) + f.maxE * 2 ^ f.mw + f.maxM

/-- What an overflow to infinity or an infinite input becomes (R241); `ns` is CVT 1. -/
def infCode (ty : Ty) (f : Bin) (neg ns : Bool) : Nat :=
  if !ns then maxCode f neg
  else if f.infs then b2n neg * 2 ^ (f.mw + f.ew) + (2 ^ f.ew - 1) * 2 ^ f.mw
  else if ty = .e4m3 then 0x7F
  else maxCode f neg

/-- A dyadic rounded to a binary floating type. -/
def roundBin (ty : Ty) (f : Bin) (rm : Rounding) (ns : Bool) (d : Dy) : Nat × Flags :=
  let sgn := b2n d.neg * 2 ^ (f.mw + f.ew)
  if d.man = 0 && !d.st then (sgn, 0)
  else
    let emin : Int := 1 - (f.bias : Int)
    let e : Int := d.exp + bitLen d.man - 1
    let qe : Int := max (e - f.mw) (emin - f.mw)
    let (q, inexact) := roundAt rm d qe
    let (q, qe) := if q = 2 ^ (f.mw + 1) then (2 ^ f.mw, qe + 1) else (q, qe)
    let ef : Int := if q < 2 ^ f.mw then 0 else qe + f.mw + f.bias
    if (f.maxE : Int) < ef || (ef = f.maxE && f.maxM < q - 2 ^ f.mw) then
      (if overInf rm d.neg then infCode ty f d.neg ns else maxCode f d.neg, fOF ||| fNX)
    else
      let tiny := e < emin && !(e = emin - 1 && (roundAt rm d (e - f.mw)).1 = 2 ^ (f.mw + 1))
      (sgn + ef.toNat * 2 ^ f.mw + (if q < 2 ^ f.mw then q else q - 2 ^ f.mw),
        (if inexact then fNX else 0) ||| (if inexact && tiny then fUF else 0))

/-- The magnitudes of the Cirrus8 codes, rising, with their bodies: bodies in the order that R235 gives their values. -/
def cirOrder : List Nat :=
  [0x00, 0x01, 0x02, 0x04, 0x05, 0x08, 0x09, 0x0A, 0x0B] ++ (List.range 8).map (· + 0x10) ++
  (List.range 16).map (· + 0x20) ++ (List.range 64).map (· + 0x40) ++ (List.range 16).map (· + 0x30) ++
  (List.range 8).map (· + 0x18) ++ [0x0C, 0x0D, 0x0E, 0x0F, 0x06, 0x07, 0x03]

/-- The candidates around a magnitude of floor `v` (units of 2^-15): the one at or below it and the next, with codes; from
2^28 on the powers of two. -/
def cirAround (v : Nat) : List Nat → Nat × Nat → (Nat × Nat) × (Nat × Nat)
  | [], lo => if v < 2 ^ 28 then (lo, lo) else
      let k := 2 ^ Nat.log2 v
      ((k, if k = 2 ^ 28 then 0x03 else 0x100), (2 * k, 0x100))
  | x :: xs, lo => if v < cirMag x then (lo, (cirMag x, x)) else cirAround v xs (cirMag x, x)

/-- A dyadic rounded to Cirrus8 (R236). -/
def roundCir (rm : Rounding) (ns : Bool) (d : Dy) : Nat × Flags :=
  if d.man = 0 && !d.st then (0, 0)
  else
    let (v, _) := cutAt d (-15)
    let (v2, c2) := cutAt d (-16)
    let (lo, hi) := cirAround v cirOrder (0, 0)
    let exact := v2 = 2 * lo.1 && c2 = 0
    let s := lo.1 + hi.1
    let up :=
      match rm with
      | .rtz => false
      | .rdn => d.neg
      | .rup => !d.neg
      | .rne =>
        if v2 < s then false
        else if v2 = s && c2 = 0 then
          (if hi.2 = 0x100 then true else decide (hi.2 % 2 = 0 ∧ lo.2 % 2 = 1))
        else true
    let r := if exact || !up then lo else hi
    if 2 ^ 28 < r.1 then
      (if overInf rm d.neg && ns then 0x80 else 0x03 + b2n d.neg * 0x80, fOF ||| fNX)
    else
      let tiny := v = 0
      (if r.1 = 0 then 0 else r.2 + b2n d.neg * 0x80,
        (if exact then 0 else fNX) ||| (if !exact && tiny then fUF else 0))

/-- A dyadic rounded to an integer in a mode, and whether it differs. -/
def roundInt (rm : Rounding) (d : Dy) : Int × Bool :=
  let (q, x) := roundAt rm d 0
  (if d.neg then -(q : Int) else q, x)

/-- Conversion of a value to a type (R241, R242): its code and the flags. -/
def convert (ty : Ty) (rm : Rounding) (ns : Bool) (v : FV) : Nat × Flags :=
  match binOf ty with
  | some f =>
    match v with
    | .nan => if ty = .fp4 then (0, fNV) else (canonNaN ty, 0)
    | .inf neg => (infCode ty f neg ns, 0)
    | .num d => roundBin ty f rm ns d
  | none =>
    match ty with
    | .cir8 =>
      match v with
      | .nan => (0x80, 0)
      | .inf neg => (if ns then 0x80 else 0x03 + b2n neg * 0x80, 0)
      | .num d => roundCir rm ns d
    | .ue8m0 =>
      match v with
      | .nan => (0xFF, fNV)
      | .inf neg => (if neg then 0xFF else if ns then 0xFF else 0xFE, fNV)
      | .num d =>
        if d.man = 0 && !d.st || d.neg then (0xFF, fNV)
        else
          let e : Int := d.exp + bitLen d.man - 1 + 127
          if 254 < e then (254, fOF ||| fNX)
          else if e < 0 then (0, fUF ||| fNX)
          else (e.toNat, if d.man = 2 ^ (bitLen d.man - 1) && !d.st then 0 else fNX)
    | _ =>
      match intRange ty with
      | none => (0, 0)
      | some (lo, hi) =>
        let code := fun i : Int => (i % (2 ^ tyBits ty : Int)).toNat
        match v with
        | .nan => (0, fNV)
        | .inf neg => (code (if neg then lo else hi), fNV)
        | .num d =>
          let (i, x) := roundInt rm d
          if i < lo then (code lo, fNV) else if hi < i then (code hi, fNV)
          else (code i, if x then fNX else 0)

/-! ### Exact sums and products -/

/-- The numerator of an exact dyadic over the quantum 2^e, e at most its exponent. -/
def Dy.over (d : Dy) (e : Int) : Int :=
  let m : Nat := d.man * 2 ^ (d.exp - e).toNat
  if d.neg then -(m : Int) else m

/-- A numerator over a quantum as a dyadic; an exact zero takes the given sign. -/
def dyOf (n : Int) (e : Int) (zneg : Bool) : Dy :=
  if n = 0 then { neg := zneg, man := 0, exp := e, st := false } else { neg := n < 0, man := n.natAbs, exp := e, st := false }

/-- The exact sum; the sign of a zero sum is that of IEEE 754 in the mode. -/
def addDy (rm : Rounding) (a b : Dy) : Dy :=
  let e := min a.exp b.exp
  dyOf (a.over e + b.over e) e (if a.man = 0 && b.man = 0 && a.neg == b.neg then a.neg else rm == .rdn)

def mulDy (a b : Dy) : Dy := { neg := xor a.neg b.neg, man := a.man * b.man, exp := a.exp + b.exp, st := false }

def FV.isNeg : FV → Bool
  | .nan => false
  | .inf n => n
  | .num d => d.neg
def FV.isZero : FV → Bool
  | .num d => d.man = 0 && !d.st
  | _ => false
def FV.negate : FV → FV
  | .nan => .nan
  | .inf n => .inf (!n)
  | .num d => .num { d with neg := !d.neg }

/-- The exact sum of two values, with NV for ∞ − ∞. -/
def addFV (rm : Rounding) (a b : FV) : FV × Flags :=
  match a, b with
  | .nan, _ | _, .nan => (.nan, 0)
  | .inf x, .inf y => if x = y then (.inf x, 0) else (.nan, fNV)
  | .inf x, .num _ => (.inf x, 0)
  | .num _, .inf y => (.inf y, 0)
  | .num x, .num y => (.num (addDy rm x y), 0)

/-- The exact product, with NV for 0 × ∞. -/
def mulFV (a b : FV) : FV × Flags :=
  match a, b with
  | .nan, _ | _, .nan => (.nan, 0)
  | .inf x, .inf y => (.inf (xor x y), 0)
  | .inf x, .num d => if d.man = 0 then (.nan, fNV) else (.inf (xor x d.neg), 0)
  | .num d, .inf y => if d.man = 0 then (.nan, fNV) else (.inf (xor d.neg y), 0)
  | .num x, .num y => (.num (mulDy x y), 0)

/-- a × b + c with one rounding to come; 0 × ∞ gives NaN and NV whatever c holds (R239). -/
def fmaFV (rm : Rounding) (a b c : FV) : FV × Flags :=
  let (p, f) := mulFV a b
  if f ≠ 0 then (.nan, f) else addFV rm p c

/-- A result rounded to FP32: arithmetic keeps infinities (R239). -/
def toFP32 (rm : Rounding) (r : FV × Flags) : Nat × Flags :=
  let (b, f) := convert .fp32 rm true r.1
  (b, f ||| r.2)

def fAdd (rm : Rounding) (a b : Nat) : Nat × Flags := toFP32 rm (addFV rm (decodeNum .fp32 a) (decodeNum .fp32 b))
def fSub (rm : Rounding) (a b : Nat) : Nat × Flags :=
  toFP32 rm (addFV rm (decodeNum .fp32 a) (decodeNum .fp32 b).negate)
def fMul (rm : Rounding) (a b : Nat) : Nat × Flags := toFP32 rm (mulFV (decodeNum .fp32 a) (decodeNum .fp32 b))
def fFma (rm : Rounding) (a b c : Nat) : Nat × Flags :=
  toFP32 rm (fmaFV rm (decodeNum .fp32 a) (decodeNum .fp32 b) (decodeNum .fp32 c))

/-! ### Comparison -/

/-- The order of two values; none when a NaN is among them. Zeros are equal. -/
def cmpFV (a b : FV) : Option Ordering :=
  match a, b with
  | .nan, _ | _, .nan => none
  | .inf x, .inf y => some (if x = y then .eq else if x then .lt else .gt)
  | .inf x, .num _ => some (if x then .lt else .gt)
  | .num _, .inf y => some (if y then .gt else .lt)
  | .num x, .num y =>
    let e := min x.exp y.exp
    let i := x.over e
    let j := y.over e
    some (if i < j then .lt else if i = j then .eq else .gt)

/-- minimumNumber and maximumNumber on FP32 codes (R240): −0 below +0; both NaN give the canonical NaN and NV. -/
def fMinMax (isMax : Bool) (a b : Nat) : Nat × Flags :=
  let x := decodeNum .fp32 a
  let y := decodeNum .fp32 b
  match cmpFV x y with
  | none =>
    if x = .nan then (if y = .nan then (0x7FC00000, fNV) else (b, 0)) else (a, 0)
  | some o =>
    let aLess := o = .lt || (o = .eq && x.isNeg)
    (if xor isMax aLess then a else b, 0)

/-! ### The long operations (R247) -/

/-- The integer square root, bit by bit from bit `k` down. -/
def isqrtFrom (n : Nat) : Nat → Nat → Nat
  | 0, r => if (r + 1) * (r + 1) ≤ n then r + 1 else r
  | k + 1, r =>
    let t := r + 2 ^ (k + 1)
    isqrtFrom n k (if t * t ≤ n then t else r)

/-- The integer square root of a number below 2^(2 k + 2). -/
def isqrt (k n : Nat) : Nat := isqrtFrom n k 0

/-- 1 / x for a nonzero exact dyadic, to 100 bits and a sticky bit. -/
def rcpDy (d : Dy) : Dy :=
  let k := bitLen d.man + 100
  { neg := d.neg, man := 2 ^ k / d.man, exp := -(k : Int) - d.exp, st := 2 ^ k % d.man ≠ 0 }

/-- The square root of a positive exact dyadic. -/
def sqrtDy (d : Dy) : Dy :=
  let sh := 120 + (d.exp % 2).toNat
  let n := d.man * 2 ^ sh
  let r := isqrt 90 n
  { neg := false, man := r, exp := (d.exp - sh) / 2, st := r * r ≠ n }

/-- The reciprocal square root of a positive exact dyadic. -/
def rsqDy (d : Dy) : Dy :=
  let m := d.man * 2 ^ (d.exp % 2).toNat
  let h := (d.exp - d.exp % 2) / 2
  let r := isqrt 130 (2 ^ 240 / m)
  { neg := false, man := r, exp := -120 - h, st := r * r * m ≠ 2 ^ 240 }

/-- Fraction bits of the fixed-point numbers below. -/
def fxP : Nat := 400

/-- The series z + z^3/3 + z^5/5 + … in fixed point: `p` the power, `k` the odd number, `fuel` terms. -/
def atanhSeries (z2 : Nat) : Nat → Nat → Nat → Nat
  | 0, _, _ => 0
  | fuel + 1, p, k => p / k + atanhSeries z2 fuel (p * z2 / 2 ^ fxP) (k + 2)

/-- ln 2 in fixed point: 2 atanh(1/3). -/
def ln2Fx : Nat := 2 * atanhSeries (2 ^ fxP / 9) 140 (2 ^ fxP / 3) 1

/-- The series 1 + y + y^2/2! + … in fixed point. -/
def expSeries (y : Nat) : Nat → Nat → Nat → Nat
  | 0, _, _ => 0
  | fuel + 1, t, k => t + expSeries y fuel (t * y / 2 ^ fxP / k) (k + 1)

/-- 2^x for a finite x: exact for integers, else to 360 bits and a sticky bit (notes/assumptions/20.md). -/
def exp2Dy (d : Dy) : Dy :=
  if d.man = 0 then { neg := false, man := 1, exp := 0, st := false }
  else if 12 ≤ d.exp + bitLen d.man then
    { neg := false, man := 1, exp := if d.neg then -1000 else 1000, st := true }
  else
    let x := d.over (min d.exp 0)
    let q := (2 : Int) ^ (-(min d.exp 0)).toNat
    let n := x / q
    let f := (x % q).toNat
    if f = 0 then { neg := false, man := 1, exp := n, st := false }
    else
      let y := f * ln2Fx / q.toNat
      { neg := false, man := expSeries y 120 (2 ^ fxP) 1 / 2 ^ 40, exp := n - 360, st := true }

/-- log2 x for a positive exact dyadic: exact for powers of two, else to 360 bits and a sticky bit. -/
def log2Dy (d : Dy) : Dy :=
  let l := bitLen d.man
  let e : Int := d.exp + l - 1
  let m := d.man
  let one := 2 ^ (l - 1)
  if m = one then dyInt e
  else
    let z := (m - one) * 2 ^ fxP / (m + one)
    let ln := 2 * atanhSeries (z * z / 2 ^ fxP) 140 z 1
    let lg : Int := (ln * 2 ^ fxP / ln2Fx : Nat)
    let t := e * 2 ^ fxP + lg
    { neg := t < 0, man := t.natAbs / 2 ^ 40, exp := -360, st := true }

/-- The long operations on FP32 codes, with their special cases. -/
inductive LongOp where
  | exp2 | log2 | rcp | rsq | sqrt
  deriving DecidableEq, Repr

def fLong (op : LongOp) (rm : Rounding) (a : Nat) : Nat × Flags :=
  let inf := fun neg : Bool => if neg then 0xFF800000 else 0x7F800000
  let nan := 0x7FC00000
  let zero := fun neg : Bool => if neg then 0x80000000 else 0
  match decodeNum .fp32 a with
  | .nan => (nan, 0)
  | .inf neg =>
    match op with
    | .exp2 => (if neg then 0 else inf false, 0)
    | .rcp => (zero neg, 0)
    | .rsq => if neg then (nan, fNV) else (0, 0)
    | .log2 | .sqrt => if neg then (nan, fNV) else (inf false, 0)
  | .num d =>
    if d.man = 0 then
      match op with
      | .exp2 => (0x3F800000, 0)
      | .log2 => (inf true, fDZ)
      | .rcp | .rsq => (inf d.neg, fDZ)
      | .sqrt => (zero d.neg, 0)
    else match op with
      | .exp2 => toFP32 rm (.num (exp2Dy d), 0)
      | .rcp => toFP32 rm (.num (rcpDy d), 0)
      | .log2 => if d.neg then (nan, fNV) else toFP32 rm (.num (log2Dy d), 0)
      | .rsq => if d.neg then (nan, fNV) else toFP32 rm (.num (rsqDy d), 0)
      | .sqrt => if d.neg then (nan, fNV) else toFP32 rm (.num (sqrtDy d), 0)

/-! ### Philox (R249) -/

def philoxRounds : Nat → Nat → Nat → Nat → Nat → Nat → Nat → Nat × Nat × Nat × Nat
  | 0, c0, c1, c2, c3, _, _ => (c0, c1, c2, c3)
  | n + 1, c0, c1, c2, c3, k0, k1 =>
    let p0 := 0xD2511F53 * c0
    let p1 := 0xCD9E8D57 * c2
    philoxRounds n (Nat.xor (Nat.xor (p1 / 2 ^ 32) c1) k0) (p1 % 2 ^ 32) (Nat.xor (Nat.xor (p0 / 2 ^ 32) c3) k1)
      (p0 % 2 ^ 32) ((k0 + 0x9E3779B9) % 2 ^ 32) ((k1 + 0xBB67AE85) % 2 ^ 32)

/-- Philox-4×32-10. -/
def philox (c0 c1 c2 c3 k0 k1 : Nat) : Nat × Nat × Nat × Nat := philoxRounds 10 c0 c1 c2 c3 k0 k1

/-- Word `i` of a philox result. -/
def philoxWord (c0 c1 c2 c3 k0 k1 i : Nat) : Nat :=
  let (a, b, c, d) := philox c0 c1 c2 c3 k0 k1
  if i = 0 then a else if i = 1 then b else if i = 2 then c else d

end Sys2Proof.Machine
end

