-- ==== Sys2Proof/WellFormed.lean ====
section
/-!
DEFINITION. WellFormed.lean: the operand limits that R310 checks at decode (orders 4 and 5), on instructions
as syntax. `Instr.wfCheck` names the first limit an instruction breaks; `Instr.wf` says it breaks none.
-/
namespace Sys2Proof

/-- The limits R310 checks beyond the layout of a word. -/
inductive WfCheck where
  /-- GRD = 0b1000 is reserved (R308). -/
  | invertedP0
  /-- POS + LEN above 64 (R323), LOOP with SR = 0 (R386), VBIT .not with VB nonzero (R437). -/
  | fieldLimit
  /-- The all-zero word, which fits ADD's layout (R310). -/
  | allZeroWord
  /-- U with SIZE .d (R384). -/
  | unsignedDouble
  /-- A handle form with an ordering (R384, R428). -/
  | handleOrder
  /-- A type the instruction's entry does not allow (R256, R392, R435 to R442). -/
  | typeNotAllowed
  /-- An unsigned condition on FP32 (R438). -/
  | conditionNotAllowed
  /-- A system register number that R333 does not list. -/
  | systemRegister
  /-- A vector register of 640 or above, named or implied (R310 order 5). -/
  | vectorNumber
  deriving DecidableEq, Repr

/-- The system registers of R333. -/
def sysRegKnown (n : Nat) : Bool :=
  n == 0x000 || n == 0x001 || (0x010 ≤ n && n ≤ 0x028) || n == 0x030 ||
  (0x040 ≤ n && n ≤ 0x045) || (0x050 ≤ n && n ≤ 0x053) || n == 0x060

/-- Types of lane arithmetic: FP32, INT32, UINT32 (R435). -/
def Ty.lane32 : Ty → Bool
  | .fp32 | .int32 | .uint32 => true
  | _ => false

/-- Operand types of the matrix array (R256). -/
def Ty.array : Ty → Bool
  | .bf16 | .fp16 | .e4m3 | .e5m2 | .cir8 | .int8 | .uint8 | .fp4 | .int4 => true
  | _ => false

/-- Types of MX operands (R263, R397). -/
def Ty.mx : Ty → Bool
  | .e4m3 | .e5m2 | .fp4 | .int8 => true
  | _ => false

/-- Source and destination types of VCVT (R439). -/
def Ty.cvt : Ty → Bool
  | .int64 => false
  | _ => true

/-- Source types of VCVTO (R439). -/
def Ty.cvtoSrc : Ty → Bool
  | .fp32 | .bf16 | .fp16 => true
  | _ => false

/-- Destination types of VCVTO (R439). -/
def Ty.cvtoDst : Ty → Bool
  | .e4m3 | .e5m2 | .fp4 | .cir8 | .int8 | .int4 => true
  | _ => false

/-- Width class of an array type: bits per element (R256). -/
def Ty.classBits : Ty → Nat
  | .bf16 | .fp16 => 16
  | .fp4 | .int4 => 4
  | _ => 8

/-- The combinations of R262 and R263 for MMA. -/
def mmaTyOk (ty : Ty) : MmaKind → Bool
  | .dense => ty.array
  | .sp64 _ => ty.array && ty.classBits != 16
  | .sp32 _ => ty.array
  | .mx _ => ty.mx

/-- The conditions FP32 compares may name (R438). -/
def Cond.signed : Cond → Bool
  | .eq | .ne | .lt | .le | .gt | .ge => true
  | _ => false

/-- Vector registers an instruction names or implies, in the order of R310: VD, VA, VB, VC, VR, VX, implied. -/
def Instr.vregs : Instr → List Nat
  | .vadd _ _ d a b _ | .vsub _ _ d a b _ | .vmul _ _ d a b _ | .vmin _ _ d a b _ | .vmax _ _ d a b _
  | .vbit _ .and d a b _ | .vbit _ .or d a b _ | .vbit _ .xor d a b _ | .vbit _ .andn d a b _
  | .vperm _ d a b _ | .vsel _ d a b _ _ | .vsh _ _ _ d a (.vec b) _ => [d.toNat, a.toNat, b.toNat]
  | .vfma _ _ d a b c _ => [d.toNat, a.toNat, b.toNat, c.toNat]
  | .vcmp _ _ _ _ a b _ => [a.toNat, b.toNat]
  | .vabs _ _ d a _ | .vneg _ _ d a _ | .vbit _ .not d a _ _ | .vsh _ _ _ d a (.imm _) _
  | .vcvt _ _ _ _ d a _ | .vcvto _ _ _ _ d a _ _
  | .vexp2 _ d a _ | .vlog2 _ d a _ | .vrcp _ d a _ | .vrsq _ d a _ | .vsqrt _ d a _
  | .vred _ _ _ d a _ => [d.toNat, a.toNat]
  | .vbcst _ _ d _ _ | .vidx _ _ d _ _ | .vmovs _ (.toVector d _) _ _ => [d.toNat]
  | .vmovs _ (.toScalar _ a) _ _ => [a.toNat]
  | .vtopk _ d a b _ => [d.toNat, a.toNat, b.toNat] ++ (List.range 7).map (fun j => d.toNat + 1 + j)
  | .vld _ r _ _ | .vst _ r _ _ | .vlds _ r _ _ _ | .vsts _ r _ _ _ => [r.toNat]
  | .vgath _ r _ x _ _ | .vscat _ r _ x _ _ => [r.toNat, x.toNat]
  | .mlb _ _ (.vec v _) => [v.toNat]
  | .mdrain _ (.vec _ d _) => [d.toNat, d.toNat + 1, d.toNat + 2, d.toNat + 3]
  | .cpy _ _ _ v => [v.toNat]
  | .qpop _ _ v _ => [v.toNat]
  | .fst _ _ _ (.vec v) => [v.toNat]
  | .mldr _ bf _ v _ => if bf then [v.toNat, v.toNat + 1] else [v.toNat]
  | .rng _ v _ _ _ => [v.toNat]
  | .isomask _ _ v _ _ _ => [v.toNat]
  | .accept _ _ _ _ v => [v.toNat, v.toNat + 1]
  | _ => []

/-- The guard of a tile-core instruction; Xkwedar instructions and events have none (R308). -/
def Instr.guard? : Instr → Option Guard
  | .add g _ _ _ => some g
  | .addImm g _ _ _ => some g
  | .sub g _ _ _ => some g
  | .mul g _ _ _ => some g
  | .mulh g _ _ _ _ => some g
  | .div g _ _ _ _ => some g
  | .rem g _ _ _ _ => some g
  | .and g _ _ _ => some g
  | .andImm g _ _ _ => some g
  | .andn g _ _ _ => some g
  | .or g _ _ _ => some g
  | .orImm g _ _ _ => some g
  | .xor g _ _ _ => some g
  | .xorImm g _ _ _ => some g
  | .shl g _ _ _ => some g
  | .shr g _ _ _ => some g
  | .sra g _ _ _ => some g
  | .clz g _ _ => some g
  | .popc g _ _ => some g
  | .min g _ _ _ _ => some g
  | .max g _ _ _ _ => some g
  | .sel g _ _ _ _ => some g
  | .cmp g _ _ _ _ => some g
  | .cmpImm g _ _ _ _ => some g
  | .movi g _ _ => some g
  | .movhi g _ _ => some g
  | .bfx g _ _ _ _ _ => some g
  | .bfi g _ _ _ _ => some g
  | .plog g _ _ _ _ => some g
  | .bra g _ => some g
  | .call g _ => some g
  | .loop g _ _ => some g
  | .jmp g _ => some g
  | .ret g _ => some g
  | .exit g => some g
  | .yield g => some g
  | .nop g => some g
  | .trig g => some g
  | .bkpt g _ => some g
  | .ld g _ _ _ _ _ _ => some g
  | .ldIndexed g _ _ _ _ _ => some g
  | .st g _ _ _ _ _ => some g
  | .stIndexed g _ _ _ _ => some g
  | .ldfe g _ _ _ => some g
  | .ldff g _ _ _ => some g
  | .stef g _ _ _ => some g
  | .stff g _ _ _ => some g
  | .feset g _ _ _ => some g
  | .feq g _ _ _ => some g
  | .amo g _ _ _ _ _ _ => some g
  | .cas g _ _ _ _ _ _ => some g
  | .amof g _ _ _ _ _ => some g
  | .red g _ _ _ _ _ => some g
  | .redf g _ _ _ _ => some g
  | .vadd g _ _ _ _ _ => some g
  | .vsub g _ _ _ _ _ => some g
  | .vmul g _ _ _ _ _ => some g
  | .vfma g _ _ _ _ _ _ => some g
  | .vmin g _ _ _ _ _ => some g
  | .vmax g _ _ _ _ _ => some g
  | .vabs g _ _ _ _ => some g
  | .vneg g _ _ _ _ => some g
  | .vbit g _ _ _ _ _ => some g
  | .vsh g _ _ _ _ _ _ => some g
  | .vcmp g _ _ _ _ _ _ => some g
  | .vsel g _ _ _ _ _ => some g
  | .vcvt g _ _ _ _ _ _ => some g
  | .vcvto g _ _ _ _ _ _ _ => some g
  | .vexp2 g _ _ _ => some g
  | .vlog2 g _ _ _ => some g
  | .vrcp g _ _ _ => some g
  | .vrsq g _ _ _ => some g
  | .vsqrt g _ _ _ => some g
  | .vred g _ _ _ _ _ => some g
  | .vperm g _ _ _ _ => some g
  | .vbcst g _ _ _ _ => some g
  | .vmovs g _ _ _ => some g
  | .vidx g _ _ _ _ => some g
  | .vtopk g _ _ _ _ => some g
  | .klog g _ _ _ _ => some g
  | .kpop g _ _ => some g
  | .vld g _ _ _ => some g
  | .vst g _ _ _ => some g
  | .vlds g _ _ _ _ => some g
  | .vsts g _ _ _ _ => some g
  | .vgath g _ _ _ _ _ => some g
  | .vscat g _ _ _ _ _ => some g
  | .mzero g => some g
  | .mlb g _ _ => some g
  | .mma g _ _ _ _ _ _ => some g
  | .mout g _ _ _ _ _ => some g
  | .mdrain g _ => some g
  | .mring g => some g
  | .cpy g _ _ _ => some g
  | .seal g _ => some g
  | .waitb g _ _ _ => some g
  | .lzres g _ _ _ _ => some g
  | .lzrel g _ _ _ => some g
  | .lzclr g _ _ _ => some g
  | .lzwait g _ _ _ _ => some g
  | .lzwaitAll g _ _ _ => some g
  | .fld g _ _ => some g
  | .qpop g _ _ _ => some g
  | .fst g _ _ _ => some g
  | .famo g _ _ _ _ _ _ => some g
  | .mldr g _ _ _ _ => some g
  | .rqld g _ _ _ => some g
  | .rqst g _ _ _ => some g
  | .rqflt g _ _ => some g
  | .stepdone g _ => some g
  | .sample g _ _ _ _ _ => some g
  | .rng g _ _ _ _ => some g
  | .isomask g _ _ _ _ _ => some g
  | .isostep g _ _ _ _ _ => some g
  | .accept g _ _ _ _ => some g
  | .kvcommit g _ _ _ _ => some g
  | .futcall g _ _ _ _ _ => some g
  | .futwait g _ => some g
  | .futqry g _ _ => some g
  | .mfs g _ _ => some g
  | .mts g _ _ => some g
  | .trap g _ _ => some g
  | .fence g _ => some g
  | .acq g _ => some g
  | .rel g _ => some g
  | .icinv g _ => some g
  | .xlate g _ _ => some g
  | .xlateSlot g _ _ _ _ => some g
  | .hrel g _ => some g
  | .sptest g _ _ => some g
  | .spcast g _ _ _ => some g
  | .bar g _ _ => some g
  | .launch g _ _ _ => some g
  | _ => none

/-- The operand limit an instruction's own form breaks, beside its guard and vector numbers. -/
def Instr.formCheck : Instr → Option WfCheck
  | .add g sd sa sb =>
    if g = { pred := 0#3, inv := false } ∧ sd = 0#6 ∧ sa = 0#6 ∧ sb = 0#6 then some .allZeroWord else none
  | .bfx _ _ _ _ pos len1 | .bfi _ _ _ pos len1 =>
    if pos.toNat + len1.toNat + 1 > 64 then some .fieldLimit else none
  | .loop _ sr _ => if sr = 0#6 then some .fieldLimit else none
  | .vbit _ .not _ _ vb _ => if vb = 0#10 then none else some .fieldLimit
  | .ld _ u sz _ _ _ _ => if u && sz == .d then some .unsignedDouble else none
  | .ldIndexed _ u sz ord _ (.hnd _ _) =>
    if u && sz == .d then some .unsignedDouble else if ord.isSome then some .handleOrder else none
  | .ldIndexed _ u sz _ _ (.gen _ _ _) => if u && sz == .d then some .unsignedDouble else none
  | .stIndexed _ _ ord _ (.hnd _ _) => if ord.isSome then some .handleOrder else none
  | .vadd _ ty _ _ _ _ | .vsub _ ty _ _ _ _ | .vmul _ ty _ _ _ _ | .vmin _ ty _ _ _ _ | .vmax _ ty _ _ _ _ =>
    if ty.lane32 then none else some .typeNotAllowed
  | .vfma _ ty _ _ _ _ _ => if ty.lane32 then none else some .typeNotAllowed
  | .vabs _ ty _ _ _ | .vneg _ ty _ _ _ => if ty.lane32 then none else some .typeNotAllowed
  | .vsh _ _ ty _ _ _ _ => if ty == .int32 || ty == .uint32 then none else some .typeNotAllowed
  | .vcmp _ c ty _ _ _ _ =>
    if !ty.lane32 then some .typeNotAllowed
    else if ty == .fp32 && !c.signed then some .conditionNotAllowed else none
  | .vcvt _ dty sty _ _ _ _ => if dty.cvt && sty.cvt then none else some .typeNotAllowed
  | .vcvto _ dty sty _ _ _ _ _ => if dty.cvtoDst && sty.cvtoSrc then none else some .typeNotAllowed
  | .vred _ _ ty _ _ _ => if ty.lane32 then none else some .typeNotAllowed
  | .vbcst _ ty _ _ _ => if ty == .int64 then some .typeNotAllowed else none
  | .vidx _ ty _ _ _ => if ty == .int32 || ty == .uint32 then none else some .typeNotAllowed
  | .mlb _ ty (.mx _ _) => if ty.mx then none else some .typeNotAllowed
  | .mlb _ ty _ => if ty.array then none else some .typeNotAllowed
  | .mma _ _ _ kind ty _ _ => if mmaTyOk ty kind then none else some .typeNotAllowed
  | .mdrain _ (.mem ty _ _ _ _ _ _ _) => if ty == .ue8m0 then some .typeNotAllowed else none
  | .mfs _ _ n | .mts _ n _ => if sysRegKnown n.toNat then none else some .systemRegister
  | _ => none

/-- The first limit of R310 that an instruction breaks. -/
def Instr.wfCheck (i : Instr) : Option WfCheck :=
  if i.guard? = some { pred := 0#3, inv := true } then some .invertedP0
  else match i.formCheck with
    | some c => some c
    | none => if i.vregs.all (· < 640) then none else some .vectorNumber

/-- The instruction breaks no limit of R310. -/
def Instr.wf (i : Instr) : Bool := i.wfCheck == none

end Sys2Proof
end

