-- ==== Sys2Proof/Decode.lean ====
section
/-!
DEFINITION. Decode.lean: instruction words (15 R307-R334). The eight tile formats are records with a packing into 64
bits and an unpacking; an instruction is read from the fields its form uses, and the word is accepted only if packing the
instruction gives the word back, so every field the form does not use must be zero (R310 order 4).
-/
namespace Sys2Proof

/-- Why a word is no instruction (R310 orders 1 to 5, R334). -/
inductive DecodeError where
  /-- The all-zero word. -/
  | allZero
  /-- OPC is not defined (R322). -/
  | opcUndefined
  /-- SUB holds no value listed for the OPC. -/
  | subUndefined
  /-- A field holds a reserved encoding of a small field (R321). -/
  | encodingReserved
  /-- A limit of R310 is broken. -/
  | limit (c : WfCheck)
  /-- A field that the form does not use is not zero. -/
  | unusedField
  /-- An Xkwedar word that R334 makes illegal. -/
  | xkwedarIllegal
  /-- A word of a hart that is not of custom-0 or custom-1. -/
  | notXkwedar
  deriving DecidableEq, Repr

/-! ### Small fields (R321) -/

def Scope.code : Scope → BitVec 3
  | .cor => 0 | .clu => 1 | .die => 2 | .dev => 3 | .sys => 4
def Scope.ofCode (c : BitVec 3) : Option Scope :=
  match c.toNat with
  | 0 => some .cor | 1 => some .clu | 2 => some .die | 3 => some .dev | 4 => some .sys | _ => none

def Size.code : Size → BitVec 2
  | .b => 0 | .h => 1 | .w => 2 | .d => 3
def Size.ofCode (c : BitVec 2) : Size :=
  match c.toNat with
  | 0 => .b | 1 => .h | 2 => .w | _ => .d

def Rounding.code : Rounding → BitVec 2
  | .rne => 0 | .rtz => 1 | .rdn => 2 | .rup => 3
def Rounding.ofCode (c : BitVec 2) : Rounding :=
  match c.toNat with
  | 0 => .rne | 1 => .rtz | 2 => .rdn | _ => .rup

def Cond.code : Cond → BitVec 4
  | .eq => 0 | .ne => 1 | .lt => 2 | .le => 3 | .gt => 4 | .ge => 5 | .ltu => 6 | .leu => 7 | .gtu => 8 | .geu => 9
def Cond.ofCode (c : BitVec 4) : Option Cond :=
  match c.toNat with
  | 0 => some .eq | 1 => some .ne | 2 => some .lt | 3 => some .le | 4 => some .gt | 5 => some .ge
  | 6 => some .ltu | 7 => some .leu | 8 => some .gtu | 9 => some .geu | _ => none

def LogicOp.code : LogicOp → BitVec 4
  | .and => 0 | .or => 1 | .xor => 2 | .andn => 3 | .orn => 4 | .nand => 5 | .nor => 6 | .xnor => 7
def LogicOp.ofCode (c : BitVec 4) : Option LogicOp :=
  match c.toNat with
  | 0 => some .and | 1 => some .or | 2 => some .xor | 3 => some .andn
  | 4 => some .orn | 5 => some .nand | 6 => some .nor | 7 => some .xnor | _ => none

def IntOp.code : IntOp → BitVec 4
  | .add => 0 | .and => 1 | .or => 2 | .xor => 3 | .swap => 4 | .min => 5 | .max => 6 | .minu => 7 | .maxu => 8
def IntOp.ofCode (c : BitVec 4) : Option IntOp :=
  match c.toNat with
  | 0 => some .add | 1 => some .and | 2 => some .or | 3 => some .xor | 4 => some .swap
  | 5 => some .min | 6 => some .max | 7 => some .minu | 8 => some .maxu | _ => none

def FloatOp.code : FloatOp → BitVec 4
  | .add => 0 | .min => 1 | .max => 2
def FloatOp.ofCode (c : BitVec 4) : Option FloatOp :=
  match c.toNat with
  | 0 => some .add | 1 => some .min | 2 => some .max | _ => none

def BitOp.code : BitOp → BitVec 4
  | .and => 0 | .or => 1 | .xor => 2 | .andn => 3 | .not => 4
def BitOp.ofCode (c : BitVec 4) : Option BitOp :=
  match c.toNat with
  | 0 => some .and | 1 => some .or | 2 => some .xor | 3 => some .andn | 4 => some .not | _ => none

def ShiftOp.code : ShiftOp → BitVec 4
  | .shl => 0 | .shr => 1 | .sra => 2
def ShiftOp.ofCode (c : BitVec 4) : Option ShiftOp :=
  match c.toNat with
  | 0 => some .shl | 1 => some .shr | 2 => some .sra | _ => none

def Ty.code : Ty → BitVec 4
  | .fp32 => 0 | .bf16 => 1 | .fp16 => 2 | .e4m3 => 3 | .e5m2 => 4 | .fp4 => 5 | .cir8 => 6 | .int8 => 7
  | .uint8 => 8 | .int4 => 9 | .int32 => 10 | .uint32 => 11 | .int64 => 12 | .ue8m0 => 13
def Ty.ofCode (c : BitVec 4) : Option Ty :=
  match c.toNat with
  | 0 => some .fp32 | 1 => some .bf16 | 2 => some .fp16 | 3 => some .e4m3 | 4 => some .e5m2 | 5 => some .fp4
  | 6 => some .cir8 | 7 => some .int8 | 8 => some .uint8 | 9 => some .int4 | 10 => some .int32
  | 11 => some .uint32 | 12 => some .int64 | 13 => some .ue8m0 | _ => none

/-- The guard field (R308). -/
def Guard.code (g : Guard) : BitVec 4 := BitVec.ofBool g.inv ++ g.pred
def Guard.ofCode (c : BitVec 4) : Guard := { pred := c.extractLsb' 0 3, inv := c.getLsbD 3 }

/-- ORD and SCOPE of an ordered form (R321, R325). -/
def MemOrd.ordCode : MemOrd → BitVec 2
  | .plain => 0 | .acq _ => 1 | .rel _ => 2 | .acqRel _ => 3
def MemOrd.scopeCode : MemOrd → BitVec 3
  | .plain => 0 | .acq s | .rel s | .acqRel s => s.code
def MemOrd.ofCodes (o : BitVec 2) (s : BitVec 3) : Option MemOrd :=
  match o.toNat with
  | 0 => some .plain
  | 1 => (Scope.ofCode s).map .acq
  | 2 => (Scope.ofCode s).map .rel
  | _ => (Scope.ofCode s).map .acqRel

/-- The ORD bit of a load or store with its scope (R314, R317, R325). -/
def ordBit : Option Scope → BitVec 1
  | none => 0 | some _ => 1
def scopeBits : Option Scope → BitVec 3
  | none => 0 | some s => s.code
/-- The scope an ORD bit and a SCOPE field stand for; none where the scope is reserved. -/
def ordOf (o : BitVec 1) (s : BitVec 3) : Option (Option Scope) :=
  if o = 1#1 then (Scope.ofCode s).map some else some none

/-! ### The formats (R313 to R320, R334) -/

/-- S3 (R313). -/
structure FmtS3 where
  opc : BitVec 8
  sub : BitVec 4
  sd : BitVec 6
  sa : BitVec 6
  sb : BitVec 6
  sc : BitVec 6
  fn : BitVec 12
  rsv : BitVec 9
  pd : BitVec 3
  grd : BitVec 4
  deriving DecidableEq, Repr

/-- SI (R314). -/
structure FmtSI where
  opc : BitVec 8
  sub : BitVec 4
  sd : BitVec 6
  sa : BitVec 6
  imm : BitVec 32
  rsv : BitVec 1
  px : BitVec 3
  grd : BitVec 4
  deriving DecidableEq, Repr

/-- B (R315). -/
structure FmtB where
  opc : BitVec 8
  sub : BitVec 4
  disp : BitVec 40
  sr : BitVec 6
  rsv : BitVec 2
  grd : BitVec 4
  deriving DecidableEq, Repr

/-- V3 (R316). -/
structure FmtV3 where
  opc : BitVec 8
  sub : BitVec 4
  vd : BitVec 10
  va : BitVec 10
  vb : BitVec 10
  vc : BitVec 10
  ty : BitVec 4
  x : BitVec 1
  km : BitVec 3
  grd : BitVec 4
  deriving DecidableEq, Repr

/-- VM (R317). -/
structure FmtVM where
  opc : BitVec 8
  sub : BitVec 4
  vr : BitVec 10
  sa : BitVec 6
  sb : BitVec 6
  vx : BitVec 10
  scope : BitVec 3
  ord : BitVec 1
  am : BitVec 1
  scale : BitVec 2
  rsv : BitVec 6
  km : BitVec 3
  grd : BitVec 4
  deriving DecidableEq, Repr

/-- M (R318). -/
structure FmtM where
  opc : BitVec 8
  sub : BitVec 4
  sa : BitVec 6
  sb : BitVec 6
  sc : BitVec 6
  se : BitVec 6
  sf : BitVec 6
  vr : BitVec 10
  ty : BitVec 4
  rm : BitVec 2
  cvt : BitVec 1
  rsv : BitVec 1
  grd : BitVec 4
  deriving DecidableEq, Repr

/-- E (R319). -/
structure FmtE where
  opc : BitVec 8
  sub : BitVec 4
  sd : BitVec 6
  sa : BitVec 6
  sb : BitVec 6
  sc : BitVec 6
  vr : BitVec 10
  dh : BitVec 1
  sh : BitVec 1
  imm8 : BitVec 8
  rsv : BitVec 1
  pd : BitVec 3
  grd : BitVec 4
  deriving DecidableEq, Repr

/-- X (R320). -/
structure FmtX where
  opc : BitVec 8
  sub : BitVec 4
  sd : BitVec 6
  sa : BitVec 6
  sb : BitVec 6
  rsv : BitVec 6
  sysn : BitVec 12
  scope : BitVec 3
  rsv2 : BitVec 6
  pd : BitVec 3
  grd : BitVec 4
  deriving DecidableEq, Repr

/-- The R-type layout of the Xkwedar words, with funct7 split into [31:27] and [26:25] (R334). -/
structure FmtR where
  cap : BitVec 5
  z : BitVec 2
  rs2 : BitVec 5
  rs1 : BitVec 5
  funct3 : BitVec 3
  rd : BitVec 5
  opcode : BitVec 7
  deriving DecidableEq, Repr

def FmtS3.pack (f : FmtS3) : BitVec 64 :=
  f.opc ++ f.sub ++ f.sd ++ f.sa ++ f.sb ++ f.sc ++ f.fn ++ f.rsv ++ f.pd ++ f.grd
def FmtS3.unpack (w : BitVec 64) : FmtS3 :=
  { opc := w.extractLsb' 56 8, sub := w.extractLsb' 52 4, sd := w.extractLsb' 46 6, sa := w.extractLsb' 40 6,
    sb := w.extractLsb' 34 6, sc := w.extractLsb' 28 6, fn := w.extractLsb' 16 12, rsv := w.extractLsb' 7 9,
    pd := w.extractLsb' 4 3, grd := w.extractLsb' 0 4 }
def FmtSI.pack (f : FmtSI) : BitVec 64 :=
  f.opc ++ f.sub ++ f.sd ++ f.sa ++ f.imm ++ f.rsv ++ f.px ++ f.grd
def FmtSI.unpack (w : BitVec 64) : FmtSI :=
  { opc := w.extractLsb' 56 8, sub := w.extractLsb' 52 4, sd := w.extractLsb' 46 6, sa := w.extractLsb' 40 6,
    imm := w.extractLsb' 8 32, rsv := w.extractLsb' 7 1, px := w.extractLsb' 4 3, grd := w.extractLsb' 0 4 }
def FmtB.pack (f : FmtB) : BitVec 64 :=
  f.opc ++ f.sub ++ f.disp ++ f.sr ++ f.rsv ++ f.grd
def FmtB.unpack (w : BitVec 64) : FmtB :=
  { opc := w.extractLsb' 56 8, sub := w.extractLsb' 52 4, disp := w.extractLsb' 12 40, sr := w.extractLsb' 6 6,
    rsv := w.extractLsb' 4 2, grd := w.extractLsb' 0 4 }
def FmtV3.pack (f : FmtV3) : BitVec 64 :=
  f.opc ++ f.sub ++ f.vd ++ f.va ++ f.vb ++ f.vc ++ f.ty ++ f.x ++ f.km ++ f.grd
def FmtV3.unpack (w : BitVec 64) : FmtV3 :=
  { opc := w.extractLsb' 56 8, sub := w.extractLsb' 52 4, vd := w.extractLsb' 42 10, va := w.extractLsb' 32 10,
    vb := w.extractLsb' 22 10, vc := w.extractLsb' 12 10, ty := w.extractLsb' 8 4, x := w.extractLsb' 7 1,
    km := w.extractLsb' 4 3, grd := w.extractLsb' 0 4 }
def FmtVM.pack (f : FmtVM) : BitVec 64 :=
  f.opc ++ f.sub ++ f.vr ++ f.sa ++ f.sb ++ f.vx ++ f.scope ++ f.ord ++ f.am ++ f.scale ++ f.rsv ++ f.km ++ f.grd
def FmtVM.unpack (w : BitVec 64) : FmtVM :=
  { opc := w.extractLsb' 56 8, sub := w.extractLsb' 52 4, vr := w.extractLsb' 42 10, sa := w.extractLsb' 36 6,
    sb := w.extractLsb' 30 6, vx := w.extractLsb' 20 10, scope := w.extractLsb' 17 3, ord := w.extractLsb' 16 1,
    am := w.extractLsb' 15 1, scale := w.extractLsb' 13 2, rsv := w.extractLsb' 7 6, km := w.extractLsb' 4 3,
    grd := w.extractLsb' 0 4 }
def FmtM.pack (f : FmtM) : BitVec 64 :=
  f.opc ++ f.sub ++ f.sa ++ f.sb ++ f.sc ++ f.se ++ f.sf ++ f.vr ++ f.ty ++ f.rm ++ f.cvt ++ f.rsv ++ f.grd
def FmtM.unpack (w : BitVec 64) : FmtM :=
  { opc := w.extractLsb' 56 8, sub := w.extractLsb' 52 4, sa := w.extractLsb' 46 6, sb := w.extractLsb' 40 6,
    sc := w.extractLsb' 34 6, se := w.extractLsb' 28 6, sf := w.extractLsb' 22 6, vr := w.extractLsb' 12 10,
    ty := w.extractLsb' 8 4, rm := w.extractLsb' 6 2, cvt := w.extractLsb' 5 1, rsv := w.extractLsb' 4 1,
    grd := w.extractLsb' 0 4 }
def FmtE.pack (f : FmtE) : BitVec 64 :=
  f.opc ++ f.sub ++ f.sd ++ f.sa ++ f.sb ++ f.sc ++ f.vr ++ f.dh ++ f.sh ++ f.imm8 ++ f.rsv ++ f.pd ++ f.grd
def FmtE.unpack (w : BitVec 64) : FmtE :=
  { opc := w.extractLsb' 56 8, sub := w.extractLsb' 52 4, sd := w.extractLsb' 46 6, sa := w.extractLsb' 40 6,
    sb := w.extractLsb' 34 6, sc := w.extractLsb' 28 6, vr := w.extractLsb' 18 10, dh := w.extractLsb' 17 1,
    sh := w.extractLsb' 16 1, imm8 := w.extractLsb' 8 8, rsv := w.extractLsb' 7 1, pd := w.extractLsb' 4 3,
    grd := w.extractLsb' 0 4 }
def FmtX.pack (f : FmtX) : BitVec 64 :=
  f.opc ++ f.sub ++ f.sd ++ f.sa ++ f.sb ++ f.rsv ++ f.sysn ++ f.scope ++ f.rsv2 ++ f.pd ++ f.grd
def FmtX.unpack (w : BitVec 64) : FmtX :=
  { opc := w.extractLsb' 56 8, sub := w.extractLsb' 52 4, sd := w.extractLsb' 46 6, sa := w.extractLsb' 40 6,
    sb := w.extractLsb' 34 6, rsv := w.extractLsb' 28 6, sysn := w.extractLsb' 16 12, scope := w.extractLsb' 13 3,
    rsv2 := w.extractLsb' 7 6, pd := w.extractLsb' 4 3, grd := w.extractLsb' 0 4 }
def FmtR.pack (f : FmtR) : BitVec 32 :=
  f.cap ++ f.z ++ f.rs2 ++ f.rs1 ++ f.funct3 ++ f.rd ++ f.opcode
def FmtR.unpack (w : BitVec 32) : FmtR :=
  { cap := w.extractLsb' 27 5, z := w.extractLsb' 25 2, rs2 := w.extractLsb' 20 5, rs1 := w.extractLsb' 15 5,
    funct3 := w.extractLsb' 12 3, rd := w.extractLsb' 7 5, opcode := w.extractLsb' 0 7 }

/-- A word's fields, in the format its OPC selects. -/
inductive Fields where
  | s3 (f : FmtS3) | si (f : FmtSI) | b (f : FmtB) | v3 (f : FmtV3) | vm (f : FmtVM) | m (f : FmtM) | e (f : FmtE)
  | x (f : FmtX)
  deriving DecidableEq, Repr

def Fields.pack : Fields → Word
  | .s3 f => f.pack | .si f => f.pack | .b f => f.pack | .v3 f => f.pack
  | .vm f => f.pack | .m f => f.pack | .e f => f.pack | .x f => f.pack

/-! ### The encoder (R322 to R332): the fields of a tile-core instruction, every other field zero -/

def mkS3 (opc : BitVec 8) (sub : BitVec 4) (g : Guard) : FmtS3 :=
  { opc := opc, sub := sub, sd := 0, sa := 0, sb := 0, sc := 0, fn := 0, rsv := 0, pd := 0, grd := g.code }
def mkSI (opc : BitVec 8) (sub : BitVec 4) (g : Guard) : FmtSI :=
  { opc := opc, sub := sub, sd := 0, sa := 0, imm := 0, rsv := 0, px := 0, grd := g.code }
def mkB (opc : BitVec 8) (g : Guard) (sr : SReg) (disp : BitVec 40) : FmtB :=
  { opc := opc, sub := 0, disp := disp, sr := sr, rsv := 0, grd := g.code }
def mkV3 (opc : BitVec 8) (sub : BitVec 4) (g : Guard) (km : KReg) : FmtV3 :=
  { opc := opc, sub := sub, vd := 0, va := 0, vb := 0, vc := 0, ty := 0, x := 0, km := km, grd := g.code }
def mkVM (opc : BitVec 8) (g : Guard) (vr : VNum) (km : KReg) : FmtVM :=
  { opc := opc, sub := 0, vr := vr, sa := 0, sb := 0, vx := 0, scope := 0, ord := 0, am := 0, scale := 0, rsv := 0,
    km := km, grd := g.code }
def mkM (opc : BitVec 8) (sub : BitVec 4) (g : Guard) : FmtM :=
  { opc := opc, sub := sub, sa := 0, sb := 0, sc := 0, se := 0, sf := 0, vr := 0, ty := 0, rm := 0, cvt := 0, rsv := 0,
    grd := g.code }
def mkE (opc : BitVec 8) (sub : BitVec 4) (g : Guard) : FmtE :=
  { opc := opc, sub := sub, sd := 0, sa := 0, sb := 0, sc := 0, vr := 0, dh := 0, sh := 0, imm8 := 0, rsv := 0,
    pd := 0, grd := g.code }
def mkX (opc : BitVec 8) (sub : BitVec 4) (g : Guard) : FmtX :=
  { opc := opc, sub := sub, sd := 0, sa := 0, sb := 0, rsv := 0, sysn := 0, scope := 0, rsv2 := 0, pd := 0,
    grd := g.code }

/-- S3 with SD, SA, SB. -/
def s3dab (opc : BitVec 8) (sub : BitVec 4) (g : Guard) (sd sa sb : SReg) : Fields :=
  .s3 { mkS3 opc sub g with sd := sd, sa := sa, sb := sb }
/-- SI with SD, SA, IMM. -/
def sidai (opc : BitVec 8) (sub : BitVec 4) (g : Guard) (sd sa : SReg) (imm : W32) : Fields :=
  .si { mkSI opc sub g with sd := sd, sa := sa, imm := imm }
/-- A shift: the amount register, or the immediate in SB with SUB 1 (R323). -/
def s3shift (opc : BitVec 8) (g : Guard) (sd sa : SReg) : Amount → Fields
  | .reg sb => s3dab opc 0 g sd sa sb
  | .imm n => s3dab opc 1 g sd sa n
/-- V3 with VD, VA, VB and TY. -/
def v3dab (opc : BitVec 8) (sub : BitVec 4) (g : Guard) (ty : BitVec 4) (vd va vb : VNum) (km : KReg) : Fields :=
  .v3 { mkV3 opc sub g km with vd := vd, va := va, vb := vb, ty := ty }
/-- FN of LD and ST (R325): AM, SCALE, SCOPE. -/
def fnLdst (am : BitVec 1) (scale : BitVec 2) (scope : BitVec 3) : BitVec 12 :=
  am ++ scale ++ 0#1 ++ scope ++ 0#5
/-- FN of the atomics (R325): AM, SZ, ORD, SCOPE. -/
def fnAtom (am sz : BitVec 1) (ord : BitVec 2) (scope : BitVec 3) : BitVec 12 :=
  am ++ sz ++ ord ++ scope ++ 0#5
/-- LD and ST in format S3. -/
def s3idx (opc : BitVec 8) (u : BitVec 1) (sz : Size) (ord : Option Scope) (g : Guard) (sd : SReg) : IdxAddr → Fields
  | .gen sa sb scale => .s3 { mkS3 opc (ordBit ord ++ u ++ sz.code) g with
      sd := sd, sa := sa, sb := sb, fn := fnLdst 0 scale (scopeBits ord) }
  | .hnd h sb => .s3 { mkS3 opc (ordBit ord ++ u ++ sz.code) g with
      sd := sd, sa := h.setWidth 6, sb := sb, fn := fnLdst 1 0 (scopeBits ord) }
/-- An atomic in format S3. -/
def s3atom (opc : BitVec 8) (sub : BitVec 4) (sz : BitVec 1) (ord : BitVec 2) (scope : BitVec 3) (g : Guard)
    (sd : SReg) (sb : SReg) : AtomAddr → Fields
  | .gen sa => .s3 { mkS3 opc sub g with sd := sd, sa := sa, sb := sb, fn := fnAtom 0 sz ord scope }
  | .hnd h sc => .s3 { mkS3 opc sub g with
      sd := sd, sa := h.setWidth 6, sb := sb, sc := sc, fn := fnAtom 1 sz ord scope }
/-- ORD of RED, REDF and FST: none or .rel. -/
def relCode : Option Scope → BitVec 2
  | none => 0 | some _ => 2
/-- VM with a base pointer or handle. -/
def vmBase (f : FmtVM) : VecBase → Fields
  | .gen sa => .vm { f with sa := sa }
  | .hnd h => .vm { f with sa := h.setWidth 6, am := 1 }
def vmAddr (f : FmtVM) : VecAddr → Fields
  | .gen sa sb scale ord =>
    .vm { f with sa := sa, sb := sb, scale := scale, ord := ordBit ord, scope := scopeBits ord }
  | .hnd h sb => .vm { f with sa := h.setWidth 6, sb := sb, am := 1 }
def bit (b : Bool) : BitVec 1 := BitVec.ofBool b
/-- SUB of MMA: ROT, RAG, KIND (R400). -/
def mmaKindCode : MmaKind → BitVec 2
  | .dense => 0 | .sp64 _ => 1 | .sp32 _ => 2 | .mx _ => 3
def mmaPtr : MmaKind → SReg
  | .dense => 0 | .sp64 s | .sp32 s | .mx s => s
/-- IMM8 [15:14] ORD and [13:11] SCOPE of FST and FAMO (R330). -/
def imm8Ord (ord : BitVec 2) (scope : BitVec 3) : BitVec 8 := ord ++ scope ++ 0#3
def e5 (opc : BitVec 8) (g : Guard) (pd : PReg) (sd sa sb sc : SReg) : Fields :=
  .e { mkE opc 0 g with pd := pd, sd := sd, sa := sa, sb := sb, sc := sc }

/-- The fields of a tile-core instruction; none for Xkwedar instructions and events. -/
def Instr.fields : Instr → Option Fields
  | .add g sd sa sb => some (s3dab 0x00 0 g sd sa sb)
  | .addImm g sd sa imm => some (sidai 0x01 0 g sd sa imm)
  | .sub g sd sa sb => some (s3dab 0x02 0 g sd sa sb)
  | .mul g sd sa sb => some (s3dab 0x03 0 g sd sa sb)
  | .mulh g u sd sa sb => some (s3dab 0x04 (bit u |>.setWidth 4) g sd sa sb)
  | .div g u sd sa sb => some (s3dab 0x05 (bit u |>.setWidth 4) g sd sa sb)
  | .rem g u sd sa sb => some (s3dab 0x06 (bit u |>.setWidth 4) g sd sa sb)
  | .and g sd sa sb => some (s3dab 0x07 0 g sd sa sb)
  | .andImm g sd sa imm => some (sidai 0x08 0 g sd sa imm)
  | .or g sd sa sb => some (s3dab 0x09 0 g sd sa sb)
  | .orImm g sd sa imm => some (sidai 0x0A 0 g sd sa imm)
  | .xor g sd sa sb => some (s3dab 0x0B 0 g sd sa sb)
  | .xorImm g sd sa imm => some (sidai 0x0C 0 g sd sa imm)
  | .andn g sd sa sb => some (s3dab 0x0D 0 g sd sa sb)
  | .shl g sd sa n => some (s3shift 0x0E g sd sa n)
  | .shr g sd sa n => some (s3shift 0x0F g sd sa n)
  | .sra g sd sa n => some (s3shift 0x10 g sd sa n)
  | .clz g sd sa => some (s3dab 0x11 0 g sd sa 0)
  | .popc g sd sa => some (s3dab 0x12 0 g sd sa 0)
  | .min g u sd sa sb => some (s3dab 0x13 (bit u |>.setWidth 4) g sd sa sb)
  | .max g u sd sa sb => some (s3dab 0x14 (bit u |>.setWidth 4) g sd sa sb)
  | .sel g sd pn sa sb =>
    some (.s3 { mkS3 0x15 0 g with sd := sd, sa := sa, sb := sb, sc := pn.setWidth 6 })
  | .cmp g c pd sa sb => some (.s3 { mkS3 0x16 c.code g with pd := pd, sa := sa, sb := sb })
  | .cmpImm g c pd sa imm => some (.si { mkSI 0x17 c.code g with px := pd, sa := sa, imm := imm })
  | .movi g sd imm => some (sidai 0x18 0 g sd 0 imm)
  | .movhi g sd imm => some (sidai 0x19 0 g sd 0 imm)
  | .bfx g u sd sa pos len1 =>
    some (.s3 { mkS3 0x1A (bit u |>.setWidth 4) g with sd := sd, sa := sa, fn := pos ++ len1 })
  | .bfi g sd sa pos len1 => some (.s3 { mkS3 0x1B 0 g with sd := sd, sa := sa, fn := pos ++ len1 })
  | .plog g op pd pa pb =>
    some (.s3 { mkS3 0x1C op.code g with pd := pd, sa := pa.setWidth 6, sb := pb.setWidth 6 })
  | .bra g disp => some (.b (mkB 0x20 g 0 disp))
  | .call g disp => some (.b (mkB 0x21 g 0 disp))
  | .loop g sr disp => some (.b (mkB 0x22 g sr disp))
  | .jmp g sa => some (s3dab 0x23 0 g 0 sa 0)
  | .ret g sa => some (s3dab 0x24 0 g 0 sa 0)
  | .exit g => some (s3dab 0x25 0 g 0 0 0)
  | .yield g => some (s3dab 0x26 0 g 0 0 0)
  | .nop g => some (s3dab 0x27 0 g 0 0 0)
  | .trig g => some (s3dab 0x28 0 g 0 0 0)
  | .bkpt g imm => some (sidai 0x29 0 g 0 0 imm)
  | .ld g u sz ao sd sa imm =>
    some (.si { mkSI 0x30 (ordBit ao ++ bit u ++ sz.code) g with
      sd := sd, sa := sa, imm := imm, px := scopeBits ao })
  | .ldIndexed g u sz ao sd a => some (s3idx 0x31 (bit u) sz ao g sd a)
  | .st g sz ro sd sa imm =>
    some (.si { mkSI 0x32 (ordBit ro ++ 0#1 ++ sz.code) g with
      sd := sd, sa := sa, imm := imm, px := scopeBits ro })
  | .stIndexed g sz ro sd a => some (s3idx 0x33 0 sz ro g sd a)
  | .ldfe g sd sa imm => some (sidai 0x34 0 g sd sa imm)
  | .ldff g sd sa imm => some (sidai 0x34 1 g sd sa imm)
  | .stef g sd sa imm => some (sidai 0x34 2 g sd sa imm)
  | .stff g sd sa imm => some (sidai 0x34 3 g sd sa imm)
  | .feset g sd sa imm => some (sidai 0x34 4 g sd sa imm)
  | .feq g sd sa imm => some (sidai 0x34 5 g sd sa imm)
  | .amo g op d ord sd a sb => some (s3atom 0x35 op.code (bit d) ord.ordCode ord.scopeCode g sd sb a)
  | .cas g d ord sd sa sb sc =>
    some (.s3 { mkS3 0x36 0 g with
      sd := sd, sa := sa, sb := sb, sc := sc, fn := fnAtom 0 (bit d) ord.ordCode ord.scopeCode })
  | .amof g op ord sd a sb => some (s3atom 0x37 op.code 0 ord.ordCode ord.scopeCode g sd sb a)
  | .red g op d ro a sb => some (s3atom 0x38 op.code (bit d) (relCode ro) (scopeBits ro) g 0 sb a)
  | .redf g op ro a sb => some (s3atom 0x39 op.code 0 (relCode ro) (scopeBits ro) g 0 sb a)
  | .vadd g ty vd va vb km => some (v3dab 0x40 0 g ty.code vd va vb km)
  | .vsub g ty vd va vb km => some (v3dab 0x41 0 g ty.code vd va vb km)
  | .vmul g ty vd va vb km => some (v3dab 0x42 0 g ty.code vd va vb km)
  | .vfma g ty vd va vb vc km =>
    some (.v3 { mkV3 0x43 0 g km with vd := vd, va := va, vb := vb, vc := vc, ty := ty.code })
  | .vmin g ty vd va vb km => some (v3dab 0x44 0 g ty.code vd va vb km)
  | .vmax g ty vd va vb km => some (v3dab 0x45 0 g ty.code vd va vb km)
  | .vabs g ty vd va km => some (v3dab 0x46 0 g ty.code vd va 0 km)
  | .vneg g ty vd va km => some (v3dab 0x47 0 g ty.code vd va 0 km)
  | .vbit g op vd va vb km => some (v3dab 0x48 op.code g 0 vd va vb km)
  | .vsh g op ty vd va (.vec vb) km => some (v3dab 0x49 op.code g ty.code vd va vb km)
  | .vsh g op ty vd va (.imm n) km =>
    some (.v3 { mkV3 0x49 op.code g km with vd := vd, va := va, vb := n.setWidth 10, ty := ty.code, x := 1 })
  | .vcmp g c ty kd va vb km => some (v3dab 0x4A c.code g ty.code (kd.setWidth 10) va vb km)
  | .vsel g vd va vb kc km =>
    some (.v3 { mkV3 0x4B 0 g km with vd := vd, va := va, vb := vb, vc := kc.setWidth 10 })
  | .vcvt g dty sty ns vd va km =>
    some (.v3 { mkV3 0x4C 0 g km with
      vd := vd, va := va, vb := sty.code.setWidth 10, ty := dty.code, x := bit ns })
  | .vcvto g dty sty ns vd va sb km =>
    some (.v3 { mkV3 0x4D 0 g km with
      vd := vd, va := va, vb := sty.code.setWidth 10, vc := sb.setWidth 10, ty := dty.code, x := bit ns })
  | .vexp2 g vd va km => some (v3dab 0x4E 0 g 0 vd va 0 km)
  | .vlog2 g vd va km => some (v3dab 0x4F 0 g 0 vd va 0 km)
  | .vrcp g vd va km => some (v3dab 0x50 0 g 0 vd va 0 km)
  | .vrsq g vd va km => some (v3dab 0x51 0 g 0 vd va 0 km)
  | .vsqrt g vd va km => some (v3dab 0x52 0 g 0 vd va 0 km)
  | .vred g op ty vd va km => some (v3dab 0x53 op.code g ty.code vd va 0 km)
  | .vperm g vd va vb km => some (v3dab 0x54 0 g 0 vd va vb km)
  | .vbcst g ty vd sa km => some (v3dab 0x55 0 g ty.code vd (sa.setWidth 10) 0 km)
  | .vmovs g (.toScalar sd va) l km =>
    some (.v3 { mkV3 0x56 0 g km with vd := sd.setWidth 10, va := va, vc := l.setWidth 10 })
  | .vmovs g (.toVector vd sa) l km =>
    some (.v3 { mkV3 0x56 1 g km with vd := vd, va := sa.setWidth 10, vc := l.setWidth 10 })
  | .vidx g ty vd sa km => some (v3dab 0x57 0 g ty.code vd (sa.setWidth 10) 0 km)
  | .vtopk g vd va vb km => some (v3dab 0x58 0 g 0 vd va vb km)
  | .klog g op kd ka kb =>
    some (v3dab 0x59 op.code g 0 (kd.setWidth 10) (ka.setWidth 10) (kb.setWidth 10) 0)
  | .kpop g sd ka => some (v3dab 0x5A 0 g 0 (sd.setWidth 10) (ka.setWidth 10) 0 0)
  | .vld g vr a km => some (vmAddr (mkVM 0x70 g vr km) a)
  | .vst g vr a km => some (vmAddr (mkVM 0x71 g vr km) a)
  | .vlds g vr b sb km => some (vmBase { mkVM 0x72 g vr km with sb := sb } b)
  | .vsts g vr b sb km => some (vmBase { mkVM 0x73 g vr km with sb := sb } b)
  | .vgath g vr b vx scale km => some (vmBase { mkVM 0x74 g vr km with vx := vx, scale := scale } b)
  | .vscat g vr b vx scale km => some (vmBase { mkVM 0x75 g vr km with vx := vx, scale := scale } b)
  | .mzero g => some (.m (mkM 0x80 0 g))
  | .mlb g ty (.plain sa) => some (.m { mkM 0x81 0 g with sa := sa, ty := ty.code })
  | .mlb g ty (.x2 sa) => some (.m { mkM 0x81 1 g with sa := sa, ty := ty.code })
  | .mlb g ty (.x4 sa) => some (.m { mkM 0x81 2 g with sa := sa, ty := ty.code })
  | .mlb g ty (.mx sa sb) => some (.m { mkM 0x81 3 g with sa := sa, sb := sb, ty := ty.code })
  | .mlb g ty (.vec vs n) =>
    some (.m { mkM 0x81 4 g with
      vr := vs, sc := n.extractLsb' 2 6, se := n.extractLsb' 0 2 ++ 0#4, ty := ty.code })
  | .mma g rot rag kind ty sa sm =>
    some (.m { mkM 0x82 (bit rot ++ bit rag.isSome ++ mmaKindCode kind) g with
      sa := sa, sb := sm, sc := rag.getD 0, se := mmaPtr kind, ty := ty.code })
  | .mout g sa sn sb sr sm => some (.m { mkM 0x83 0 g with sa := sa, sb := sn, sc := sb, se := sr, sf := sm })
  | .mdrain g (.mem ty rm ns mf z sa sr sn) =>
    some (.m { mkM 0x84 (0#1 ++ bit mf ++ bit z ++ 0#1) g with
      sa := sa, sb := sr, sc := sn, ty := ty.code, rm := rm.code, cvt := bit ns })
  | .mdrain g (.vec z vd sr) => some (.m { mkM 0x84 (1#1 ++ 0#1 ++ bit z ++ 0#1) g with vr := vd, sb := sr })
  | .mring g => some (.m (mkM 0x85 0 g))
  | .cpy g d s vn =>
    let dh := match d with | .ptr _ => 0#1 | .hnd _ _ => 1#1
    let sh := match s with | .ptr _ => 0#1 | .hnd _ _ => 1#1
    let dr := match d with | .ptr r => r | .hnd _ r => r
    let sr := match s with | .ptr r => r | .hnd _ r => r
    let dn := match d with | .ptr _ => 0#4 | .hnd h _ => h
    let sn := match s with | .ptr _ => 0#4 | .hnd h _ => h
    some (.e { mkE 0x90 0 g with sd := dr, sa := sr, vr := vn, dh := dh, sh := sh, imm8 := dn ++ sn })
  | .seal g sd => some (.e { mkE 0x91 0 g with sd := sd })
  | .waitb g pd sd n => some (.e { mkE 0x92 0 g with pd := pd, sd := sd, imm8 := n.setWidth 8 })
  | .lzres g pd sd sa sb => some (e5 0x93 g pd sd sa sb 0)
  | .lzrel g pd z ss => some (.e { mkE 0x94 0 g with pd := pd, sa := ss, imm8 := z.setWidth 8 })
  | .lzclr g pd z ss => some (.e { mkE 0x96 0 g with pd := pd, sa := ss, imm8 := z.setWidth 8 })
  | .lzwait g pd sd z sm => some (.e { mkE 0x95 0 g with pd := pd, sd := sd, sa := sm, imm8 := z.setWidth 8 })
  | .lzwaitAll g pd sd z => some (.e { mkE 0x95 1 g with pd := pd, sd := sd, imm8 := z.setWidth 8 })
  | .fld g q sa => some (.e { mkE 0xA0 0 g with sa := sa, imm8 := q.setWidth 8 })
  | .qpop g pd vd q => some (.e { mkE 0xA1 0 g with pd := pd, vr := vd, imm8 := q.setWidth 8 })
  | .fst g ro sa (.scal ss) =>
    some (.e { mkE 0xA2 0 g with sa := sa, sb := ss, imm8 := imm8Ord (relCode ro) (scopeBits ro) })
  | .fst g ro sa (.vec vs) =>
    some (.e { mkE 0xA2 1 g with sa := sa, vr := vs, imm8 := imm8Ord (relCode ro) (scopeBits ro) })
  | .famo g (.int op) ord pd sd sa sb =>
    some (.e { mkE 0xA3 op.code g with
      pd := pd, sd := sd, sa := sa, sb := sb, imm8 := imm8Ord ord.ordCode ord.scopeCode })
  | .famo g (.cas sc) ord pd sd sa sb =>
    some (.e { mkE 0xA3 9 g with
      pd := pd, sd := sd, sa := sa, sb := sb, sc := sc, imm8 := imm8Ord ord.ordCode ord.scopeCode })
  | .mldr g bf pd vd sa => some (.e { mkE 0xA4 (bit bf |>.setWidth 4) g with pd := pd, vr := vd, sa := sa })
  | .rqld g sd sa f => some (.e { mkE 0xB0 0 g with sd := sd, sa := sa, imm8 := f.setWidth 8 })
  | .rqst g sa sb f => some (.e { mkE 0xB1 0 g with sa := sa, sb := sb, imm8 := f.setWidth 8 })
  | .rqflt g sa sb => some (e5 0xB2 g 0 0 sa sb 0)
  | .stepdone g sa => some (e5 0xB3 g 0 0 sa 0 0)
  | .sample g pd sd sa sb sc => some (e5 0xB4 g pd sd sa sb sc)
  | .rng g vd sa sb sc => some (.e { mkE 0xB5 0 g with vr := vd, sa := sa, sb := sb, sc := sc })
  | .isomask g pd vd sa sb sc =>
    some (.e { mkE 0xB6 0 g with pd := pd, vr := vd, sa := sa, sb := sb, sc := sc })
  | .isostep g pd sd sa sb sc => some (e5 0xB7 g pd sd sa sb sc)
  | .accept g pd sa sb vn => some (.e { mkE 0xB8 0 g with pd := pd, sa := sa, sb := sb, vr := vn })
  | .kvcommit g pd sa sb sc => some (e5 0xB9 g pd 0 sa sb sc)
  | .futcall g pd sd sa sb sc => some (e5 0xBA g pd sd sa sb sc)
  | .futwait g sa => some (e5 0xBB g 0 0 sa 0 0)
  | .futqry g sd sa => some (e5 0xBC g 0 sd sa 0 0)
  | .mfs g sd n => some (.x { mkX 0xC0 0 g with sd := sd, sysn := n })
  | .mts g n sa => some (.x { mkX 0xC1 0 g with sa := sa, sysn := n })
  | .trap g sa imm => some (.x { mkX 0xC2 0 g with sa := sa, sysn := imm })
  | .fence g sc => some (.x { mkX 0xC3 0 g with scope := sc.code })
  | .acq g sc => some (.x { mkX 0xC4 0 g with scope := sc.code })
  | .rel g sc => some (.x { mkX 0xC5 0 g with scope := sc.code })
  | .icinv g sc => some (.x { mkX 0xC6 0 g with scope := sc.code })
  | .xlate g hd sa => some (.x { mkX 0xC7 0 g with sd := hd.setWidth 6, sa := sa })
  | .xlateSlot g pd hd sa ss => some (.x { mkX 0xC7 1 g with pd := pd, sd := hd.setWidth 6, sa := sa, sb := ss })
  | .hrel g (some hd) => some (.x { mkX 0xC8 0 g with sd := hd.setWidth 6 })
  | .hrel g none => some (.x (mkX 0xC8 1 g))
  | .sptest g sd sa => some (.x { mkX 0xC9 0 g with sd := sd, sa := sa })
  | .spcast g .abs sd sa => some (.x { mkX 0xCA 0 g with sd := sd, sa := sa })
  | .spcast g .priv sd sa => some (.x { mkX 0xCA 1 g with sd := sd, sa := sa })
  | .spcast g (.chk t) sd sa => some (.x { mkX 0xCA 2 g with sd := sd, sa := sa, sysn := t.setWidth 12 })
  | .bar g sa sb => some (.x { mkX 0xCB 0 g with sa := sa, sb := sb })
  | .launch g pd sd sa => some (.x { mkX 0xCC 0 g with pd := pd, sd := sd, sa := sa })
  | _ => none

/-- The word of a tile-core instruction. -/
def encodeTile (i : Instr) : Option Word := i.fields.map Fields.pack

/-- The fields of an Xkwedar instruction (R334); none for anything else. -/
def Instr.kwFields : Instr → Option FmtR
  | .kwCapld cd rs1 =>
    some { cap := 0, z := 0, rs2 := 0, rs1 := rs1, funct3 := 0, rd := cd.setWidth 5, opcode := 0x0B }
  | .kwCapnar cd ca rs1 rs2 =>
    some { cap := ca.setWidth 5, z := 0, rs2 := rs2, rs1 := rs1, funct3 := 1, rd := cd.setWidth 5, opcode := 0x0B }
  | .kwCapclr cd =>
    some { cap := 0, z := 0, rs2 := 0, rs1 := 0, funct3 := 2, rd := cd.setWidth 5, opcode := 0x0B }
  | .kwSbxent rs1 => some { cap := 0, z := 0, rs2 := 0, rs1 := rs1, funct3 := 3, rd := 0, opcode := 0x0B }
  | .kwSbxret => some { cap := 0, z := 0, rs2 := 0, rs1 := 0, funct3 := 4, rd := 0, opcode := 0x0B }
  | .kwTqpop rd cd rs1 rs2 =>
    some { cap := cd.setWidth 5, z := 0, rs2 := rs2, rs1 := rs1, funct3 := 0, rd := rd, opcode := 0x2B }
  | .kwFutarg rd ca rs1 =>
    some { cap := ca.setWidth 5, z := 0, rs2 := 0, rs1 := rs1, funct3 := 1, rd := rd, opcode := 0x2B }
  | .kwFutcpl rd ca rs1 rs2 =>
    some { cap := ca.setWidth 5, z := 0, rs2 := rs2, rs1 := rs1, funct3 := 2, rd := rd, opcode := 0x2B }
  | .kwFutfail rd ca rs1 =>
    some { cap := ca.setWidth 5, z := 0, rs2 := 0, rs1 := rs1, funct3 := 3, rd := rd, opcode := 0x2B }
  | .kwRel => some { cap := 0, z := 0, rs2 := 0, rs1 := 0, funct3 := 4, rd := 0, opcode := 0x2B }
  | _ => none

/-- The word of an Xkwedar instruction. -/
def encodeKw (i : Instr) : Option W32 := i.kwFields.map FmtR.pack

/-- The low `n` bytes of a number, least significant first (R2). -/
def leBytes : Nat → Nat → List Byte
  | 0, _ => []
  | n + 1, v => BitVec.ofNat 8 v :: leBytes n (v / 256)

/-- The bytes of an instruction as they lie in memory (R307, R334); an event has none. -/
def encode (i : Instr) : List Byte :=
  match encodeTile i with
  | some w => leBytes 8 w.toNat
  | none =>
    match encodeKw i with
    | some w => leBytes 4 w.toNat
    | none => []

/-! ### The decoder -/

/-- Accept an instruction of a form whose SUB must be zero. -/
def sub0 (sub : BitVec 4) (i : Instr) : Except DecodeError Instr :=
  if sub = 0#4 then .ok i else .error .subUndefined
/-- SUB selects signed (0) or unsigned (1). -/
def subU (sub : BitVec 4) (f : Bool → Instr) : Except DecodeError Instr :=
  if sub = 0#4 then .ok (f false) else if sub = 1#4 then .ok (f true) else .error .subUndefined
/-- SUB names an operation of a list. -/
def subOp {α : Type} (o : Option α) (f : α → Instr) : Except DecodeError Instr :=
  match o with
  | some a => .ok (f a)
  | none => .error .subUndefined
/-- A small field names a value of a list. -/
def fieldOp {α : Type} (o : Option α) (f : α → Except DecodeError Instr) : Except DecodeError Instr :=
  match o with
  | some a => f a
  | none => .error .encodingReserved
/-- ORD of a form that admits only none and .rel (R278 of 18, R330). -/
def relOf (o : BitVec 2) (s : BitVec 3) : Option (Option Scope) :=
  if o = 0#2 then some none else if o = 2#2 then (Scope.ofCode s).map some else none

def amountOf (sub : BitVec 4) (sb : BitVec 6) (f : Amount → Instr) : Except DecodeError Instr :=
  if sub = 0#4 then .ok (f (.reg sb)) else if sub = 1#4 then .ok (f (.imm sb)) else .error .subUndefined

/-- The address of an S3 load or store; a handle form has no ordering (R384, R428). -/
def idxAddrOf (f : FmtS3) : IdxAddr :=
  if f.fn.getLsbD 11 then .hnd (f.sa.setWidth 4) f.sb else .gen f.sa f.sb (f.fn.extractLsb' 9 2)
def atomAddrOf (f : FmtS3) : AtomAddr :=
  if f.fn.getLsbD 11 then .hnd (f.sa.setWidth 4) f.sc else .gen f.sa

def instrOfS3 (f : FmtS3) : Except DecodeError Instr :=
  let g := Guard.ofCode f.grd
  match f.opc.toNat with
  | 0x00 => sub0 f.sub (.add g f.sd f.sa f.sb)
  | 0x02 => sub0 f.sub (.sub g f.sd f.sa f.sb)
  | 0x03 => sub0 f.sub (.mul g f.sd f.sa f.sb)
  | 0x04 => subU f.sub (fun u => .mulh g u f.sd f.sa f.sb)
  | 0x05 => subU f.sub (fun u => .div g u f.sd f.sa f.sb)
  | 0x06 => subU f.sub (fun u => .rem g u f.sd f.sa f.sb)
  | 0x07 => sub0 f.sub (.and g f.sd f.sa f.sb)
  | 0x09 => sub0 f.sub (.or g f.sd f.sa f.sb)
  | 0x0B => sub0 f.sub (.xor g f.sd f.sa f.sb)
  | 0x0D => sub0 f.sub (.andn g f.sd f.sa f.sb)
  | 0x0E => amountOf f.sub f.sb (fun n => .shl g f.sd f.sa n)
  | 0x0F => amountOf f.sub f.sb (fun n => .shr g f.sd f.sa n)
  | 0x10 => amountOf f.sub f.sb (fun n => .sra g f.sd f.sa n)
  | 0x11 => sub0 f.sub (.clz g f.sd f.sa)
  | 0x12 => sub0 f.sub (.popc g f.sd f.sa)
  | 0x13 => subU f.sub (fun u => .min g u f.sd f.sa f.sb)
  | 0x14 => subU f.sub (fun u => .max g u f.sd f.sa f.sb)
  | 0x15 => sub0 f.sub (.sel g f.sd (f.sc.setWidth 3) f.sa f.sb)
  | 0x16 => subOp (Cond.ofCode f.sub) (fun c => .cmp g c f.pd f.sa f.sb)
  | 0x1A => subU f.sub (fun u => .bfx g u f.sd f.sa (f.fn.extractLsb' 6 6) (f.fn.extractLsb' 0 6))
  | 0x1B => sub0 f.sub (.bfi g f.sd f.sa (f.fn.extractLsb' 6 6) (f.fn.extractLsb' 0 6))
  | 0x1C => subOp (LogicOp.ofCode f.sub) (fun op => .plog g op f.pd (f.sa.setWidth 3) (f.sb.setWidth 3))
  | 0x23 => sub0 f.sub (.jmp g f.sa)
  | 0x24 => sub0 f.sub (.ret g f.sa)
  | 0x25 => sub0 f.sub (.exit g)
  | 0x26 => sub0 f.sub (.yield g)
  | 0x27 => sub0 f.sub (.nop g)
  | 0x28 => sub0 f.sub (.trig g)
  | 0x31 => fieldOp (ordOf (f.sub.extractLsb' 3 1) (f.fn.extractLsb' 5 3)) fun acq =>
      .ok (.ldIndexed g (f.sub.getLsbD 2) (Size.ofCode (f.sub.setWidth 2)) acq f.sd (idxAddrOf f))
  | 0x33 => fieldOp (ordOf (f.sub.extractLsb' 3 1) (f.fn.extractLsb' 5 3)) fun rel =>
      .ok (.stIndexed g (Size.ofCode (f.sub.setWidth 2)) rel f.sd (idxAddrOf f))
  | 0x35 => fieldOp (MemOrd.ofCodes (f.fn.extractLsb' 8 2) (f.fn.extractLsb' 5 3)) fun ord =>
      subOp (IntOp.ofCode f.sub) (fun op => .amo g op (f.fn.getLsbD 10) ord f.sd (atomAddrOf f) f.sb)
  | 0x36 => fieldOp (MemOrd.ofCodes (f.fn.extractLsb' 8 2) (f.fn.extractLsb' 5 3)) fun ord =>
      sub0 f.sub (.cas g (f.fn.getLsbD 10) ord f.sd f.sa f.sb f.sc)
  | 0x37 => fieldOp (MemOrd.ofCodes (f.fn.extractLsb' 8 2) (f.fn.extractLsb' 5 3)) fun ord =>
      subOp (FloatOp.ofCode f.sub) (fun op => .amof g op ord f.sd (atomAddrOf f) f.sb)
  | 0x38 => fieldOp (relOf (f.fn.extractLsb' 8 2) (f.fn.extractLsb' 5 3)) fun rel =>
      subOp (IntOp.ofCode f.sub) (fun op => .red g op (f.fn.getLsbD 10) rel (atomAddrOf f) f.sb)
  | 0x39 => fieldOp (relOf (f.fn.extractLsb' 8 2) (f.fn.extractLsb' 5 3)) fun rel =>
      subOp (FloatOp.ofCode f.sub) (fun op => .redf g op rel (atomAddrOf f) f.sb)
  | _ => .error .opcUndefined

def instrOfSI (f : FmtSI) : Except DecodeError Instr :=
  let g := Guard.ofCode f.grd
  match f.opc.toNat with
  | 0x01 => sub0 f.sub (.addImm g f.sd f.sa f.imm)
  | 0x08 => sub0 f.sub (.andImm g f.sd f.sa f.imm)
  | 0x0A => sub0 f.sub (.orImm g f.sd f.sa f.imm)
  | 0x0C => sub0 f.sub (.xorImm g f.sd f.sa f.imm)
  | 0x17 => subOp (Cond.ofCode f.sub) (fun c => .cmpImm g c f.px f.sa f.imm)
  | 0x18 => sub0 f.sub (.movi g f.sd f.imm)
  | 0x19 => sub0 f.sub (.movhi g f.sd f.imm)
  | 0x29 => sub0 f.sub (.bkpt g f.imm)
  | 0x30 => fieldOp (ordOf (f.sub.extractLsb' 3 1) f.px) fun acq =>
      .ok (.ld g (f.sub.getLsbD 2) (Size.ofCode (f.sub.setWidth 2)) acq f.sd f.sa f.imm)
  | 0x32 => fieldOp (ordOf (f.sub.extractLsb' 3 1) f.px) fun rel =>
      .ok (.st g (Size.ofCode (f.sub.setWidth 2)) rel f.sd f.sa f.imm)
  | 0x34 =>
    match f.sub.toNat with
    | 0 => .ok (.ldfe g f.sd f.sa f.imm)
    | 1 => .ok (.ldff g f.sd f.sa f.imm)
    | 2 => .ok (.stef g f.sd f.sa f.imm)
    | 3 => .ok (.stff g f.sd f.sa f.imm)
    | 4 => .ok (.feset g f.sd f.sa f.imm)
    | 5 => .ok (.feq g f.sd f.sa f.imm)
    | _ => .error .subUndefined
  | _ => .error .opcUndefined

def instrOfB (f : FmtB) : Except DecodeError Instr :=
  let g := Guard.ofCode f.grd
  match f.opc.toNat with
  | 0x20 => sub0 f.sub (.bra g f.disp)
  | 0x21 => sub0 f.sub (.call g f.disp)
  | 0x22 => sub0 f.sub (.loop g f.sr f.disp)
  | _ => .error .opcUndefined

/-- A lane-wise operation of a type. -/
def tyOp (ty : BitVec 4) (sub : BitVec 4) (f : Ty → Instr) : Except DecodeError Instr :=
  fieldOp (Ty.ofCode ty) (fun t => sub0 sub (f t))

def instrOfV3 (f : FmtV3) : Except DecodeError Instr :=
  let g := Guard.ofCode f.grd
  let km := f.km
  match f.opc.toNat with
  | 0x40 => tyOp f.ty f.sub (fun t => .vadd g t f.vd f.va f.vb km)
  | 0x41 => tyOp f.ty f.sub (fun t => .vsub g t f.vd f.va f.vb km)
  | 0x42 => tyOp f.ty f.sub (fun t => .vmul g t f.vd f.va f.vb km)
  | 0x43 => tyOp f.ty f.sub (fun t => .vfma g t f.vd f.va f.vb f.vc km)
  | 0x44 => tyOp f.ty f.sub (fun t => .vmin g t f.vd f.va f.vb km)
  | 0x45 => tyOp f.ty f.sub (fun t => .vmax g t f.vd f.va f.vb km)
  | 0x46 => tyOp f.ty f.sub (fun t => .vabs g t f.vd f.va km)
  | 0x47 => tyOp f.ty f.sub (fun t => .vneg g t f.vd f.va km)
  | 0x48 => subOp (BitOp.ofCode f.sub) (fun op => .vbit g op f.vd f.va f.vb km)
  | 0x49 => fieldOp (Ty.ofCode f.ty) fun t => subOp (ShiftOp.ofCode f.sub) fun op =>
      .vsh g op t f.vd f.va (if f.x = 1#1 then .imm (f.vb.setWidth 6) else .vec f.vb) km
  | 0x4A => fieldOp (Ty.ofCode f.ty) fun t => subOp (Cond.ofCode f.sub) fun c =>
      .vcmp g c t (f.vd.setWidth 3) f.va f.vb km
  | 0x4B => sub0 f.sub (.vsel g f.vd f.va f.vb (f.vc.setWidth 3) km)
  | 0x4C => fieldOp (Ty.ofCode f.ty) fun d => fieldOp (Ty.ofCode (f.vb.setWidth 4)) fun t =>
      sub0 f.sub (.vcvt g d t (f.x = 1#1) f.vd f.va km)
  | 0x4D => fieldOp (Ty.ofCode f.ty) fun d => fieldOp (Ty.ofCode (f.vb.setWidth 4)) fun t =>
      sub0 f.sub (.vcvto g d t (f.x = 1#1) f.vd f.va (f.vc.setWidth 6) km)
  | 0x4E => sub0 f.sub (.vexp2 g f.vd f.va km)
  | 0x4F => sub0 f.sub (.vlog2 g f.vd f.va km)
  | 0x50 => sub0 f.sub (.vrcp g f.vd f.va km)
  | 0x51 => sub0 f.sub (.vrsq g f.vd f.va km)
  | 0x52 => sub0 f.sub (.vsqrt g f.vd f.va km)
  | 0x53 => fieldOp (Ty.ofCode f.ty) fun t => subOp (FloatOp.ofCode f.sub) fun op => .vred g op t f.vd f.va km
  | 0x54 => sub0 f.sub (.vperm g f.vd f.va f.vb km)
  | 0x55 => tyOp f.ty f.sub (fun t => .vbcst g t f.vd (f.va.setWidth 6) km)
  | 0x56 =>
    if f.sub = 0#4 then .ok (.vmovs g (.toScalar (f.vd.setWidth 6) f.va) (f.vc.setWidth 4) km)
    else if f.sub = 1#4 then .ok (.vmovs g (.toVector f.vd (f.va.setWidth 6)) (f.vc.setWidth 4) km)
    else .error .subUndefined
  | 0x57 => tyOp f.ty f.sub (fun t => .vidx g t f.vd (f.va.setWidth 6) km)
  | 0x58 => sub0 f.sub (.vtopk g f.vd f.va f.vb km)
  | 0x59 => subOp (LogicOp.ofCode f.sub) (fun op =>
      .klog g op (f.vd.setWidth 3) (f.va.setWidth 3) (f.vb.setWidth 3))
  | 0x5A => sub0 f.sub (.kpop g (f.vd.setWidth 6) (f.va.setWidth 3))
  | _ => .error .opcUndefined

def vecAddrOf (f : FmtVM) : Option VecAddr :=
  if f.am = 1#1 then some (.hnd (f.sa.setWidth 4) f.sb)
  else (ordOf f.ord f.scope).map (.gen f.sa f.sb f.scale)
def vecBaseOf (f : FmtVM) : VecBase :=
  if f.am = 1#1 then .hnd (f.sa.setWidth 4) else .gen f.sa

def instrOfVM (f : FmtVM) : Except DecodeError Instr :=
  let g := Guard.ofCode f.grd
  match f.opc.toNat with
  | 0x70 => fieldOp (vecAddrOf f) fun a => sub0 f.sub (.vld g f.vr a f.km)
  | 0x71 => fieldOp (vecAddrOf f) fun a => sub0 f.sub (.vst g f.vr a f.km)
  | 0x72 => sub0 f.sub (.vlds g f.vr (vecBaseOf f) f.sb f.km)
  | 0x73 => sub0 f.sub (.vsts g f.vr (vecBaseOf f) f.sb f.km)
  | 0x74 => sub0 f.sub (.vgath g f.vr (vecBaseOf f) f.vx f.scale f.km)
  | 0x75 => sub0 f.sub (.vscat g f.vr (vecBaseOf f) f.vx f.scale f.km)
  | _ => .error .opcUndefined

def instrOfM (f : FmtM) : Except DecodeError Instr :=
  let g := Guard.ofCode f.grd
  match f.opc.toNat with
  | 0x80 => sub0 f.sub (.mzero g)
  | 0x81 => fieldOp (Ty.ofCode f.ty) fun t =>
    match f.sub.toNat with
    | 0 => .ok (.mlb g t (.plain f.sa))
    | 1 => .ok (.mlb g t (.x2 f.sa))
    | 2 => .ok (.mlb g t (.x4 f.sa))
    | 3 => .ok (.mlb g t (.mx f.sa f.sb))
    | 4 => .ok (.mlb g t (.vec f.vr (f.sc ++ f.se.extractLsb' 4 2)))
    | _ => .error .subUndefined
  | 0x82 => fieldOp (Ty.ofCode f.ty) fun t =>
    .ok (.mma g (f.sub.getLsbD 3) (if f.sub.getLsbD 2 then some f.sc else none)
      (match (f.sub.setWidth 2).toNat with
        | 0 => .dense | 1 => .sp64 f.se | 2 => .sp32 f.se | _ => .mx f.se) t f.sa f.sb)
  | 0x83 => sub0 f.sub (.mout g f.sa f.sb f.sc f.se f.sf)
  | 0x84 =>
    if f.sub.getLsbD 3 then .ok (.mdrain g (.vec (f.sub.getLsbD 1) f.vr f.sb))
    else fieldOp (Ty.ofCode f.ty) fun t =>
      .ok (.mdrain g (.mem t (Rounding.ofCode f.rm) (f.cvt = 1#1) (f.sub.getLsbD 2) (f.sub.getLsbD 1)
        f.sa f.sb f.sc))
  | 0x85 => sub0 f.sub (.mring g)
  | _ => .error .opcUndefined

def instrOfE (f : FmtE) : Except DecodeError Instr :=
  let g := Guard.ofCode f.grd
  let z : BitVec 2 := f.imm8.setWidth 2
  let fi : BitVec 6 := f.imm8.setWidth 6
  match f.opc.toNat with
  | 0x90 => sub0 f.sub (.cpy g
      (if f.dh = 1#1 then .hnd (f.imm8.extractLsb' 4 4) f.sd else .ptr f.sd)
      (if f.sh = 1#1 then .hnd (f.imm8.extractLsb' 0 4) f.sa else .ptr f.sa) f.vr)
  | 0x91 => sub0 f.sub (.seal g f.sd)
  | 0x92 => sub0 f.sub (.waitb g f.pd f.sd (f.imm8.setWidth 4))
  | 0x93 => sub0 f.sub (.lzres g f.pd f.sd f.sa f.sb)
  | 0x94 => sub0 f.sub (.lzrel g f.pd z f.sa)
  | 0x95 =>
    if f.sub = 0#4 then .ok (.lzwait g f.pd f.sd z f.sa)
    else if f.sub = 1#4 then .ok (.lzwaitAll g f.pd f.sd z) else .error .subUndefined
  | 0x96 => sub0 f.sub (.lzclr g f.pd z f.sa)
  | 0xA0 => sub0 f.sub (.fld g z f.sa)
  | 0xA1 => sub0 f.sub (.qpop g f.pd f.vr z)
  | 0xA2 => fieldOp (relOf (f.imm8.extractLsb' 6 2) (f.imm8.extractLsb' 3 3)) fun rel =>
    if f.sub = 0#4 then .ok (.fst g rel f.sa (.scal f.sb))
    else if f.sub = 1#4 then .ok (.fst g rel f.sa (.vec f.vr)) else .error .subUndefined
  | 0xA3 => fieldOp (MemOrd.ofCodes (f.imm8.extractLsb' 6 2) (f.imm8.extractLsb' 3 3)) fun ord =>
    if f.sub = 9#4 then .ok (.famo g (.cas f.sc) ord f.pd f.sd f.sa f.sb)
    else subOp (IntOp.ofCode f.sub) (fun op => .famo g (.int op) ord f.pd f.sd f.sa f.sb)
  | 0xA4 => subU f.sub (fun bf => .mldr g bf f.pd f.vr f.sa)
  | 0xB0 => sub0 f.sub (.rqld g f.sd f.sa fi)
  | 0xB1 => sub0 f.sub (.rqst g f.sa f.sb fi)
  | 0xB2 => sub0 f.sub (.rqflt g f.sa f.sb)
  | 0xB3 => sub0 f.sub (.stepdone g f.sa)
  | 0xB4 => sub0 f.sub (.sample g f.pd f.sd f.sa f.sb f.sc)
  | 0xB5 => sub0 f.sub (.rng g f.vr f.sa f.sb f.sc)
  | 0xB6 => sub0 f.sub (.isomask g f.pd f.vr f.sa f.sb f.sc)
  | 0xB7 => sub0 f.sub (.isostep g f.pd f.sd f.sa f.sb f.sc)
  | 0xB8 => sub0 f.sub (.accept g f.pd f.sa f.sb f.vr)
  | 0xB9 => sub0 f.sub (.kvcommit g f.pd f.sa f.sb f.sc)
  | 0xBA => sub0 f.sub (.futcall g f.pd f.sd f.sa f.sb f.sc)
  | 0xBB => sub0 f.sub (.futwait g f.sa)
  | 0xBC => sub0 f.sub (.futqry g f.sd f.sa)
  | _ => .error .opcUndefined

def instrOfX (f : FmtX) : Except DecodeError Instr :=
  let g := Guard.ofCode f.grd
  match f.opc.toNat with
  | 0xC0 => sub0 f.sub (.mfs g f.sd f.sysn)
  | 0xC1 => sub0 f.sub (.mts g f.sysn f.sa)
  | 0xC2 => sub0 f.sub (.trap g f.sa f.sysn)
  | 0xC3 => fieldOp (Scope.ofCode f.scope) fun s => sub0 f.sub (.fence g s)
  | 0xC4 => fieldOp (Scope.ofCode f.scope) fun s => sub0 f.sub (.acq g s)
  | 0xC5 => fieldOp (Scope.ofCode f.scope) fun s => sub0 f.sub (.rel g s)
  | 0xC6 => fieldOp (Scope.ofCode f.scope) fun s => sub0 f.sub (.icinv g s)
  | 0xC7 =>
    if f.sub = 0#4 then .ok (.xlate g (f.sd.setWidth 4) f.sa)
    else if f.sub = 1#4 then .ok (.xlateSlot g f.pd (f.sd.setWidth 4) f.sa f.sb) else .error .subUndefined
  | 0xC8 =>
    if f.sub = 0#4 then .ok (.hrel g (some (f.sd.setWidth 4)))
    else if f.sub = 1#4 then .ok (.hrel g none) else .error .subUndefined
  | 0xC9 => sub0 f.sub (.sptest g f.sd f.sa)
  | 0xCA =>
    match f.sub.toNat with
    | 0 => .ok (.spcast g .abs f.sd f.sa)
    | 1 => .ok (.spcast g .priv f.sd f.sa)
    | 2 => .ok (.spcast g (.chk (f.sysn.setWidth 4)) f.sd f.sa)
    | _ => .error .subUndefined
  | 0xCB => sub0 f.sub (.bar g f.sa f.sb)
  | 0xCC => sub0 f.sub (.launch g f.pd f.sd f.sa)
  | _ => .error .opcUndefined

/-- The instruction whose fields a word of format `f` holds, before the limits of R310 are checked. -/
def Fields.instr : Fields → Except DecodeError Instr
  | .s3 f => instrOfS3 f | .si f => instrOfSI f | .b f => instrOfB f | .v3 f => instrOfV3 f
  | .vm f => instrOfVM f | .m f => instrOfM f | .e f => instrOfE f | .x f => instrOfX f

/-- The fields of a word, in the format that its OPC selects (R322 to R332); none where OPC is undefined. -/
def fieldsOf (w : Word) : Option Fields :=
  let opc := (w.extractLsb' 56 8).toNat
  if opc = 0x01 || opc = 0x08 || opc = 0x0A || opc = 0x0C || opc = 0x17 || opc = 0x18 || opc = 0x19 || opc = 0x29
      || opc = 0x30 || opc = 0x32 || opc = 0x34 then some (.si (FmtSI.unpack w))
  else if opc ≤ 0x1C then some (.s3 (FmtS3.unpack w))
  else if 0x20 ≤ opc ∧ opc ≤ 0x22 then some (.b (FmtB.unpack w))
  else if (0x23 ≤ opc ∧ opc ≤ 0x28) ∨ (0x30 ≤ opc ∧ opc ≤ 0x39) then some (.s3 (FmtS3.unpack w))
  else if 0x40 ≤ opc ∧ opc ≤ 0x5A then some (.v3 (FmtV3.unpack w))
  else if 0x70 ≤ opc ∧ opc ≤ 0x75 then some (.vm (FmtVM.unpack w))
  else if 0x80 ≤ opc ∧ opc ≤ 0x85 then some (.m (FmtM.unpack w))
  else if (0x90 ≤ opc ∧ opc ≤ 0x96) ∨ (0xA0 ≤ opc ∧ opc ≤ 0xA4) ∨ (0xB0 ≤ opc ∧ opc ≤ 0xBC) then
    some (.e (FmtE.unpack w))
  else if 0xC0 ≤ opc ∧ opc ≤ 0xCC then some (.x (FmtX.unpack w))
  else none

/-- The decode checks of R310, orders 1 to 5, on a tile-core word. -/
def decodeTile (w : Word) : Except DecodeError Instr :=
  if w = 0#64 then .error .allZero
  else match fieldsOf w with
    | none => .error .opcUndefined
    | some f =>
      match f.instr with
      | .error e => .error e
      | .ok i =>
        match i.wfCheck with
        | some c => .error (.limit c)
        | none => if i.fields = some f then .ok i else .error .unusedField

def instrOfR (f : FmtR) : Option Instr :=
  let ca := f.cap.setWidth 4
  let cd := f.rd.setWidth 4
  match f.opcode.toNat, f.funct3.toNat with
  | 0x0B, 0 => some (.kwCapld cd f.rs1)
  | 0x0B, 1 => some (.kwCapnar cd ca f.rs1 f.rs2)
  | 0x0B, 2 => some (.kwCapclr cd)
  | 0x0B, 3 => some (.kwSbxent f.rs1)
  | 0x0B, 4 => some .kwSbxret
  | 0x2B, 0 => some (.kwTqpop f.rd ca f.rs1 f.rs2)
  | 0x2B, 1 => some (.kwFutarg f.rd ca f.rs1)
  | 0x2B, 2 => some (.kwFutcpl f.rd ca f.rs1 f.rs2)
  | 0x2B, 3 => some (.kwFutfail f.rd ca f.rs1)
  | 0x2B, 4 => some .kwRel
  | _, _ => none

/-- An Xkwedar word (R334): one of another major opcode is not the extension's. -/
def decodeKw (w : W32) : Except DecodeError Instr :=
  let f := FmtR.unpack w
  if f.opcode = 0x0B#7 ∨ f.opcode = 0x2B#7 then
    match instrOfR f with
    | some i => if i.kwFields = some f then .ok i else .error .xkwedarIllegal
    | none => .error .xkwedarIllegal
  else .error .notXkwedar

/-- A number from its bytes, least significant first (R2). -/
def ofLeBytes : List Byte → Nat
  | [] => 0
  | b :: bs => b.toNat + 256 * ofLeBytes bs

/-- Decode the bytes of an instruction: four of an application hart, eight of a tile core, and nothing else. -/
def decode (bs : List Byte) : Except DecodeError Instr :=
  if bs.length = 4 then decodeKw (BitVec.ofNat 32 (ofLeBytes bs))
  else if bs.length = 8 then decodeTile (BitVec.ofNat 64 (ofLeBytes bs))
  else .error .opcUndefined

/-- The opcode table's numbering: bit 0 is the least significant bit of the first byte. The application harts'
words have 32 bits and the tile cores' words 64. -/
def decodeTableWord (nbits w : Nat) : Option Instr :=
  match decode (leBytes (if nbits ≤ 32 then 4 else 8) w) with
  | .ok i => some i
  | .error _ => none

end Sys2Proof
end

