-- ==== Sys2Proof/Machine/Sparse.lean ====
section
/-!
DEFINITION. Machine/Sparse.lean: sparse tables (a list of key and value, keys strictly rising) and byte memory in its
canonical form. A key that is not listed reads as the table's default, which the reader supplies; a byte of memory
that is not listed reads as 0 (notes/assumptions/4.md, DESIGN CHOICE).
-/
namespace Sys2Proof.Machine

/-- A table from numbers to values of a type. -/
abbrev FMap (α : Type) := List (Nat × α)

/-- The value listed for a key. -/
def fget? {α : Type} : FMap α → Nat → Option α
  | [], _ => none
  | (a, x) :: t, k => if a = k then some x else fget? t k

/-- The value listed for a key, or the default. -/
def fget {α : Type} (d : α) (m : FMap α) (k : Nat) : α := (fget? m k).getD d

/-- The table with a key set to a value, in the place the order of keys gives it. -/
def fset {α : Type} : FMap α → Nat → α → FMap α
  | [], k, v => [(k, v)]
  | (a, x) :: t, k, v =>
    if k < a then (k, v) :: (a, x) :: t
    else if k = a then (k, v) :: t
    else (a, x) :: fset t k v

/-- The table without a key. -/
def fdel {α : Type} (m : FMap α) (k : Nat) : FMap α := m.filter (fun e => e.1 != k)

/-- The table with the value of a key changed. -/
def fupd {α : Type} (d : α) (m : FMap α) (k : Nat) (f : α → α) : FMap α := fset m k (f (fget d m k))

/-- Keys strictly rising. -/
def fsorted {α : Type} : FMap α → Bool
  | [] => true
  | [_] => true
  | (a, _) :: (b, y) :: t => a < b && fsorted ((b, y) :: t)

/-- Memory: bytes by address (Host.Cell), keys strictly rising, no entry equal to what an unlisted address reads as. -/
abbrev Memory := List Host.Cell

/-- What an address that is not listed reads as (notes/assumptions/4.md, DESIGN CHOICE, unsafe). -/
def Memory.unlisted : Byte := 0#8

/-- The canonical form. -/
def Memory.wf (m : Memory) : Bool := fsorted m && m.all (fun c => c.2 != Memory.unlisted)

/-- One byte of memory. -/
def readByte (m : Memory) (a : Nat) : Byte := fget Memory.unlisted m a

/-- Memory with one byte written. -/
def writeByte (m : Memory) (a : Nat) (b : Byte) : Memory :=
  if b = Memory.unlisted then fdel m a else fset m a b

/-- `n` bytes from an address on. -/
def readBytes (m : Memory) (a : Nat) : Nat → List Byte
  | 0 => []
  | n + 1 => readByte m a :: readBytes m (a + 1) n

/-- Bytes written from an address on. -/
def writeBytes (m : Memory) (a : Nat) : List Byte → Memory
  | [] => m
  | b :: bs => writeBytes (writeByte m a b) (a + 1) bs

end Sys2Proof.Machine
end

