-- ==== Sys2Proof/Machine/State.lean ====
section
/-!
DEFINITION. Machine/State.lean: the whole device as plain data, and the state after reset. Tables are sparse
(Machine/Sparse.lean); the docstring of a field that holds a table says what a key that is not listed reads as.
INVENTORY.md lists every field with the rule that names it and its reset value.
-/
namespace Sys2Proof.Machine

/-! ### Strands (02 R21 to R24, 13 R278) -/

/-- The states of a strand (R24). -/
inductive Status where
  | empty | ready | parked | offrot | frozen | halted
  deriving DecidableEq, Repr

/-- A translation handle (R158). -/
structure Handle where
  valid : Bool
  pbase : BitVec 56
  size  : BitVec 2
  perm  : BitVec 3
  attr  : BitVec 2
  hva   : BitVec 57
  deriving DecidableEq, Repr

/-- What a parked strand waits for: which part of its operation is still to come. -/
inductive Phase where
  /-- nothing: the strand is not parked -/
  | none
  /-- the reply of an access, engine, home, unit or peer -/
  | access
  /-- the counts of an acquire (R177) -/
  | acquire
  /-- the conditions of a release (R176) -/
  | release
  /-- a page walk (R151) -/
  | walk
  /-- a walk that met a migrating mapping (R155, R165) -/
  | migrate
  /-- range-scoreboard entries (R144), or free entries (R143) -/
  | board
  /-- a place in a bank's wait list (R139) -/
  | listed
  /-- the next 64-cycle retry, the bank's list being full (R139) -/
  | retry
  /-- a condition of a unit: batches, landing zones, futures, queues, engine places -/
  | cond
  /-- the copies of a KVCOMMIT (R98) -/
  | copies
  /-- the Front's receipt of a STEPDONE (R431) -/
  | sent
  /-- the copies of an earlier run, before a restarted task's first instruction (R280) -/
  | restart
  /-- its next issue cycle, in which the operation that a Squall withdrew is issued again (R24, R287) -/
  | reissue
  deriving DecidableEq, Repr

/-- Where an access lands once its checks have passed. -/
inductive Place where
  /-- bytes of a scratchpad, shared memory or staging slice from a memory key on; `far` parks or posts (R130, R133) -/
  | bank (key : Nat) (far : Bool)
  /-- bytes of a physical page under an attribute, with the VA they were reached by -/
  | page (pa : Nat) (attr : BitVec 2) (va : Nat)
  /-- the side log (R153) -/
  | log (va : Nat)
  /-- a peer's exported window (tag 5) -/
  | peer (p : Nat)
  /-- a multicast group (tag 6) -/
  | mcast (p : Nat)
  deriving DecidableEq, Repr

/-- A part of an access: bytes `off` to `off + len` of its data, in one aligned 8-byte word of memory (R183). -/
structure Piece where
  off   : Nat
  len   : Nat
  place : Place
  deriving DecidableEq, Repr

/-- The kind of a translated access (R148, R150): a returning atomic needs W and reports ACCESS 0. -/
inductive AccKind where
  | load | store | atomic | fetch | xlate
  deriving DecidableEq, Repr

/-- A copy batch of a strand (R199, R200): `left` commands are still to finish. -/
structure Batch where
  num    : Nat
  left   : Nat
  status : BitVec 2
  vis    : Nat        -- largest visibility time of its writes (R187)
  deriving DecidableEq, Repr

/-- The task a strand runs (R29 to R38). -/
structure Task where
  launch   : Nat        -- key of the launch in State.launches
  idx      : Nat        -- linear index of its tile (R35)
  tenant   : Nat
  entry    : Word
  arg      : Word
  resident : Bool
  mxa      : Bool       -- owns the core's matrix array (R35)
  ring     : Bool       -- placed as part of a gang (R36)
  femax0   : W32        -- FEMAX at placement (R34)
  trig     : Bool       -- has executed TRIG (R38)
  scr      : Nat × Nat  -- scratchpad allocation: base, length
  shr      : Nat × Nat  -- cluster-shared allocation: base, length
  started  : Nat        -- cycle of its placement, moved on by the time it has spent saved (R300); while saved, the cycles it has run
  deriving DecidableEq, Repr

/-- A strand slot (R21). -/
structure Strand where
  status  : Status
  pc      : Word
  s       : FMap Word          -- s1 to s63; unlisted 0 (R34)
  p       : BitVec 8           -- p7 to p0; bit 0 is not read (R21)
  k       : FMap (BitVec 16)   -- k1 to k7; unlisted 0
  h       : FMap Handle        -- h0 to h15; unlisted invalid
  ids     : FMap Word          -- registers 0x010 to 0x027 (R23); unlisted 0
  femax   : W32                -- 0x028
  fstat   : Word               -- 0x030 (R215)
  fpmode  : Word               -- 0x050 (R237)
  olbase  : Word
  olcap   : Word
  olcnt   : Word
  rot     : Nat                -- OFFROT issue cycles still to skip (R27, R278)
  cause   : BitVec 8           -- fault code when FROZEN, BKPT when HALTED (R278)
  info    : Word               -- info word of the current fault
  pinstr  : Word               -- instruction word of the parked operation (R278)
  pwait   : Nat                -- cycles waited against FEMAX before the present park (R278)
  pkind   : BitVec 4           -- R278
  phase   : Phase              -- MODEL: what the parked operation waits for
  pstart  : Nat                -- MODEL: the cycle the present wait began (R140)
  plimit  : Nat                -- MODEL: the FEMAX bound the wait took at its first issue (R396)
  pcap    : List Nat           -- MODEL: numbers the parked operation has captured
  prel    : Bool               -- MODEL: the release of the current instruction is done (R184)
  pplaces : List Piece         -- MODEL: where the parked access lands, as its issue resolved it (R342)
  plines  : FMap (Option (List Byte)) -- MODEL: HC lines the parked load has asked for, with the data received (R171)
  pparts  : FMap (List Byte)   -- MODEL: parts of the parked load that have been read, by number (R183)
  pva     : Word               -- MODEL: the VA whose walk is awaited
  pacc    : AccKind            -- MODEL: the kind of access that walk is for (R150)
  plog    : List Nat           -- MODEL: 64 KiB granules whose walk sends the present store to the side log (R153)
  ptime   : Nat                -- MODEL: the timestamp of the present release; 0 until it is formed (R176)
  nextb   : Nat                -- NEXTB (R199)
  openb   : Batch              -- the open batch
  batches : List Batch         -- sealed batches that no WAITB has reported, oldest first (R199)
  reported : List Batch        -- reported batches, latest first, at most 16 (R201, R278)
  task    : Option Task
  bpSkip  : Option Nat         -- the comparator that halted the strand last (R281)
  issueAt : Nat                -- MODEL: the first cycle at which it may issue again (R25, R28), or be tried again (R139)
  stepping : Bool              -- a STEP is under way (R282)
  haltReq : Bool               -- a HALT waits for the instruction boundary (R280)
  visSys  : Nat                -- the same for its fabric writes, which only a release at .sys covers (R176)
  visMax  : Nat                -- largest visibility time of the task's writes that have been acknowledged (R176)
  ackAt   : Nat                -- CCNT at the task's last acknowledgement (R414)
  deriving DecidableEq, Repr

/-! ### Cores, arrays, landing zones (12, 13, 09) -/

/-- A range-scoreboard entry (R143): bytes [lo, hi) of the core's scratchpad held by an engine operation. -/
structure SbEntry where
  id : Nat
  lo : Nat
  hi : Nat
  slot : Nat      -- the issuing strand; 8 once its task has been killed
  deriving DecidableEq, Repr

/-- A run-ahead queue entry (R216): tenant, status, peer and 64 bytes of data once arrived. -/
structure RaEntry where
  tx      : Nat
  arrived : Bool
  code    : BitVec 8
  peer    : Nat
  tenant  : Nat
  data    : VReg
  deriving DecidableEq, Repr

/-- A queued matrix command (R255): its word, its scalar operands as captured at issue (R285), what those and its other
operands gave then, and the issuing strand. -/
structure MCmd where
  word  : Word
  pc    : Word
  slot  : Nat
  ops   : List Word
  caps  : List Nat
  sbIds : List Nat      -- its scoreboard entries
  vdst  : Option Nat    -- the first window register an MDRAIN.v will write (R394)
  deriving DecidableEq, Repr

/-- What matrix commands already issued will leave in the array (R390). -/
structure Shadow where
  loaded : Bool
  lty    : BitVec 4
  used   : Nat
  scale  : Bool
  ring   : Bool
  deriving DecidableEq, Repr

/-- The contents of a latch: its rows, LTY, used size, scale area and its validity (R258, R265). -/
structure LatchImg where
  rows    : FMap VReg    -- 64 bytes each; unlisted 0
  lty     : BitVec 4
  used    : Nat
  scaleOk : Bool
  scales  : FMap VReg    -- the scale area, 64 bytes each; unlisted 0
  deriving DecidableEq, Repr

/-- A matrix array (R254 to R270). -/
structure MArray where
  acc      : FMap W32        -- cell 64 i + j; unlisted 0
  latch    : LatchImg        -- the B operand latch with its scale area (R258); unlisted bytes 0
  loaded   : Bool            -- a latch has been loaded
  incoming : Option LatchImg -- the incoming latch of a ring (R265)
  queue    : List MCmd       -- waiting commands, oldest first; at most 16
  run      : Option MCmd     -- the command in execution
  runSince : Nat             -- cycle its ring wait began (R266)
  done     : Bool            -- a rotating step or MRING has finished here and waits for the ring (R265)
  ring     : Nat             -- MSTEP.RING: 0 none, 1 ring of 8, 2 pair of 16
  steps    : Nat             -- MSTEP.STEPS
  staleAcc : Bool            -- what acc and steps hold is an earlier owner's (R363; notes/assumptions/94.md)
  staleLatch : Bool          -- what latch and loaded hold is an earlier owner's
  shadow   : Shadow
  deriving DecidableEq, Repr

/-- A landing-zone slot (R202, R203). -/
structure LzSlot where
  state  : Nat      -- 0 FREE, 1 RESERVED, 2 FILLING, 3 ARRIVED, 4 INUSE, 5 BROKEN (R202)
  pend   : Nat
  total  : Nat      -- the length requested, or LEN of the first write
  sender : Nat      -- accelerator ID
  score  : Nat      -- sending core
  since  : Nat      -- cycle of the last byte or reservation
  cause  : Nat      -- of BROKEN: 1 TIMEOUT, 2 LINK_DOWN (R207)
  deriving DecidableEq, Repr

/-! ### Clusters (07, 08, 09, 13) -/

/-- A translation of a tenant's page, in a cluster TLB or handle cache (R151, R159). -/
structure TlbEntry where
  tenant : Nat
  va     : Nat       -- VA of the page's first byte, 57 bits
  size   : Nat       -- 0 64 KiB, 1 2 MiB, 2 1,024 MiB
  pa     : Nat
  perm   : BitVec 3  -- R, W, X from bit 0
  attr   : BitVec 2
  groups : BitVec 48
  pin    : Bool
  d      : Bool      -- the walk that filled it set the D bit (R148)
  deriving DecidableEq, Repr

/-- The operation of a store-like access (R153). -/
inductive StoreOp where
  | st
  | red (op : IntOp) (d : Bool)
  | redf (op : FloatOp)
  deriving DecidableEq, Repr

/-- A side-log entry (R153). -/
structure SlEntry where
  id     : Nat
  tenant : Nat
  va     : Nat
  op     : StoreOp
  data   : List Byte
  core   : Nat
  slot   : Nat       -- 16 more while its task is saved by a Squall
  pc     : Word
  gone   : Bool      -- its task has ended
  deriving DecidableEq, Repr

/-- The attribute a cache holds a line under (R168). -/
inductive Attr where
  | hc | sc | cp
  deriving DecidableEq, Repr

/-- MOESI (R169). -/
inductive Moesi where
  | m | o | e | s | i
  deriving DecidableEq, Repr

/-- A line of a cluster cache: HC lines have a MOESI state, SC lines tags, CP lines a mask of dirty bytes. -/
structure CLine where
  attr  : Attr
  st    : Moesi
  td    : Nat
  tv    : Nat
  ts    : Nat
  dirty : Nat         -- bit i: byte i of the line is dirty (CP)
  data  : List Byte   -- 128 bytes
  deriving DecidableEq, Repr

/-- An operand of a copy command, as captured at issue (R193, R360). -/
inductive CopyEnd where
  /-- local memory: the memory key of the operand's base; a scratchpad range is of the issuing core's own -/
  | bank (key : Nat)
  /-- a page through a handle: its number, its fields, the physical address of the base and the offset -/
  | page (h : Nat) (fields : Handle) (pa : Nat) (off : Word)
  /-- a peer's window, a multicast group or a landing slot: the pointer -/
  | peer (p : Nat)
  | mcast (p : Nat)
  | land (p : Nat)
  deriving DecidableEq, Repr

/-- A copy command (R190 to R200). -/
structure CopyCmd where
  id     : Nat
  core   : Nat
  slot   : Nat
  pc     : Word
  tenant : Nat
  batch  : Option Nat   -- batch number; none once its strand has dropped it
  shape  : VReg
  dst    : CopyEnd
  src    : CopyEnd
  dptr   : Word         -- the pointer or handle offset that each operand was named by (R286)
  sptr   : Word
  data   : Option (List Byte)  -- source bytes, row after row, read at issue (R197) or from a peer
  poison : List Nat     -- positions of those that come from words with a double-bit error (R289)
  elig   : Nat          -- CCNT at which it became eligible for a place in flight (R196)
  sbIds  : List Nat
  bad    : Option (BitVec 8 × Word)  -- it will end FAULT, with this code and info word: a handle shot down, or data (R162, R289)
  boarded : Bool        -- its scoreboard entries have been made (R360)
  sent   : Bool         -- its writes to a peer, group or landing slot have been sent
  deriving DecidableEq, Repr

/-- Units held for a task that has still to be placed or restored (R45, R47, R287): a core, a strand slot, ranges of
vector-register groups, scratchpad granules and cluster-shared blocks (base, count), and whether the matrix array is held. -/
structure Hold where
  core : Nat
  slot : Nat
  v    : Nat × Nat
  g    : Nat × Nat
  c    : Nat × Nat
  m    : Bool
  deriving DecidableEq, Repr

/-- MODEL: a core's saved context as the model keeps it beside the save area in memory (R284 to R287): its tasks by slot,
their array, the timed and the parked copy commands, the scoreboard entries of what was queued, the run-ahead queues; and the units that a
RESTORE holds. -/
structure Saved where
  tasks : FMap Strand
  arr   : Option MArray
  timed : List CopyCmd
  sb    : List SbEntry
  raq   : FMap (List RaEntry)
  parked : List CopyCmd
  holds : List Hold
  deriving DecidableEq, Repr

/-- A tile core. -/
structure Core where
  v       : FMap VReg           -- physical vector registers; unlisted 0
  sb      : List SbEntry        -- at most 16 (R143)
  raq     : FMap (List RaEntry) -- run-ahead queues 0 to 3, oldest first (R216)
  arr     : MArray
  icache  : FMap Word           -- instruction words held, by tenant * 2^64 + VA (R166)
  lz      : FMap LzSlot         -- landing slots by 64 zone + slot; unlisted FREE
  idled   : List Nat            -- numbers of the rotations idled lately (R306): rotation n is cycles 8 n to 8 n + 7
  yields  : Nat                 -- idle-issue statistics: YIELDs issued (R450)
  sqWho   : Nat                 -- SQSTAT.WHO (R283)
  sqDefer : Bool
  sqSaved : Bool
  sqDone  : Bool
  sqBusy  : Bool
  sqCmd   : Nat                 -- the command in progress: 1 SAVE, 2 RESTORE
  sqSince : Nat                 -- MODEL: the cycle the Squall in progress began, its RESTORE included (R268)
  saved   : Saved               -- what a Squall has saved
  deriving DecidableEq, Repr

/-- Who raised a fault packet: a unit whose notice is held stalls before its next (R275). -/
inductive Raiser where
  | strand | array | copyEngine | sideLog
  deriving DecidableEq, Repr

/-- A packet as the ring of a chain level holds it (R272, R275). -/
structure Packet where
  code   : BitVec 8
  frozen : Bool
  async  : Bool
  cwide  : Bool
  core   : Nat
  strand : Nat
  tenant : Nat
  aux    : BitVec 8
  pc     : Word
  info   : Word
  ccnt   : Word
  src    : Raiser := .strand    -- MODEL: no part of the packet's bytes
  deriving DecidableEq, Repr

/-- A cluster. -/
structure Cluster where
  tlb     : List TlbEntry
  hcache  : List TlbEntry
  sidelog : List SlEntry        -- in log order; at most 256
  slReq   : List (Nat × Nat)    -- (tenant, granule) for which a page request stands (R153)
  slHeld  : Option (Nat × Nat × Nat)  -- (tenant, granule, VA of the held entry) (R156)
  slAt    : List (Nat × Nat × Nat)    -- (tenant, granule, cycle its 65,536-cycle period began) (R155)
  lines   : FMap CLine          -- cache lines by 4 * line number + attribute; unlisted: not held
  vd : Nat
  vv : Nat
  vs : Nat
  bd : Nat
  bv : Nat
  bs : Nat
  copies  : List CopyCmd        -- in flight: at most 64 (R196)
  timed   : List CopyCmd        -- waiting for their TIME: at most 256
  waiting : List CopyCmd        -- of strands parked for a place, in the order they parked (R196)
  held    : List Packet         -- notices held because the ring was full (R275)
  freezes : List (Nat × Nat × Nat)    -- unconsumed freezing packets: level, entry number, cycle written (R275)
  halted  : Bool                -- FLTSTAT.HALT
  fslots  : List Nat            -- faulted slots whose bits have arrived (R76)
  cpVis   : Nat                 -- visibility time of the last dirty CP line that left the cache (R180, R188)
  masks   : FMap Nat            -- the Isobar engine's mask cache: 8-byte words of memory by address (R93); unlisted: not held
  deriving DecidableEq, Repr

/-- An entry of a bank's wait list (R139). -/
structure WaitEnt where
  core : Nat
  slot : Nat
  word : Nat       -- memory key of the word
  full : Bool      -- awaits FULL (else EMPTY); not used by BAR
  bar  : Option Nat -- BAR: the GEN it read
  deriving DecidableEq, Repr

/-- Where a posted write goes: a bank or slice, an SC page's home, the cluster cache for HC and CP pages, the fabric. -/
inductive PostKind where
  | bank | sc | hc | cp | fab
  deriving DecidableEq, Repr

/-- A posted write that has not been acknowledged (R130, R133, R173, R176). -/
structure Posted where
  id     : Nat
  core   : Nat
  slot   : Nat            -- 8 once its task has ended
  clu    : Nat            -- cluster ID of the issuer
  kind   : PostKind
  key    : Nat            -- memory key (physical address) of the 8-byte word; the transaction for the fabric
  op     : StoreOp
  data   : List (Option Byte)   -- the bytes of the word; none: not written
  done   : Bool           -- performed
  vis    : Nat            -- visibility time once performed
  deriving DecidableEq, Repr

/-! ### Homes (08) -/

/-- A participant: 0 to 191 the cluster caches by cluster index, 192 the system cache, 193 the host (R169). -/
abbrev Participant := Nat

/-- A snoop-filter entry: holders, the holder in M, O or E, and when it was allocated (R169, R172). -/
structure DirEnt where
  holders : List Participant
  owner   : Option Participant
  born    : Nat
  deriving DecidableEq, Repr

/-- What a participant asks of a home (R170). -/
inductive HomeReqKind where
  /-- read miss -/
  | read
  /-- write miss or upgrade -/
  | own
  deriving DecidableEq, Repr

/-- A request that waits at a home, in arrival order (R171). -/
structure HomeReq where
  line : Nat
  who  : Participant
  kind : HomeReqKind
  deriving DecidableEq, Repr

/-- A request being served: the snoops still to be answered, and the data a holder has forwarded. -/
structure HomeTxn where
  req    : HomeReq
  snoops : List Participant
  data   : Option (List Byte)
  deriving DecidableEq, Repr

/-- A scope instance (R178). -/
structure ScopeInst where
  ts  : Nat
  gen : Nat
  deriving DecidableEq, Repr

/-! ### Launches (02) -/

/-- A launch that has been accepted (R29 to R45). -/
structure Launch where
  id       : Nat          -- launch ID (R32)
  tenant   : Nat
  words    : List Word    -- the 8 words of its record
  resident : Bool
  placed   : Nat          -- tasks placed so far, in placement order
  live     : Nat          -- placed tasks that have neither exited nor been killed
  trigd    : Nat          -- tasks that have executed TRIG or exited
  outcome  : Nat          -- 0 not fixed, 1 SUCCEEDED, 2 FAILED, 3 DEP_FAILED, 4 CANCELLED (R39)
  met      : Bool         -- its trigger is met (R38)
  pend     : Option (List Nat)  -- a resident launch's tasks still to be placed, once its placement has begun (R47)
  holds    : List Hold    -- units held for them
  host     : Option (Nat × Bool × Word)  -- host launches: completion ring, SYS, the entry's header (R298)
  spill    : Option Nat   -- the 128-byte entry of its tenant's spill queue that it holds (R40)
  deriving DecidableEq, Repr

/-- A pool entry (R40, R44). -/
structure PoolEnt where
  launch : Nat       -- key in State.launches
  level  : Nat
  since  : Nat       -- cycle its waiting count began
  head   : Bool      -- it has been its tenant's head since then
  deriving DecidableEq, Repr

/-- A reservation (R45): the launch, and what it has fixed on its target. -/
structure Reserve where
  launch : Nat
  holds  : List Hold
  deriving DecidableEq, Repr

/-- The arbiter and pool of a die (R40 to R45). -/
structure Pool where
  ents    : List PoolEnt     -- in the order they entered
  deficit : FMap Int         -- by 64 level + tenant; unlisted 0
  turn    : FMap Nat         -- by level: the tenant visited last
  res     : List Reserve     -- oldest first
  deriving DecidableEq, Repr

/-! ### Front and Forecast (03, 04, 05) -/

/-- A future (R103): one Forecast-table entry. -/
structure Future where
  record   : Nat
  gen      : Nat
  tenant   : Nat
  result   : Nat
  queued   : Bool
  state    : Nat
  deadline : Nat
  key      : Nat
  fcode    : Nat
  queue    : Nat
  argpos   : Nat
  step     : Nat      -- the step in which FUTCALL armed it (R109)
  toSeq    : List W32 -- the tenant's TOSEQ, FAILSEQ and TRUNCTOK as they stood when it was armed (R299)
  failSeq  : List W32
  trunc    : Nat
  deriving DecidableEq, Repr

/-- A KV page of a request: its slot in the tenant's KV window, the physical page, and whether that is a spill page (R75). -/
structure KvPage where
  win   : Nat
  pa    : Nat
  spill : Bool
  deriving DecidableEq, Repr

/-- A request as the Front tracks it outside its record: the pages of its page-table entries in order, and the first
position below RQ_POS that has not been given a rebuild row since a DROP (R67, R68). -/
structure FrontReq where
  pages   : List KvPage
  rebuild : Option Nat
  deriving DecidableEq, Repr

/-- A CANCEL entry received: tenant, request ID, tag, the submitting queue's ring and SYS bit (R59). -/
structure CancelReq where
  tenant : Nat
  id     : Word
  tag    : Word
  ring   : Nat
  sys    : Bool
  deriving DecidableEq, Repr

/-- A page being freed: its shootdown waits for the named commands and writes (R75, R162). -/
structure PageFree where
  id     : Nat
  tenant : Nat
  page   : KvPage
  ids    : List Nat
  deriving DecidableEq, Repr

/-- A page being moved to a spill page or back: the request, its page-table entry, the new physical page (R67, R75). -/
structure PageMove where
  id    : Nat
  req   : Nat
  idx   : Nat
  dst   : Nat
  spill : Bool
  ids   : List Nat
  deriving DecidableEq, Repr

/-- A row of a step (R69). -/
structure Row where
  slot   : Nat
  pos    : Nat
  node   : Nat
  kind   : Nat
  parent : Nat
  deriving DecidableEq, Repr

/-- What a boundary has fixed for the next descriptor: its rows, and the slots admitted at it (R70). -/
structure Plan where
  rows  : List Row
  fresh : List Nat
  todo  : List Nat   -- slots whose pages are still to be mapped
  deriving DecidableEq, Repr

/-- A record write that waits because its ring was full (R110). -/
structure Deferred where
  ring : Nat
  data : List Byte
  tenant : Nat
  sys  : Bool
  req  : Option Nat   -- the request that becomes FREE once the record is written (R61)
  deriving DecidableEq, Repr

/-- The Front (03). Requests are named by tenant * 2^20 + record. -/
structure Front where
  step      : Nat                -- the last published step (R51)
  ending    : Bool               -- that step has been published and not ended
  doneCores : List Nat           -- cores whose STEPDONE has arrived for this step
  active    : List Nat           -- slots that have rows in this step
  slots     : FMap Nat           -- batch slots in use: the request
  reqs      : FMap FrontReq      -- requests that have pages or rebuild rows; unlisted: none
  cancels   : List CancelReq
  faulted   : List Nat           -- faulted-slot mask (R76)
  faultAt   : FMap Nat           -- MODEL: the cycle each of its bits was set
  deficit   : FMap Int           -- admission deficits by tenant; unlisted 0 (R64)
  free      : List Nat           -- free KV pages, top first (R75)
  frees     : List PageFree
  moves     : List PageMove      -- in the order they began
  deadSlots : List Nat           -- slots of requests that a tenant reset ended, until the next boundary (R301)
  deadPages : List (Nat × KvPage) -- their pages, with the tenant
  leaving   : List Nat           -- ended requests whose record is out and is not FREE yet (R61, R114)
  plan      : Option Plan        -- a descriptor that waits for pages to be brought back (R67)
  held      : FMap (List (Nat × Nat))  -- tool entries held back by a full queue: future, key (R107); unlisted none
  launch    : Option Nat         -- the resident launch
  drainPub  : Bool               -- the last descriptor has DRAIN set
  drained   : Bool               -- its step has ended
  deriving DecidableEq, Repr

/-! ### Fabric and endpoint (10) -/

/-- What a fabric transaction is for. -/
inductive FabKind where
  /-- a read, atomic or reservation its strand is parked for -/
  | strand
  /-- an FLD: queue -/
  | fld (q : Nat)
  /-- a posted write -/
  | post
  /-- a piece of a copy command: its name, and whether the piece reads -/
  | copy (id : Nat) (read : Bool)
  deriving DecidableEq, Repr

/-- A fabric transaction that this device has outstanding (R214). -/
structure FabTx where
  id      : Nat
  peer    : Nat
  op      : FabOp
  addr    : Nat
  owner   : Nat × Nat     -- core, slot; slot 8 once its task has ended
  kind    : FabKind
  tries   : Nat
  issued  : Nat
  sw      : Nat           -- the switch it was last sent through
  tenant  : Nat
  resp    : Option Reply  -- its response once that has arrived
  sent    : Bool          -- a request of it has left the device (R213, R302)
  deriving DecidableEq, Repr

/-- An endpoint work request (R227 to R229): armed, or disarmed with its transfer still under way. -/
structure EpReq where
  id     : Nat
  tenant : Nat
  index  : Nat
  words  : List Word       -- its 64-byte entry as it was read when it was armed
  armed  : Bool
  fired  : Bool            -- its transfer has started, or it is ready to receive or to forward
  spent  : Bool            -- a TRIG 2 request has fired
  stall  : Option Nat      -- the cycle since which a translation fault stalls it
  msg    : Option EpMsg    -- what has arrived for it and waits for that translation
  deriving DecidableEq, Repr

/-! ### Application harts and the management controller -/

/-- A capability register (R117). -/
structure Cap where
  base   : Word
  length : Word
  sealed : Bool
  perm   : BitVec 4
  deriving DecidableEq, Repr

/-- An application hart. -/
structure Hart where
  x        : FMap Word   -- x1 to x31; unlisted 0
  pc       : Word
  priv     : Nat         -- 0 U, 1 S, 3 M
  virt     : Bool        -- V of the H extension: VU or VS
  csr      : FMap Word   -- control and status registers by number; unlisted 0
  f        : FMap Word   -- f0 to f31; unlisted 0
  v        : FMap (BitVec 256)  -- v0 to v31; unlisted 0
  resv     : Option Nat  -- the line of a load reservation
  caps     : FMap Cap    -- c0 to c15; unlisted the null capability
  sbx      : Bool        -- kwsbx.SBX
  psbx     : Bool        -- kwsbx.PSBX
  kwtenant : Word
  deriving DecidableEq, Repr

/-- A trap bank of the management controller (R290). -/
structure McBank where
  mepc : Word
  mcause : Word
  mtval : Word
  mstatus : Word
  deriving DecidableEq, Repr

/-- The management controller (R290, R291, R303 to R306). -/
structure Mc where
  banks   : List McBank      -- banks in use, bank 0 first
  crash   : List Word        -- the 8 words of the crash record
  images  : List (Nat × Nat × Nat × List Byte)  -- accepted images: KIND, VERSION, SVN, digest
  irqs    : Nat              -- interrupts raised to it
  pwrcap  : Option Nat       -- PWRCAP in watts; none: the default of R306
  deriving DecidableEq, Repr

/-! ### Messages out of the device -/

/-- What the device has sent to the outside. -/
inductive Out where
  /-- an MSI or MSI-X vector: function, vector -/
  | msi (fn vec : Nat)
  /-- an interrupt to a hart's IMSIC: hart, identity -/
  | imsic (hart eiid : Nat)
  /-- an interrupt to the management controller or system software, by source -/
  | irq (source : Nat)
  /-- a fabric request sent on a lane through a switch to a peer -/
  | fabReq (switch lane peer : Nat) (q : FabReq)
  /-- a time message of the time master through a switch: its CCNT (R225) -/
  | time (switch ccnt : Nat)
  /-- a fabric response to a peer's request -/
  | fabResp (peer tag : Nat) (r : Reply)
  /-- an endpoint send or RMA write: its work-request KIND, the peer, the remote address or tag, the bytes -/
  | epSend (kind : Nat) (peer raddr : Word) (data : List Byte)
  /-- an endpoint RMA read: the peer, the remote address, the length -/
  | epRead (peer raddr : Word) (len : Nat)
  /-- an endpoint's answer to a peer's RMA write, and to its RMA read with the bytes (R226) -/
  | epData (peer : Word) (data : List Byte)
  /-- an endpoint's answer to a peer: the status of a future-completion message (R122) -/
  | epStatus (peer : Word) (status : Nat)
  /-- an endpoint's answer "resend later" (R229) -/
  | epResend (peer : Word)
  /-- an answer to a management request -/
  | answer (kind : Nat) (data : List Byte)
  deriving DecidableEq, Repr

/-! ### What acts next -/

/-- What the hardware chooses to drop from a cache, a choice that is not architectural (R151, R159, R166, R170). -/
inductive Evict where
  | icache (core key : Nat)
  | tlb (cluster n : Nat)
  | hcache (cluster n : Nat)
  | line (who line : Nat)
  | epTlb (n : Nat)
  | mask (cluster pa : Nat)
  deriving DecidableEq, Repr, Inhabited

/-- Who acts in a step. -/
inductive Act where
  /-- nobody: time passes -/
  | pass
  /-- an application hart executes its next instruction -/
  | hart (n : Nat)
  /-- an event of the opcode table -/
  | event (i : Instr)
  /-- a replacement of the hardware's own choice -/
  | evict (e : Evict)
  /-- a soft error strikes a word, by its key (Machine/Mem.lean): a double-bit error when `dbl` (R20) -/
  | soft (key : Nat) (dbl : Bool)
  /-- the host writes a line that it holds in E or M (R170) -/
  | hostWrite (line : Nat) (data : List Byte)
  /-- the Isobar engine of a cluster takes a word into its mask cache (R93) -/
  | maskFill (cluster pa : Nat)
  /-- a peer's RMA write, as target: its data, to the VA that the message's tag names (R226) -/
  | rmaWrite (m : EpMsg)
  /-- a peer's RMA read, as target, of so many bytes (R226) -/
  | rmaRead (m : EpMsg) (len : Nat)
  /-- one part of a parked strand's load is performed, ahead of the others (R183) -/
  | part (core slot n : Nat)
  /-- system software fences a unit off: a bit of READY, or from 64 on the cluster of that ID plus 64 (R20, R302) -/
  | fence (bit : Nat)
  /-- the host sets one of the 8 HDM decoders: host base, size, device base (R292) -/
  | hdm (n : Nat) (range : Option (Nat × Nat × Nat))
  /-- the host reads 4 bytes of a function's configuration space (R293) -/
  | cfgRead (fn off : Nat)
  /-- the power cap is set, in watts (R306) -/
  | powerCap (watts : Nat)
  deriving DecidableEq, Repr, Inhabited

/-- A turn: cycles that pass before it, whether it comes after what must happen in its own cycle (the strands' issues
among that, R25) or before that, and who acts. -/
structure Turn where
  wait : Nat
  late : Bool
  act  : Act
  deriving DecidableEq, Repr, Inhabited

/-- Whose instruction is being executed. -/
inductive Issuer where
  | strand (core slot : Nat)
  | hart (n : Nat)
  deriving DecidableEq, Repr

/-! ### The device -/

/-- The whole device. -/
structure State where
  cycle    : Nat                 -- the cores' cycle count (R25)
  ccntAdj  : Int                 -- CCNT less the cycle count (R25, R225)
  slew     : Int                 -- correction of CCNT still to be slewed (R225)
  slewAt   : Nat                 -- MODEL: the cycle its last step was counted from
  timeRun  : Nat                 -- consecutive time messages within 24 cycles (R225)
  turns    : List Turn           -- MODEL: who acts next
  turnNo   : Nat                 -- MODEL: turns supplied so far
  freeNo   : Nat                 -- MODEL: free values used so far
  nextId   : Nat                 -- MODEL: names for commands and messages
  cur      : Issuer              -- MODEL: whose instruction this is
  part     : Option Nat          -- MODEL: the part of a load that is read ahead of its reply (R183)
  mem      : Memory              -- every byte of memory (Machine/Ops.lean gives the keys)
  fe       : FMap Bool           -- EMPTY words of scratchpad and cluster-shared memory; unlisted FULL (R137)
  soft     : FMap Bool           -- words with a soft error: true for a double-bit error (R20, R288)
  strands  : FMap Strand         -- by 8 core + slot; unlisted EMPTY
  cores    : FMap Core
  clusters : FMap Cluster        -- by cluster ID
  waits    : FMap (List WaitEnt) -- wait lists by bank (R139); unlisted empty
  posted   : List Posted
  dirs     : FMap DirEnt         -- snoop-filter entries by line
  hcx      : FMap (Moesi × List Byte)   -- HC lines of the system cache and the host, by 2 line + (0 system, 1 host)
  l2       : FMap (List Nat)     -- the system cache's record: the harts whose L1 or L2 holds a line (R169); unlisted none
  l1       : FMap (List Nat)     -- the lines of hart n's L1D (key 2n) and L1I (2n + 1), latest first (R15); unlisted none
  homeReqs : List HomeReq
  homeTxns : List HomeTxn
  scopes   : FMap ScopeInst      -- 0 to 3 the dies, 4 device, 5 system; unlisted 0
  launches : FMap Launch         -- by tenant * 2^32 + launch ID
  newest   : FMap Nat            -- newest launch ID by tenant; unlisted 0
  pools    : FMap Pool           -- by die
  spillq   : FMap (List Nat)     -- spill queues by tenant: launches, oldest first
  front    : Front
  futures  : FMap Future
  regs     : FMap Word           -- control registers by PF0 BAR0 offset (R294); unlisted their reset value
  tset     : FMap Word           -- tenant settings by 64 index + tenant (R299); unlisted the Reset column
  tseq     : FMap (List W32)     -- TOSEQ and FAILSEQ tokens by 64 index + tenant; unlisted one token 0
  own      : FMap Byte           -- ownership-map entries by PF0 BAR0 offset (R136); unlisted 0
  deferred : List Deferred
  trst     : FMap (List Nat)     -- tenants being reset whose commands and writes in flight are awaited (R301)
  fenced   : List Nat            -- units fenced off (R20, R302)
  hdm      : FMap (Nat × Nat × Nat) -- HDM decoders in use: host base, size, device base (R292)
  tsBusy   : List Nat            -- the commands and writes that the shootdown in progress waits for (R162)
  cmo      : Option (Nat × Nat)  -- the page and SIZE that the flush in progress acts on (R182)
  fabTx    : List FabTx
  epReqs   : List EpReq
  epTlb    : List TlbEntry       -- the endpoint's translation cache (R226)
  harts    : FMap Hart
  mc       : Mc
  powered  : Bool
  outbox   : List Out            -- oldest first
  deriving DecidableEq, Repr

/-! ### The stops of the model -/

/-- What stops the machine. -/
inductive Fault where
  /-- raised by `step` when power has been removed (R306 thermal trip): nothing runs any more. Safe. -/
  | powerRemoved
  deriving DecidableEq, Repr

/-- What the model gives no meaning to. -/
inductive Refusal where
  /-- raised by an arm of `exec` for an instruction that has no meaning yet. Safe. -/
  | notModelled (mnemonic : String)
  deriving DecidableEq, Repr

/-! ### Reset -/

/-- An invalid handle; its other fields are DESIGN CHOICE 0 (notes/assumptions/5.md). -/
def Handle.invalid : Handle := { valid := false, pbase := 0, size := 0, perm := 0, attr := 0, hva := 0 }

/-- A batch with no command. -/
def Batch.none : Batch := { num := 0, left := 0, status := 0, vis := 0 }

/-- A slot without a task (R24); the values its registers read as are DESIGN CHOICE 0 (notes/assumptions/5.md). -/
def Strand.init : Strand :=
  { status := .empty, pc := 0, s := [], p := 0, k := [], h := [], ids := [], femax := 0, fstat := 0, fpmode := 0,
    olbase := 0, olcap := 0, olcnt := 0, rot := 0, cause := 0, info := 0, pinstr := 0, pwait := 0, pkind := 0,
    phase := .none, pstart := 0, plimit := 0, pcap := [], prel := false, pplaces := [], plines := [], pparts := [], pva := 0, pacc := .load, plog := [], ptime := 0, nextb := 1,
    openb := .none, batches := [], reported := [], task := none, bpSkip := none, issueAt := 0, stepping := false, haltReq := false, visSys := 0, visMax := 0, ackAt := 0 }

/-- An empty latch (notes/assumptions/6.md). -/
def LatchImg.init : LatchImg := { rows := [], lty := 0, used := 0, scaleOk := false, scales := [] }

def Shadow.init : Shadow := { loaded := false, lty := 0, used := 0, scale := false, ring := false }

/-- A matrix array after reset: MSTEP 0 (R267), the rest DESIGN CHOICE (notes/assumptions/6.md). -/
def MArray.init : MArray :=
  { acc := [], latch := .init, loaded := false, incoming := none, queue := [], run := none, runSince := 0,
    done := false, ring := 0, steps := 0, staleAcc := false, staleLatch := false, shadow := .init }

/-- A FREE landing slot (R203). -/
def LzSlot.init : LzSlot := { state := 0, pend := 0, total := 0, sender := 0, score := 0, since := 0, cause := 0 }

def Saved.init : Saved := { tasks := [], arr := none, timed := [], sb := [], raq := [], parked := [], holds := [] }

def Core.init : Core :=
  { v := [], sb := [], raq := [], arr := .init, icache := [], lz := [], idled := [], yields := 0, sqWho := 0,
    sqDefer := false, sqSaved := false, sqDone := false, sqBusy := false, sqCmd := 0, sqSince := 0, saved := .init }

/-- A cluster after reset; the view values are DESIGN CHOICE 0 (notes/assumptions/8.md). -/
def Cluster.init : Cluster :=
  { tlb := [], hcache := [], sidelog := [], slReq := [], slHeld := none, slAt := [], lines := [], vd := 0, vv := 0,
    vs := 0, bd := 0, bv := 0, bs := 0, copies := [], timed := [], waiting := [], held := [], freezes := [], halted := false,
    fslots := [], cpVis := 0, masks := [] }

def ScopeInst.init : ScopeInst := { ts := 0, gen := 0 }

def Pool.init : Pool := { ents := [], deficit := [], turn := [], res := [] }

/-- A Forecast-table entry at reset: FREE (R103). -/
def Future.init : Future :=
  { record := 0, gen := 0, tenant := 0, result := 0, queued := false, state := 0, deadline := 0, key := 0, fcode := 0,
    queue := 0, argpos := 0, step := 0,
    toSeq := [], failSeq := [], trunc := 0 }

def Front.init : Front :=
  { step := 0, ending := false, doneCores := [], active := [], slots := [], reqs := [], cancels := [], faulted := [], faultAt := [],
    deficit := [], free := [], frees := [], moves := [], deadSlots := [], deadPages := [], leaving := [], plan := none, held := [], launch := none, drainPub := false,
    drained := false }

/-- The null capability (R117). -/
def Cap.null : Cap := { base := 0, length := 0, sealed := false, perm := 0 }

/-- A hart after reset: pc at the start of HBM4E stack 0, M-mode, vtype.vill 1 and registers 0 (notes/assumptions/11.md). -/
def Hart.init : Hart :=
  { x := [], pc := 0x10000000000#64, priv := 3, virt := false, csr := [(0xC21, 0x8000000000000000#64)], f := [], v := [], resv := none, caps := [], sbx := false, psbx := false, kwtenant := 0 }

/-- The management controller after reset; the crash record is DESIGN CHOICE 0 (notes/assumptions/10.md). -/
def Mc.init : Mc := { banks := [], crash := List.replicate 8 0#64, images := [], irqs := 0, pwrcap := none }

/-- The device right after reset: every field at the value the spec states, or the one the log names. -/
def State.reset : State :=
  { cycle := 0, ccntAdj := 0, slew := 0, slewAt := 0, timeRun := 0, turns := [], turnNo := 0, freeNo := 0, nextId := 0, cur := .strand 0 0, part := none, mem := [],
    fe := [], soft := [], strands := [], cores := [], clusters := [], waits := [], posted := [], dirs := [], hcx := [], l2 := [], l1 := [],
    homeReqs := [], homeTxns := [], scopes := [], launches := [], newest := [], pools := [], spillq := [],
    front := .init, futures := [], regs := [], tset := [], tseq := [], own := [], deferred := [], trst := [], fenced := [], hdm := [], tsBusy := [], cmo := none,
    fabTx := [], epReqs := [], epTlb := [], harts := [], mc := .init, powered := true, outbox := [] }

end Sys2Proof.Machine
end

