-- ==== Sys2Proof/Config.lean ====
section
/-!
DEFINITION. Config.lean: what the spec leaves to the implementation or to the outside, as opaque constants. Nothing can
evaluate one, so a theorem about one holds for every value.
-/
namespace Sys2Proof.Config

/-- Who acts next, and after how long, where State.turns does not say (notes/assumptions/1.md): the `n`-th turn. -/
opaque turn (n : Nat) : Machine.Turn

/-- FORM: whether the part is a module with LPDDR-6 (R7, fused). -/
opaque isModule : Bool

/-- A value the spec leaves open, the `n`-th used. -/
opaque freeValue (n : Nat) : BitVec 64

/-- The Ed448 signature of a report and its certificate (R305): both are defined outside the spec. -/
opaque sign (report : List Byte) : List Byte

/-- SHAKE256 to 64 bytes (R303 to R305): defined outside the spec. -/
opaque shake256 (x : List Byte) : List Byte

/-- Whether a signature verifies under a key (R304). -/
opaque verify (key msg sig : List Byte) : Bool

/-- The fused public-key hash of a key slot, and whether it is revoked (R304). -/
opaque keyHash (slot : Nat) : List Byte
opaque keyRevoked (slot : Nat) : Bool

/-- The fused minimum SVN of an image kind (R304). -/
opaque minSvn (kind : Nat) : Nat

/-- The digest of the fuse state that an attestation report carries (R305). -/
opaque fuseDigest : List Byte

end Sys2Proof.Config
end

