-- ==== Sys2Proof/Machine/Regs.lean ====
section
/-!
DEFINITION. Machine/Regs.lean: where control registers lie (14 R294), the identifiers of dies, clusters and cores
(01 R12), the access of each register field (00 R3, R4) and the tenant settings (14 R299).
-/
namespace Sys2Proof.Machine

/-! ### Identifiers (R12) -/

/-- Cluster ID of a core ID. -/
def cluOfCore (core : Nat) : Nat := core / 1024 * 64 + core / 16 % 64
/-- Die of a core ID. -/
def dieOfCore (core : Nat) : Nat := core / 1024
/-- Die of a cluster ID. -/
def dieOfClu (clu : Nat) : Nat := clu / 64
/-- Cluster index, 0 to 191 (R12). -/
def cluIndex (clu : Nat) : Nat := clu / 64 * 48 + clu % 64
/-- Cluster ID of a cluster index. -/
def cluOfIndex (i : Nat) : Nat := i / 48 * 64 + i % 48
/-- Cluster group (R12). -/
def cluGroup (clu : Nat) : Nat := clu / 64 * 12 + clu % 64 / 4
/-- Core ID of core `c` of a cluster. -/
def coreOf (clu c : Nat) : Nat := clu / 64 * 1024 + clu % 64 * 16 + c
def cluExists (clu : Nat) : Bool := clu < 256 && clu % 64 < 48
def coreExists (core : Nat) : Bool := core < 4096 && core / 16 % 64 < 48
/-- The 16 cores of a cluster. -/
def coresOf (clu : Nat) : List Nat := (List.range 16).map (coreOf clu)
/-- Every cluster ID of a die. -/
def clustersOf (die : Nat) : List Nat := (List.range 48).map (fun c => die * 64 + c)
def allClusters : List Nat := (List.range 192).map cluOfIndex

/-! ### Offsets (R294) -/

def cluWin (clu : Nat) : Nat := 0x100000000 + 0x1000000 * cluIndex clu
def offFRBASE (clu n : Nat) : Nat := cluWin clu + 0x20 * n
def offFRCFG (clu n : Nat) : Nat := cluWin clu + 0x20 * n + 8
def offFRPTR (clu n : Nat) : Nat := cluWin clu + 0x20 * n + 0x10
def offFACKTO (clu : Nat) : Nat := cluWin clu + 0x80
def offFLTSTAT (clu : Nat) : Nat := cluWin clu + 0x88
def offSLSTAT (clu : Nat) : Nat := cluWin clu + 0x100
def offPAIRTO (clu : Nat) : Nat := cluWin clu + 0x120
def offECCCNT (clu : Nat) : Nat := cluWin clu + 0x130
def offECCTHR (clu : Nat) : Nat := cluWin clu + 0x138
def offCSHOWN (clu b : Nat) : Nat := cluWin clu + 0x1000 + b
def offSCROWN (core g : Nat) : Nat := cluWin (cluOfCore core) + 0x2000 + 0x400 * (core % 16) + g
def offSTGOWN (die slice g : Nat) : Nat := 0x300000 + 0x10000 * die + 0x80 * slice + g
/-- Landing zone z of a core: LZzCFG at +0, BASE +8, ARR +0x10, TO +0x18. -/
def offLZ (core z : Nat) : Nat := cluWin (cluOfCore core) + 0x10000 + 0x1000 * (core % 16) + 0x400 * z
def offDbg (core : Nat) : Nat := cluWin (cluOfCore core) + 0x100000 + 0x80000 * (core % 16)
def offBPADDR (core n : Nat) : Nat := offDbg core + 0x16000 + 16 * n
def offBPCTL (core n : Nat) : Nat := offDbg core + 0x16008 + 16 * n
def offSQADDR (core : Nat) : Nat := offDbg core + 0x17000
def offWQ (n : Nat) : Nat := 0x100000 + 32 * n
def offCQ (n : Nat) : Nat := 0x140000 + 32 * n
def offSERV : Nat := 0x200000
def offTSVA : Nat := 0x210000
def offTSPA : Nat := 0x210008
def offTSCMD : Nat := 0x210010
def offATTRCONF (h : Nat) : Nat := 0x220000 + 0x100 * h
def offATTRLAST (h : Nat) : Nat := 0x220008 + 0x100 * h
def offCMOPA : Nat := 0x221000
def offCMOCMD : Nat := 0x221008
def offFABID : Nat := 0x230000
def offFABCFG : Nat := 0x230008
def offFABDOWN : Nat := 0x230010
def offTSYNC : Nat := 0x230018
def offPEERDOWN (j : Nat) : Nat := 0x230100 + 8 * j
def offFW (n : Nat) : Nat := 0x231000 + 0x20 * n
def offMCG (g : Nat) : Nat := 0x232000 + 0x10 * g
def offECCAD : Nat := 0x250000
def offTRSTBUSY : Nat := 0x30008
def offTRSTCQ : Nat := 0x30010
def offREADY : Nat := 0x40000
def offREADYCLU (d : Nat) : Nat := 0x40008 + 8 * d

/-! ### Reset values and access (R3, R4) -/

/-- How the bits of a register may be written, and what it holds at reset: `rw` bits take the value written, `w1c`
bits are cleared by a 1; every other bit keeps what it holds. -/
structure RegInfo where
  rw    : Nat
  w1c   : Nat
  reset : Nat
  deriving DecidableEq, Repr

def RegInfo.ro : RegInfo := { rw := 0, w1c := 0, reset := 0 }

/-- The bits [hi:lo] set. -/
def maskB (hi lo : Nat) : Nat := (2 ^ (hi + 1 - lo) - 1) * 2 ^ lo

/-- Registers of the serving control window (R73), by offset in it. -/
def servInfo (o : Nat) : RegInfo :=
  match o with
  | 0x00 => { rw := maskB 13 8, w1c := maskB 4 4, reset := 0 }
  | 0x08 | 0x10 | 0x18 => { rw := maskB 63 0, w1c := 0, reset := 0 }
  | 0x20 | 0x28 => { rw := maskB 55 0, w1c := 0, reset := 0 }
  | 0x30 => { rw := maskB 53 32 + maskB 21 0, w1c := 0, reset := 0 }
  | 0x38 => { rw := maskB 1 0, w1c := 0, reset := 0 }
  | 0x40 | 0x48 | 0x50 | 0x58 => { rw := maskB 47 0, w1c := 0, reset := 0 }
  | 0x60 => { rw := maskB 55 0, w1c := 0, reset := 0 }
  | 0x68 => { rw := maskB 24 0, w1c := 0, reset := 0 }
  | _ => .ro

/-- Registers of the fabric control window (R212, R213, R220, R225), by offset in it. -/
def fabInfo (o : Nat) : RegInfo :=
  if o = 0x0 then { rw := maskB 9 0, w1c := 0, reset := 0 }
  else if o = 0x8 then { rw := maskB 39 32 + maskB 31 4 + maskB 2 0, w1c := 0, reset := 3 * 2 ^ 32 + 0x40000 * 2 ^ 4 }
  else if o = 0x10 then { rw := maskB 63 0, w1c := 0, reset := 0 }
  else if o = 0x18 then { rw := maskB 33 33 + maskB 0 0, w1c := 0, reset := 0 }
  else if 0x100 ≤ o ∧ o < 0x180 ∧ o % 8 = 0 then { rw := 0, w1c := maskB 63 0, reset := 0 }
  else if 0x1000 ≤ o ∧ o < 0x1000 + 0x20 * 64 then
    if o % 0x20 = 0 then { rw := maskB 63 63 + maskB 55 50 + maskB 49 21 + maskB 3 1, w1c := 0, reset := 0 }
    else if o % 0x20 = 8 then { rw := maskB 63 0, w1c := 0, reset := 0 }
    else if o % 0x20 = 0x10 then { rw := maskB 49 48 + maskB 28 0, w1c := 0, reset := 0 } else .ro
  else if 0x2000 ≤ o ∧ o < 0x2000 + 0x10 * 256 then
    if o % 0x10 = 0 then { rw := maskB 63 62 + maskB 61 56 + maskB 9 0, w1c := 0, reset := 0 }
    else if o % 0x10 = 8 then { rw := maskB 63 0, w1c := 0, reset := 0 } else .ro
  else .ro

/-- Registers of a landing zone (R202), by offset in it. -/
def lzInfo (o : Nat) : RegInfo :=
  match o with
  | 0x00 => { rw := maskB 63 63 + maskB 57 57 + maskB 53 44 + maskB 37 0, w1c := 0, reset := 0 }
  | 0x08 => { rw := maskB 17 8, w1c := 0, reset := 0 }
  | 0x10 => { rw := maskB 17 3, w1c := 0, reset := 0 }
  | 0x18 => { rw := maskB 47 0, w1c := 0, reset := 0 }
  | _ => .ro

/-- Registers of a cluster's control window (R274, R157, R267, R288, R202, R281, R283), by offset in it. -/
def cluInfo (o : Nat) : RegInfo :=
  if o < 0x80 then
    if o % 0x20 = 0 then { rw := maskB 55 12, w1c := 0, reset := 0 }
    else if o % 0x20 = 8 then { rw := maskB 63 63 + maskB 52 48 + maskB 42 32 + maskB 3 0, w1c := 0, reset := 4 }
    else if o % 0x20 = 0x10 then { rw := maskB 31 0, w1c := 0, reset := 0 } else .ro
  else if o = 0x80 then { rw := maskB 31 0, w1c := 0, reset := 0x04000000 }
  else if o = 0x88 then { rw := maskB 1 0, w1c := maskB 63 32, reset := 0 }
  else if o = 0x100 then { rw := 0, w1c := maskB 63 32, reset := 0 }
  else if o = 0x120 then { rw := maskB 31 0, w1c := 0, reset := 0x00100000 }
  else if o = 0x130 then { rw := 0, w1c := maskB 63 0, reset := 0 }
  else if o = 0x138 then { rw := maskB 31 0, w1c := 0, reset := 0x1000 }
  else if 0x10000 ≤ o ∧ o < 0x20000 then lzInfo (o % 0x400)
  else if 0x100000 ≤ o ∧ o < 0x900000 then
    let d := o % 0x80000
    if d = 0x16000 ∨ d = 0x16010 ∨ d = 0x16020 ∨ d = 0x16030 then { rw := maskB 63 3, w1c := 0, reset := 0 }
    else if d = 0x16008 ∨ d = 0x16018 ∨ d = 0x16028 ∨ d = 0x16038 then
      { rw := maskB 15 8 + maskB 2 0, w1c := 0, reset := 0 }
    else if d = 0x17000 then { rw := maskB 55 12, w1c := 0, reset := 0 }
    else .ro
  else .ro

/-- The fields of the register at a PF0 BAR0 offset (R294); an offset not listed reads zero and ignores writes. -/
def regInfo (o : Nat) : RegInfo :=
  if o = offTRSTCQ then { rw := maskB 12 0, w1c := 0, reset := 0 }
  else if 0x100000 ≤ o ∧ o < 0x140000 then
    if o % 32 = 0 then { rw := maskB 63 0, w1c := 0, reset := 0 }
    else if o % 32 = 8 then { rw := maskB 63 62 + maskB 57 48 + maskB 44 32, w1c := maskB 47 47, reset := 0 }
    else .ro
  else if 0x140000 ≤ o ∧ o < 0x180000 then
    if o % 32 = 0 then { rw := maskB 63 0, w1c := 0, reset := 0 }
    else if o % 32 = 8 then { rw := maskB 63 61 + maskB 57 48 + maskB 37 32, w1c := 0, reset := 0 }
    else if o % 32 = 16 then { rw := maskB 31 0, w1c := 0, reset := 0 }
    else .ro
  else if 0x200000 ≤ o ∧ o < 0x210000 then servInfo (o - 0x200000)
  else if o = offTSVA then { rw := maskB 63 58 + maskB 56 16, w1c := 0, reset := 0 }
  else if o = offTSPA ∨ o = offCMOPA then { rw := maskB 55 16 + maskB 1 0, w1c := 0, reset := 0 }
  else if o = offTSCMD ∨ o = offCMOCMD then { rw := 0, w1c := maskB 9 9, reset := 0 }
  else if 0x220000 ≤ o ∧ o < 0x220500 ∧ o % 0x100 = 0 then { rw := maskB 32 0, w1c := maskB 33 33, reset := 0 }
  else if 0x230000 ≤ o ∧ o < 0x240000 then fabInfo (o - 0x230000)
  else if o = offECCAD then { rw := 0, w1c := maskB 63 0, reset := 0 }
  else if o = offECCAD + 8 then { rw := maskB 31 0, w1c := 0, reset := 0x1000 }
  else if 0x100000000 ≤ o ∧ o < 0x100000000 + 0x1000000 * 192 then cluInfo (o % 0x1000000)
  else .ro

/-- The value a register holds. -/
def regGet (s : State) (o : Nat) : Word := fget (w64 (regInfo o).reset) s.regs o

/-- The register's value set by the hardware. -/
def regPut (s : State) (o : Nat) (w : Word) : State := { s with regs := fset s.regs o w }

/-- A write by software under the access codes of the fields (R3): reserved and RO bits keep what they hold. -/
def regWrite (s : State) (o : Nat) (w : Word) : State :=
  let i := regInfo o
  let old := (regGet s o).toNat
  let v := w.toNat
  regPut s o (w64 ((old &&& (2 ^ 64 - 1 - i.rw) &&& (2 ^ 64 - 1 - (i.w1c &&& v))) ||| (v &&& i.rw)))

/-- Update a field of a register. -/
def regFld (s : State) (o hi lo v : Nat) : State := regPut s o (putFld (regGet s o) hi lo v)

/-- A function of READY is usable (R302). -/
def fnReady (s : State) (bit : Nat) : Bool := (regGet s offREADY).getLsbD bit

/-- A cluster is usable: not before it is ready, nor halted or fenced (R302). -/
def cluReady (s : State) (clu : Nat) : Bool := (regGet s (offREADYCLU (clu / 64))).getLsbD (clu % 64)

/-! ### Tenant settings (R299) -/

def setTROOT : Nat := 1
def setRQBASE : Nat := 2
def setRQCOUNT : Nat := 3
def setSPILLBASE : Nat := 4
def setSPILLSZ : Nat := 5
def setLWEIGHT : Nat := 6
def setFEMAXDEF : Nat := 7
def setWEIGHT : Nat := 8
def setSLOTQ : Nat := 9
def setROWQ : Nat := 10
def setPAGEQ : Nat := 11
def setPFCHUNK : Nat := 12
def setEVPOL : Nat := 13
def setFUTQUOTA : Nat := 14
def setFUTTO : Nat := 15
def setTOSEQ : Nat := 16
def setFAILSEQ : Nat := 17
def setTRUNCTOK : Nat := 18
def setLZKEY : Nat := 19
def setQOS : Nat := 20
def setTSLICE : Nat := 21
def setRESIDENT : Nat := 22
def setKVWIN : Nat := 23
def setSPOOLBASE : Nat := 24
def setSPOOLCNT : Nat := 25
def setEPWRBASE : Nat := 26
def setEPWRCNT : Nat := 27
def setEPCTRBASE : Nat := 28

/-- The Reset column of R299. -/
def tsetReset (i : Nat) : Nat :=
  match i with
  | 6 => 1 | 7 => 0x01000000 | 8 => 1 | 12 => 16384 | 15 => 1600000000 | 20 => 0x100 | _ => 0

/-- A tenant's setting. -/
def tset (s : State) (i tenant : Nat) : Nat := (fget (w64 (tsetReset i)) s.tset (64 * i + tenant)).toNat

/-- CCNT (R16, R25): the cycle count with the adjustment of R225, modulo 2^64. -/
def ccnt (s : State) : Nat := ((Int.ofNat s.cycle + s.ccntAdj) % (2 ^ 64 : Int)).toNat

/-- Cycles pass up to a given one: CCNT is slewed by at most one step in every 1,024 cycles (R225). -/
def passTo (s : State) (cyc : Nat) : State :=
  if s.slew = 0 then { s with cycle := cyc }
  else
    let k := min ((cyc - s.slewAt) / 1024) s.slew.natAbs
    let d : Int := if s.slew < 0 then -(k : Int) else (k : Int)
    { s with cycle := cyc, slewAt := s.slewAt + 1024 * k, slew := s.slew - d, ccntAdj := s.ccntAdj + d }

end Sys2Proof.Machine
end

