-- ==== Sys2Proof/Machine/Mem.lean ====
section
/-!
DEFINITION. Machine/Mem.lean: the keys of memory, the populated physical ranges (01 R461), coherent reads and writes at
a home (08 R170, R187), and strands, cores and clusters read and updated in place.
-/
namespace Sys2Proof.Machine

/-! ### Parts of the device -/

def strandKey (core slot : Nat) : Nat := 8 * core + slot
def State.strand (s : State) (core slot : Nat) : Strand := fget .init s.strands (strandKey core slot)
def State.setStrand (s : State) (core slot : Nat) (x : Strand) : State :=
  { s with strands := fset s.strands (strandKey core slot) x }
def State.updStrand (s : State) (core slot : Nat) (f : Strand → Strand) : State :=
  s.setStrand core slot (f (s.strand core slot))
def State.core (s : State) (c : Nat) : Core := fget .init s.cores c
def State.setCore (s : State) (c : Nat) (x : Core) : State := { s with cores := fset s.cores c x }
def State.updCore (s : State) (c : Nat) (f : Core → Core) : State := s.setCore c (f (s.core c))
def State.clu (s : State) (c : Nat) : Cluster := fget .init s.clusters c
def State.setClu (s : State) (c : Nat) (x : Cluster) : State := { s with clusters := fset s.clusters c x }
def State.updClu (s : State) (c : Nat) (f : Cluster → Cluster) : State := s.setClu c (f (s.clu c))
def State.hart (s : State) (n : Nat) : Hart := fget .init s.harts n
def State.setHart (s : State) (n : Nat) (x : Hart) : State := { s with harts := fset s.harts n x }
def State.pool (s : State) (d : Nat) : Pool := fget .init s.pools d
def State.setPool (s : State) (d : Nat) (x : Pool) : State := { s with pools := fset s.pools d x }
def State.scope (s : State) (i : Nat) : ScopeInst := fget .init s.scopes i
def State.send (s : State) (o : Out) : State := { s with outbox := s.outbox ++ [o] }
def State.withMem (s : State) (m : Memory) : State := { s with mem := m }
/-- A new name for a command or message. -/
def State.fresh (s : State) : Nat × State := (s.nextId, { s with nextId := s.nextId + 1 })
/-- A free value (Config.freeValue) not used before. -/
def State.free (s : State) : Word × State := (Config.freeValue s.freeNo, { s with freeNo := s.freeNo + 1 })

/-! ### Keys of memory: one number for every byte of every memory -/

/-- Byte `o` of a core's scratchpad (R127). -/
def scrKey (core o : Nat) : Nat := 2 ^ 60 + core * 2 ^ 18 + o
/-- Byte `o` of a cluster's shared memory (R129). -/
def shrKey (clu o : Nat) : Nat := 2 ^ 61 + clu * 2 ^ 22 + o
/-- Byte `o` of a staging slice (R132). -/
def stgKey (die slice o : Nat) : Nat := 2 ^ 62 + die * 2 ^ 27 + slice * 2 ^ 23 + o
/-- The bank or slice of a byte: banks of 8-byte words in scratchpad (16) and shared memory (64), whole slices of staging
(R127, R129, R135). -/
def bankOf (key : Nat) : Nat :=
  if key < 2 ^ 61 then (2 ^ 60 + (key - 2 ^ 60) / 2 ^ 18 * 64 + key / 8 % 16)
  else if key < 2 ^ 62 then (2 ^ 61 + (key - 2 ^ 61) / 2 ^ 22 * 64 + key / 8 % 64)
  else 2 ^ 62 + (key - 2 ^ 62) / 2 ^ 23
/-- The 8-byte word of a byte. -/
def wordOf (key : Nat) : Nat := key / 8 * 8

/-- The words of bytes [lo, hi). -/
def wordsIn (lo hi : Nat) : List Nat := if hi ≤ lo then [] else (List.range ((hi + 7) / 8 - lo / 8)).map (fun j => 8 * (lo / 8 + j))

/-- The full/empty state of a word (R137). -/
def feFull (s : State) (word : Nat) : Bool := !(fget false s.fe word)
def feSet (s : State) (word : Nat) (full : Bool) : State :=
  { s with fe := if full then fdel s.fe word else fset s.fe word true }
/-- The words of a range set EMPTY or FULL. -/
def feRange (s : State) (word : Nat) (full : Bool) : Nat → State
  | 0 => s
  | n + 1 => feRange (feSet s word full) (word + 8) full n

/-- A soft error leaves a word that is written whole (R288). -/
def softClear (s : State) (key n : Nat) : State :=
  { s with soft := s.soft.filter (fun e => !(key ≤ e.1 && e.1 + 8 ≤ key + n)) }

/-- The keys of what is not addressed memory among the soft errors: a physical vector register, a core's scoreboard, wait
lists and issue state, byte `o` of its matrix array (accumulators from 0, latch from 0x4000, incoming latch from 0x8000, scale
area from 0xC000), a strand's scalar registers, its predicates (0 to 7), lane masks (8 to 15) and handles (16 to 31), and the
words of a cached line: of cluster caches 0 to 191 and the system cache 192 (R20, R289). -/
def vregKey (core r : Nat) : Nat := 2 ^ 64 + core * 1024 + r
def coreKey (core : Nat) : Nat := 2 ^ 65 + core
def arrayKey (core o : Nat) : Nat := 2 ^ 66 + core * 2 ^ 16 + wordOf o
def sregKey (core slot r : Nat) : Nat := 2 ^ 67 + strandKey core slot * 64 + r
def pregKey (core slot r : Nat) : Nat := 2 ^ 67 + 2 ^ 40 + strandKey core slot * 32 + r
def cacheKey (who attr pa : Nat) : Nat := 2 ^ 68 + (4 * who + attr) * 2 ^ 60 + wordOf pa
/-- A core's instruction cache, a cluster's TLB and handle cache and its mask cache, a hart's registers (x0 to x31, from 32
f0 to f31, from 64 v0 to v31, from 96 c0 to c15), a Forecast-table entry, and what the Front keeps outside memory: one word each. -/
def icacheKey (core : Nat) : Nat := 2 ^ 66 + 2 ^ 40 + core
def tlbKey (clu : Nat) : Nat := 2 ^ 66 + 2 ^ 41 + clu
def maskKey (clu : Nat) : Nat := 2 ^ 66 + 2 ^ 42 + clu
def hregKey (hart r : Nat) : Nat := 2 ^ 66 + 2 ^ 43 + hart * 128 + r
def futKey (i : Nat) : Nat := 2 ^ 66 + 2 ^ 44 + i
def frontKey : Nat := 2 ^ 66 + 2 ^ 45
/-- The key that a struck key stands for: an aligned word, where it addresses memory, an array or a cached line. -/
def softKey (key : Nat) : Nat :=
  if key < 2 ^ 64 ∨ 2 ^ 68 ≤ key ∨ (2 ^ 66 ≤ key ∧ key < 2 ^ 66 + 2 ^ 40) then wordOf key else key

/-- The struck words among keys [lo, hi), and those errors gone. -/
def struckIn (s : State) (lo hi : Nat) : List Nat := (s.soft.filter (fun e => lo ≤ e.1 && e.1 < hi)).map (·.1)
def softDrop (s : State) (lo hi : Nat) : State := { s with soft := s.soft.filter (fun e => !(lo ≤ e.1 && e.1 < hi)) }

/-- The soft errors of a line that leaves a cache: an uncorrectable word that is written back is poisoned in memory (R289). -/
def softLeave (s : State) (who attr line : Nat) (back : Bool) : State :=
  let lo := cacheKey who attr (128 * line)
  let mine := fun e : Nat × Bool => lo ≤ e.1 && e.1 < lo + 128
  if s.soft.any mine then
    let rest := s.soft.filter (fun e => !mine e)
    { s with soft := (s.soft.filter (fun e => mine e && e.2 && back)).foldl (fun m e => fset m (128 * line + (e.1 - lo)) true) rest }
  else s

/-- Bytes of local memory. -/
def memGet (s : State) (key n : Nat) : List Byte := readBytes s.mem key n
def memPut (s : State) (key : Nat) (bs : List Byte) : State :=
  (softClear s key bs.length).withMem (writeBytes s.mem key bs)
def memNat (s : State) (key n : Nat) : Nat := fromBytes (memGet s key n)
/-- A range of bytes set to zero: every listed byte of it leaves the list. -/
def memZero (s : State) (key n : Nat) : State :=
  s.withMem (s.mem.filter (fun c => !(key ≤ c.1 && c.1 < key + n)))

/-! ### Physical memory (R18, R461) -/

def inHbm (pa : Nat) : Bool :=
  0x10000000000 ≤ pa && pa < 0x18000000000
def inLpddr (pa : Nat) : Bool := 0x20000000000 ≤ pa && pa < 0x30000000000
/-- The populated ranges: LPDDR-6 only on the module (R15, R461). -/
def physOk (pa : Nat) : Bool := inHbm pa || (inLpddr pa && Config.isModule)
/-- The home of a line: die 0 to 3, or 4 for the agent die (R18). -/
def homeOf (pa : Nat) : Nat := if inLpddr pa then 4 else (pa - 0x10000000000) / 0x1000000000 / 2

def lineBytes : Nat := 128
def lineOf (pa : Nat) : Nat := pa / 128
/-- The key of a line that a cluster cache holds under an attribute (R168): HC 0, SC 1, CP 2. -/
def lineKey (attr line : Nat) : Nat := 4 * line + attr

/-- A participant's copy of an HC line (R169). -/
def hcHeld (s : State) (who line : Nat) : Option (Moesi × List Byte) :=
  if who < 192 then
    match fget? (s.clu (cluOfIndex who)).lines (lineKey 0 line) with
    | some l => if l.st ≠ .i then some (l.st, l.data) else none
    | none => none
  else fget? s.hcx (2 * line + (who - 192))

/-- A participant's copy of an HC line set, or dropped. -/
def hcPut (s : State) (who line : Nat) (x : Option (Moesi × List Byte)) : State :=
  if who < 192 then
    s.updClu (cluOfIndex who) fun c =>
      match x with
      | some (st, data) =>
        { c with lines := fset c.lines (lineKey 0 line) { attr := .hc, st := st, td := 0, tv := 0, ts := 0, dirty := 0, data := data } }
      | none => { c with lines := fdel c.lines (lineKey 0 line) }
  else match x with
    | some v => { s with hcx := fset s.hcx (2 * line + (who - 192)) v }
    | none =>
      { s with hcx := fdel s.hcx (2 * line + (who - 192)), l2 := if who = 192 then fdel s.l2 line else s.l2 }

/-- Whether a state is dirty (R169). -/
def Moesi.dirty : Moesi → Bool
  | .m | .o => true
  | _ => false

def dirOf (s : State) (line : Nat) : DirEnt := fget { holders := [], owner := none, born := 0 } s.dirs line

/-- Data that a holder has forwarded to a request still being served at the home. -/
def forwarded (s : State) (line : Nat) : Option (List Byte) :=
  s.homeTxns.findSome? (fun t => if t.req.line = line then t.data else none)

/-- The data of a line as its home knows it: what a holder has forwarded, else an M or O holder's copy, else memory
(R170). -/
def lineData (s : State) (line : Nat) : List Byte :=
  match forwarded s line with
  | some d => d
  | none =>
    match (dirOf s line).owner with
    | some w =>
      match hcHeld s w line with
      | some (st, data) => if st.dirty then data else readBytes s.mem (128 * line) 128
      | none => readBytes s.mem (128 * line) 128
    | none => readBytes s.mem (128 * line) 128

/-- The key of the word that a read at the home takes: of a dirty holder's copy, else of memory. -/
def homeWord (s : State) (pa : Nat) : Nat :=
  match (dirOf s (lineOf pa)).owner with
  | some w => if ((hcHeld s w (lineOf pa)).map (·.1.dirty)).getD false then cacheKey w 0 pa else wordOf pa
  | none => wordOf pa

/-- Every holder written back if dirty, sent to I, and the filter's entry freed: a recall or a back-invalidation
(R170, R172, R181). -/
def recallLine (s : State) (line : Nat) : State :=
  let d := dirOf s line
  let s := s.withMem (writeBytes s.mem (128 * line) (lineData s line))
  let s := d.holders.foldl (fun s w =>
    softLeave (hcPut s w line none) w 0 line (d.owner = some w && ((hcHeld s w line).map (·.1.dirty)).getD false)) s
  { s with
    dirs := fdel s.dirs line,
    homeTxns := s.homeTxns.map (fun t => if t.req.line = line then { t with data := none } else t) }

/-- The home tracks the line: it is held, or its data is on the way. -/
def tracked (s : State) (line : Nat) : Bool := (fget? s.dirs line).isSome || (forwarded s line).isSome

/-- One byte read at its home, coherently (R170, R187); outside the populated ranges all ones (R461). -/
def cohByte (s : State) (pa : Nat) : Byte :=
  if !physOk pa then 0xFF
  else if tracked s (lineOf pa) then (lineData s (lineOf pa)).getD (pa % 128) 0
  else readByte s.mem pa

/-- Bytes read at their homes. -/
def cohRead (s : State) (pa : Nat) : Nat → List Byte
  | 0 => []
  | n + 1 => cohByte s pa :: cohRead s (pa + 1) n
def cohNat (s : State) (pa n : Nat) : Nat := fromBytes (cohRead s pa n)

/-- One byte written at its home: holders are recalled first; outside the populated ranges it is discarded (R461). -/
def cohPutByte (s : State) (pa : Nat) (b : Byte) : State :=
  if !physOk pa then s
  else
    let s := if tracked s (lineOf pa) then recallLine s (lineOf pa) else s
    s.withMem (writeByte s.mem pa b)

/-- Bytes written at their homes, one after another. -/
def cohPutBytes (s : State) (pa : Nat) : List Byte → State
  | [] => s
  | b :: bs => cohPutBytes (cohPutByte s pa b) (pa + 1) bs
/-- Bytes written at their homes. -/
def cohWrite (s : State) (pa : Nat) (bs : List Byte) : State := cohPutBytes (softClear s pa bs.length) pa bs
def cohPutNat (s : State) (pa n v : Nat) : State := cohWrite s pa (toBytes n v)

/-! ### Interrupt sources (Out.irq) -/

def irqClusterHalt : Nat := 1
def irqAttr : Nat := 2
def irqEcc : Nat := 3
def irqTsync : Nat := 4
def irqPeer : Nat := 5
/-- Switch n reporting its links down is source 64 + n. -/
def irqSwitch : Nat := 64

/-! ### Writes to lines of two attributes (R181) -/

/-- A conflict counted at the line's home. -/
def countConflict (s : State) (line : Nat) : State :=
  let o := offATTRCONF (homeOf (128 * line))
  let c := regGet s o
  let s := regPut s o (putFld c 31 0 (min (fld c 31 0 + 1) (2 ^ 32 - 1)))
  let s := regPut s (offATTRLAST (homeOf (128 * line))) (putFld 0#64 55 7 line)
  if c.getLsbD 32 then (regFld s o 33 33 1).send (.irq irqAttr) else s

/-- A line that the home's filter tracks is recalled and the conflict counted before an SC write or a CP writeback. -/
def untrack (s : State) (line : Nat) : State :=
  if tracked s line then countConflict (recallLine s line) line else s

/-- Bytes of one line written at its home for an SC or CP page; a byte that is none is not written. -/
def homePut (s : State) (pa : Nat) (bs : List (Option Byte)) : State :=
  if !physOk pa then s
  else
    let s := untrack s (lineOf pa)
    let s := if bs.all (·.isSome) then softClear s pa bs.length else s
    s.withMem (putOpt s.mem pa bs)
where
  putOpt (m : Memory) (a : Nat) : List (Option Byte) → Memory
    | [] => m
    | none :: bs => putOpt m (a + 1) bs
    | some b :: bs => putOpt (writeByte m a b) (a + 1) bs

/-- The dirty bytes of a CP line written to memory (R180). -/
def cpWriteBack (s : State) (line : Nat) (l : CLine) : State :=
  if l.dirty = 0 then s
  else homePut s (128 * line) ((List.range 128).map (fun i => if bitN l.dirty i then l.data[i]? else none))

/-! ### Lines that enter and leave a cache (R15, R168, R170, R180) -/

/-- A holder's copy of an HC line leaves its cache, written back where it is dirty (R170). -/
def dropHc (s : State) (who line : Nat) : State :=
  match hcHeld s who line with
  | none => s
  | some (st, data) =>
    let s := if st.dirty then s.withMem (writeBytes s.mem (128 * line) data) else s
    let s := softLeave (hcPut s who line none) who 0 line st.dirty
    let d := dirOf s line
    let holders := d.holders.filter (· != who)
    if holders.isEmpty then { s with dirs := fdel s.dirs line }
    else
      let e : DirEnt := { d with holders := holders, owner := if d.owner = some who then none else d.owner }
      { s with dirs := fset s.dirs line e }

/-- A line leaves a participant's cache: `key` is the line of the system cache or the host, or a cluster's line key. -/
def dropLine (s : State) (who key : Nat) : State :=
  if 192 ≤ who then dropHc s who key
  else match fget? (s.clu (cluOfIndex who)).lines key with
    | some l =>
      if l.attr = .hc then dropHc s who (key / 4)
      else
        let s := if l.attr = .cp then cpWriteBack s (key / 4) l else s
        let s := softLeave s who (key % 4) (key / 4) (l.attr = .cp && l.dirty ≠ 0)
        s.updClu (cluOfIndex who) (fun c => { c with
          lines := fdel c.lines key, cpVis := if l.attr = .cp ∧ l.dirty ≠ 0 then ccnt s + 1 else c.cpVis })
    | none => s

/-- The 128-byte lines that a cluster cache of 512 KiB and the system cache of 32 MiB hold (R15). -/
def cluLines : Nat := 4096
def sysLines : Nat := 262144

/-- Room for a line of a participant: a full cache drops a line of the hardware's own choice, a free value
(notes/assumptions/87.md). The host's capacity is its own. -/
def roomIn (s : State) (who key : Nat) : State :=
  let keys :=
    if who < 192 then (s.clu (cluOfIndex who)).lines.map (·.1)
    else (s.hcx.filter (fun e => who = 192 && e.1 % 2 = 0)).map (·.1 / 2)
  if keys.contains key || keys.length < (if who < 192 then cluLines else sysLines) then s
  else
    let (f, s) := s.free
    dropLine s who (keys.getD (f.toNat % keys.length) 0)

/-- The data of a line reaches the strands of a cluster that are parked for it (R171). -/
def deliverLine (s : State) (clu line : Nat) (data : List Byte) : State :=
  { s with strands := s.strands.map (fun e =>
      if cluOfCore (e.1 / 8) = clu ∧ e.2.status = .parked ∧ fget? e.2.plines line = some none then
        (e.1, { e.2 with plines := fset e.2.plines line (some data) })
      else e) }

/-! ### Generations (R176 to R179) -/

/-- The generation count of an instance incremented. -/
def genInc (s : State) (i : Nat) : State :=
  let x := s.scope i
  { s with scopes := fset s.scopes i { x with gen := (x.gen + 1) % 2 ^ 32 } }
/-- The release of a hardware unit at .sys: the device and system instances (R179). -/
def unitRelease (s : State) : State := genInc (genInc s 4) 5

end Sys2Proof.Machine
end

