-- ==== Sys2Proof/Machine/Xlate.lean ====
section
/-!
DEFINITION. Machine/Xlate.lean: tile-side page-table walks, their checks and the cluster TLB (07 R145 to R151).
-/
namespace Sys2Proof.Machine

/-! ### Fault codes (R271) -/

def cIOPC : BitVec 8 := 0x01
def cREGRANGE : BitVec 8 := 0x02
def cALIGN : BitVec 8 := 0x03
def cSPACE : BitVec 8 := 0x04
def cFOREIGN : BitVec 8 := 0x05
def cBOUNDS : BitVec 8 := 0x06
def cGPF_NP : BitVec 8 := 0x07
def cGPF_PERM : BitVec 8 := 0x08
def cGROUPMASK : BitVec 8 := 0x09
def cHANDLE_STALE : BitVec 8 := 0x0A
def cHANDLE_BOUNDS : BitVec 8 := 0x0B
def cFE_TIMEOUT : BitVec 8 := 0x0C
def cIFETCH_NP : BitVec 8 := 0x0D
def cIFETCH_NX : BitVec 8 := 0x0E
def cOUTLIER_FULL : BitVec 8 := 0x10
def cLZ_OVERRUN : BitVec 8 := 0x11
def cPAIR_TIMEOUT : BitVec 8 := 0x12
def cPAIR_ABORT : BitVec 8 := 0x13
def cRQ_STATE : BitVec 8 := 0x14
def cFUT_EXHAUSTED : BitVec 8 := 0x15
def cENGINE : BitVec 8 := 0x16
def cPRIV : BitVec 8 := 0x17
def cBKPT : BitVec 8 := 0x18
def cTRAP : BitVec 8 := 0x19
def cECC : BitVec 8 := 0x1A
def cSIDELOG_ORDER : BitVec 8 := 0x1B
def cATTR : BitVec 8 := 0x1D

/-- ACCESS of the info word (R150). -/
def AccKind.code : AccKind → BitVec 2
  | .load | .atomic => 0
  | .store => 1
  | .fetch => 2
  | .xlate => 3
/-- The permission an access needs: bit 0 R, bit 1 W, bit 2 X (R148, R158). -/
def AccKind.perm : AccKind → Nat
  | .store | .atomic => 1
  | .fetch => 2
  | _ => 0
/-- Whether an access writes (R148). -/
def AccKind.writes : AccKind → Bool
  | .store | .atomic => true
  | _ => false

/-- The info word of a translation fault (R150). -/
def gpfInfo (log : Bool) (acc : AccKind) (va : Nat) : Word :=
  w64 (b2n log * 2 ^ 59 + acc.code.toNat * 2 ^ 57 + va % 2 ^ 57)

/-- A page's bytes by its SIZE code (R158). -/
def pageBytes (size : Nat) : Nat := if size = 0 then 0x10000 else if size = 1 then 0x200000 else 0x40000000

/-! ### The walk -/

/-- What a walk finds: a leaf PTE with its place, level and companion word; a migrating mapping; or none. -/
inductive Leaf where
  | none
  | migrating
  | badAttr
  | leaf (pteAddr pte comp level : Nat)
  deriving DecidableEq, Repr

/-- The Sv57 walk from a page-table page down to a leaf, over the 16-byte pairs of R145. `lvl` counts levels left;
a pair outside the populated ranges is an ATTR failure (R461). Of the 16 PTEs of a NAPOT range that differ it uses the one that
the VA indexes, which R147 leaves open (DESIGN CHOICE, notes/assumptions/23.md). -/
def walkFrom (s : State) (va : Nat) : Nat → Nat → Leaf
  | _, 0 => .none
  | page, lvl + 1 =>
    let pteAddr := page + 8 * bitsN va (20 + 9 * lvl) (12 + 9 * lvl)
    if !(physOk pteAddr && physOk (pteAddr + 4096)) then .badAttr
    else
      let pte := cohNat s pteAddr 8
      let comp := cohNat s (pteAddr + 4096) 8
      if !bitN pte 0 then (if bitN pte 8 then .migrating else .none)
      else if bitsN pte 3 1 = 0 then walkFrom s va (bitsN pte 53 10 * 4096) lvl
      else .leaf pteAddr pte comp lvl

/-- The words that such a walk reads, where a read at their homes takes them. -/
def walkKeysFrom (s : State) (va : Nat) : Nat → Nat → List Nat
  | _, 0 => []
  | page, lvl + 1 =>
    let a := page + 8 * bitsN va (20 + 9 * lvl) (12 + 9 * lvl)
    if !(physOk a && physOk (a + 4096)) then []
    else
      let pte := cohNat s a 8
      homeWord s a :: homeWord s (a + 4096) ::
        (if bitN pte 0 && bitsN pte 3 1 = 0 then walkKeysFrom s va (bitsN pte 53 10 * 4096) lvl else [])
def walkKeys (s : State) (tenant va : Nat) : List Nat :=
  if tset s setTROOT tenant = 0 then [] else walkKeysFrom s va (tset s setTROOT tenant) 5

/-- A tenant's walk of a VA: a tenant without a root has no valid leaf (R299). -/
def walk (s : State) (tenant va : Nat) : Leaf :=
  let root := tset s setTROOT tenant
  if root = 0 then .none else walkFrom s va root 5

/-- The result of a tile-side translation (R149). -/
inductive Tr where
  | ok (e : TlbEntry)
  | migrating
  | bad (code : BitVec 8)
  deriving DecidableEq, Repr

/-- The page of a leaf, if the tile side admits its kind (R147): a 64 KiB NAPOT, 2 MiB or 1,024 MiB page, N being ignored in
the larger two. A leaf with W and not R is of no kind (notes/assumptions/23.md). -/
def leafPage (pte level : Nat) : Option (Nat × Nat) :=
  let ppn := bitsN pte 53 10
  if bitN pte 2 && !bitN pte 1 then none
  else if level = 0 then
    if bitN pte 63 && ppn % 16 == 8 then some (0, ppn / 16 * 16 * 4096) else none
  else if level = 1 then (if ppn % 512 = 0 then some (1, ppn * 4096) else none)
  else if level = 2 then (if ppn % 262144 = 0 then some (2, ppn * 4096) else none)
  else none

/-- The checks of R149, orders 3 to 5, on a translation. -/
def checkEntry (e : TlbEntry) (acc : AccKind) (clu : Nat) : Option (BitVec 8) :=
  if acc ≠ .xlate ∧ !(e.perm.getLsbD (acc.perm)) then
    some (if acc = .fetch then cIFETCH_NX else cGPF_PERM)
  else if !(e.groups.getLsbD (cluGroup clu)) then some cGROUPMASK
  else none

/-- The translation that a leaf gives to a walk for an access. -/
def leafEntry (tenant va pte comp size pa : Nat) (acc : AccKind) : TlbEntry :=
  { tenant := tenant, va := va % 2 ^ 57 / pageBytes size * pageBytes size, size := size, pa := pa,
    perm := BitVec.ofNat 3 (bitsN pte 3 1), attr := BitVec.ofNat 2 (bitsN comp 49 48),
    groups := BitVec.ofNat 48 comp, pin := bitN comp 50,
    d := acc.writes || (acc = .xlate && bitN pte 2) }

/-- The translation a walk makes and the checks of R149 in order; the access is made by a strand or engine of a cluster. -/
def xlateWalk (s : State) (tenant va : Nat) (acc : AccKind) (clu : Nat) : Tr × Option Nat :=
  match walk s tenant va with
  | .none => (.bad (if acc = .fetch then cIFETCH_NP else cGPF_NP), none)
  | .migrating => (.migrating, none)
  | .badAttr => (.bad cATTR, none)
  | .leaf pteAddr pte comp level =>
    if acc = .fetch && !bitN pte 3 then (.bad cIFETCH_NX, none)
    else match leafPage pte level with
    | none => (.bad cGPF_PERM, none)
    | some (size, pa) =>
      let e := leafEntry tenant va pte comp size pa acc
      if !bitN pte 4 then (.bad cGPF_PERM, none)
      else match checkEntry e acc clu with
        | some c => (.bad c, none)
        | none =>
          if bitsN comp 49 48 = 3 || bitsN comp 63 51 ≠ 0 || !physOk pa then (.bad cATTR, none)
          else (.ok e, some pteAddr)

/-- A and, for a write or an XLATE of a writable page, D set in the leaf by one update at its home (R148). -/
def setAD (s : State) (pteAddr : Nat) (d : Bool) : State :=
  let pte := cohNat s pteAddr 8
  cohPutNat s pteAddr 8 (pte ||| 0x40 ||| (if d then 0x80 else 0))

/-- A walk that finds a leaf sets its A and D bits. -/
def walkAD (s : State) (tenant va : Nat) (acc : AccKind) (clu : Nat) : Tr × State :=
  match xlateWalk s tenant va acc clu with
  | (.ok e, some pteAddr) => (.ok e, setAD s pteAddr e.d)
  | (t, _) => (t, s)

/-! ### The TLB (R151) -/

def TlbEntry.hits (e : TlbEntry) (tenant va : Nat) : Bool :=
  e.tenant == tenant && e.va == va % 2 ^ 57 / pageBytes e.size * pageBytes e.size

/-- The physical address of a VA in a translated page. -/
def TlbEntry.phys (e : TlbEntry) (va : Nat) : Nat := e.pa + va % pageBytes e.size

/-- A TLB lookup: a store needs an entry whose walk set the D bit (R148). -/
def tlbFind (c : Cluster) (tenant va : Nat) (acc : AccKind) : Option TlbEntry :=
  c.tlb.find? (fun e => e.hits tenant va && (!acc.writes || e.d))

/-- A TLB fill: the new entry replaces one of the same page; beyond 2,048 entries the oldest goes. -/
def tlbFill (c : Cluster) (e : TlbEntry) : Cluster :=
  { c with tlb := (e :: c.tlb.filter (fun x => !(x.tenant == e.tenant && x.va == e.va && x.size == e.size))).take 2048 }

/-- A handle-cache fill (R159), as for the TLB. -/
def hcacheFill (c : Cluster) (e : TlbEntry) : Cluster :=
  { c with hcache := (e :: c.hcache.filter (fun x => !(x.tenant == e.tenant && x.va == e.va))).take 512 }

/-- The leaf that a unit's own walk for a tenant finds: no group check is made. -/
def unitLeaf (s : State) (tenant va : Nat) (acc : AccKind) : Option (TlbEntry × Nat) :=
  match walk s tenant va with
  | .leaf pteAddr pte comp level =>
    match leafPage pte level with
    | some (size, pa) =>
      if bitN pte 4 && bitN pte (1 + acc.perm) && bitsN comp 49 48 ≠ 3 && bitsN comp 63 51 = 0 && physOk pa then
        some (leafEntry tenant va pte comp size pa acc, pteAddr)
      else none
    | none => none
  | _ => none

/-- A unit's own translation of a VA for a tenant: it walks afresh and sets A and D. -/
def unitXlate (s : State) (tenant va : Nat) (acc : AccKind) : Option Nat × State :=
  match unitLeaf s tenant va acc with
  | some (e, pteAddr) => (some (e.phys va), setAD s pteAddr acc.writes)
  | none => (none, s)

/-- Bytes read through a tenant's space by a unit of the agent die; none where a byte cannot be translated. -/
def unitRead (s : State) (tenant va : Nat) : Nat → Option (List Byte)
  | 0 => some []
  | n + 1 =>
    match (unitXlate s tenant va .load).1, unitRead s tenant (va + 1) n with
    | some pa, some bs => some (cohByte s pa :: bs)
    | _, _ => none

/-- Bytes written through a tenant's space by a unit of the agent die; none where a byte cannot be translated. -/
def unitWrite (s : State) (tenant va : Nat) : List Byte → Option State
  | [] => some s
  | b :: bs =>
    match unitXlate s tenant va .store with
    | (some pa, s') => unitWrite (cohPutByte s' pa b) tenant (va + 1) bs
    | (none, _) => none

end Sys2Proof.Machine
end

