-- ==== Sys2Proof/Machine/Tasks.lean ====
section
/-!
DEFINITION. Machine/Tasks.lean: completion rings (05 R110, 14 R295, R298), fault packets as notices (13 R272, R274,
R275), gangs (12 R266), and the end of a task with its launch's outcome (02 R38, R39; 16 R363).
-/
namespace Sys2Proof.Machine

/-! ### Completion rings -/

def cqSize (cfg : Word) : Nat := 2 ^ (4 + min 12 (fld cfg 51 48))

/-- The MSI-X vector of a ring, on its owning function: 0 for PF0, tenant + 1 for a VF (R295). -/
def cqVector (s : State) (cfg : Word) : State :=
  if cfg.getLsbD 62 then
    let sys := cfg.getLsbD 61
    let vec := fld cfg 37 32
    if sys then s.send (.msi 0 vec)
    else if vec ≤ 30 ∧ ¬ (regGet s offTRSTBUSY).getLsbD (fld cfg 57 52) then s.send (.msi (fld cfg 57 52 + 1) vec) else s
  else s

/-- A record written to a ring now (R110): the entry, a release at .sys, then TAIL by one. -/
def cqStore (s : State) (ring : Nat) (data : List Byte) : Option State :=
  let cfg := regGet s (offCQ ring + 8)
  let ptr := regGet s (offCQ ring + 16)
  let tail := fld ptr 63 32
  let used := (tail + 2 ^ 32 - fld ptr 31 0) % 2 ^ 32
  if used < cqSize cfg then
    match unitWrite s (fld cfg 57 52) ((regGet s (offCQ ring)).toNat + 32 * (tail % cqSize cfg)) data with
    | some s =>
      let s := unitRelease s
      some (cqVector (regFld s (offCQ ring + 16) 63 32 (tail + 1)) cfg)
    | none => none
  else none

/-- Whether a ring still takes records for a tenant and SYS bit (R296). -/
def cqOwned (s : State) (ring tenant : Nat) (sys : Bool) : Bool :=
  let cfg := regGet s (offCQ ring + 8)
  cfg.getLsbD 63 && cfg.getLsbD 61 == sys && fld cfg 57 52 == tenant

/-- A record for a ring: discarded where the ring's owner does not match (R296), deferred behind earlier ones or while
the ring is full (R110). The flag says that it has been written or discarded. -/
def cqPut (s : State) (ring tenant : Nat) (sys : Bool) (data : List Byte) (req : Option Nat) : State × Bool :=
  let wait : State :=
    { s with deferred := s.deferred ++ [{ ring := ring, data := data, tenant := tenant, sys := sys, req := req }] }
  if !cqOwned s ring tenant sys then (s, true)
  else if s.deferred.any (·.ring == ring) then (wait, false)
  else match cqStore s ring data with
    | some s' => (s', true)
    | none => (wait, false)

def cqWrite (s : State) (ring tenant : Nat) (sys : Bool) (data : List Byte) : State := (cqPut s ring tenant sys data none).1

/-- A completion record's 32 bytes from its four words (R60). -/
def recBytes (a b c d : Nat) : List Byte := toBytes 8 a ++ toBytes 8 b ++ toBytes 8 c ++ toBytes 8 d

/-! ### Fault packets (R272 to R275) -/

def frEnabled (s : State) (clu n : Nat) : Bool := (regGet s (offFRCFG clu n)).getLsbD 63
def frSize (s : State) (clu n : Nat) : Nat :=
  let l := fld (regGet s (offFRCFG clu n)) 3 0
  2 ^ (if 4 ≤ l ∧ l ≤ 12 then l else 4)
def frHead (s : State) (clu n : Nat) : Nat := fld (regGet s (offFRPTR clu n)) 31 0
def frTail (s : State) (clu n : Nat) : Nat := fld (regGet s (offFRPTR clu n)) 63 32
def frUsed (s : State) (clu n : Nat) : Nat := (frTail s clu n + 2 ^ 32 - frHead s clu n) % 2 ^ 32
def frBase (s : State) (clu n : Nat) : Nat := fld (regGet s (offFRBASE clu n)) 55 12 * 4096
def curLvl (s : State) (clu : Nat) : Nat := fld (regGet s (offFLTSTAT clu)) 1 0

/-- The first word of a packet as a level receives it. -/
def Packet.head (p : Packet) (level : Nat) : Nat :=
  p.code.toNat + b2n p.frozen * 2 ^ 8 + b2n p.async * 2 ^ 9 + b2n (!p.frozen) * 2 ^ 10 + b2n p.cwide * 2 ^ 11 +
  level * 2 ^ 12 + p.core * 2 ^ 16 + p.strand * 2 ^ 28 + p.tenant * 2 ^ 32 + p.aux.toNat * 2 ^ 40

def Packet.bytes (p : Packet) (level : Nat) : List Byte :=
  recBytes (p.head level) p.pc.toNat p.info.toNat p.ccnt.toNat

/-- The packet that 32 bytes of a ring hold. -/
def packetOf (bs : List Byte) : Packet :=
  let h := fromBytes (bs.take 8)
  { code := BitVec.ofNat 8 h, frozen := bitN h 8, async := bitN h 9, cwide := bitN h 11, core := bitsN h 27 16,
    strand := bitsN h 30 28, tenant := bitsN h 37 32, aux := BitVec.ofNat 8 (bitsN h 47 40),
    pc := w64 (fromBytes (slice bs 8 8)), info := w64 (fromBytes (slice bs 16 8)), ccnt := w64 (fromBytes (slice bs 24 8)) }

/-- A packet written to a level's ring, with the MSI to its hart (R275). -/
def frStore (s : State) (clu n : Nat) (p : Packet) : State :=
  let tail := frTail s clu n
  let s := cohWrite s (frBase s clu n + 32 * (tail % frSize s clu n)) (p.bytes n)
  let s := unitRelease s
  let s := regFld s (offFRPTR clu n) 63 32 (tail + 1)
  let s := if p.frozen then s.updClu clu (fun c => { c with freezes := c.freezes ++ [(n, tail, s.cycle)] }) else s
  let cfg := regGet s (offFRCFG clu n)
  s.send (.imsic (fld cfg 52 48) (fld cfg 42 32))

/-- Whether a notice is dropped, not held, when it finds the ring full: LZ_OVERRUN and halt notices (R275). -/
def Packet.droppable (p : Packet) : Bool := p.code == cLZ_OVERRUN || p.code == cBKPT

/-- A notice that no ring can take now: dropped and counted, or held by its unit (R275). -/
def noticeFull (s : State) (clu : Nat) (p : Packet) : State :=
  if p.droppable then
    let d := fld (regGet s (offFLTSTAT clu)) 63 32
    regFld s (offFLTSTAT clu) 63 32 (min (d + 1) (2 ^ 32 - 1))
  else s.updClu clu (fun c => { c with held := c.held ++ [p] })

/-- A level's unconsumed packets, in order. -/
def frPending (s : State) (clu n : Nat) : List Packet :=
  (List.range (min (frUsed s clu n) (frSize s clu n))).map fun j =>
    packetOf (cohRead s (frBase s clu n + 32 * ((frHead s clu n + j) % frSize s clu n)) 32)

/-- Packets written to a level until a freezing packet finds its ring full; the packets not written are answered. -/
def frFill (s : State) (clu n : Nat) : List Packet → State × List Packet
  | [] => (s, [])
  | p :: ps =>
    if frUsed s clu n < frSize s clu n then frFill (frStore s clu n p) clu n ps
    else if p.frozen then (s, p :: ps)
    else frFill (noticeFull s clu p) clu n ps

/-- No level is left for packets: the notices among them that no ring has taken yet are dropped or held, and the flag says
that a freezing packet found every level declining (R275, R276). -/
def frStuck (s : State) (clu : Nat) (new ps : List Packet) : State × Bool :=
  (ps.foldl (fun s p => if p.frozen || !new.contains p then s else noticeFull s clu p) s, ps.any (·.frozen))

/-- Packets moved to the first of the given levels that takes them: a level that declines passes what it has not consumed to
the next enabled one, and keeps it where there is none (R275). `new` are the packets that no ring has taken yet. -/
def frMove (s : State) (clu : Nat) (new : List Packet) : List Nat → List Packet → State × Bool
  | [], ps => frStuck s clu new ps
  | n :: rest, ps =>
    let next := fun (s : State) (ps : List Packet) =>
      if rest.any (frEnabled s clu) then
        let all := frPending s clu n ++ ps
        frMove (s.updClu clu (fun c => { c with freezes := c.freezes.filter (fun f => f.1 != n) })) clu new rest all
      else frStuck s clu new ps
    if frEnabled s clu n then
      match frFill (regFld s (offFLTSTAT clu) 1 0 n) clu n ps with
      | (s, []) => (s, false)
      | (s, left) => next s left
    else next s ps

/-- New packets delivered to the first of the given levels that takes them (R275). -/
def frDeliver (s : State) (clu : Nat) (ls : List Nat) (ps : List Packet) : State × Bool := frMove s clu ps ls ps

/-- The levels from CURLVL up. -/
def frLevels (s : State) (clu : Nat) : List Nat := (List.range 4).drop (curLvl s clu)

/-- Held notices are written, oldest first, as the current level finds room. -/
def heldFlush : Nat → State → Nat → State
  | 0, s, _ => s
  | n + 1, s, clu =>
    match (s.clu clu).held, (frLevels s clu).find? (frEnabled s clu) with
    | p :: rest, some l =>
      if frUsed s clu l < frSize s clu l then heldFlush n (frStore (s.updClu clu (fun c => { c with held := rest })) clu l p) clu
      else s
    | _, _ => s

/-- The level that takes packets may have changed, or have been emptied: its room goes to the held notices (R275). -/
def frRoom (s : State) (clu : Nat) : State := heldFlush (s.clu clu).held.length s clu

/-- New packets delivered; a level that took over from a declining one takes the held notices too (R275). -/
def frSend (s : State) (clu : Nat) (ps : List Packet) : State × Bool :=
  let r := frDeliver s clu (frLevels s clu) ps
  (if curLvl r.1 clu = curLvl s clu then r.1 else frRoom r.1 clu, r.2)

/-- A notice sent to a cluster's supervisor: it never makes the cluster halt. -/
def notice (s : State) (clu : Nat) (p : Packet) : State :=
  if (s.clu clu).held.isEmpty || p.droppable then (frSend s clu [p]).1
  else s.updClu clu (fun c => { c with held := c.held ++ [p] })

/-- A unit's notice about a core still waits for room in a ring (R275). -/
def stillHeld (s : State) (clu : Nat) (r : Raiser) (core : Nat) : Bool := (s.clu clu).held.any (fun p => p.src == r && p.core == core)

/-- A notice about a strand. -/
def noticeOf (s : State) (core slot : Nat) (code : BitVec 8) (async : Bool) (aux : BitVec 8) (pc info : Word) : Packet :=
  { code := code, frozen := false, async := async, cwide := false, core := core, strand := slot,
    tenant := ((s.strand core slot).task.map (·.tenant)).getD 0, aux := aux, pc := pc, info := info,
    ccnt := w64 (ccnt s) }

/-! ### Launches (R29, R38, R39) -/

def launchKey (tenant id : Nat) : Nat := tenant * 2 ^ 32 + id
def Launch.gx (l : Launch) : Nat := fld (l.words.getD 1 0) 15 0
def Launch.gy (l : Launch) : Nat := fld (l.words.getD 1 0) 31 16
def Launch.gz (l : Launch) : Nat := fld (l.words.getD 1 0) 47 32
def Launch.tasks (l : Launch) : Nat := l.gx * l.gy * l.gz
def Launch.flag (l : Launch) (i : Nat) : Bool := (l.words.getD 1 0).getLsbD (48 + i)
def Launch.ringed (l : Launch) : Bool := l.flag 0
def Launch.paired (l : Launch) : Bool := l.flag 1
def Launch.mxa (l : Launch) : Bool := l.flag 2 || l.flag 0
def Launch.vregs (l : Launch) : Nat := roundUp (fld (l.words.getD 3 0) 9 0) 8
def Launch.priv (l : Launch) : Nat := fld (l.words.getD 3 0) 26 16 * 256
def Launch.scratch (l : Launch) : Nat := fld (l.words.getD 3 0) 42 32 * 256
def Launch.shared (l : Launch) : Nat := fld (l.words.getD 3 0) 58 48 * 4096
def Launch.home (l : Launch) : Nat := fld (l.words.getD 7 0) 35 34
def Launch.deps (l : Launch) : List Nat :=
  [fld (l.words.getD 4 0) 31 0, fld (l.words.getD 4 0) 63 32, fld (l.words.getD 5 0) 31 0, fld (l.words.getD 5 0) 63 32]

def State.launch (s : State) (k : Nat) : Option Launch := fget? s.launches k
def State.setLaunch (s : State) (k : Nat) (l : Launch) : State := { s with launches := fset s.launches k l }

/-- Whether a pool entry has tasks that the arbiter may still place (R44). -/
def poolEligible (s : State) (e : PoolEnt) : Bool :=
  match s.launch e.launch with
  | some l => l.outcome == 0 && l.placed < l.tasks && !l.resident
  | none => false

/-- The tenant of a pool entry. -/
def entTenant (s : State) (e : PoolEnt) : Nat := ((s.launch e.launch).map (·.tenant)).getD 0

/-- Entries marked as heads: the first eligible entry of its tenant at its level is its tenant's head, and its waiting count
starts when it becomes that (R44). -/
def markHeads (s : State) : List (Nat × Nat) → List PoolEnt → List PoolEnt
  | _, [] => []
  | seen, e :: es =>
    if poolEligible s e then
      let k := (entTenant s e, e.level)
      if seen.contains k then { e with head := false } :: markHeads s seen es
      else { e with head := true, since := if e.head then e.since else s.cycle } :: markHeads s (k :: seen) es
    else { e with head := false } :: markHeads s seen es

/-- A tenant has an eligible entry at a level of a pool. -/
def Pool.serves (s : State) (p : Pool) (level tenant : Nat) : Bool :=
  p.ents.any (fun e => e.level == level && poolEligible s e && entTenant s e == tenant)

/-- The level of a launch's entry in a pool. -/
def Pool.level (p : Pool) (k : Nat) : Nat := ((p.ents.find? (fun e => e.launch == k)).map (·.level)).getD 0

/-- A pool brought up to date: its heads; a deficit is zero where its tenant has no eligible entry at the level (R44); a
reservation ends when a launch of higher level than its head becomes head (R45). -/
def Pool.refresh (s : State) (p : Pool) : Pool :=
  let ents := markHeads s [] p.ents
  let fresh := (p.ents.zip ents).filter (fun e => e.2.head && !e.1.head)
  { p with
    ents := ents, deficit := p.deficit.filter (fun d => p.serves s (d.1 / 64) (d.1 % 64)),
    res := p.res.filter (fun r => !(fresh.any (fun e => p.level r.launch < e.2.level))) }

/-- Every pool brought up to date. -/
def poolHeads (s : State) : State := { s with pools := s.pools.map (fun d => (d.1, d.2.refresh s)) }

/-- A launch's outcome fixed, once (R39): its unplaced tasks are discarded, its pool and spill entries leave where none
of its tasks runs, and a host launch's record of KIND 0x05 is written (R298). -/
def fixOutcome (s : State) (k o : Nat) : State :=
  match s.launch k with
  | none => s
  | some l =>
    if l.outcome ≠ 0 then s
    else
      let s := s.setLaunch k { l with outcome := o, spill := none }
      let s := { s with spillq := fset s.spillq l.tenant ((fget [] s.spillq l.tenant).filter (· != k)) }
      let s := { s with pools := s.pools.map (fun d =>
        (d.1, { d.2 with
          ents := if l.live = 0 then d.2.ents.filter (·.launch != k) else d.2.ents,
          res := d.2.res.filter (·.launch != k) })) }
      let s := poolHeads s
      match l.host with
      | none => s
      | some (ring, sys, hdr) =>
        if o = 4 then s
        else cqWrite s ring l.tenant sys (recBytes (0x05 + (0x2F + o) * 256) hdr.toNat l.id (ccnt s))

/-- What the end of one of its tasks does to a launch: an exit counts as a trigger (R38), the last exit ends it
SUCCEEDED, and a pool entry goes with its last running task (R40). -/
def launchTaskEnd (s : State) (k : Nat) (trigd killed : Bool) : State :=
  match s.launch k with
  | none => s
  | some l =>
    let l1 := { l with live := l.live - 1, trigd := if trigd || killed then l.trigd else l.trigd + 1 }
    let l2 := { l1 with met := l1.met || (l1.outcome == 0 && l1.placed ≥ l1.tasks && l1.trigd ≥ l1.tasks) }
    let s := s.setLaunch k l2
    if killed then fixOutcome s k 2
    else if l2.outcome = 0 ∧ l2.placed ≥ l2.tasks ∧ l2.live = 0 then fixOutcome s k 1
    else s

/-- Pool entries whose outcome is fixed and whose tasks have all ended leave their pools (R40). -/
def poolSweep (s : State) : State :=
  poolHeads { s with pools := s.pools.map (fun d =>
      (d.1, { d.2 with ents := d.2.ents.filter (fun e =>
        match s.launch e.launch with
        | some l => !(l.outcome != 0 && l.live == 0)
        | none => false) })) }

/-! ### Gangs (R13, R36, R266) -/

/-- The cores of the ring or pair that a core belongs to. -/
def ringCores (core : Nat) (pair : Bool) : List Nat :=
  let clu := cluOfCore core
  let half := core % 16 / 8 * 8
  if pair then
    let c0 := clu / 2 * 2
    (List.range 8).map (fun i => coreOf c0 (half + i)) ++ (List.range 8).map (fun i => coreOf (c0 + 1) (half + i))
  else (List.range 8).map (fun i => coreOf clu (half + i))

/-- The strand of a core whose task owns its array (R35). -/
def arrayOwner (s : State) (core : Nat) : Option Nat :=
  (List.range 8).find? (fun n => ((s.strand core n).task.map (·.mxa)).getD false)

/-- A command that waits for the ring: MRING, or MMA with ROT. -/
def MCmd.rings (m : MCmd) : Bool := fld m.word 63 56 == 0x85 || (fld m.word 63 56 == 0x82 && m.word.getLsbD 55)

/-- The accumulators and STEPS as their owner finds them: what an earlier owner left reads as nothing (R252, R363;
notes/assumptions/94.md). -/
def MArray.freshAcc (a : MArray) : MArray := if a.staleAcc then { a with acc := [], steps := 0, staleAcc := false } else a

/-- The latch as its owner finds it. -/
def MArray.freshLatch (a : MArray) : MArray :=
  if a.staleLatch then { a with latch := .init, loaded := false, incoming := none, staleLatch := false } else a

/-- An array as its owner finds it. -/
def MArray.fresh (a : MArray) : MArray := a.freshAcc.freshLatch

/-- The array as it stands, in the terms of the shadow state (R390). -/
def MArray.snap (a : MArray) : Shadow :=
  let a := a.fresh
  { loaded := a.loaded, lty := a.latch.lty, used := a.latch.used, scale := a.latch.scaleOk, ring := a.ring != 0 }

/-- The code of a type (R256). -/
def tyCode (ty : Ty) : Nat :=
  match ty with
  | .fp32 => 0 | .bf16 => 1 | .fp16 => 2 | .e4m3 => 3 | .e5m2 => 4 | .fp4 => 5 | .cir8 => 6 | .int8 => 7
  | .uint8 => 8 | .int4 => 9 | .int32 => 10 | .uint32 => 11 | .int64 => 12 | .ue8m0 => 13

/-- Bytes of latch that a memory form loads (R258). -/
def mlbBytes : MlbForm → Nat
  | .x2 _ => 8192
  | .x4 _ => 16384
  | _ => 4096

/-- The used size after `mlb.v` of row n (R258). -/
def usedAfter (used n : Nat) : Nat := max used (4096 * ((n + 1 + 63) / 64))

/-- What a matrix command leaves in the shadow state (R390). -/
def MCmd.leaves (m : MCmd) (sh : Shadow) : Shadow :=
  match decodeTile m.word with
  | .ok (.mlb _ ty (.vec _ n)) => { sh with loaded := true, lty := BitVec.ofNat 4 (tyCode ty), used := usedAfter sh.used n.toNat }
  | .ok (.mlb _ ty f) =>
    { sh with loaded := true, lty := BitVec.ofNat 4 (tyCode ty), used := mlbBytes f, scale := match f with | .mx _ _ => true | _ => false }
  | .ok (.mring _) => { sh with ring := true }
  | _ => sh

/-- The shadow state made anew, of the array as it stands and the commands that it still has (R390). -/
def MArray.reshadow (a : MArray) : MArray := { a with shadow := (a.run.toList ++ a.queue).foldl (fun sh m => m.leaves sh) a.snap }

/-- The step number that id.step reads (R48). -/
def stepId (s : State) (x : Strand) : Nat := if (x.task.map (·.resident)).getD false then s.front.step else 0

/-- A strand's task, if it is one of a launch's gang. -/
def Strand.gangTask (x : Strand) (k : Nat) : Option Task := x.task.filter (fun t => t.launch == k && t.ring)

/-- A core's part of a gang that is in its slot, and one that a Squall has saved: the slot and the task. -/
def gangLive (s : State) (k core : Nat) : Option (Nat × Task) :=
  (List.range 8).findSome? (fun n => ((s.strand core n).gangTask k).map (fun t => (n, t)))
def gangSaved (s : State) (k core : Nat) : Option (Nat × Task) :=
  (s.core core).saved.tasks.findSome? (fun e => (e.2.gangTask k).map (fun t => (e.1, t)))

/-- A core's part of a gang, live or saved by a Squall. -/
def gangTask (s : State) (k core : Nat) : Option (Nat × Task) := (gangLive s k core).or (gangSaved s k core)

/-- The array of a core's part of a gang: the core's own, or the saved one. -/
def gangArr (s : State) (k core : Nat) : MArray :=
  let x := s.core core
  if (gangLive s k core).isSome then x.arr else if (gangSaved s k core).isSome then x.saved.arr.getD x.arr else x.arr

/-- The ring command that an array executes or will execute next: its PC (R272). -/
def MArray.ringPc (a : MArray) : Option Word := ((a.run.toList ++ a.queue).find? (·.rings)).map (·.pc)

/-- An array's queued commands discarded, with a rotating step or MRING in execution; the ring is no longer established
(R266). A plain command in execution finishes. -/
def MArray.drop (a : MArray) : MArray :=
  { a with queue := [], run := a.run.filter (fun m => !m.rings), done := false, ring := 0, incoming := none }.reshadow

/-- The scoreboard entries of the commands that `MArray.drop` discards. -/
def MArray.dropIds (a : MArray) : List Nat := (a.queue ++ (a.run.toList.filter (·.rings))).flatMap (·.sbIds)

/-- A core's part of a gang loses its queued matrix commands, with their scoreboard entries: in its array, or in the context
that a Squall has saved. -/
def gangDrop (s : State) (k core : Nat) : State :=
  if (gangLive s k core).isSome then
    s.updCore core (fun x => { x with
      sb := x.sb.filter (fun e => !(x.arr.dropIds.contains e.id)), arr := x.arr.drop })
  else if (gangSaved s k core).isSome then
    s.updCore core (fun x => { x with saved := { x.saved with
      sb := x.saved.sb.filter (fun e => !((x.saved.arr.map MArray.dropIds).getD []).contains e.id),
      arr := x.saved.arr.map MArray.drop } })
  else s

/-- A gang's queued matrix commands discarded and its ring no longer established, and one packet of a code for each of
the given cores, with the PC of the ring command that its array has (R266, R272). -/
def gangFail (s : State) (k : Nat) (cores notify : List Nat) (code : BitVec 8) (culprit : Nat) : State :=
  let info := w64 ((gangArr s k culprit).fresh.steps % 2 ^ 32 + culprit * 2 ^ 32)
  let old := s
  let s := cores.foldl (fun s c => gangDrop s k c) s
  notify.foldl (fun s c =>
    match gangTask s k c with
    | some (n, t) =>
      let pc := (gangArr old k c).ringPc.getD (s.strand c n).pc
      notice s (cluOfCore c) { noticeOf s c n code true 0 pc info with tenant := t.tenant, src := .array }
    | none => s) s

/-- PAIR_ABORT for the rest of the gang of a task that runs or is saved on a core, where its array failed or it was killed or
restarted (R266). -/
def pairAbort (s : State) (core : Nat) (t : Task) : State :=
  let cs := ringCores core (((s.launch t.launch).map (·.paired)).getD false)
  gangFail s t.launch cs (cs.filter (· != core)) cPAIR_ABORT core

/-! ### The end of a task (R363, R280) -/

/-- Ownership entries of a scratchpad range cleared (R128). -/
def scrownRange (s : State) (core base len : Nat) (v : Byte) : State :=
  (List.range (len / 256)).foldl (fun s j =>
    { s with own := if v = 0 then fdel s.own (offSCROWN core (base / 256 + j))
                    else fset s.own (offSCROWN core (base / 256 + j)) v }) s

def cshownRange (s : State) (clu base len : Nat) (v : Byte) : State :=
  (List.range (len / 4096)).foldl (fun s j =>
    { s with own := if v = 0 then fdel s.own (offCSHOWN clu (base / 4096 + j))
                    else fset s.own (offCSHOWN clu (base / 4096 + j)) v }) s

/-- A Squall has stopped issue on a core (R284). -/
def saving (s : State) (core : Nat) : Bool := (s.core core).sqBusy && (s.core core).sqCmd == 1 && !(s.core core).sqDefer

/-- The tasks of a core, those that a Squall has saved among them. -/
def coreTasks (s : State) (core : Nat) : List Task :=
  ((List.range 8).filterMap (fun n => (s.strand core n).task)) ++ (s.core core).saved.tasks.filterMap (·.2.task)

/-- The tasks of a launch in a cluster. -/
def launchInCluster (s : State) (clu k : Nat) : Nat :=
  ((coresOf clu).flatMap (coreTasks s)).countP (fun t => t.launch == k)

/-- Whether a task of a tenant remains on a core. -/
def tenantOnCore (s : State) (core tenant : Nat) : Bool := (coreTasks s core).any (fun t => t.tenant == tenant)

/-- The copy commands of a strand whose task ends or restarts: timed ones go, those in flight finish with their statuses
dropped (R201, R280). Those that an earlier task of the slot left belong to no strand any more (R363). -/
def dropCopies (s : State) (core slot : Nat) (discardTimed : Bool) : State :=
  let clu := cluOfCore core
  let mine := fun (c : CopyCmd) => c.core == core && c.slot == slot && c.batch.isSome
  let out := fun (c : CopyCmd) => if mine c then { c with batch := none } else c
  let gone := ((if discardTimed then (s.clu clu).timed.filter mine else []) ++ (s.clu clu).waiting.filter mine).flatMap (·.sbIds)
  let s := s.updClu clu fun c =>
    { c with
      timed := if discardTimed then c.timed.filter (fun x => !mine x) else c.timed.map out,
      waiting := c.waiting.filter (fun x => !mine x),
      copies := c.copies.map out }
  s.updCore core (fun x => { x with sb := x.sb.filter (fun e => !gone.contains e.id) })

/-- What a task leaves under way no longer belongs to the strand slot: posted writes, fabric transactions and side-log
entries are still performed (R363). -/
def orphan (s : State) (core slot : Nat) : State :=
  let s := s.updClu (cluOfCore core) (fun c =>
    { c with sidelog := c.sidelog.map (fun e => if e.core = core ∧ e.slot = slot then { e with gone := true } else e) })
  { s with
    posted := s.posted.map (fun p => if p.core = core ∧ p.slot = slot then { p with slot := 8 } else p),
    fabTx := (s.fabTx.filter (fun t => !(t.kind == .strand && t.owner == (core, slot)))).map
      (fun t => if t.owner = (core, slot) then { t with owner := (core, 8) } else t) }

/-- What a task held is freed and its launch told: scratchpad and shared memory, the run-ahead entries of a tenant that
leaves the core (R363, R39). `st` is the strand that held it. -/
def taskFree (s : State) (core : Nat) (st : Strand) (t : Task) (killed : Bool) : State :=
  let clu := cluOfCore core
  let s := scrownRange s core (fget 0 st.ids 0x022).toNat (fget 0 st.ids 0x023).toNat 0
  let s := scrownRange s core t.scr.1 t.scr.2 0
  let s := if t.shr.2 ≠ 0 ∧ launchInCluster s clu t.launch = 0 then cshownRange s clu t.shr.1 t.shr.2 0 else s
  let s := if tenantOnCore s core t.tenant then s
           else s.updCore core (fun x => { x with raq := x.raq.map (fun q =>
             (q.1, q.2.filter (fun e => e.tenant != t.tenant))) })
  poolSweep (launchTaskEnd s t.launch t.trig killed)

/-- A gang task exits: the ring is no longer established for the other tasks of the gang, live or saved, whose next rotating
step waits for it (R363). -/
def ringLeave (s : State) (core : Nat) (t : Task) : State :=
  (ringCores core (((s.launch t.launch).map (·.paired)).getD false)).foldl (fun s c =>
    if (gangLive s t.launch c).isSome then s.updCore c (fun x => { x with arr := { x.arr with ring := 0 } })
    else if (gangSaved s t.launch c).isSome then
      s.updCore c (fun x => { x with saved := { x.saved with arr := x.saved.arr.map (fun a => { a with ring := 0 }) } })
    else s) s

/-- A task ends: its resources are freed, its slot is EMPTY (R363, R39). -/
def taskEnd (s : State) (core slot : Nat) (killed : Bool) : State :=
  let st := s.strand core slot
  match st.task with
  | none => s.setStrand core slot .init
  | some t =>
    let s := if t.ring then (if killed then pairAbort s core t else ringLeave s core t) else s
    let s := dropCopies s core slot killed
    let s := if killed then
        s.updCore core (fun x => { x with
          sb := x.sb.map (fun e => if e.slot = slot then { e with slot := 8 } else e),
          arr := if t.mxa then x.arr.drop else x.arr })
      else s
    let s := (orphan s core slot).setStrand core slot .init
    let s := { s with waits := s.waits.map (fun b =>
      (b.1, b.2.filter (fun e => !(e.core == core && e.slot == slot)))) }
    taskFree s core st t killed

/-- The tasks that a Squall has saved on a core end, each as killed or not, and the saved context is discarded (R276, R287). -/
def savedEnd (s : State) (core : Nat) (mine : Task → Bool) (killed : Bool) : State :=
  let all := (s.core core).saved.tasks
  let gone := all.filter (fun e => (e.2.task.map mine).getD false)
  let s := gone.foldl (fun s e =>
    match e.2.task with
    | some t => if killed && t.ring then pairAbort s core t else s
    | none => s) s
  let slotGone := fun n => gone.any (fun e => e.1 == n)
  let s := s.updCore core (fun x =>
    if gone.length = all.length then { x with saved := .init, sqSaved := false }
    else { x with saved := { x.saved with
      tasks := all.filter (fun e => !(slotGone e.1)), timed := x.saved.timed.filter (fun c => !(slotGone c.slot && c.batch.isSome)) } })
  let s := s.updClu (cluOfCore core) (fun c =>
    { c with sidelog := c.sidelog.map (fun e =>
        if e.core = core ∧ 16 ≤ e.slot ∧ slotGone (e.slot - 16) then { e with gone := true } else e) })
  gone.foldl (fun s e =>
    match e.2.task with
    | some t => taskFree s core e.2 t killed
    | none => s) s

/-- A landing zone disabled (R202): every slot FREE with a zero counter, every arrival word EMPTY. -/
def zoneOff (s : State) (core z : Nat) : State :=
  let off := offLZ core z
  let s := regFld s off 63 63 0
  let arr := fld (regGet s (off + 0x10)) 17 3 * 8
  let s := feRange s (scrKey core arr) false 64
  s.updCore core (fun x => { x with lz := x.lz.filter (fun e => e.1 / 64 != z) })

/-- A cluster halts (R276). -/
def cluHalt (s : State) (clu : Nat) : State :=
  let s := s.updClu clu (fun c => { c with halted := true })
  let s := regFld s (offFLTSTAT clu) 2 2 1
  -- queued and timed commands are discarded, their batches completing FAULT
  let tm := (s.clu clu).timed
  let s := s.updClu clu (fun c => { c with timed := [] })
  let s := (coresOf clu).foldl (fun s c =>
    s.updCore c (fun x => { x with
      sb := x.sb.filter (fun e => !(tm.any (fun m => m.sbIds.contains e.id)) &&
                                  !(x.arr.queue.any (fun m => m.sbIds.contains e.id))),
      arr := { x.arr with queue := [] } })) s
  let s := (coresOf clu).foldl (fun s c => (List.range 8).foldl (fun s n =>
    if (s.strand c n).task.isSome then taskEnd s c n true else s) s) s
  let s := (coresOf clu).foldl (fun s c => savedEnd s c (fun _ => true) true) s
  let s := (coresOf clu).foldl (fun s c => (List.range 4).foldl (fun s z =>
    if (regGet s (offLZ c z)).getLsbD 63 then zoneOff s c z else s) s) s
  let s := { s with mc := { s.mc with irqs := s.mc.irqs + 1 } }
  let s := s.send (.irq irqClusterHalt)
  regFld s (offREADYCLU (dieOfClu clu)) (clu % 64) (clu % 64) 0

end Sys2Proof.Machine
end

