-- ==== Sys2Proof/Machine/Ops.lean ====
section
/-!
DEFINITION. Machine/Ops.lean: registers of the issuing strand and hart, how an instruction ends (retire, park, freeze,
halt), taking a fault (13 R272 to R276) and a hart's trap (05 R116, R118), and `issue`, the frame every tile-core
instruction runs in (15 R309, R310).
-/
namespace Sys2Proof.Machine

/-! ### The issuing strand -/

/-- Core and slot of the issuing strand. -/
def State.at (s : State) : Nat × Nat :=
  match s.cur with
  | .strand c n => (c, n)
  | .hart _ => (0, 0)
def State.coreId (s : State) : Nat := s.at.1
def State.slotId (s : State) : Nat := s.at.2
def State.cluId (s : State) : Nat := cluOfCore s.coreId
def State.dieId (s : State) : Nat := dieOfCore s.coreId
def State.meKey (s : State) : Nat := strandKey s.at.1 s.at.2
/-- The issuing strand. -/
def State.me (s : State) : Strand := fget .init s.strands s.meKey
def State.setMe (s : State) (x : Strand) : State := { s with strands := fset s.strands s.meKey x }
/-- The tenant of the issuing strand's task. -/
def State.tenantId (s : State) : Nat := (s.me.task.map (·.tenant)).getD 0

/-! ### Registers (R21, R311) -/

/-- A scalar register: s0 reads zero. -/
def Strand.rS (x : Strand) (r : SReg) : Word := if r = 0#6 then 0#64 else fget 0#64 x.s r.toNat
/-- A scalar register written: a write to s0 is discarded. -/
def Strand.wS (x : Strand) (r : SReg) (w : Word) : Strand := if r = 0#6 then x else { x with s := fset x.s r.toNat w }
/-- A predicate: p0 reads true. -/
def Strand.rP (x : Strand) (r : PReg) : Bool := r = 0#3 || x.p.getLsbD r.toNat
/-- A predicate written: a write to p0 is discarded. -/
def Strand.wP (x : Strand) (r : PReg) (b : Bool) : Strand :=
  if r = 0#3 then x
  else { x with p := if b then x.p ||| (1#8 <<< r.toNat) else x.p &&& ~~~(1#8 <<< r.toNat) }
/-- A lane mask: k0 reads all ones. -/
def Strand.rK (x : Strand) (r : KReg) : BitVec 16 := if r = 0#3 then 0xFFFF#16 else fget 0#16 x.k r.toNat
/-- A lane mask written: a write to k0 is discarded. -/
def Strand.wK (x : Strand) (r : KReg) (m : BitVec 16) : Strand :=
  if r = 0#3 then x else { x with k := fset x.k r.toNat m }
/-- A handle register. -/
def Strand.rH (x : Strand) (h : HReg) : Handle := fget .invalid x.h h.toNat
def Strand.wH (x : Strand) (h : HReg) (v : Handle) : Strand := { x with h := fset x.h h.toNat v }
/-- An identity or window register (R23). -/
def Strand.id (x : Strand) (n : Nat) : Nat := (fget 0#64 x.ids n).toNat
def Strand.vbase (x : Strand) : Nat := x.id 0x020
def Strand.vcount (x : Strand) : Nat := x.id 0x021
def Strand.privbase (x : Strand) : Nat := x.id 0x022
def Strand.privlen (x : Strand) : Nat := x.id 0x023

def State.rS (s : State) (r : SReg) : Word := s.me.rS r
def State.wS (s : State) (r : SReg) (w : Word) : State :=
  { s.setMe (s.me.wS r w) with soft := fdel s.soft (sregKey s.coreId s.slotId r.toNat) }
/-- A scalar register of a strand of another issue written. -/
def State.putReg (s : State) (core slot : Nat) (r : SReg) (w : Word) : State :=
  { s.setStrand core slot ((s.strand core slot).wS r w) with soft := fdel s.soft (sregKey core slot r.toNat) }
def State.rP (s : State) (r : PReg) : Bool := s.me.rP r
def State.wP (s : State) (r : PReg) (b : Bool) : State :=
  { s.setMe (s.me.wP r b) with soft := fdel s.soft (pregKey s.coreId s.slotId r.toNat) }
def State.rK (s : State) (r : KReg) : BitVec 16 := s.me.rK r
def State.wK (s : State) (r : KReg) (m : BitVec 16) : State :=
  { s.setMe (s.me.wK r m) with soft := fdel s.soft (pregKey s.coreId s.slotId (8 + r.toNat)) }
/-- A handle register of the issuing strand written. -/
def State.wH (s : State) (h : HReg) (v : Handle) : State :=
  { s.setMe (s.me.wH h v) with soft := fdel s.soft (pregKey s.coreId s.slotId (16 + h.toNat)) }
/-- A vector register of the issuing strand's window (R22). -/
def State.rV (s : State) (n : Nat) : VReg := fget 0#512 (s.core s.coreId).v (s.me.vbase + n)
def State.wV (s : State) (n : Nat) (v : VReg) : State :=
  { s.updCore s.coreId (fun c => { c with v := fset c.v (s.me.vbase + n) v }) with
    soft := fdel s.soft (vregKey s.coreId (s.me.vbase + n)) }
/-- The registers of the issuing strand's window written from one on (R22). -/
def State.wVs (s : State) (n : Nat) : List VReg → State
  | [] => s
  | v :: vs => (s.wV n v).wVs (n + 1) vs

/-! ### How an instruction ends -/

/-- What an instruction does once its guard is true. -/
inductive Res where
  /-- it completes; the PC moves to the next word -/
  | done (s : State)
  /-- it completes and the PC takes a target -/
  | jump (s : State) (pc : Word)
  /-- it completes and the strand skips `n` issue cycles (R27) -/
  | off (s : State) (n : Nat)
  /-- it parks: PKIND, and what it waits for -/
  | wait (kind : BitVec 4) (ph : Phase) (s : State)
  /-- it freezes the strand and has no effect (R273) -/
  | fault (code : BitVec 8) (info : Word)
  /-- as `fault`, with the packet's AUX field (R272) -/
  | faultAux (code : BitVec 8) (info : Word) (aux : BitVec 8)
  /-- a data comparator halts the strand before it has an effect (R281) -/
  | brk (n : Nat)
  /-- the task has ended -/
  | ended (s : State)
  /-- data it reads holds a double-bit error (R289): the error has been counted -/
  | ecc (s : State) (info : Word)
  deriving DecidableEq, Repr

/-- A halt notice for a strand (R281): AUX 0 a HALT command, 1 to 4 a comparator, 5 the end of a step. -/
def haltNotice (s : State) (core slot : Nat) (aux : BitVec 8) : State :=
  notice s (cluOfCore core) (noticeOf s core slot cBKPT false aux (s.strand core slot).pc 0)

/-- A strand at an instruction boundary: READY, or HALTED where a HALT or the end of a STEP says so (R280, R282). -/
def boundary (s : State) (core slot : Nat) : State :=
  let x := s.strand core slot
  if x.stepping || x.haltReq then
    let s := s.setStrand core slot { x with status := .halted, cause := cBKPT, stepping := false, haltReq := false }
    haltNotice s core slot (if x.haltReq then 0 else 5)
  else s.setStrand core slot { x with status := .ready }

/-- The parked operation is over: what the strand kept for it is cleared. -/
def Strand.clearPark (x : Strand) : Strand :=
  { x with phase := .none, pinstr := 0, pwait := 0, pkind := 0, plimit := 0, pcap := [], prel := false, pplaces := [],
           plines := [], pparts := [], plog := [], ptime := 0, bpSkip := none }

/-- A strand's instruction completes with the PC at `pc`. -/
def retireTo (s : State) (core slot : Nat) (pc : Word) : State :=
  boundary (s.updStrand core slot (fun x => { x.clearPark with pc := pc })) core slot

/-- A strand's instruction completes; the PC moves to the next word. -/
def retire (s : State) (core slot : Nat) : State := retireTo s core slot ((s.strand core slot).pc + 8#64)

/-- The FEMAX bound of the operation under way: the one that it took at its first issue (R396). -/
def Strand.bound (x : Strand) : Nat := if x.pinstr = 0 then x.femax.toNat else x.plimit

/-- A strand parks on an instruction word (R24, R278). The cycles counted against FEMAX before a withdrawal stay
counted; a wait of the kind it already waited in keeps its beginning and its bound (R140, R141, R396). -/
def park (s : State) (core slot : Nat) (word : Word) (kind : BitVec 4) (ph : Phase) : State :=
  s.updStrand core slot fun x =>
    let same := x.pkind = kind ∧ kind ≠ 0
    let cont := same ∧ x.phase ≠ .none
    { x with
      status := .parked, pinstr := word, pkind := kind, phase := ph,
      pstart := if cont then x.pstart else s.cycle,
      plimit := x.bound }

/-- A freezing packet: if every level declines, the cluster halts (R275, R276). -/
def sendFreeze (s : State) (clu : Nat) (p : Packet) : State :=
  match frSend s clu [p] with
  | (s', false) => s'
  | (s', true) => cluHalt s' clu

/-- TAKING A FAULT: the strand is FROZEN with its PC at the instruction, the packet goes to its cluster's chain
(R272, R273, R275). -/
def freezeAux (s : State) (core slot : Nat) (code : BitVec 8) (info : Word) (aux : BitVec 8) : State :=
  let x := s.strand core slot
  let s := s.setStrand core slot
    { x.clearPark with status := .frozen, cause := code, info := info, stepping := false, haltReq := false }
  sendFreeze s (cluOfCore core)
    { code := code, frozen := true, async := false, cwide := false, core := core, strand := slot,
      tenant := (x.task.map (·.tenant)).getD 0, aux := aux, pc := x.pc, info := info, ccnt := w64 (ccnt s) }

def freeze (s : State) (core slot : Nat) (code : BitVec 8) (info : Word) : State := freezeAux s core slot code info 0

/-- The end of a fault: RESUME makes the strand READY at its PC (R280). -/
def resume (s : State) (core slot : Nat) : State :=
  s.updStrand core slot (fun x => { x with status := .ready, cause := 0, phase := .none })

/-- A comparator halts a strand before its instruction has an effect (R281). -/
def comparatorHalt (s : State) (core slot n : Nat) : State :=
  let s := s.updStrand core slot (fun x =>
    { x with status := .halted, cause := cBKPT, bpSkip := some n, stepping := false, haltReq := false })
  haltNotice s core slot (BitVec.ofNat 8 (n + 1))

/-- A strand skips issue cycles after a long operation (R27). -/
def offRotate (s : State) (core slot n : Nat) : State :=
  s.updStrand core slot (fun x => { x.clearPark with status := .offrot, rot := n, pc := x.pc + 8#64 })

/-- The state an instruction's result leaves; `word` is the instruction. -/
def settle (s : State) (word : Word) : Res → State
  | .done s' => retire s' s.coreId s.slotId
  | .jump s' pc => retireTo s' s.coreId s.slotId pc
  | .off s' n => offRotate s' s.coreId s.slotId n
  | .wait k ph s' => park s' s.coreId s.slotId word k ph
  | .fault c i => freeze s s.coreId s.slotId c i
  | .faultAux c i a => freezeAux s s.coreId s.slotId c i a
  | .brk n => comparatorHalt s s.coreId s.slotId n
  | .ended s' => s'
  | .ecc s' i => freeze s' s.coreId s.slotId cECC i

/-- The guard of an instruction (R308). -/
def State.guard (s : State) (g : Guard) : Bool := xor (s.rP g.pred) g.inv

/-- The first vector register an instruction names beyond the window (R310 order 6). -/
def regRange (s : State) (i : Instr) : Option Nat := i.vregs.find? (fun n => s.me.vcount ≤ n)

/-- The info word of REGRANGE (R271). -/
def regRangeInfo (s : State) (n : Nat) : Word := w64 (n % 1024 + s.me.vcount % 2048 * 1024)

/-! ### Soft errors (R288, R289) -/

/-- UNIT and byte offset of a word, for the info word of R289; a cached word is named by its physical address; a scalar
register lies after the 1,024 vector registers of its core, a predicate, lane mask or handle after those, a hart's registers
are a file of their own (notes/assumptions/88.md). -/
def eccInfo (key : Nat) : Word :=
  if key < 2 ^ 60 then w64 ((if inLpddr key then 1 else 0) * 2 ^ 60 + key)
  else if key < 2 ^ 61 then w64 (4 * 2 ^ 60 + (key - 2 ^ 60) % 2 ^ 18)
  else if key < 2 ^ 62 then w64 (3 * 2 ^ 60 + (key - 2 ^ 61) % 2 ^ 22)
  else if key < 2 ^ 63 then w64 (2 * 2 ^ 60 + (key - 2 ^ 62) % 2 ^ 23)
  else if key < 2 ^ 65 then w64 (6 * 2 ^ 60 + 64 * (key % 1024))
  else if key < 2 ^ 66 then w64 (9 * 2 ^ 60)
  else if key < 2 ^ 66 + 2 ^ 40 then w64 (7 * 2 ^ 60 + (key - 2 ^ 66) % 2 ^ 16)
  else if 2 ^ 66 + 2 ^ 43 ≤ key ∧ key < 2 ^ 66 + 2 ^ 44 then w64 (6 * 2 ^ 60 + 8 * ((key - 2 ^ 66 - 2 ^ 43) % 96))
  else if key < 2 ^ 67 then w64 (9 * 2 ^ 60)
  else if key < 2 ^ 67 + 2 ^ 40 then w64 (6 * 2 ^ 60 + 65536 + 8 * ((key - 2 ^ 67) % 512))
  else if key < 2 ^ 68 then w64 (6 * 2 ^ 60 + 65536 + 4096 + 8 * ((key - 2 ^ 67) % 256))
  else w64 ((if 4 * 192 ≤ (key - 2 ^ 68) / 2 ^ 60 then 8 else 5) * 2 ^ 60 + key % 2 ^ 56)

/-- An error counted in the ECCCNT register at an offset: corrected ones interrupt the management controller when they
reach the threshold in the ECCTHR register beside it (R288). -/
def eccAt (s : State) (o : Nat) (uncorr : Bool) : State :=
  let c := regGet s o
  if uncorr then regPut s o (putFld c 63 32 (min (fld c 63 32 + 1) (2 ^ 32 - 1)))
  else
    let n := min (fld c 31 0 + 1) (2 ^ 32 - 1)
    let s := regPut s o (putFld c 31 0 n)
    if n = fld (regGet s (o + 8)) 31 0 then
      ({ s with mc := { s.mc with irqs := s.mc.irqs + 1 } }).send (.irq irqEcc)
    else s

/-- An error counted at a cluster. -/
def eccCount (s : State) (clu : Nat) (uncorr : Bool) : State := eccAt s (offECCCNT clu) uncorr

/-- Words read by an agent whose ECCCNT lies at an offset: single-bit errors are corrected and counted, the first double-bit
error is counted and answered. -/
def scanAt (s : State) (o : Nat) : List Nat → State × Option Word
  | [] => (s, none)
  | w :: ws =>
    match fget? s.soft w with
    | none => scanAt s o ws
    | some false => scanAt (eccAt { s with soft := fdel s.soft w } o false) o ws
    | some true => (eccAt s o true, some (eccInfo w))

/-- The words that a unit of the agent die reads through a tenant's space. -/
def unitBytes (s : State) (tenant va : Nat) : Nat → List Nat
  | 0 => []
  | n + 1 => (if va % 65536 = 0 then walkKeys s tenant va else []) ++ ((unitXlate s tenant va .load).1.map (homeWord s)).toList ++ unitBytes s tenant (va + 1) n
/-- Those words, with the page-table words of the walks. -/
def unitKeys (s : State) (tenant va n : Nat) : List Nat := if n = 0 then [] else walkKeys s tenant va ++ unitBytes s tenant va n

/-- Such a read counts its errors at the agent die (R288); no report of a double-bit error is stated for those units. -/
def unitScan (s : State) (tenant va n : Nat) : State :=
  if s.soft.isEmpty then s else (scanAt s offECCAD (unitKeys s tenant va n)).1

/-- Words read by an agent of a cluster. -/
def eccScan (s : State) (clu : Nat) (ws : List Nat) : State × Option Word := scanAt s (offECCCNT clu) ws

/-- The vector registers that an instruction reads. -/
def vsrcs : Instr → List Nat
  | .vadd _ _ _ a b _ | .vsub _ _ _ a b _ | .vmul _ _ _ a b _ | .vmin _ _ _ a b _ | .vmax _ _ _ a b _
  | .vbit _ .and _ a b _ | .vbit _ .or _ a b _ | .vbit _ .xor _ a b _ | .vbit _ .andn _ a b _
  | .vperm _ _ a b _ | .vsel _ _ a b _ _ | .vsh _ _ _ _ a (.vec b) _ | .vcmp _ _ _ _ a b _ => [a.toNat, b.toNat]
  | .vfma _ _ _ a b c _ => [a.toNat, b.toNat, c.toNat]
  | .vabs _ _ _ a _ | .vneg _ _ _ a _ | .vbit _ .not _ a _ _ | .vsh _ _ _ _ a (.imm _) _
  | .vcvt _ _ _ _ _ a _ | .vcvto _ _ _ _ _ a _ _
  | .vexp2 _ _ a _ | .vlog2 _ _ a _ | .vrcp _ _ a _ | .vrsq _ _ a _ | .vsqrt _ _ a _
  | .vred _ _ _ _ a _ | .vmovs _ (.toScalar _ a) _ _ => [a.toNat]
  | .vtopk _ d a b _ => [a.toNat, b.toNat] ++ (List.range 8).map (fun j => d.toNat + j)
  | .vst _ r _ _ | .vsts _ r _ _ _ => [r.toNat]
  | .vgath _ _ _ x _ _ => [x.toNat]
  | .vscat _ r _ x _ _ => [r.toNat, x.toNat]
  | .mlb _ _ (.vec v _) | .cpy _ _ _ v | .fst _ _ _ (.vec v) => [v.toNat]
  | .accept _ _ _ _ v => [v.toNat, v.toNat + 1]
  | .isomask _ _ v _ _ _ => [v.toNat]
  | _ => []

/-- The scalar registers that an instruction reads. -/
def ssrcs : Instr → List SReg
  | .addImm _ _ x _ | .andImm _ _ x _ | .orImm _ _ x _ | .xorImm _ _ x _ | .shl _ _ x (.imm _) | .shr _ _ x (.imm _)
  | .sra _ _ x (.imm _) | .clz _ _ x | .popc _ _ x | .cmpImm _ _ _ x _ | .movhi _ x _ | .bfx _ _ _ x _ _ | .loop _ x _
  | .jmp _ x | .ret _ x | .ld _ _ _ _ _ x _ | .ldIndexed _ _ _ _ _ (.hnd _ x) | .ldfe _ _ x _ | .ldff _ _ x _
  | .feq _ _ x _ | .vcvto _ _ _ _ _ _ x _ | .vbcst _ _ _ x _ | .vmovs _ (.toVector _ x) _ _ | .vidx _ _ _ x _
  | .vld _ _ (.hnd _ x) _ | .vst _ _ (.hnd _ x) _ | .vlds _ _ (.hnd _) x _ | .vsts _ _ (.hnd _) x _
  | .vgath _ _ (.gen x) _ _ _ | .vscat _ _ (.gen x) _ _ _ | .mlb _ _ (.plain x) | .mlb _ _ (.x2 x) | .mlb _ _ (.x4 x)
  | .mdrain _ (.vec _ _ x) | .lzrel _ _ _ x | .lzclr _ _ _ x | .lzwait _ _ _ _ x | .fld _ _ x | .fst _ _ x (.vec _)
  | .mldr _ _ _ _ x | .rqld _ _ x _ | .stepdone _ x | .futwait _ x | .futqry _ _ x | .mts _ _ x | .trap _ x _
  | .xlate _ _ x | .sptest _ _ x | .spcast _ _ _ x | .launch _ _ _ x => [x]
  | .add _ _ x y | .sub _ _ x y | .mul _ _ x y | .mulh _ _ _ x y | .div _ _ _ x y | .rem _ _ _ x y | .and _ _ x y
  | .andn _ _ x y | .or _ _ x y | .xor _ _ x y | .shl _ _ x (.reg y) | .shr _ _ x (.reg y) | .sra _ _ x (.reg y)
  | .min _ _ _ x y | .max _ _ _ x y | .sel _ _ _ x y | .cmp _ _ _ x y | .bfi _ x y _ _
  | .ldIndexed _ _ _ _ _ (.gen x y _) | .st _ _ _ x y _ | .stIndexed _ _ _ x (.hnd _ y) | .stef _ x y _
  | .stff _ x y _ | .feset _ x y _ | .amo _ _ _ _ _ (.gen x) y | .amo _ _ _ _ _ (.hnd _ x) y
  | .amof _ _ _ _ (.gen x) y | .amof _ _ _ _ (.hnd _ x) y | .red _ _ _ _ (.gen x) y | .red _ _ _ _ (.hnd _ x) y
  | .redf _ _ _ (.gen x) y | .redf _ _ _ (.hnd _ x) y | .vld _ _ (.gen x y _ _) _ | .vst _ _ (.gen x y _ _) _
  | .vlds _ _ (.gen x) y _ | .vsts _ _ (.gen x) y _ | .mlb _ _ (.mx x y) | .mma _ _ none .dense _ x y
  | .cpy _ (.ptr x) (.ptr y) _ | .cpy _ (.ptr x) (.hnd _ y) _ | .cpy _ (.hnd _ x) (.ptr y) _
  | .cpy _ (.hnd _ x) (.hnd _ y) _ | .lzres _ _ _ x y | .fst _ _ x (.scal y) | .famo _ (.int _) _ _ _ x y
  | .rqst _ x y _ | .rqflt _ x y | .accept _ _ x y _ | .xlateSlot _ _ _ x y | .bar _ x y => [x, y]
  | .stIndexed _ _ _ x (.gen y z _) | .cas _ _ _ _ x y z | .mma _ _ none (.sp64 x) _ y z
  | .mma _ _ none (.sp32 x) _ y z | .mma _ _ none (.mx x) _ y z | .mma _ _ (some x) .dense _ y z
  | .mdrain _ (.mem _ _ _ _ _ x y z) | .famo _ (.cas x) _ _ _ y z | .sample _ _ _ x y z | .rng _ _ x y z
  | .isomask _ _ _ x y z | .isostep _ _ _ x y z | .kvcommit _ _ x y z | .futcall _ _ _ x y z => [x, y, z]
  | .mma _ _ (some x) (.sp64 y) _ z u | .mma _ _ (some x) (.sp32 y) _ z u | .mma _ _ (some x) (.mx y) _ z u => [x, y, z, u]
  | .mout _ x y z u v => [x, y, z, u, v]
  | _ => []

/-- The predicates, lane masks and handles that an instruction reads beside its guard, as `pregKey` numbers them. -/
def psrcs : Instr → List Nat
  | .sel _ _ p _ _ => [p.toNat]
  | .plog _ _ _ a b => [a.toNat, b.toNat]
  | .klog _ _ _ a b => [8 + a.toNat, 8 + b.toNat]
  | .kpop _ _ k => [8 + k.toNat]
  | .vsel _ _ _ _ c k => [8 + c.toNat, 8 + k.toNat]
  | .vadd _ _ _ _ _ k | .vsub _ _ _ _ _ k | .vmul _ _ _ _ _ k | .vfma _ _ _ _ _ _ k | .vmin _ _ _ _ _ k
  | .vmax _ _ _ _ _ k | .vabs _ _ _ _ k | .vneg _ _ _ _ k | .vbit _ _ _ _ _ k | .vsh _ _ _ _ _ _ k
  | .vcmp _ _ _ _ _ _ k | .vcvt _ _ _ _ _ _ k | .vcvto _ _ _ _ _ _ _ k | .vexp2 _ _ _ k | .vlog2 _ _ _ k
  | .vrcp _ _ _ k | .vrsq _ _ _ k | .vsqrt _ _ _ k | .vred _ _ _ _ _ k | .vperm _ _ _ _ k | .vbcst _ _ _ _ k
  | .vmovs _ _ _ k | .vidx _ _ _ _ k | .vtopk _ _ _ _ k | .vld _ _ (.gen _ _ _ _) k | .vst _ _ (.gen _ _ _ _) k
  | .vlds _ _ (.gen _) _ k | .vsts _ _ (.gen _) _ k | .vgath _ _ (.gen _) _ _ k | .vscat _ _ (.gen _) _ _ k => [8 + k.toNat]
  | .vld _ _ (.hnd h _) k | .vst _ _ (.hnd h _) k | .vlds _ _ (.hnd h) _ k | .vsts _ _ (.hnd h) _ k
  | .vgath _ _ (.hnd h) _ _ k | .vscat _ _ (.hnd h) _ _ k => [8 + k.toNat, 16 + h.toNat]
  | .ldIndexed _ _ _ _ _ (.hnd h _) | .stIndexed _ _ _ _ (.hnd h _) | .amo _ _ _ _ _ (.hnd h _) _
  | .amof _ _ _ _ (.hnd h _) _ | .red _ _ _ _ (.hnd h _) _ | .redf _ _ _ (.hnd h _) _ => [16 + h.toNat]
  | .cpy _ (.hnd h _) (.hnd i _) _ => [16 + h.toNat, 16 + i.toNat]
  | .cpy _ (.hnd h _) _ _ | .cpy _ _ (.hnd h _) _ => [16 + h.toNat]
  | _ => []

/-- The vector register of which an instruction under a lane mask keeps the lanes that are not active (R312, R444), and the
mask; VMOVS to a vector keeps lanes whatever its mask. -/
def vkept : Instr → Option (VNum × Option KReg)
  | .vadd _ _ d _ _ k | .vsub _ _ d _ _ k | .vmul _ _ d _ _ k | .vfma _ _ d _ _ _ k | .vmin _ _ d _ _ k
  | .vmax _ _ d _ _ k | .vabs _ _ d _ k | .vneg _ _ d _ k | .vbit _ _ d _ _ k | .vsh _ _ _ d _ _ k | .vsel _ d _ _ _ k
  | .vcvt _ _ _ _ d _ k | .vcvto _ _ _ _ d _ _ k | .vexp2 _ d _ k | .vlog2 _ d _ k | .vrcp _ d _ k | .vrsq _ d _ k
  | .vsqrt _ d _ k | .vperm _ d _ _ k | .vbcst _ _ d _ k | .vidx _ _ d _ k | .vld _ d _ k | .vlds _ d _ _ k
  | .vgath _ d _ _ _ k => some (d, some k)
  | .vmovs _ (.toVector d _) _ _ => some (d, none)
  | _ => none

/-- The vector register whose old lanes an instruction keeps, if it keeps any. -/
def keptKeys (s : State) (i : Instr) : List Nat :=
  match vkept i with
  | some (d, k) => if (k.map s.rK).getD 0 = 0xFFFF#16 then [] else [vregKey s.coreId (s.me.vbase + d.toNat)]
  | none => []

/-- The generic pointer that an access forms first (R364). -/
def firstPtr (s : State) : Instr → Option Word
  | .ld _ _ _ _ _ x imm | .st _ _ _ _ x imm => some (s.rS x + imm.signExtend 64)
  | .ldIndexed _ _ _ _ _ (.gen x y c) | .stIndexed _ _ _ _ (.gen x y c) | .vld _ _ (.gen x y c _) _
  | .vst _ _ (.gen x y c _) _ => some (s.rS x + s.rS y * w64 (2 ^ c.toNat))
  | .amo _ _ _ _ _ (.gen x) _ | .cas _ _ _ _ x _ _ | .amof _ _ _ _ (.gen x) _ | .red _ _ _ _ (.gen x) _
  | .redf _ _ _ (.gen x) _ | .vlds _ _ (.gen x) _ _ | .vsts _ _ (.gen x) _ _ | .vgath _ _ (.gen x) _ _ _
  | .vscat _ _ (.gen x) _ _ _ => some (s.rS x)
  | _ => none

/-- The cluster's TLB or handle cache, where the instruction looks a VA up in it (R151, R159), its mask cache (R93), and the
Forecast-table entry that it names; an access whose release is done has looked its VA up. -/
def lookupKeys (s : State) (i : Instr) : List Nat :=
  if s.me.prel && !s.me.pplaces.isEmpty then []
  else match i with
  | .xlate .. | .xlateSlot .. => [tlbKey s.cluId]
  | .isomask .. | .isostep .. | .sample .. => [maskKey s.cluId]
  | .futqry _ _ x | .futwait _ x => [futKey (fld (s.rS x) 15 0)]
  | i => if (firstPtr s i).any (fun p => fld p 63 60 = 0) then [tlbKey s.cluId] else []

/-- The word that holds a guard's predicate; p0 is hard-wired. -/
def guardKeys (s : State) (g : Guard) : List Nat := if g.pred = 0#3 then [] else [pregKey s.coreId s.slotId g.pred.toNat]

/-- The words of the register files, and of what it looks up, that an instruction reads (R20, R289). -/
def readKeys (s : State) (i : Instr) : List Nat :=
  (i.guard?.map (guardKeys s)).getD [] ++
  ((ssrcs i).filter (· ≠ 0#6)).map (fun r => sregKey s.coreId s.slotId r.toNat) ++
  (vsrcs i).map (fun n => vregKey s.coreId (s.me.vbase + n)) ++
  ((psrcs i).filter (fun n => n ≠ 0 && n ≠ 8)).map (pregKey s.coreId s.slotId) ++ keptKeys s i ++ lookupKeys s i

/-- The operations that complete in the drain of a SAVE and are not withdrawn, whatever they are parked for (R284, R343):
accesses, releases, and the requests and translations whose entries say so (R365, R366, R375, R414, R431, R434, R98). -/
def completesInSave : Instr → Bool
  | .ld .. | .ldIndexed .. | .st .. | .stIndexed .. | .amo .. | .cas .. | .amof .. | .red .. | .redf ..
  | .vld .. | .vst .. | .vlds .. | .vsts .. | .vgath .. | .vscat .. | .sample .. | .xlate .. | .xlateSlot ..
  | .famo .. | .fence .. | .rel .. | .trig .. | .stepdone .. | .isomask .. | .isostep .. | .kvcommit .. => true
  | _ => false

/-- The operation under way is one that completes in the drain of a SAVE (R284, R343); one that a HALT has withdrawn is under
way no more. An instruction of any other kind that is in its release has been issued and completes. -/
def completing (x : Strand) : Bool :=
  x.pinstr ≠ 0 && x.phase != .none && (x.phase == .release || match decodeTile x.pinstr with
    | .ok i => completesInSave i
    | .error _ => false)

/-- What a meaning answers. -/
abbrev Outc := Host.Outcome State Fault Refusal

/-- The vector registers that a queued MDRAIN.v of the issuing strand has still to write (R394). -/
def drainPending (s : State) (i : Instr) : Bool :=
  ((s.core s.coreId).arr.queue ++ (s.core s.coreId).arr.run.toList).any (fun m =>
    match m.vdst with
    | some d => m.slot == s.slotId && i.vregs.any (fun n => d ≤ n && n < d + 4)
    | none => false)

/-- The frame of every tile-core instruction: the register-range check comes before the guard (R310), whose predicate is read
(R289); a false guard leaves everything but the PC (R309), and otherwise the operation decides, unless a vector register that it names is still to
be drained into (R394) or one that it reads holds a double-bit error (R289). -/
def issue (i : Instr) (g : Guard) (op : State → Res) (s : State) : Host.Outcome State Fault Refusal :=
  match regRange s i with
  | some n => .next (freeze s s.coreId s.slotId cREGRANGE (regRangeInfo s n))
  | none =>
    match eccScan s s.cluId (guardKeys s g) with
    | (s, some info) => .next (freeze s s.coreId s.slotId cECC info)
    | (s, none) =>
    if s.guard g then
      if drainPending s i then .next (settle s ((encodeTile i).getD 0) (.wait 0 .cond s))
      else match eccScan s s.cluId (readKeys s i) with
      | (s, none) => .next (settle s ((encodeTile i).getD 0) (op s))
      | (s, some info) => .next (freeze s s.coreId s.slotId cECC info)
    else .next (retire s s.coreId s.slotId)

/-- Cycles a wait has counted against FEMAX (R140). -/
def waited (s : State) (x : Strand) : Nat := x.pwait + (s.cycle - x.pstart)

/-! ### Application harts -/

def State.hartId (s : State) : Nat :=
  match s.cur with
  | .hart n => n
  | .strand _ _ => 0
def State.myHart (s : State) : Hart := s.hart s.hartId
def Hart.rX (h : Hart) (r : BitVec 5) : Word := if r = 0#5 then 0#64 else fget 0#64 h.x r.toNat
def Hart.wX (h : Hart) (r : BitVec 5) (w : Word) : Hart := if r = 0#5 then h else { h with x := fset h.x r.toNat w }
def Hart.rCsr (h : Hart) (n : Nat) : Word := fget 0#64 h.csr n
def Hart.wCsr (h : Hart) (n : Nat) (w : Word) : Hart := { h with csr := fset h.csr n w }
def Hart.cap (h : Hart) (c : BitVec 4) : Cap := fget .null h.caps c.toNat
def Hart.setCap (h : Hart) (c : BitVec 4) (v : Cap) : Hart := { h with caps := fset h.caps c.toNat v }

/-- The causes Xkwedar and its accesses raise: illegal instruction, misaligned load, misaligned store, CAPFAULT (R116, R334,
R382). -/
def xIllegal : Word := 2
def xLoadMisaligned : Word := 4
def xStoreMisaligned : Word := 6
def xCapFault : Word := 24

/-- A hart's instruction completes and leaves it at a pc; minstret (0xB02) counts it. -/
def Hart.goes (h : Hart) (pc : Word) : Hart := { h.wCsr 0xB02 (h.rCsr 0xB02 + 1#64) with pc := pc }

/-- A hart's instruction completes: the pc moves past its word. -/
def hartNext (s : State) (h : Hart) : State := s.setHart s.hartId (h.goes (h.pc + 4#64))

end Sys2Proof.Machine
end

