-- ==== Sys2Proof/Machine/Flags.lean ====
section
/-!
DEFINITION. Machine/Flags.lean: the floating-point control of a strand: its rounding mode and the flags that its vector
instructions raise (11 R237, R239), and the float operations of the atomics (16 R350), which raise none.
-/
namespace Sys2Proof.Machine

def roundingOf (n : Nat) : Rounding :=
  match n with
  | 0 => .rne
  | 1 => .rtz
  | 2 => .rdn
  | _ => .rup

/-- FPMODE.RM of the issuing strand (R237). -/
def State.rm (s : State) : Rounding := roundingOf (fld s.me.fpmode 1 0)

/-- Flags raised: they stay until software clears them (R237). -/
def State.raise (s : State) (f : Flags) : State :=
  s.setMe { s.me with fpmode := s.me.fpmode ||| f.zeroExtend 64 }

/-- The operation of AMOF and REDF on FP32 codes: RNE, canonical NaNs, no flags (R240, R350). -/
def floatOp (op : FloatOp) (old b : Nat) : Nat :=
  match op with
  | .add => (fAdd .rne old b).1
  | .min => (fMinMax false old b).1
  | .max => (fMinMax true old b).1

/-- The integer operations on n-byte values (R349). -/
def intOp (op : IntOp) (n old b : Nat) : Nat :=
  let m := 2 ^ (8 * n)
  let sg := fun x : Nat => if x < m / 2 then (x : Int) else (x : Int) - m
  match op with
  | .add => (old + b) % m
  | .and => Nat.land old b
  | .or => Nat.lor old b
  | .xor => Nat.xor old b
  | .swap => b
  | .min => if sg old ≤ sg b then old else b
  | .max => if sg old ≤ sg b then b else old
  | .minu => min old b
  | .maxu => max old b

/-- What a store-like operation leaves in the n bytes it addresses (R349, R350, R413). -/
def StoreOp.apply (op : StoreOp) (old b : Nat) : Nat :=
  match op with
  | .st => b
  | .red o d => intOp o (if d then 8 else 4) old b
  | .redf o => floatOp o old b

end Sys2Proof.Machine
end

