-- ==== Sys2Proof/Machine/Operands.lean ====
section
/-!
DEFINITION. Machine/Operands.lean: the memory operands of strand instructions: how an address is formed (17 R364), the
checks of a generic pointer (06 R123 to R136), handles (07 R160), the generic global path (07 R151 to R154), the data
comparators (13 R281) and soft errors in what is read (13 R288, R289).
-/
namespace Sys2Proof.Machine

/-- Why an access does not take place at this issue. -/
inductive Stop where
  /-- it freezes the strand -/
  | bad (code : BitVec 8) (info : Word)
  /-- a TLB miss: a walk is needed (R151) -/
  | walk (va : Nat) (k : AccKind)
  /-- a side-log entry that it overlaps, or a full side log (R154) -/
  | log
  /-- a range-scoreboard entry that it overlaps (R144) -/
  | board
  /-- a data comparator matches (R281) -/
  | brk (n : Nat)
  /-- a word that it reads has an error (R288, R289) -/
  | ecc (word : Nat)
  deriving DecidableEq, Repr

/-- What a stopped access does to its strand. -/
def Stop.res (s : State) : Stop → Res
  | .bad c i => .fault c i
  | .walk va k => .wait 6 .walk (s.setMe { s.me with pva := w64 va, pacc := k })
  | .log => .wait 0 .cond s
  | .board => .wait 5 .board s
  | .brk n => .brk n
  | .ecc w => .ecc s (eccInfo w)

/-! ### Generic pointers (R123, R124) -/

def ptrTag (p : Word) : Nat := fld p 63 60

/-- The tags that each class of instruction accepts (R125). -/
def tagsLoad (t : Nat) : Bool := t ≤ 5
def tagsStore (t : Nat) : Bool := t ≤ 6
def tagsAtomic (t : Nat) : Bool := t ≤ 4
def tagsFe (t : Nat) : Bool := t == 1 || t == 2 || t == 3
def tagsBar (t : Nat) : Bool := t == 2 || t == 3
def tagsScratch (t : Nat) : Bool := t == 1 || t == 2

/-- Check 2 of R124: fields shown as zero are zero, and a core or cluster ID names one that exists. -/
def fieldsOk (p : Word) : Bool :=
  match ptrTag p with
  | 0 => fld p 59 57 == 0
  | 1 => fld p 59 18 == 0
  | 2 => fld p 47 18 == 0 && coreExists (fld p 59 48)
  | 3 => fld p 51 22 == 0 && cluExists (fld p 59 52)
  | 4 => fld p 53 23 == 0
  | 6 => fld p 51 50 == 0
  | 7 => fld p 29 16 == 0 && coreExists (fld p 49 38)
  | _ => true

/-- A multicast group that is enabled and belongs to the strand's tenant (R220). -/
def groupOk (s : State) (tenant g : Nat) : Bool :=
  let c := regGet s (offMCG g)
  c.getLsbD 63 && fld c 61 56 == tenant

/-- The info word of FOREIGN_SCRATCH (R124). -/
def foreignInfo (s : State) (p : Word) : Word :=
  w64 (fld p 59 48 + s.coreId * 2 ^ 16 + fld p 17 0 * 2 ^ 28)

/-- Checks 1 to 3 of R124 on a pointer, with the group check of a tag-6 pointer (R220, R429). -/
def checkSpace (s : State) (tags : Nat → Bool) (p : Word) : Option Stop :=
  if !(ptrTag p < 8 && tags (ptrTag p)) then some (.bad cSPACE p)
  else if ptrTag p = 6 && !groupOk s s.tenantId (fld p 59 52) then some (.bad cSPACE p)
  else if !fieldsOk p then some (.bad cBOUNDS p)
  else if ptrTag p = 2 && fld p 59 48 ≠ s.coreId then some (.bad cFOREIGN (foreignInfo s p))
  else none

/-! ### Ownership and extent (R128, R131, R134, R136) -/

/-- Every granule of a range carries an owner. -/
def ownedRange (s : State) (off : Nat → Nat) (gran o n tenant : Nat) : Bool :=
  n == 0 || (List.range ((o + n - 1) / gran + 1 - o / gran)).all
    (fun j => (fget 0#8 s.own (off (o / gran + j))).toNat == 0x80 + tenant)

/-- The place of `n` bytes at a pointer of tags 1 to 4, if they lie in the space and are owned (check 5 of R124). -/
def localPlace (s : State) (p : Word) (n : Nat) : Option Place :=
  let t := s.tenantId
  match ptrTag p with
  | 1 => if fld p 17 0 + n ≤ s.me.privlen then some (.bank (scrKey s.coreId (s.me.privbase + fld p 17 0)) false) else none
  | 2 =>
    if fld p 17 0 + n ≤ 2 ^ 18 && ownedRange s (offSCROWN s.coreId) 256 (fld p 17 0) n t then
      some (.bank (scrKey s.coreId (fld p 17 0)) false)
    else none
  | 3 =>
    if fld p 21 0 + n ≤ 2 ^ 22 && ownedRange s (offCSHOWN (fld p 59 52)) 4096 (fld p 21 0) n t then
      some (.bank (shrKey (fld p 59 52) (fld p 21 0)) (fld p 59 52 != s.cluId))
    else none
  | 4 =>
    if fld p 22 0 + n ≤ 2 ^ 23 && ownedRange s (offSTGOWN (fld p 59 58) (fld p 57 54)) 65536 (fld p 22 0) n t then
      some (.bank (stgKey (fld p 59 58) (fld p 57 54) (fld p 22 0)) true)
    else none
  | 5 => some (.peer p.toNat)
  | 6 => some (.mcast p.toNat)
  | _ => none

/-! ### Data comparators (R281) -/

/-- The comparator that an access matches, if any; `first` and `n` are the pointer of its first byte and its length. A
reply is not an issue and matches nothing. -/
def dataMatch (s : State) (ld st : Bool) (first n : Nat) : Option Nat :=
  if s.me.status ≠ .ready then none
  else (List.range 4).find? fun c =>
    let ctl := regGet s (offBPCTL s.coreId c)
    let kind := fld ctl 2 1
    let word := fld (regGet s (offBPADDR s.coreId c)) 63 3
    ctl.getLsbD 0 && ctl.getLsbD (8 + s.slotId) &&
    ((kind == 1 && ld) || (kind == 2 && st) || (kind == 3 && (ld || st))) &&
    first / 8 ≤ word && word ≤ (first + n - 1) / 8 && s.me.bpSkip != some c

/-! ### The generic global path (R151 to R154) -/

/-- A side-log entry of a tenant that shares a byte with a range (R154). -/
def logOverlap (c : Cluster) (tenant va n : Nat) : Bool :=
  c.sidelog.any (fun e => e.tenant == tenant && overlap e.va e.data.length va n)

/-- The log holds an entry for the 64 KiB granule of a VA (R153, R154). -/
def logHolds (c : Cluster) (tenant va : Nat) : Bool :=
  c.sidelog.any (fun e => e.tenant == tenant && e.va / 65536 == va / 65536)

/-- The place of a part of a tag-0 access: the side log while it holds the page, else the TLB and the checks of R149. -/
def globalPlace (s : State) (k : AccKind) (va n : Nat) : Except Stop Place :=
  let c := s.clu s.cluId
  let t := s.tenantId
  if k = .store && logHolds c t va then .ok (.log va)
  else if k ≠ .store && logOverlap c t va n then .error .log
  else match tlbFind c t va k with
    | some e =>
      match checkEntry e k s.cluId with
      | some code => .error (.bad code (gpfInfo false k va))
      | none => .ok (.page (e.phys va) e.attr va)
    | none =>
      if k = .store && s.me.plog.contains (va / 65536) then .ok (.log va) else .error (.walk va k)

/-- The parts of `n` bytes (at most 8) at an address: one for each aligned 8-byte word touched, with its place in the data. -/
def wordParts (a n : Nat) : List (Nat × Nat × Nat) :=
  let f := 8 - a % 8
  if n ≤ f then [(a, 0, n)] else [(a, 0, f), (a + f, f, n - f)]

/-- Each part found its place, in order; the first that does not stops the access. -/
def placeAll (f : Nat → Nat → Except Stop Place) (off : Nat) : List (Nat × Nat × Nat) → Except Stop (List Piece)
  | [] => .ok []
  | (a, o, n) :: ps =>
    match f a n with
    | .error e => .error e
    | .ok p =>
      match placeAll f off ps with
      | .error e => .error e
      | .ok l => .ok ({ off := off + o, len := n, place := p } :: l)

/-! ### Addresses -/

/-- A formed address: a generic pointer, or a handle with an offset (R364). -/
inductive Addr where
  | ptr (p : Word)
  | hnd (h : HReg) (off : Word)
  deriving DecidableEq, Repr

/-- [sa + imm] (R364). -/
def State.addrImm (s : State) (sa : SReg) (imm : W32) : Addr := .ptr (s.rS sa + imm.signExtend 64)
/-- [sa + sb * n], or [hn + sb] (R364). -/
def State.addrIdx (s : State) : IdxAddr → Addr
  | .gen sa sb sc => .ptr (s.rS sa + s.rS sb * w64 (2 ^ sc.toNat))
  | .hnd h sb => .hnd h (s.rS sb)
/-- [sa], or [hn + sc] (R325). -/
def State.addrAtom (s : State) : AtomAddr → Addr
  | .gen sa => .ptr (s.rS sa)
  | .hnd h sc => .hnd h (s.rS sc)

/-- What an access asks for: how it is translated, whether a comparator counts it as a load and as a store, the tags it
accepts, the alignment of a tag-0 pointer or handle offset, and whether a 64-byte base that it needs is misaligned. -/
structure Ask where
  k    : AccKind
  ld   : Bool
  st   : Bool
  tags : Nat → Bool
  al   : Nat
  off64 : Bool

/-- A handle access of `n` bytes at an offset (R160): HANDLE_BOUNDS, then VALID, then PERM, then its place. -/
def resolveHnd (s : State) (q : Ask) (h : HReg) (off : Word) (n base : Nat) : Except Stop (List Piece) :=
  let hd := s.me.rH h
  let va := (hd.hva.toNat + off.toNat) % 2 ^ 57
  if off.toNat + n > pageBytes hd.size.toNat then .error (.bad cHANDLE_BOUNDS off)
  else match dataMatch s q.ld q.st va n with
    | some c => .error (.brk c)
    | none =>
      let t := s.tenantId
      let c := s.clu s.cluId
      if !hd.valid then
        if q.k = .store then placeAll (fun a _ => .ok (.log (a % 2 ^ 57))) base (wordParts va n)
        else .error (.bad cHANDLE_STALE (w64 (h.toNat * 2 ^ 60 + va)))
      else if !(hd.perm.getLsbD q.k.perm) then .error (.bad cGPF_PERM (gpfInfo false q.k va))
      else if q.k ≠ .store && logOverlap c t va n then .error .log
      else placeAll (fun a _ =>
        if q.k = .store && logHolds c t a then .ok (.log a)
        else .ok (.page (hd.pbase.toNat + off.toNat + (a - va)) hd.attr a)) base (wordParts va n)

/-- An access of `n` bytes through a pointer: R124 in order, the comparators, then for tag 0 the global path. -/
def resolvePtr (s : State) (q : Ask) (p : Word) (n base : Nat) : Except Stop (List Piece) :=
  match checkSpace s q.tags p with
  | some e => .error e
  | none =>
    let al := if ptrTag p = 0 then q.al else n
    if p.toNat % al ≠ 0 || q.off64 then .error (.bad cALIGN p)
    else if ptrTag p = 0 then
      match dataMatch s q.ld q.st (fld p 56 0) n with
      | some c => .error (.brk c)
      | none => placeAll (fun a m => globalPlace s q.k (a % 2 ^ 57) m) base (wordParts (fld p 56 0) n)
    else match localPlace s p n with
      | none => .error (.bad cBOUNDS p)
      | some pl =>
        match dataMatch s q.ld q.st p.toNat n with
        | some c => .error (.brk c)
        | none => .ok [{ off := base, len := n, place := pl }]

/-- An access of `n` bytes, its data starting at byte `base` of the instruction's data. -/
def resolve (s : State) (q : Ask) (a : Addr) (n base : Nat) : Except Stop (List Piece) :=
  match a with
  | .ptr p => resolvePtr s q p n base
  | .hnd h off =>
    if off.toNat % q.al ≠ 0 || q.off64 then .error (.bad cALIGN off) else resolveHnd s q h off n base

/-- Where an access lands: as its issue resolved it, once the strand has parked for its release or for the reply (R342). -/
def placed (rp : Option Reply) (s : State) (f : Except Stop (List Piece)) : Except Stop (List Piece) :=
  match rp with
  | none => if s.me.prel && !s.me.pplaces.isEmpty then .ok s.me.pplaces else f
  | some _ => .ok s.me.pplaces

/-- The places that a strand's access resolved to, kept while it is parked. -/
def State.keepPlaces (s : State) : List Piece → State
  | [] => s
  | ps => s.setMe { s.me with pplaces := ps }

/-- The strand parks for the reply of an access that lands at these places. -/
def awaitReply (ps : List Piece) (s : State) : Res := .wait 0 .access (s.setMe { s.me with pplaces := ps })

/-! ### The range scoreboard (R144) -/

/-- Bytes of a core's scratchpad overlap an entry. -/
def boardHit (s : State) (core o n : Nat) : Bool :=
  (s.core core).sb.any (fun e => overlap e.lo (e.hi - e.lo) o n)

/-- A piece that overlaps an entry of the issuing core's scoreboard. -/
def Piece.onBoard (s : State) (p : Piece) : Bool :=
  match p.place with
  | .bank key _ => scrKey s.coreId 0 ≤ key && key < scrKey s.coreId 0 + 2 ^ 18 &&
      boardHit s s.coreId (key - scrKey s.coreId 0) p.len
  | _ => false

/-- The pieces of an access, unless the scoreboard holds it. -/
def unboard (s : State) (ps : List Piece) : Except Stop (List Piece) :=
  if ps.any (fun p => p.onBoard s) then .error .board else .ok ps

/-! ### Soft errors in what an access reads (R289) -/

/-- An SC line whose tags equal the view (R174). -/
def scFresh (c : Cluster) (l : CLine) : Bool := l.td == c.vd % 16 && l.tv == c.vv % 16 && l.ts == c.vs % 16

/-- The key of the word of a page that a cluster's access reads: in the cluster's cache where that holds the line. -/
def pageWord (s : State) (pa : Nat) (attr : BitVec 2) : Nat :=
  match fget? (s.clu s.cluId).lines (lineKey attr.toNat (lineOf pa)) with
  | some l => if attr = 1#2 && !scFresh (s.clu s.cluId) l then homeWord s pa else cacheKey (cluIndex s.cluId) attr.toNat pa
  | none => homeWord s pa

/-- The words of a piece that is read where it lies. -/
def Piece.words (s : State) (p : Piece) : List Nat :=
  match p.place with
  | .bank key _ => [wordOf key]
  | .page pa attr _ => [pageWord s pa attr]
  | _ => []

/-- What follows the reading of words without an uncorrectable error. -/
def eccWords (s : State) (ws : List Nat) (k : State → Res) : Res :=
  match eccScan s s.cluId ws with
  | (s, none) => k s
  | (s, some info) => .ecc s info

/-- What follows the reading of pieces where they lie. -/
def eccThen (s : State) (ps : List Piece) (k : State → Res) : Res := eccWords s (ps.flatMap (·.words s)) k

end Sys2Proof.Machine
end

