-- ==== Sys2Proof/Machine/Order.lean ====
section
/-!
DEFINITION. Machine/Order.lean: releases and acquires (08 R173 to R180), and the instructions that are nothing else:
FENCE, ACQ, REL and TRIG (16 to 19).
-/
namespace Sys2Proof.Machine

/-! ### Release (R176) -/

/-- The instances that a release or acquire at a scope acts on, for a die (R176, R177): 0 to 3 the dies, 4 the device,
5 the system. -/
def scopeInsts (sc : Scope) (die : Nat) : List Nat :=
  match sc with
  | .cor | .clu => []
  | .die => [die]
  | .dev => [die, 4]
  | .sys => [die, 4, 5]

/-- Dirty CP lines of a cluster written back (R180). -/
def cpFlush (s : State) (clu : Nat) : State :=
  (s.clu clu).lines.foldl (fun s e =>
    if e.2.attr = .cp ∧ e.2.dirty ≠ 0 then
      (cpWriteBack s (e.1 / 4) e.2).updClu clu (fun c =>
        { c with lines := fset c.lines e.1 { e.2 with dirty := 0 }, cpVis := ccnt s + 1 })
    else s) s

/-- An FLD of the strand has still to be answered (R216). -/
def fldsOut (s : State) (core slot : Nat) : Bool :=
  s.fabTx.any (fun t => t.owner == (core, slot) && t.resp.isNone && match t.kind with | .fld _ => true | _ => false)

/-- Step 1 of a release: every earlier write of the strand that it covers is acknowledged, every earlier FLD answered, and no
side-log entry of it remains (R154, R176, R219). -/
def releaseReady (s : State) (core slot : Nat) (sc : Scope) : Bool :=
  !fldsOut s core slot &&
  !(s.posted.any (fun p => p.core == core && p.slot == slot && (p.kind != .fab || sc == .sys))) &&
  !((s.clu (cluOfCore core)).sidelog.any (fun e => e.core == core && e.slot == slot && !e.gone))

/-- A cluster holds dirty CP lines. -/
def cpDirty (s : State) (clu : Nat) : Bool := (s.clu clu).lines.any (fun e => e.2.attr == .cp && e.2.dirty != 0)

/-- Step 2: the timestamp. `flushed` is the visibility time of the CP lines written back before it; those that left the
cluster's cache earlier count too (R188; notes/assumptions/89.md). -/
def releaseTime (s : State) (core slot : Nat) (sc : Scope) (flushed : Nat) : Nat :=
  let x := s.strand core slot
  let v := max flushed (if sc = .sys then max x.visMax x.visSys else x.visMax)
  max (if v = 0 then ccnt s else v) (s.clu (cluOfCore core)).cpVis + (if sc = .sys then 128 else 0)

/-- Step 3: the CCNT until which a release with a timestamp parks; at .sys also 128 cycles after the last acknowledgement
(R414). -/
def releaseHold (s : State) (core slot : Nat) (sc : Scope) (t : Nat) : Nat :=
  if sc = .sys then max t ((s.strand core slot).ackAt + 128) else t

/-- Steps 4 and 5: the timestamp published, the generation counts incremented. -/
def publish (s : State) (t : Nat) (is : List Nat) : State :=
  is.foldl (fun s i =>
    let x := s.scope i
    { s with scopes := fset s.scopes i { ts := max x.ts t, gen := (x.gen + 1) % 2 ^ 32 } }) s

/-- As much of a strand's release as can be done now, and whether it is complete. The timestamp, once formed, is kept in
`ptime` (its value plus 1). -/
def tryRelease (s : State) (core slot : Nat) (sc : Scope) : State × Bool :=
  let x := s.strand core slot
  if x.ptime = 0 && !releaseReady s core slot sc then (s, false)
  else
    let flush := x.ptime = 0 && (sc = .dev || sc = .sys) && cpDirty s (cluOfCore core)
    let s := if flush then cpFlush s (cluOfCore core) else s
    let t := if x.ptime = 0 then releaseTime s core slot sc (if flush then ccnt s + 1 else 0) else x.ptime - 1
    if releaseHold s core slot sc t ≤ ccnt s then
      let s := publish s t (scopeInsts sc (dieOfCore core))
      (s.updStrand core slot (fun y => { y with prel := true, ptime := 0 }), true)
    else (s.updStrand core slot (fun y => { y with ptime := t + 1 }), false)

/-- What follows the release at a scope of an access that lands at some places, if it has one: the strand parks until the
release is complete, and the access then lands where its issue resolved it (R342). -/
def afterReleaseAt (ps : List Piece) (sc : Option Scope) (s : State) (k : State → Res) : Res :=
  match sc with
  | none => k s
  | some sc =>
    if s.me.prel then k s
    else match tryRelease s s.coreId s.slotId sc with
      | (s', true) => k s'
      | (s', false) => .wait 0 .release (s'.keepPlaces ps)

/-- What follows a release at a scope, if the instruction has one. -/
def afterRelease (sc : Option Scope) (s : State) (k : State → Res) : Res := afterReleaseAt [] sc s k

/-! ### Acquire (R177) -/

/-- All SC lines of a cluster discarded (R175). -/
def flashInvalidate (c : Cluster) : Cluster :=
  { c with lines := c.lines.filter (fun e => e.2.attr != .sc), bd := c.vd, bv := c.vv, bs := c.vs }

/-- A view field never falls (R177): the count read, if it is ahead of the field modulo 2^32. -/
def viewMax (old new : Nat) : Nat := if (new + 2 ^ 32 - old) % 2 ^ 32 < 2 ^ 31 then new else old

/-- A view field is 8 or more ahead of its base value (R177), modulo 2^32. -/
def viewFar (v b : Nat) : Bool := 8 ≤ (v + 2 ^ 32 - b) % 2 ^ 32

/-- An acquire at a scope by a strand of a cluster: the counts read into the view, then the flash invalidation that they
cause; at .dev and .sys the clean CP lines go (R180). -/
def acquireAt (s : State) (clu : Nat) (sc : Scope) : State :=
  let die := dieOfClu clu
  let is := scopeInsts sc die
  s.updClu clu fun c =>
    let c := { c with
      vd := if is.contains die then viewMax c.vd (s.scope die).gen else c.vd,
      vv := if is.contains 4 then viewMax c.vv (s.scope 4).gen else c.vv,
      vs := if is.contains 5 then viewMax c.vs (s.scope 5).gen else c.vs }
    let c := if viewFar c.vd c.bd || viewFar c.vv c.bv || viewFar c.vs c.bs then flashInvalidate c else c
    if sc = .dev || sc = .sys then
      { c with lines := c.lines.filter (fun e => !(e.2.attr == .cp && e.2.dirty == 0)) }
    else c

/-- What follows an access that ends in an acquire: at .cor and .clu nothing is read; otherwise the strand parks until the
counts have been read (R177). -/
def thenAcquire (sc : Option Scope) (s : State) : Res :=
  match sc with
  | none | some .cor | some .clu => .done s
  | some _ => .wait 0 .acquire s

def ordAcq : MemOrd → Option Scope
  | .acq sc | .acqRel sc => some sc
  | _ => none
def ordRel : MemOrd → Option Scope
  | .rel sc | .acqRel sc => some sc
  | _ => none

/-! ### FENCE, ACQ, REL, TRIG -/

/-- FENCE (R366). -/
def opFence (sc : Scope) (s : State) : Res := afterRelease (some sc) s (thenAcquire (some sc))
/-- ACQ (R346): a strand's earlier loads and atomics have returned before it issues again, but for its FLDs, whose responses
it awaits first. -/
def opAcq (sc : Scope) (s : State) : Res :=
  if fldsOut s s.coreId s.slotId then .wait 0 .acquire s else thenAcquire (some sc) s
/-- REL (R414). -/
def opRel (sc : Scope) (s : State) : Res := afterRelease (some sc) s .done

/-- A task's trigger is counted once (R38). -/
def countTrig (s : State) : State :=
  match s.me.task with
  | none => s
  | some t =>
    if t.trig then s
    else
      let s := s.setMe { s.me with task := some { t with trig := true } }
      match s.launch t.launch with
      | none => s
      | some l =>
        let n := l.trigd + 1
        s.setLaunch t.launch { l with trigd := n, met := l.met || (l.outcome == 0 && l.placed ≥ l.tasks && n ≥ l.tasks) }

/-- TRIG (R434): a release at .dev, then the trigger. -/
def opTrig (s : State) : Res := afterRelease (some .dev) s (fun s => .done (countTrig s))



def execFence (g : Guard) (sc : Scope) (s : State) : Outc := issue (.fence g sc) g (opFence sc) s
def execAcq (g : Guard) (sc : Scope) (s : State) : Outc := issue (.acq g sc) g (opAcq sc) s
def execRel (g : Guard) (sc : Scope) (s : State) : Outc := issue (.rel g sc) g (opRel sc) s
def execTrig (g : Guard) (s : State) : Outc := issue (.trig g) g opTrig s

end Sys2Proof.Machine
end

