-- ==== Sys2Proof/Machine/Fabric.lean ====
section
/-!
DEFINITION. Machine/Fabric.lean: the scale-up fabric (chapter 10): the switch a request takes, transactions and their
failures, the exported window that serves requests, and the fabric status register of a strand.
-/
namespace Sys2Proof.Machine

/-! ### Codes of FSTAT (R215) -/

def fsOK : Nat := 0
def fsMEMBER_ABSENT : Nat := 1
def fsLINK_DOWN : Nat := 2
def fsREFUSED : Nat := 3
def fsOVERRUN : Nat := 4
def fsNOZONE : Nat := 5

/-- A failing instruction writes CODE, PEER and INDEX. -/
def Strand.setFstat (x : Strand) (code peer index : Nat) : Strand :=
  { x with fstat := putFld (putFld (putFld x.fstat 7 0 code) 41 32 peer) 31 16 index }

/-- A failing posted store sets PFAIL, and CODE and PEER only where CODE is 0. -/
def Strand.pfail (x : Strand) (code peer : Nat) : Strand :=
  let f := putFld x.fstat 8 8 1
  { x with fstat := if fld x.fstat 7 0 = 0 then putFld (putFld f 7 0 code) 41 32 peer else f }

/-! ### Requests (R211, R213, R214) -/

def fabId (s : State) : Nat := fld (regGet s offFABID) 9 0
/-- FABID has been written, so the interface sends and accepts transactions (R213). -/
def fabLive (s : State) : Bool := (fget? s.regs offFABID).isSome
def peerDown (s : State) (a : Nat) : Bool := (regGet s (offPEERDOWN (a / 64))).getLsbD (a % 64)

/-- The number of switches. -/
def switches (s : State) : Nat := 2 ^ min 6 (fld (regGet s offFABCFG) 2 0)

/-- The first switch that is up, from one on in cyclic order; none when all are down. -/
def switchFrom (s : State) (sw : Nat) : Option Nat :=
  ((List.range (switches s)).map (fun i => (sw + i) % switches s)).find?
    (fun w => !((regGet s offFABDOWN).getLsbD w))

/-- The switch of a request to peer `a` at window offset `o` (R211). -/
def pickSwitch (s : State) (a o : Nat) : Option Nat :=
  switchFrom s ((Nat.xor (bitsN o 13 8) (a % 64)) % switches s)

/-- The lane of a request of a core through a switch (R211): the lowest of the core's die that is cabled to it, else the
lowest that is. -/
def laneOf (s : State) (core sw : Nat) : Nat :=
  (((List.range 16).map (fun i => 16 * dieOfCore core + i)).find? (fun l => l % switches s == sw)).getD sw

/-- The station of a lane is up (R302): station k drives lanes 4 k to 4 k + 3 (R11). -/
def stationUp (s : State) (lane : Nat) : Bool := fnReady s (8 + lane / 4)

/-- A transaction sent through a switch, if its lane's station is up: its request leaves the device. -/
def sendTx (s : State) (t : FabTx) (sw : Nat) : State :=
  let lane := laneOf s t.owner.1 sw
  if stationUp s lane then
    ({ s with fabTx := s.fabTx.map (fun (u : FabTx) => if u.id = t.id then { u with sw := sw, sent := true } else u) }).send
      (.fabReq sw lane t.peer { peer := fabId s, tag := t.id, tenant := t.tenant, cls := tset s setQOS t.tenant % 8, addr := t.addr, op := t.op })
  else { s with fabTx := s.fabTx.map (fun (u : FabTx) => if u.id = t.id then { u with sw := sw } else u) }

/-- A new transaction: to this device itself it uses no switch; to a peer that is down, or with every switch down, it has
failed already (R211, R214, R221, R365). Before FABID is written nothing is sent, nor through a station that is not up (R213, R302). -/
def newTx (s : State) (peer : Nat) (op : FabOp) (addr : Nat) (owner : Nat × Nat) (kind : FabKind) (tenant : Nat) :
    Nat × State :=
  let (id, s) := s.fresh
  let t : FabTx :=
    { id := id, peer := peer, op := op, addr := addr, owner := owner, kind := kind, tries := 0, issued := s.cycle, sw := 0,
      tenant := tenant, resp := none, sent := false }
  if !fabLive s || (peer = fabId s && !peerDown s peer) then (id, { s with fabTx := s.fabTx ++ [t] })
  else match peerDown s peer, pickSwitch s peer addr with
    | false, some sw => (id, sendTx { s with fabTx := s.fabTx ++ [t] } t sw)
    | _, _ => (id, { s with fabTx := s.fabTx ++ [{ t with resp := some { code := fsLINK_DOWN, data := [] } }] })

/-- A strand's transactions that it is parked for, and whether all have been answered. -/
def myTxs (s : State) (core slot : Nat) : List FabTx :=
  s.fabTx.filter (fun t => t.kind == .strand && t.owner == (core, slot))
def txsDone (l : List FabTx) : Bool := l.all (fun t => t.resp.isSome)
/-- The strand's transactions forgotten. -/
def dropTxs (s : State) (core slot : Nat) : State :=
  { s with fabTx := s.fabTx.filter (fun t => !(t.kind == .strand && t.owner == (core, slot))) }

/-- A transaction answered. -/
def answerTx (s : State) (id : Nat) (r : Reply) : State :=
  { s with fabTx := s.fabTx.map (fun t => if t.id = id then { t with resp := some r } else t) }

/-- A request as it is served: the sender's accelerator ID and tenant, the address and the operation. -/
structure Served where
  peer   : Nat
  tenant : Nat
  addr   : Nat
  op     : FabOp
  deriving DecidableEq, Repr

/-- A request of the sizes that a completer serves (R210). -/
def fabLegal : FabOp → Bool
  | .read n | .reduceRead n => n == 64 || n == 256
  | .write _ d => 1 ≤ d.length && d.length ≤ 256
  | .land _ _ _ _ d => 1 ≤ d.length && d.length ≤ 256
  | _ => true

/-- The .rel forms (R179), and the forms that write. -/
def fabRel : FabOp → Bool
  | .write r _ | .atom r _ _ _ | .land r _ _ _ _ => r
  | _ => false
def fabWrites : FabOp → Bool
  | .write _ _ | .atom _ _ _ _ | .land _ _ _ _ _ => true
  | _ => false

/-! ### The exported window (R212) -/

/-- The permission a request needs: bit 1 R, bit 2 W, bit 3 ATOM of FWn.A. -/
def fabPerm : FabOp → Nat
  | .read _ => 1
  | .write _ _ => 2
  | _ => 3

/-- The bytes a request names. -/
def fabSize : FabOp → Nat
  | .read n | .reduceRead n => n
  | .write _ d => d.length
  | .atom _ _ _ _ => 8
  | .land _ _ _ _ d => d.length
  | .reserve _ _ _ => 0

/-- Where byte `d` of a descriptor's range lies, if its whole range lies in its space (R212, R461). -/
def fabTarget (target : Word) (attr : BitVec 2) (len d : Nat) : Option Place :=
  match fld target 63 60 with
  | 0 =>
    let pa := fld target 55 0
    if fld target 59 56 = 0 && physOk pa && physOk (pa + len - 1) && decide (inHbm pa = inHbm (pa + len - 1)) then
      some (.page (pa + d) attr 0) else none
  | 2 =>
    if fieldsOk target && fld target 17 0 + len ≤ 2 ^ 18 then
      some (.bank (scrKey (fld target 59 48) (fld target 17 0 + d)) true) else none
  | 3 =>
    if fieldsOk target && fld target 21 0 + len ≤ 2 ^ 22 then
      some (.bank (shrKey (fld target 59 52) (fld target 21 0 + d)) true) else none
  | 4 =>
    if fieldsOk target && fld target 22 0 + len ≤ 2 ^ 23 then
      some (.bank (stgKey (fld target 59 58) (fld target 57 54) (fld target 22 0 + d)) true) else none
  | _ => none

/-- The place that descriptor `n` gives to a request's first byte, if it serves it. -/
def fabServes (s : State) (n tenant o size perm : Nat) : Option Place :=
  let a := regGet s (offFW n)
  let c := regGet s (offFW n + 16)
  let off := fld a 49 21 * 2 ^ 21
  let len := fld c 28 0 * 2 ^ 21
  if a.getLsbD 63 && len ≠ 0 && fld c 49 48 ≠ 3 && off ≤ o && o + size ≤ off + len && fld a 55 50 = tenant
      && a.getLsbD perm then
    fabTarget (regGet s (offFW n + 8)) (BitVec.ofNat 2 (fld c 49 48)) len (o - off)
  else none

/-- The place a request is served at: by the lowest-numbered descriptor that serves it. -/
def fabPlace (s : State) (tenant o size perm : Nat) : Option Place :=
  (List.range 64).findSome? (fun n => fabServes s n tenant o size perm)

/-! ### This device's own window (R183, R219) -/

/-- The place of one of this device's own transactions that is still to be served. -/
def ownPlace (s : State) (t : FabTx) : Option Place :=
  if t.peer = fabId s && t.resp.isNone then fabPlace s t.tenant t.addr (fabSize t.op) (fabPerm t.op) else none

/-- Two ranges of bytes share an aligned 8-byte word. -/
def shareWord (a n b m : Nat) : Bool := a / 8 * 8 < b + m && b / 8 * 8 < a + n

/-- A place shares a word with bytes of local memory or of a page, from a key on. -/
def Place.meets (p : Place) (size key n : Nat) : Bool :=
  match p with
  | .bank k _ | .page k _ _ => shareWord k size key n
  | _ => false

/-- A store or an atomic of a cluster's strands on a line of an SC page, through this device's own window, has still to be
acknowledged (R173). -/
def ownScWait (s : State) (clu line : Nat) : Bool :=
  s.fabTx.any (fun t => t.peer == fabId s && cluOfCore t.owner.1 == clu && fabWrites t.op &&
    (match t.kind with | .copy _ _ => false | _ => true) &&
    match fabPlace s t.tenant t.addr (fabSize t.op) (fabPerm t.op) with
    | some (.page pa attr _) => attr == 1#2 && 128 * line < pa + fabSize t.op && pa < 128 * line + 128
    | _ => false)

/-- A transaction of a strand on its own device's window, issued before number `id`, has still to reach these bytes; `wr`:
only one that writes. -/
def ownPending (s : State) (core slot id key n : Nat) (wr : Bool) : Bool :=
  s.fabTx.any (fun t => t.owner == (core, slot) && t.id < id && (!wr || fabWrites t.op) &&
    ((ownPlace s t).map (fun p => p.meets (fabSize t.op) key n)).getD false)

/-- One of this device's own transactions that may be served now: no earlier one of its strand to the same 256-byte granule,
and no earlier posted write of its strand to its words, is still to be performed (R183, R219); one of a .rel form comes after
every earlier write of the device (R179). -/
def ownReady (s : State) (id : Nat) : Option Served :=
  match s.fabTx.find? (fun t => t.id == id && t.peer == fabId s && t.resp.isNone) with
  | none => none
  | some t =>
    let before := s.fabTx.filter (fun u => u.id < id && u.peer == t.peer && u.resp.isNone)
    let place := ownPlace s t
    if fabLive s && !before.any (fun u => (u.owner == t.owner && u.addr / 256 == t.addr / 256) || (fabRel t.op && fabWrites u.op)) &&
        !s.posted.any (fun p => p.id < id && (p.core, p.slot) == t.owner && !p.done && p.kind != .fab &&
          (place.map (fun q => q.meets (fabSize t.op) p.key 8)).getD false) then
      some { peer := t.peer, tenant := t.tenant, addr := t.addr, op := t.op }
    else none

/-- An arriving request, if the interface accepts it (R210, R213). -/
def arrivalOf (s : State) : Arrival → Option Served
  | .own id => ownReady s id
  | .peer q =>
    if fabLive s && fabLegal q.op then some { peer := q.peer, tenant := q.tenant, addr := q.addr, op := q.op } else none

/-- The response to an arrived request; it carries the CCNT at which the request was performed (R173). -/
def respond (s : State) (a : Arrival) (r : Reply) : State :=
  let r := { r with time := ccnt s }
  match a with
  | .own id => answerTx s id r
  | .peer q => s.send (.fabResp q.peer q.tag r)

/-- The bytes of a list of optional bytes written from a key on. -/
def memPutOpt (s : State) (key : Nat) (bs : List (Option Byte)) : State :=
  let s := if bs.all (·.isSome) then softClear s key bs.length else s
  s.withMem (homePut.putOpt s.mem key bs)

/-- Optional bytes written coherently at their homes. -/
def cohPutOpt (s : State) (pa : Nat) : List (Option Byte) → State
  | [] => s
  | none :: bs => cohPutOpt s (pa + 1) bs
  | some b :: bs => cohPutOpt (cohPutByte s pa b) (pa + 1) bs

/-- Bytes read at a place by an agent that caches nothing: local memory, or the home (R168, R187). -/
def readAt (s : State) (p : Place) (n : Nat) : List Byte :=
  match p with
  | .bank key _ => memGet s key n
  | .page pa _ _ => cohRead s pa n
  | _ => []

/-- Bytes written at a place by such an agent: an SC or CP write acts under R173, R181. -/
def writeAt (s : State) (p : Place) (bs : List (Option Byte)) : State :=
  match p with
  | .bank key _ => memPutOpt s key bs
  | .page pa attr _ => if attr = 0#2 then cohPutOpt s pa bs else homePutAll s pa bs
  | _ => s
where
  /-- A write of several lines, line by line. -/
  homePutAll (s : State) (pa : Nat) (bs : List (Option Byte)) : State :=
    (List.range (bs.length / 128 + 2)).foldl (fun s i =>
      let lo := if i = 0 then 0 else 128 * i - pa % 128
      let hi := 128 * (i + 1) - pa % 128
      let l := slice bs lo (hi - lo)
      if l.isEmpty then s else homePut s (pa + lo) l) s

/-- What a request does at its place, its data read without an uncorrectable error. -/
def fabAct (s : State) (p : Place) : FabOp → Reply × State
  | .read n | .reduceRead n => ({ code := 0, data := readAt s p n }, s)
  | .write _ d => ({ code := 0, data := [] }, writeAt s p d)
  | .atom _ o a b =>
    let old := fromBytes (readAt s p 8)
    let new := match o with
      | some i => intOp i 8 old a.toNat
      | none => if old = a.toNat then b.toNat else old
    ({ code := 0, data := toBytes 8 old }, writeAt s p ((toBytes 8 new).map some))
  | _ => ({ code := fsREFUSED, data := [] }, s)

/-- A request of reads, writes or atomics served through the window (R212): REFUSED where no descriptor serves it or the
data read is uncorrectable (R289). One of a .rel form is a release once it has been performed (R179). -/
def fabServe (s : State) (tenant addr : Nat) (op : FabOp) : Reply × State :=
  match fabPlace s tenant addr (fabSize op) (fabPerm op) with
  | none => ({ code := fsREFUSED, data := [] }, s)
  | some p =>
    match scanAt s offECCAD (fabWords s p op) with
    | (s, some _) => ({ code := fsREFUSED, data := [] }, s)
    | (s, none) =>
      let (r, s) := fabAct s p op
      (r, if fabRel op then unitRelease s else s)
where
  /-- The words that a request reads. -/
  fabWords (s : State) (p : Place) : FabOp → List Nat
    | .write _ _ | .land _ _ _ _ _ | .reserve _ _ _ => []
    | op =>
      match p with
      | .bank k _ => wordsIn k (k + fabSize op)
      | .page k _ _ => (wordsIn k (k + fabSize op)).map (homeWord s)
      | _ => []

/-! ### Multicast groups (R220) -/

/-- The accelerator IDs of a group, by index. -/
def groupMembers (s : State) (g : Nat) : List Nat :=
  let base := (regGet s (offMCG g + 8)).toNat
  (List.range (fld (regGet s (offMCG g)) 9 0 + 1)).map (fun i => cohNat s (base + 2 * i) 2 % 1024)

/-- A posted fabric write: it counts against releases until it is acknowledged or has failed (R176, R217). -/
def postFab (s : State) (core slot peer : Nat) (op : FabOp) (addr tenant : Nat) : State :=
  let (id, s) := newTx s peer op addr (core, slot) .post tenant
  let p : Posted :=
    { id := id, core := core, slot := slot, clu := cluOfCore core, kind := .fab, key := id, op := .st, data := [],
      done := false, vis := 0 }
  { s with posted := s.posted ++ [p] }

/-- A posted write to a peer's window, or to the same offset of every member of a group (R221). -/
def postPeer (s : State) (core slot : Nat) (place : Place) (rel : Bool) (bs : List (Option Byte)) (tenant : Nat) : State :=
  match place with
  | .peer p => postFab s core slot (bitsN p 59 50) (.write rel bs) (bitsN p 49 0) tenant
  | .mcast p =>
    (groupMembers s (bitsN p 59 52)).foldl (fun s m => postFab s core slot m (.write rel bs) (bitsN p 49 0) tenant) s
  | _ => s

end Sys2Proof.Machine
end

