-- ==== Sys2Proof/Machine/Access.lean ====
section
/-!
DEFINITION. Machine/Access.lean: the loads, stores and atomics of strands once their places are known: near memory at
issue, far memory and pages at their reply or as posted writes (06 R130, R133; 08 R168 to R176; 16 R349; 19 R429, R445),
and the side log (07 R153).
-/
namespace Sys2Proof.Machine

/-- A piece of the issuing core's scratchpad or its own cluster's shared memory (R26). -/
def Piece.near (p : Piece) : Bool :=
  match p.place with
  | .bank _ far => !far
  | _ => false

/-- A request put to a home, unless the same one stands there already. -/
def addHomeReq (s : State) (line who : Nat) (kind : HomeReqKind) : State :=
  let r : HomeReq := { line := line, who := who, kind := kind }
  if s.homeReqs.any (· == r) || s.homeTxns.any (·.req == r) then s
  else { s with homeReqs := s.homeReqs ++ [r] }

/-- A home serves a request for the line now (R171). -/
def lineBusy (s : State) (line : Nat) : Bool := s.homeTxns.any (·.req.line == line)

/-- A list of bytes with optional bytes laid over it from a position on. -/
def layOver (l : List Byte) (i : Nat) (bs : List (Option Byte)) : List Byte :=
  l.mapIdx (fun j b => if j < i then b else ((bs[j - i]?).join).getD b)

/-! ### A strand's earlier posted writes (R135, R183) -/

/-- A posted write of the issuing strand to the same bank is still to be performed. -/
def pendingBank (s : State) (key : Nat) : Bool :=
  s.posted.any (fun p => p.core == s.coreId && p.slot == s.slotId && p.kind == .bank && bankOf p.key == bankOf key)

/-- A posted write of the issuing strand to the same word of a page is still to be performed, one through the device's own
window among them (R183). -/
def pendingWord (s : State) (pa : Nat) : Bool :=
  s.posted.any (fun p => p.core == s.coreId && p.slot == s.slotId && !p.done && p.kind != .bank && p.kind != .fab &&
    p.key == wordOf pa) ||
  ownPending s s.coreId s.slotId s.nextId pa 1 true

/-- The visibility time of an acknowledged write kept for its strand's next release (R176). -/
def noteVis (s : State) (core slot v : Nat) : State :=
  if slot < 8 then s.updStrand core slot (fun x => { x with visMax := max x.visMax v, ackAt := ccnt s }) else s

/-- The same for a fabric write (R176). -/
def noteVisSys (s : State) (core slot v : Nat) : State :=
  if slot < 8 then s.updStrand core slot (fun x => { x with visSys := max x.visSys v, ackAt := ccnt s }) else s

/-- The visibility time of an access through the fabric: the performing device's CCNT, plus 1 for this device (R173). -/
def fabVis (s : State) (t : FabTx) (r : Reply) : Nat := r.time + (if t.peer = fabId s then 1 else 0)

/-! ### Lines of the cluster cache (R168, R173, R174, R180) -/

def cluLine (s : State) (clu attr line : Nat) : Option CLine := fget? (s.clu clu).lines (lineKey attr line)
/-- A line put into a cluster's cache, which makes room for it. -/
def setCluLine (s : State) (clu attr line : Nat) (l : CLine) : State :=
  (roomIn s (cluIndex clu) (lineKey attr line)).updClu clu (fun c => { c with lines := fset c.lines (lineKey attr line) l })

/-- A line filled from its home. -/
def fillLine (s : State) (clu line : Nat) (attr : Attr) : CLine :=
  let c := s.clu clu
  { attr := attr, st := .i, td := c.vd % 16, tv := c.vv % 16, ts := c.vs % 16, dirty := 0, data := lineData s line }

/-- The cluster's SC copy of a line takes the bytes of a write, its tags unchanged (R173). -/
def scUpdate (s : State) (clu pa : Nat) (bs : List (Option Byte)) : State :=
  match cluLine s clu 1 (lineOf pa) with
  | some l => setCluLine s clu 1 (lineOf pa) { l with data := layOver l.data (pa % 128) bs }
  | none => s

/-- A CP line in the cluster cache, filled if absent. -/
def cpFill (s : State) (clu line : Nat) : CLine × State :=
  match cluLine s clu 2 line with
  | some l => (l, s)
  | none => let l := fillLine s clu line .cp; (l, setCluLine s clu 2 line l)

/-- Bytes written to a CP line. -/
def cpWrite (s : State) (clu pa : Nat) (bs : List (Option Byte)) : State :=
  let (l, s) := cpFill s clu (lineOf pa)
  let mask := (List.range bs.length).foldl (fun m i => if ((bs[i]?).join).isSome then m ||| 2 ^ (pa % 128 + i) else m) l.dirty
  setCluLine s clu 2 (lineOf pa) { l with data := layOver l.data (pa % 128) bs, dirty := mask }

/-- The issuing strand asks for a line of an HC page: what the home sends is its own, whatever befalls the line (R171). -/
def askLine (s : State) (line : Nat) : State :=
  addHomeReq (s.setMe { s.me with plines := fset s.me.plines line none }) line (cluIndex s.cluId) .read

/-- `n` bytes of one line of a page as a load of the issuing strand's cluster reads them, if they can be answered now. -/
def pageRead (s : State) (pa n : Nat) (attr : BitVec 2) : State × Option (List Byte) :=
  let clu := s.cluId
  let line := lineOf pa
  let take := fun l : List Byte => slice l (pa % 128) n
  if attr = 0#2 then
    match fget? s.me.plines line, hcHeld s (cluIndex clu) line with
    | some (some d), _ => (s, some (take d))
    | _, some (_, d) => (s, some (take d))
    | _, none => (askLine s line, none)
  else if attr = 1#2 then
    if s.posted.any (fun p => p.kind == .sc && p.clu == clu && lineOf p.key == line) || ownScWait s clu line then (s, none)
    else
      let l := match cluLine s clu 1 line with
        | some l => if scFresh (s.clu clu) l then l else fillLine s clu line .sc
        | none => fillLine s clu line .sc
      (setCluLine s clu 1 line l, some (take l.data))
  else
    let (l, s) := cpFill s clu line
    (s, some (take l.data))

/-! ### Peers -/

/-- The transaction that reads the 64-byte granule of a peer pointer. -/
def granTx (s : State) (p : Nat) : Option FabTx :=
  (myTxs s s.coreId s.slotId).find? (fun t => t.peer == bitsN p 59 50 && t.addr == bitsN p 49 6 * 64)

/-- The transaction of the issuing strand that a peer's response answers: the one of its tag; where it carries none, the only
one that has been sent and is still to be answered (R210, R213). -/
def fillTx (s : State) (r : Reply) : State :=
  let open_ := (myTxs s s.coreId s.slotId).filter (fun t => t.resp.isNone && t.peer != fabId s && t.sent)
  match match r.tag with
    | some n => open_.find? (fun t : FabTx => t.id == n)
    | none => if open_.length = 1 then open_.head? else none with
  | none => s
  | some t => answerTx s t.id r

/-- Bytes of a granule as its response gives them; a read that failed gives all ones (R385, R445). -/
def peerBytes (s : State) (p n : Nat) : Option (List Byte) :=
  match granTx s p with
  | some t =>
    match t.resp with
    | some r => some (if r.code = 0 then slice r.data (p % 64) n else List.replicate n 0xFF)
    | none => none
  | none => none

/-- What a load asks of others at its issue: lines of HC pages, and one read of each 64-byte granule of a peer. -/
def askFor (s : State) : List Piece → State
  | [] => s
  | p :: ps =>
    let s := match p.place with
      | .page pa attr _ =>
        if attr = 0#2 && (hcHeld s (cluIndex s.cluId) (lineOf pa)).isNone then
          askLine s (lineOf pa)
        else s
      | .peer q =>
        if (granTx s q).isSome then s
        else (newTx s (bitsN q 59 50) (.read 64) (bitsN q 49 6 * 64) s.at .strand s.tenantId).2
      | _ => s
    askFor s ps

/-! ### Loads -/

/-- One piece read, if it can be answered now. -/
def pieceRead (s : State) (p : Piece) : State × Option (List Byte) :=
  match p.place with
  | .bank key far => if far && pendingBank s key then (s, none) else (s, some (memGet s key p.len))
  | .page pa attr _ => if pendingWord s pa then (s, none) else pageRead s pa p.len attr
  | .peer q => (s, peerBytes s q p.len)
  | _ => (s, some [])

/-- Piece number `n` read, unless that has been done ahead of the others. -/
def partRead (s : State) (n : Nat) (p : Piece) : State × Option (List Byte) :=
  match fget? s.me.pparts n with
  | some b => (s, some b)
  | none => pieceRead s p

/-- All pieces read, numbered from `n` on, with the offsets of their bytes; none while one cannot be answered. -/
def piecesRead (s : State) (n : Nat) : List Piece → State × Option (List (Nat × List Byte))
  | [] => (s, some [])
  | p :: ps =>
    match partRead s n p with
    | (s, none) => ((piecesRead s (n + 1) ps).1, none)
    | (s, some b) =>
      match piecesRead s (n + 1) ps with
      | (s, some l) => (s, some ((p.off, b) :: l))
      | (s, none) => (s, none)

/-- Pieces of near memory read at once, with the offsets of their bytes. -/
def nearRead (s : State) (ps : List Piece) : List (Nat × List Byte) :=
  ps.map (fun p =>
    match p.place with
    | .bank key _ => (p.off, memGet s key p.len)
    | _ => (p.off, []))

/-- Two places in one aligned 8-byte word (R183, R446). -/
def Place.sameWord : Place → Place → Bool
  | .bank a _, .bank b _ | .page a _ _, .page b _ _ | .peer a, .peer b => wordOf a == wordOf b
  | _, _ => false

/-- The pieces of a parked load that lie in one aligned 8-byte word read ahead of the others: words are independent accesses,
the lanes in one are performed together (R183, R446). -/
def readAhead (s : State) (n : Nat) (ps : List Piece) : State :=
  match ps[n]? with
  | none => s
  | some p => (ps.mapIdx (fun m q => (m, q))).foldl (fun s q => if q.2.place.sameWord p.place then one s q.1 q.2 else s) s
where
  /-- A piece read, if it can be answered now. -/
  one (s : State) (n : Nat) (p : Piece) : State :=
    match partRead s n p with
    | (s, some b) => s.setMe { s.me with pparts := fset s.me.pparts n b }
    | (s, none) => s

/-- The strand's transactions are over: the first that failed is recorded in FSTAT (R215). -/
def endTxs (s : State) : State × Bool :=
  let bad := (myTxs s s.coreId s.slotId).find? (fun t => (t.resp.map (·.code)).getD 0 ≠ 0)
  let s := dropTxs s s.coreId s.slotId
  match bad with
  | some t => (s.setMe (s.me.setFstat ((t.resp.map (·.code)).getD 0) t.peer 0), true)
  | none => (s, false)

/-- A load of pieces: near memory is read at issue unless the form parks; anything else is read at the reply. `k` takes
whether a peer read failed, and the bytes. -/
def loadThen (rp : Option Reply) (parks : Bool) (ps : List Piece) (s : State)
    (k : Bool → List (Nat × List Byte) → State → Res) : Res :=
  match rp with
  | none =>
    match unboard s ps with
    | .error e => e.res s
    | .ok _ =>
      if !parks && ps.all (·.near) then
        eccThen s ps (fun s => k false (nearRead s ps) s)
      else awaitReply ps (askFor (dropTxs s s.coreId s.slotId) ps)
  | some r =>
    match s.part with
    | some n => .wait 0 .access (readAhead s n ps)
    | none =>
      let s0 := fillTx s r
      match piecesRead s0 0 ps with
      | (s, none) => .wait 0 .access s
      | (s, some l) => eccWords s (ps.flatMap (·.words s0)) (fun s => let (s, bad) := endTxs s; k bad l s)

/-! ### The side log (R153) -/

/-- A run of bytes for the side log: its first VA, the position of its first part, its bytes. -/
structure Run where
  va   : Nat
  lane : Nat
  data : List Byte
  deriving DecidableEq, Repr

/-- The runs of a table of bytes by VA: contiguous, within one 64 KiB granule; `cur` is the run being built. -/
def runsOf : Option Run → FMap (Nat × Byte) → List Run
  | none, [] => []
  | some r, [] => [r]
  | none, (va, o, b) :: t => runsOf (some { va := va, lane := o, data := [b] }) t
  | some r, (va, o, b) :: t =>
    if va = r.va + r.data.length && va % 65536 ≠ 0 then
      runsOf (some { r with lane := min r.lane o, data := r.data ++ [b] }) t
    else r :: runsOf (some { va := va, lane := o, data := [b] }) t

/-- Runs in ascending order of the first part each serves (R445). -/
def runInsert (r : Run) : List Run → List Run
  | [] => [r]
  | a :: t => if r.lane < a.lane then r :: a :: t else a :: runInsert r t

/-- The runs of the pieces that go to the side log; where two pieces name one byte the later one stays. -/
def logRuns (ps : List Piece) (data : List Byte) : List Run :=
  let tab := ps.foldl (fun (m : FMap (Nat × Byte)) p =>
    match p.place with
    | .log va =>
      (List.range p.len).foldl (fun m i =>
        let o := match fget? m (va + i) with | some (o, _) => o | none => p.off
        fset m (va + i) (o, data.getD (p.off + i) 0)) m
    | _ => m) []
  (runsOf none tab).foldl (fun l r => runInsert r l) []

/-- A notice of a cluster's side log is still held: the next one has to wait (R275). -/
def slNoticeHeld (s : State) (clu : Nat) : Bool := (s.clu clu).held.any (·.src == .sideLog)

/-- The page request for a granule that is not present: one while the granule has entries in the log (R153). `p` names the
strand and the PC. -/
def slRequest (s : State) (clu tenant va core slot : Nat) (pc : Word) : State :=
  if (s.clu clu).slReq.contains (tenant, va / 65536) || slNoticeHeld s clu then s
  else
    let s := s.updClu clu (fun c => { c with slReq := (tenant, va / 65536) :: c.slReq })
    notice s clu { noticeOf s core slot cGPF_NP false 0 pc (gpfInfo true .store va) with tenant := tenant, src := .sideLog }

/-- One entry into the side log. The first entry for a page that is not present sends one page request (R153). -/
def logPush (s : State) (va : Nat) (op : StoreOp) (data : List Byte) : State :=
  let t := s.tenantId
  let clu := s.cluId
  let c := s.clu clu
  let first := !logHolds c t va
  let (id, s) := s.fresh
  let e : SlEntry :=
    { id := id, tenant := t, va := va, op := op, data := data, core := s.coreId, slot := s.slotId, pc := s.me.pc, gone := false }
  let s := s.updClu clu (fun c =>
    { c with
      sidelog := c.sidelog ++ [e],
      slAt := if first then (t, va / 65536, s.cycle) :: c.slAt.filter (fun x => !(x.1 == t && x.2.1 == va / 65536)) else c.slAt })
  if walk s t va == .none then slRequest s clu t va s.coreId s.slotId s.me.pc else s

/-! ### Stores -/

/-- A posted write of one word of memory. -/
def postWord (s : State) (kind : PostKind) (key : Nat) (op : StoreOp) (bs : List (Option Byte)) : State :=
  let (id, s) := s.fresh
  let p : Posted :=
    { id := id, core := s.coreId, slot := s.slotId, clu := s.cluId, kind := kind, key := key, op := op, data := bs,
      done := false, vis := 0 }
  { s with posted := s.posted ++ [p] }

/-- The words that a store posts, in the order of their first pieces: kind, key and bytes. -/
abbrev PWord := PostKind × Nat × List (Option Byte)

def addPWord (kind : PostKind) (key : Nat) (bs : List Byte) : List PWord → List PWord
  | [] => [(kind, wordOf key, List.replicate (key % 8) none ++ bs.map some ++ List.replicate (8 - key % 8 - bs.length) none)]
  | (k, w, d) :: t =>
    if k = kind && w = wordOf key then
      (k, w, d.mapIdx (fun j b => if key % 8 ≤ j && j < key % 8 + bs.length then bs[j - key % 8]? else b)) :: t
    else (k, w, d) :: addPWord kind key bs t

def postKindOf (attr : BitVec 2) : PostKind := if attr = 0#2 then .hc else if attr = 1#2 then .sc else .cp

def pwordsOf (ps : List Piece) (data : List Byte) : List PWord :=
  ps.foldl (fun l p =>
    let bs := slice data p.off p.len
    match p.place with
    | .bank key true => addPWord .bank key bs l
    | .page pa attr _ => addPWord (postKindOf attr) pa bs l
    | _ => l) []

/-- The posted writes of a store; an HC page's line is asked for in ownership (R170). -/
def postAll (s : State) (op : StoreOp) : List PWord → State
  | [] => s
  | (k, w, d) :: t =>
    let s := postWord s k w op d
    let s := if k = .hc && op = .st then addHomeReq s (lineOf w) (cluIndex s.cluId) .own else s
    postAll s op t

/-- The 64-byte granules of peers or groups that a store writes, in order: the pointer of the granule and its bytes. -/
def addGran (p : Nat) (bs : List Byte) : List (Nat × Bool × List (Option Byte)) → Bool → List (Nat × Bool × List (Option Byte))
  | [], m => [(p / 64 * 64, m, layOpt (List.replicate 64 none) (p % 64) bs)]
  | (g, m', d) :: t, m =>
    if g = p / 64 * 64 then (g, m', layOpt d (p % 64) bs) :: t else (g, m', d) :: addGran p bs t m
where
  layOpt (d : List (Option Byte)) (i : Nat) (bs : List Byte) : List (Option Byte) :=
    d.mapIdx (fun j b => if i ≤ j && j < i + bs.length then bs[j - i]? else b)

/-- The posted writes that a store sends to peers and groups: a scalar store one of its own bytes, a vector store one for
each 64-byte granule (R429, R445). -/
def postPeers (s : State) (wide rel : Bool) (ps : List Piece) (data : List Byte) : State :=
  let gs := ps.foldl (fun l p =>
    match p.place with
    | .peer q => addGran q (slice data p.off p.len) l false
    | .mcast q => addGran q (slice data p.off p.len) l true
    | _ => l) []
  if wide then
    gs.foldl (fun s g => postPeer s s.coreId s.slotId (if g.2.1 then .mcast g.1 else .peer g.1) rel g.2.2 s.tenantId) s
  else
    ps.foldl (fun s p =>
      match p.place with
      | .peer _ | .mcast _ => postPeer s s.coreId s.slotId p.place rel ((slice data p.off p.len).map some) s.tenantId
      | _ => s) s

/-- Near memory written at once, piece by piece. -/
def nearPut (s : State) (ps : List Piece) (data : List Byte) : State :=
  ps.foldl (fun s p =>
    match p.place with
    | .bank key false => memPut s key (slice data p.off p.len)
    | _ => s) s

/-- A store of pieces whose release, if any, is done: entries of the side log first need their places in it. -/
def storeNow (wide rel : Bool) (ps : List Piece) (data : List Byte) (s : State) : Res :=
  let runs := logRuns ps data
  if !runs.isEmpty && 256 < (s.clu s.cluId).sidelog.length + runs.length then .wait 0 .cond s
  else
    let s := nearPut s ps data
    let s := postAll s .st (pwordsOf ps data)
    let s := runs.foldl (fun s r => logPush s r.va .st r.data) s
    .done (postPeers s wide rel ps data)

/-- A store of pieces: a form that parks on local memory (VSTS, VSCAT) is performed at its reply. -/
def storeThen (rp : Option Reply) (parks wide : Bool) (sc : Option Scope) (ps : List Piece) (data : List Byte) (s : State) : Res :=
  match unboard s ps with
  | .error e => e.res s
  | .ok _ =>
    afterReleaseAt ps sc s fun s =>
      if rp.isNone && parks && ps.any (·.near) then awaitReply ps s
      else storeNow wide sc.isSome ps data s

/-! ### Atomics -/

/-- The old value of an `n`-byte operand at a place and the state with the new one, if it can be performed now (R349); a new
value that is none writes nothing (R357). -/
def rmwAt (s : State) (p : Place) (n : Nat) (f : Nat → Option Nat) : State × Option Nat :=
  match p with
  | .bank key far =>
    if far && pendingBank s key then (s, none)
    else
      let old := memNat s key n
      match f old with
      | some v => (memPut s key (toBytes n v), some old)
      | none => (s, some old)
  | .page pa attr _ =>
    if pendingWord s pa then (s, none)
    else if attr = 2#2 then
      let (l, s) := cpFill s s.cluId (lineOf pa)
      let old := fromBytes (slice l.data (pa % 128) n)
      match f old with
      | some v => (cpWrite s s.cluId pa ((toBytes n v).map some), some old)
      | none => (s, some old)
    else if lineBusy s (lineOf pa) then (s, none)
    else
      let old := cohNat s pa n
      match f old with
      | none => (s, some old)
      | some v =>
        let bs := toBytes n v
        let s := if attr = 0#2 then memPut (recallLine s (lineOf pa)) pa bs
          else scUpdate (memPut (untrack s (lineOf pa)) pa bs) s.cluId pa (bs.map some)
        (noteVis s s.coreId s.slotId (ccnt s + 1), some old)
  | _ => (s, none)

/-- An atomic whose place is reached at its issue: near memory, and a CP line that the cluster holds (R349). -/
def Piece.atIssue (s : State) (p : Piece) : Bool :=
  match p.place with
  | .bank _ far => !far
  | .page pa attr _ => attr = 2#2 && (cluLine s s.cluId 2 (lineOf pa)).isSome
  | _ => false

/-- An atomic on one piece: `f` gives the new value, `k` takes the old. One that cannot be performed yet waits for its reply. -/
def atomicThen (rp : Option Reply) (p : Piece) (f : Nat → Option Nat) (s : State) (k : Nat → State → Res) : Res :=
  if rp.isNone && !p.atIssue s then awaitReply [p] s
  else eccThen s [p] (fun s =>
    match rmwAt s p.place p.len f with
    | (s, some old) => k old s
    | (s, none) => awaitReply [p] s)

/-- A reduction that returns nothing (R413): on pages it is posted, with VALID 0 or a page that is away it enters the
side log. -/
def reduceThen (rp : Option Reply) (p : Piece) (op : StoreOp) (b : Nat) (s : State) : Res :=
  match p.place with
  | .page pa attr _ => .done (postAll s op (addPWord (postKindOf attr) pa (toBytes p.len b) []))
  | .log va =>
    if 256 ≤ (s.clu s.cluId).sidelog.length then .wait 0 .cond s else .done (logPush s va op (toBytes p.len b))
  | _ => atomicThen rp p (fun old => some (op.apply old b)) s (fun _ s => .done s)

/-! ### Posted writes performed -/

/-- What a posted write leaves in its word, the bytes it does not write none. -/
def applyWord (op : StoreOp) (old : List Byte) (d : List (Option Byte)) : List (Option Byte) :=
  match op with
  | .st => d
  | _ =>
    let i := (d.takeWhile (·.isNone)).length
    let b := d.filterMap id
    let new := toBytes b.length (op.apply (fromBytes (slice old i b.length)) (fromBytes b))
    d.mapIdx (fun j x => if x.isSome then new[j - i]? else none)

/-- No earlier posted write of the same strand to the same bank, or to the same word, is still to be performed, nor an access
to that word through the device's own window (R135, R183). -/
def postedFirst (s : State) (p : Posted) : Bool :=
  (p.kind = .fab || !ownPending s p.core p.slot p.id p.key 8 false) &&
  !((s.posted.takeWhile (fun q => q.id != p.id)).any (fun q =>
    q.core == p.core && q.slot == p.slot && !q.done &&
    (if p.kind = .bank then q.kind == .bank && bankOf q.key == bankOf p.key
     else p.kind != .fab && q.kind != .bank && q.kind != .fab && q.key == p.key)))

/-- What a strand's load has received of a line is dropped: a write of its own to the line has been performed since (R183). -/
def forgetLine (s : State) (core slot line : Nat) : State :=
  if slot < 8 then s.updStrand core slot (fun x => { x with plines := fdel x.plines line }) else s

/-- A posted write performed where its kind is performed; none while an HC line has still to be owned. -/
def doPosted (s : State) (p : Posted) : State × Bool :=
  match p.kind with
  | .fab => (s, true)
  | .bank => (memPutOpt s p.key p.data, true)
  | .sc =>
    let s := untrack s (lineOf p.key)
    let d := applyWord p.op (readBytes s.mem p.key 8) p.data
    (scUpdate (homePut s p.key d) p.clu p.key d, true)
  | .cp =>
    let (l, s) := cpFill s p.clu (lineOf p.key)
    (cpWrite s p.clu p.key (applyWord p.op (slice l.data (p.key % 128) 8) p.data), true)
  | .hc =>
    if p.op = .st then
      match hcHeld s (cluIndex p.clu) (lineOf p.key) with
      | some (st, data) =>
        if st = .m ∨ st = .e then
          (hcPut (forgetLine s p.core p.slot (lineOf p.key)) (cluIndex p.clu)
            (lineOf p.key) (some (.m, layOver data (p.key % 128) p.data)), true)
        else (addHomeReq s (lineOf p.key) (cluIndex p.clu) .own, false)
      | none => (addHomeReq s (lineOf p.key) (cluIndex p.clu) .own, false)
    else if lineBusy s (lineOf p.key) then (s, false)
    else
      let s := recallLine (forgetLine s p.core p.slot (lineOf p.key)) (lineOf p.key)
      (memPutOpt s p.key (applyWord p.op (readBytes s.mem p.key 8) p.data), true)

/-- The word of a CP byte as a cluster reads it: that of a line it holds, or of the home. -/
def cpWord (s : State) (clu pa : Nat) : Nat :=
  if (cluLine s clu 2 (lineOf pa)).isSome then cacheKey (cluIndex clu) 2 pa else wordOf pa

/-- The word that a posted reduction reads. -/
def Posted.word (s : State) (p : Posted) : Nat :=
  match p.kind with
  | .cp => cpWord s p.clu p.key
  | .hc | .sc => homeWord s p.key
  | _ => wordOf p.key

/-- A posted write performed, its errors corrected and counted: a reduction of a word with a double-bit error leaves it poisoned
(R288, R289; notes/assumptions/88.md). -/
def performPosted (s : State) (p : Posted) : State × Bool :=
  if p.op = .st then doPosted s p
  else
    let r := eccScan s p.clu [p.word s]
    match doPosted r.1 p with
    | (s', true) =>
      (if r.2.isSome then { s' with soft := fset s'.soft (if p.kind = .cp then p.word s else wordOf p.key) true } else s', true)
    | (_, false) => (s, false)

end Sys2Proof.Machine
end

