-- ==== Sys2Proof/Machine/FullEmpty.lean ====
section
/-!
DEFINITION. Machine/FullEmpty.lean: the full/empty forms, the banks' wait lists and BAR (06 R137 to R141; 16 R352, R353;
17 R367; 19 R430).
-/
namespace Sys2Proof.Machine

/-- The synchronising forms of R138. -/
inductive FeForm where
  | ldfe | ldff | stef | stff | feset | feq
  deriving DecidableEq, Repr

/-- The state a form waits for: FULL is true. -/
def FeForm.awaits : FeForm → Option Bool
  | .ldfe | .ldff => some true
  | .stef => some false
  | _ => none
/-- The forms that read the word's data. -/
def FeForm.readsWord : FeForm → Bool
  | .ldfe | .ldff => true
  | _ => false

/-- The register effect and the data of a form performed for a strand; its state change follows. -/
def feData (s : State) (core slot : Nat) (f : FeForm) (sd : SReg) (word : Nat) : State :=
  let x := s.strand core slot
  match f with
  | .ldfe | .ldff => s.putReg core slot sd (w64 (memNat s word 8))
  | .stef | .stff => memPut s word (toBytes 8 (x.rS sd).toNat)
  | .feq => s.putReg core slot sd (if feFull s word then 1 else 0)
  | .feset => s

/-- The state a form leaves the word in. -/
def feAfter (s : State) (core slot : Nat) (f : FeForm) (sd : SReg) (word : Nat) : Bool :=
  match f with
  | .ldfe => false
  | .stef | .stff => true
  | .feset => ((s.strand core slot).rS sd).getLsbD 0
  | .ldff | .feq => feFull s word

/-- The form of a parked instruction. -/
def feOf : Instr → Option (FeForm × SReg)
  | .ldfe _ sd _ _ => some (.ldfe, sd)
  | .ldff _ sd _ _ => some (.ldff, sd)
  | .stef _ sd _ _ => some (.stef, sd)
  | _ => none

def waitsOf (s : State) (bank : Nat) : List WaitEnt := fget [] s.waits bank
def setWaits (s : State) (bank : Nat) (l : List WaitEnt) : State :=
  { s with waits := if l.isEmpty then fdel s.waits bank else fset s.waits bank l }
/-- A strand's entry leaves its list. -/
def dropWait (s : State) (bank core slot : Nat) : State :=
  setWaits s bank ((waitsOf s bank).filter (fun e => !(e.core == core && e.slot == slot)))

/-- GEN and COUNT of a barrier word (R352). -/
def barGen (s : State) (word : Nat) : Nat := memNat s (word + 4) 4
def barCount (s : State) (word : Nat) : Nat := memNat s word 4
def barPut (s : State) (word gen count : Nat) : State := memPut s word (toBytes 4 count ++ toBytes 4 gen)

/-- The condition of a listed entry. -/
def WaitEnt.holds (e : WaitEnt) (s : State) : Bool :=
  match e.bar with
  | some g => barGen s e.word != g
  | none => feFull s e.word == e.full

/-- A listed entry performed: its strand's instruction completes. -/
def performWait (s : State) (e : WaitEnt) : State :=
  let s := dropWait s (bankOf e.word) e.core e.slot
  match e.bar with
  | some _ => retire s e.core e.slot
  | none =>
    match decodeTile (s.strand e.core e.slot).pinstr with
    | .ok i =>
      match feOf i with
      | some (f, sd) =>
        let (s, bad) := if f.readsWord then eccScan s (cluOfCore e.core) [e.word] else (s, none)
        match bad with
        | some info => freeze s e.core e.slot cECC info
        | none =>
          let after := feAfter s e.core e.slot f sd e.word
          retire (feSet (feData s e.core e.slot f sd e.word) e.word after) e.core e.slot
      | none => s
    | .error _ => s

/-- One pass over the entries of a word, in arrival order; whether any was performed (R139). -/
def passOnce (s : State) (word : Nat) : List WaitEnt → State × Bool
  | [] => (s, false)
  | e :: es =>
    if e.word = word && e.holds s then ((passOnce (performWait s e) word es).1, true) else passOnce s word es

/-- Passes until one performs nothing; each performed entry leaves the list, so at most 16 perform. -/
def passes (s : State) (word : Nat) : Nat → State
  | 0 => s
  | n + 1 =>
    match passOnce s word (waitsOf s (bankOf word)) with
    | (s, true) => passes s word n
    | (s, false) => s

/-- A word set FULL or EMPTY: where its state changes, the bank examines its entries (R139). -/
def feChange (s : State) (word : Nat) (full : Bool) : State :=
  if feFull s word = full then s else passes (feSet s word full) word 17

/-- The words of a range set FULL or EMPTY. -/
def feChangeRange (s : State) (word : Nat) (full : Bool) : Nat → State
  | 0 => s
  | n + 1 => feChangeRange (feChange s word full) (word + 8) full n

/-- A strand joins a bank's list, or retries every 64 cycles where the list is full (R139). -/
def joinList (s : State) (e : WaitEnt) : Res :=
  let l := waitsOf s (bankOf e.word)
  if l.length < 16 then .wait 1 .listed (setWaits s (bankOf e.word) (l ++ [e])) else .wait 1 .retry s

/-- A form performed for the issuing strand. -/
def feDo (f : FeForm) (sd : SReg) (word : Nat) (s : State) : State :=
  let after := feAfter s s.coreId s.slotId f sd word
  feChange (feData s s.coreId s.slotId f sd word) word after

/-- A form at the bank: it is performed, listed, or faults at once with FEMAX 0 (R139, R140). -/
def feAttempt (f : FeForm) (sd : SReg) (word : Nat) (ptr : Word) (s : State) : Res :=
  match f.awaits with
  | none => .done (feDo f sd word s)
  | some w =>
    if feFull s word = w && !((waitsOf s (bankOf word)).any (fun e => e.word == word && e.full == w && e.bar.isNone)) then
      .done (feDo f sd word s)
    else if feFull s word ≠ w && s.me.bound = 0 then .fault cFE_TIMEOUT ptr
    else joinList s { core := s.coreId, slot := s.slotId, word := word, full := w, bar := none }

def askFe (f : FeForm) : Ask :=
  { k := .load, ld := f.readsWord || f = .feq, st := !(f.readsWord || f = .feq), tags := tagsFe, al := 8, off64 := false }

/-- A full/empty form (R367, R430): on another cluster's shared memory the strand parks for the bank's reply. -/
def opFe (f : FeForm) (sd sa : SReg) (imm : W32) (rp : Option Reply) (s : State) : Res :=
  let ptr := s.rS sa + imm.signExtend 64
  match placed rp s (resolvePtr s (askFe f) ptr 8 0) with
  | .error e => e.res s
  | .ok ps =>
    match unboard s ps with
    | .error e => e.res s
    | .ok _ =>
      match ps with
      | { place := .bank key far, .. } :: _ =>
        if far && rp.isNone then awaitReply ps s
        else if far && pendingBank s key then .wait 0 .access s
        else if f.readsWord then eccThen s ps (feAttempt f sd key ptr) else feAttempt f sd key ptr s
      | _ => .done s

def opLdfe := opFe .ldfe
def opLdff := opFe .ldff
def opStef := opFe .stef
def opStff := opFe .stff
def opFeset := opFe .feset
def opFeq := opFe .feq

/-- BAR's arrival at the bank (R352); `n` is the participant count. -/
def barArrive (word n : Nat) (ptr : Word) (s : State) : Res :=
  let g := barGen s word
  let c := barCount s word
  if n ≤ c + 1 then .done (passes (barPut s word ((g + 1) % 2 ^ 32) 0) word 17)
  else if s.me.bound = 0 then .fault cFE_TIMEOUT ptr
  else
    let s := barPut s word g (c + 1)
    joinList (s.setMe { s.me with pcap := [g] })
      { core := s.coreId, slot := s.slotId, word := word, full := false, bar := some g }

def askBar : Ask := { k := .load, ld := true, st := true, tags := tagsBar, al := 8, off64 := false }

/-- BAR (R352). -/
def opBar (sa sb : SReg) (rp : Option Reply) (s : State) : Res :=
  match placed rp s (resolvePtr s askBar (s.rS sa) 8 0) with
  | .error e => e.res s
  | .ok ps =>
    if s.rS sb = 0 || 65535 < (s.rS sb).toNat then .fault cBOUNDS (s.rS sb)
    else match unboard s ps with
      | .error e => e.res s
      | .ok _ =>
        afterReleaseAt ps (some .clu) s fun s =>
          match ps with
          | { place := .bank key far, .. } :: _ =>
            if far && rp.isNone then awaitReply ps s
            else if far && pendingBank s key then .wait 0 .access s
            else eccThen s ps (barArrive key (s.rS sb).toNat (s.rS sa))
          | _ => .done s

/-- A barrier arrival withdrawn, by its FEMAX or by a Squall or HALT (R353): the flag says that it was. -/
def barWithdraw (s : State) (word g : Nat) : State × Bool :=
  if barGen s word = g then (barPut s word g (barCount s word - 1), true) else (s, false)

def execLdfe (g : Guard) (sd sa : SReg) (imm : W32) (s : State) : Outc := issue (.ldfe g sd sa imm) g (opLdfe sd sa imm none) s
def execLdff (g : Guard) (sd sa : SReg) (imm : W32) (s : State) : Outc := issue (.ldff g sd sa imm) g (opLdff sd sa imm none) s
def execStef (g : Guard) (sd sa : SReg) (imm : W32) (s : State) : Outc := issue (.stef g sd sa imm) g (opStef sd sa imm none) s
def execStff (g : Guard) (sd sa : SReg) (imm : W32) (s : State) : Outc := issue (.stff g sd sa imm) g (opStff sd sa imm none) s
def execFeset (g : Guard) (sd sa : SReg) (imm : W32) (s : State) : Outc :=
  issue (.feset g sd sa imm) g (opFeset sd sa imm none) s
def execFeq (g : Guard) (sd sa : SReg) (imm : W32) (s : State) : Outc := issue (.feq g sd sa imm) g (opFeq sd sa imm none) s
def execBar (g : Guard) (sa sb : SReg) (s : State) : Outc := issue (.bar g sa sb) g (opBar sa sb none) s

end Sys2Proof.Machine
end

