-- ==== Sys2Proof/Machine/Scalar.lean ====
section
/-!
DEFINITION. Machine/Scalar.lean: the scalar ALU instructions (15 R323; 16 to 19, R347 to R426).
-/
namespace Sys2Proof.Machine

/-- The immediate of format SI, sign-extended (R314). -/
def immW (imm : W32) : Word := imm.signExtend 64

/-- An instruction that writes one scalar register. -/
def putS (sd : SReg) (v : State → Word) (s : State) : Res := .done (s.wS sd (v s))

/-! ### The functions -/

/-- The high half of a product (R406). -/
def mulHigh (u : Bool) (a b : Word) : Word :=
  if u then w64 (a.toNat * b.toNat / 2 ^ 64)
  else BitVec.ofInt 64 (a.toInt * b.toInt / 2 ^ 64)

/-- The quotient (R361). -/
def divW (u : Bool) (a b : Word) : Word :=
  if b = 0#64 then BitVec.allOnes 64
  else if u then w64 (a.toNat / b.toNat)
  else BitVec.ofInt 64 (Int.tdiv a.toInt b.toInt)

/-- The remainder (R415). -/
def remW (u : Bool) (a b : Word) : Word :=
  if b = 0#64 then a
  else if u then w64 (a.toNat % b.toNat)
  else BitVec.ofInt 64 (Int.tmod a.toInt b.toInt)

/-- Leading zeros (R358). -/
def clzN (a : Word) : Nat := if a = 0#64 then 64 else 63 - Nat.log2 a.toNat

/-- Set bits among the low `n` (R378, R410). -/
def popN (n a : Nat) : Nat := (List.range n).countP (fun i => bitN a i)

/-- The lesser or greater of two words (R391). -/
def minW (u : Bool) (a b : Word) : Word :=
  if (if u then decide (a.toNat ≤ b.toNat) else decide (a.toInt ≤ b.toInt)) then a else b
def maxW (u : Bool) (a b : Word) : Word :=
  if (if u then decide (b.toNat ≤ a.toNat) else decide (b.toInt ≤ a.toInt)) then a else b

/-- The conditions on words of a width (R359). -/
def condW {w : Nat} (c : Cond) (a b : BitVec w) : Bool :=
  match c with
  | .eq => a = b
  | .ne => a ≠ b
  | .lt => a.toInt < b.toInt
  | .le => a.toInt ≤ b.toInt
  | .gt => b.toInt < a.toInt
  | .ge => b.toInt ≤ a.toInt
  | .ltu => a.toNat < b.toNat
  | .leu => a.toNat ≤ b.toNat
  | .gtu => b.toNat < a.toNat
  | .geu => b.toNat ≤ a.toNat

/-- The logic operations on one bit (R321). -/
def logicB (op : LogicOp) (a b : Bool) : Bool :=
  match op with
  | .and => a && b
  | .or => a || b
  | .xor => xor a b
  | .andn => a && !b
  | .orn => a || !b
  | .nand => !(a && b)
  | .nor => !(a || b)
  | .xnor => !(xor a b)

/-- A shift amount (R426). -/
def amount (s : State) : Amount → Nat
  | .reg sb => (s.rS sb).toNat % 64
  | .imm n => n.toNat

/-- A bit field, sign- or zero-extended (R354); LEN is `len1` + 1. -/
def bfxW (u : Bool) (a : Word) (pos len1 : Nat) : Word :=
  let v := a.toNat / 2 ^ pos
  if u then w64 (v % 2 ^ (len1 + 1)) else sextN (len1 + 1) v

/-- A bit field inserted (R354). -/
def bfiW (d a : Word) (pos len1 : Nat) : Word := w64 (putBits d.toNat (pos + len1) pos a.toNat)

/-! ### The instructions -/

def opAdd (sd sa sb : SReg) : State → Res := putS sd (fun s => s.rS sa + s.rS sb)
def opAddImm (sd sa : SReg) (imm : W32) : State → Res := putS sd (fun s => s.rS sa + immW imm)
def opSub (sd sa sb : SReg) : State → Res := putS sd (fun s => s.rS sa - s.rS sb)
def opMul (sd sa sb : SReg) : State → Res := putS sd (fun s => s.rS sa * s.rS sb)
def opMulh (u : Bool) (sd sa sb : SReg) : State → Res := putS sd (fun s => mulHigh u (s.rS sa) (s.rS sb))
def opAnd (sd sa sb : SReg) : State → Res := putS sd (fun s => s.rS sa &&& s.rS sb)
def opAndImm (sd sa : SReg) (imm : W32) : State → Res := putS sd (fun s => s.rS sa &&& immW imm)
def opAndn (sd sa sb : SReg) : State → Res := putS sd (fun s => s.rS sa &&& ~~~ s.rS sb)
def opOr (sd sa sb : SReg) : State → Res := putS sd (fun s => s.rS sa ||| s.rS sb)
def opOrImm (sd sa : SReg) (imm : W32) : State → Res := putS sd (fun s => s.rS sa ||| immW imm)
def opXor (sd sa sb : SReg) : State → Res := putS sd (fun s => s.rS sa ^^^ s.rS sb)
def opXorImm (sd sa : SReg) (imm : W32) : State → Res := putS sd (fun s => s.rS sa ^^^ immW imm)
def opShl (sd sa : SReg) (n : Amount) : State → Res := putS sd (fun s => s.rS sa <<< amount s n)
def opShr (sd sa : SReg) (n : Amount) : State → Res := putS sd (fun s => s.rS sa >>> amount s n)
def opSra (sd sa : SReg) (n : Amount) : State → Res := putS sd (fun s => (s.rS sa).sshiftRight (amount s n))
def opClz (sd sa : SReg) : State → Res := putS sd (fun s => w64 (clzN (s.rS sa)))
def opPopc (sd sa : SReg) : State → Res := putS sd (fun s => w64 (popN 64 (s.rS sa).toNat))
def opMin (u : Bool) (sd sa sb : SReg) : State → Res := putS sd (fun s => minW u (s.rS sa) (s.rS sb))
def opMax (u : Bool) (sd sa sb : SReg) : State → Res := putS sd (fun s => maxW u (s.rS sa) (s.rS sb))
def opSel (sd : SReg) (pn : PReg) (sa sb : SReg) : State → Res :=
  putS sd (fun s => if s.rP pn then s.rS sa else s.rS sb)
def opMovi (sd : SReg) (imm : W32) : State → Res := putS sd (fun _ => immW imm)
def opMovhi (sd : SReg) (imm : W32) : State → Res := putS sd (fun s => imm ++ (s.rS sd).setWidth 32)
def opBfx (u : Bool) (sd sa : SReg) (pos len1 : BitVec 6) : State → Res :=
  putS sd (fun s => bfxW u (s.rS sa) pos.toNat len1.toNat)
def opBfi (sd sa : SReg) (pos len1 : BitVec 6) : State → Res :=
  putS sd (fun s => bfiW (s.rS sd) (s.rS sa) pos.toNat len1.toNat)
/-- DIV and REM: the strand is OFFROT for four issue cycles (R27). -/
def opDiv (u : Bool) (sd sa sb : SReg) (s : State) : Res := .off (s.wS sd (divW u (s.rS sa) (s.rS sb))) 4
def opRem (u : Bool) (sd sa sb : SReg) (s : State) : Res := .off (s.wS sd (remW u (s.rS sa) (s.rS sb))) 4
def opCmp (c : Cond) (pd : PReg) (sa sb : SReg) (s : State) : Res := .done (s.wP pd (condW c (s.rS sa) (s.rS sb)))
def opCmpImm (c : Cond) (pd : PReg) (sa : SReg) (imm : W32) (s : State) : Res :=
  .done (s.wP pd (condW c (s.rS sa) (immW imm)))
def opPlog (op : LogicOp) (pd pa pb : PReg) (s : State) : Res := .done (s.wP pd (logicB op (s.rP pa) (s.rP pb)))



def execAdd (g : Guard) (sd sa sb : SReg) (s : State) : Outc := issue (.add g sd sa sb) g (opAdd sd sa sb) s
def execAddImm (g : Guard) (sd sa : SReg) (imm : W32) (s : State) : Outc :=
  issue (.addImm g sd sa imm) g (opAddImm sd sa imm) s
def execSub (g : Guard) (sd sa sb : SReg) (s : State) : Outc := issue (.sub g sd sa sb) g (opSub sd sa sb) s
def execMul (g : Guard) (sd sa sb : SReg) (s : State) : Outc := issue (.mul g sd sa sb) g (opMul sd sa sb) s
def execMulh (g : Guard) (u : Bool) (sd sa sb : SReg) (s : State) : Outc :=
  issue (.mulh g u sd sa sb) g (opMulh u sd sa sb) s
def execDiv (g : Guard) (u : Bool) (sd sa sb : SReg) (s : State) : Outc :=
  issue (.div g u sd sa sb) g (opDiv u sd sa sb) s
def execRem (g : Guard) (u : Bool) (sd sa sb : SReg) (s : State) : Outc :=
  issue (.rem g u sd sa sb) g (opRem u sd sa sb) s
def execAnd (g : Guard) (sd sa sb : SReg) (s : State) : Outc := issue (.and g sd sa sb) g (opAnd sd sa sb) s
def execAndImm (g : Guard) (sd sa : SReg) (imm : W32) (s : State) : Outc :=
  issue (.andImm g sd sa imm) g (opAndImm sd sa imm) s
def execAndn (g : Guard) (sd sa sb : SReg) (s : State) : Outc := issue (.andn g sd sa sb) g (opAndn sd sa sb) s
def execOr (g : Guard) (sd sa sb : SReg) (s : State) : Outc := issue (.or g sd sa sb) g (opOr sd sa sb) s
def execOrImm (g : Guard) (sd sa : SReg) (imm : W32) (s : State) : Outc :=
  issue (.orImm g sd sa imm) g (opOrImm sd sa imm) s
def execXor (g : Guard) (sd sa sb : SReg) (s : State) : Outc := issue (.xor g sd sa sb) g (opXor sd sa sb) s
def execXorImm (g : Guard) (sd sa : SReg) (imm : W32) (s : State) : Outc :=
  issue (.xorImm g sd sa imm) g (opXorImm sd sa imm) s
def execShl (g : Guard) (sd sa : SReg) (n : Amount) (s : State) : Outc := issue (.shl g sd sa n) g (opShl sd sa n) s
def execShr (g : Guard) (sd sa : SReg) (n : Amount) (s : State) : Outc := issue (.shr g sd sa n) g (opShr sd sa n) s
def execSra (g : Guard) (sd sa : SReg) (n : Amount) (s : State) : Outc := issue (.sra g sd sa n) g (opSra sd sa n) s
def execClz (g : Guard) (sd sa : SReg) (s : State) : Outc := issue (.clz g sd sa) g (opClz sd sa) s
def execPopc (g : Guard) (sd sa : SReg) (s : State) : Outc := issue (.popc g sd sa) g (opPopc sd sa) s
def execMin (g : Guard) (u : Bool) (sd sa sb : SReg) (s : State) : Outc :=
  issue (.min g u sd sa sb) g (opMin u sd sa sb) s
def execMax (g : Guard) (u : Bool) (sd sa sb : SReg) (s : State) : Outc :=
  issue (.max g u sd sa sb) g (opMax u sd sa sb) s
def execSel (g : Guard) (sd : SReg) (pn : PReg) (sa sb : SReg) (s : State) : Outc :=
  issue (.sel g sd pn sa sb) g (opSel sd pn sa sb) s
def execCmp (g : Guard) (c : Cond) (pd : PReg) (sa sb : SReg) (s : State) : Outc :=
  issue (.cmp g c pd sa sb) g (opCmp c pd sa sb) s
def execCmpImm (g : Guard) (c : Cond) (pd : PReg) (sa : SReg) (imm : W32) (s : State) : Outc :=
  issue (.cmpImm g c pd sa imm) g (opCmpImm c pd sa imm) s
def execMovi (g : Guard) (sd : SReg) (imm : W32) (s : State) : Outc := issue (.movi g sd imm) g (opMovi sd imm) s
def execMovhi (g : Guard) (sd : SReg) (imm : W32) (s : State) : Outc := issue (.movhi g sd imm) g (opMovhi sd imm) s
def execBfx (g : Guard) (u : Bool) (sd sa : SReg) (pos len1 : BitVec 6) (s : State) : Outc :=
  issue (.bfx g u sd sa pos len1) g (opBfx u sd sa pos len1) s
def execBfi (g : Guard) (sd sa : SReg) (pos len1 : BitVec 6) (s : State) : Outc :=
  issue (.bfi g sd sa pos len1) g (opBfi sd sa pos len1) s
def execPlog (g : Guard) (op : LogicOp) (pd pa pb : PReg) (s : State) : Outc :=
  issue (.plog g op pd pa pb) g (opPlog op pd pa pb) s

end Sys2Proof.Machine
end

