-- ==== Sys2Proof/Machine/ScalarMem.lean ====
section
/-!
DEFINITION. Machine/ScalarMem.lean: LD, ST, AMO, CAS, AMOF, RED and REDF (16 to 19, R348 to R350, R357, R384, R412,
R428). Each operation runs at issue (`rp` none) and again at its reply (`rp` the reply).
-/
namespace Sys2Proof.Machine

def sizeBytes : Size → Nat
  | .b => 1 | .h => 2 | .w => 4 | .d => 8
/-- The bytes of an atomic's operand (R349). -/
def atomBytes (d : Bool) : Nat := if d then 8 else 4

def askLoad (al : Nat) : Ask := { k := .load, ld := true, st := false, tags := tagsLoad, al := al, off64 := false }
def askStore (al : Nat) : Ask := { k := .store, ld := false, st := true, tags := tagsStore, al := al, off64 := false }
def askAtomic (n : Nat) : Ask := { k := .atomic, ld := true, st := true, tags := tagsAtomic, al := n, off64 := false }
def askReduce (n : Nat) : Ask := { k := .store, ld := true, st := true, tags := tagsAtomic, al := n, off64 := false }

/-- The bytes a load has read, in order. -/
def joined (l : List (Nat × List Byte)) : List Byte := l.flatMap (·.2)

/-- The register value of a load of `n` bytes (R385). -/
def loadVal (u bad : Bool) (n : Nat) (l : List (Nat × List Byte)) : Word :=
  if bad then BitVec.allOnes 64 else if u then w64 (fromBytes (joined l)) else sextN (8 * n) (fromBytes (joined l))

/-- LD at a formed address (R385). -/
def loadAt (u : Bool) (n : Nat) (acq : Option Scope) (sd : SReg) (a : Addr) (rp : Option Reply) (s : State) : Res :=
  match placed rp s (resolve s (askLoad (if acq.isSome then n else 1)) a n 0) with
  | .error e => e.res s
  | .ok ps => loadThen rp false ps s (fun bad l s => thenAcquire acq (s.wS sd (loadVal u bad n l)))

def opLd (u : Bool) (sz : Size) (acq : Option Scope) (sd sa : SReg) (imm : W32) (rp : Option Reply) (s : State) : Res :=
  loadAt u (sizeBytes sz) acq sd (s.addrImm sa imm) rp s
def opLdIndexed (u : Bool) (sz : Size) (acq : Option Scope) (sd : SReg) (a : IdxAddr) (rp : Option Reply) (s : State) : Res :=
  loadAt u (sizeBytes sz) acq sd (s.addrIdx a) rp s

/-- ST at a formed address (R429). -/
def storeAt (n : Nat) (rel : Option Scope) (sd : SReg) (a : Addr) (rp : Option Reply) (s : State) : Res :=
  match placed rp s (resolve s (askStore (if rel.isSome then n else 1)) a n 0) with
  | .error e => e.res s
  | .ok ps => storeThen rp false false rel ps (toBytes n (s.rS sd).toNat) s

def opSt (sz : Size) (rel : Option Scope) (sd sa : SReg) (imm : W32) (rp : Option Reply) (s : State) : Res :=
  storeAt (sizeBytes sz) rel sd (s.addrImm sa imm) rp s
def opStIndexed (sz : Size) (rel : Option Scope) (sd : SReg) (a : IdxAddr) (rp : Option Reply) (s : State) : Res :=
  storeAt (sizeBytes sz) rel sd (s.addrIdx a) rp s

/-- An atomic at a formed address: its release, the operation `f`, its acquire (R184, R349). -/
def atomicAt (n : Nat) (ord : MemOrd) (a : Addr) (f : Nat → Option Nat) (put : Nat → State → State) (rp : Option Reply) (s : State) :
    Res :=
  match placed rp s (resolve s (askAtomic n) a n 0) with
  | .error e => e.res s
  | .ok [] => .done s
  | .ok (p :: _) =>
    match unboard s [p] with
    | .error e => e.res s
    | .ok _ =>
      afterReleaseAt [p] (ordRel ord) s fun s =>
        atomicThen rp p f s (fun old s => thenAcquire (ordAcq ord) (put old s))

/-- The low `n` bytes of a register. -/
def lowBytes (s : State) (r : SReg) (n : Nat) : Nat := (s.rS r).toNat % 2 ^ (8 * n)

def opAmo (op : IntOp) (d : Bool) (ord : MemOrd) (sd : SReg) (a : AtomAddr) (sb : SReg) (rp : Option Reply) (s : State) : Res :=
  let n := atomBytes d
  atomicAt n ord (s.addrAtom a) (fun old => some (intOp op n old (lowBytes s sb n))) (fun old s => s.wS sd (sextN (8 * n) old)) rp s
def opCas (d : Bool) (ord : MemOrd) (sd sa sb sc : SReg) (rp : Option Reply) (s : State) : Res :=
  let n := atomBytes d
  atomicAt n ord (.ptr (s.rS sa)) (fun old => if old = lowBytes s sb n then some (lowBytes s sc n) else none)
    (fun old s => s.wS sd (sextN (8 * n) old)) rp s
def opAmof (op : FloatOp) (ord : MemOrd) (sd : SReg) (a : AtomAddr) (sb : SReg) (rp : Option Reply) (s : State) : Res :=
  atomicAt 4 ord (s.addrAtom a) (fun old => some (floatOp op old (lowBytes s sb 4))) (fun old s => s.wS sd (w64 old)) rp s

/-- RED and REDF at a formed address (R413). -/
def reduceAt (n : Nat) (rel : Option Scope) (a : Addr) (op : StoreOp) (sb : SReg) (rp : Option Reply) (s : State) : Res :=
  match placed rp s (resolve s (askReduce n) a n 0) with
  | .error e => e.res s
  | .ok [] => .done s
  | .ok (p :: _) =>
    match unboard s [p] with
    | .error e => e.res s
    | .ok _ => afterReleaseAt [p] rel s (fun s => reduceThen rp p op (lowBytes s sb n) s)

def opRed (op : IntOp) (d : Bool) (rel : Option Scope) (a : AtomAddr) (sb : SReg) (rp : Option Reply) (s : State) : Res :=
  reduceAt (atomBytes d) rel (s.addrAtom a) (.red op d) sb rp s
def opRedf (op : FloatOp) (rel : Option Scope) (a : AtomAddr) (sb : SReg) (rp : Option Reply) (s : State) : Res :=
  reduceAt 4 rel (s.addrAtom a) (.redf op) sb rp s

def execLd (g : Guard) (u : Bool) (sz : Size) (acq : Option Scope) (sd sa : SReg) (imm : W32) (s : State) : Outc :=
  issue (.ld g u sz acq sd sa imm) g (opLd u sz acq sd sa imm none) s
def execLdIndexed (g : Guard) (u : Bool) (sz : Size) (acq : Option Scope) (sd : SReg) (a : IdxAddr) (s : State) : Outc :=
  issue (.ldIndexed g u sz acq sd a) g (opLdIndexed u sz acq sd a none) s
def execSt (g : Guard) (sz : Size) (rel : Option Scope) (sd sa : SReg) (imm : W32) (s : State) : Outc :=
  issue (.st g sz rel sd sa imm) g (opSt sz rel sd sa imm none) s
def execStIndexed (g : Guard) (sz : Size) (rel : Option Scope) (sd : SReg) (a : IdxAddr) (s : State) : Outc :=
  issue (.stIndexed g sz rel sd a) g (opStIndexed sz rel sd a none) s
def execAmo (g : Guard) (op : IntOp) (d : Bool) (ord : MemOrd) (sd : SReg) (a : AtomAddr) (sb : SReg) (s : State) : Outc :=
  issue (.amo g op d ord sd a sb) g (opAmo op d ord sd a sb none) s
def execCas (g : Guard) (d : Bool) (ord : MemOrd) (sd sa sb sc : SReg) (s : State) : Outc :=
  issue (.cas g d ord sd sa sb sc) g (opCas d ord sd sa sb sc none) s
def execAmof (g : Guard) (op : FloatOp) (ord : MemOrd) (sd : SReg) (a : AtomAddr) (sb : SReg) (s : State) : Outc :=
  issue (.amof g op ord sd a sb) g (opAmof op ord sd a sb none) s
def execRed (g : Guard) (op : IntOp) (d : Bool) (rel : Option Scope) (a : AtomAddr) (sb : SReg) (s : State) : Outc :=
  issue (.red g op d rel a sb) g (opRed op d rel a sb none) s
def execRedf (g : Guard) (op : FloatOp) (rel : Option Scope) (a : AtomAddr) (sb : SReg) (s : State) : Outc :=
  issue (.redf g op rel a sb) g (opRedf op rel a sb none) s

end Sys2Proof.Machine
end

