-- ==== Sys2Proof/Machine/Vector.lean ====
section
/-!
DEFINITION. Machine/Vector.lean: the vector ALU (19 R435 to R443; 17 R378; 18 R417; 11 R246 to R251).
-/
namespace Sys2Proof.Machine

/-! ### Lanes (R435) -/

/-- Element `i` of a register that holds elements of `w` bits. -/
def elem (w : Nat) (v : VReg) (i : Nat) : Nat := bitsN v.toNat (w * i + w - 1) (w * i)
/-- Lane `i`. -/
def lane (v : VReg) (i : Nat) : Nat := elem 32 v i
def lanes (v : VReg) : List Nat := (List.range 16).map (lane v)

/-- Elements of `w` bits side by side, element 0 lowest. -/
def packW (w : Nat) : List Nat → Nat
  | [] => 0
  | x :: xs => x % 2 ^ w + 2 ^ w * packW w xs
def vregOf (w : Nat) (l : List Nat) : VReg := BitVec.ofNat 512 (packW w l)

/-- The 16 elements that a lane-wise operation leaves, with the flags of the active ones: inactive elements keep what they
hold, and what lies above a packed result is zero. -/
def laneMap (w : Nat) (m : BitVec 16) (old : VReg) (f : Nat → Nat × Flags) : VReg × Flags :=
  let l := (List.range 16).map (fun i => if m.getLsbD i then f i else (elem w old i, 0))
  (vregOf w (l.map (·.1)), l.foldl (fun a x => a ||| x.2) 0)

/-- A lane-wise operation under a mask: its register and its flags. -/
def laneOp (w : Nat) (vd : VNum) (km : KReg) (f : State → Nat → Nat × Flags) (s : State) : State :=
  let (v, fl) := laneMap w (s.rK km) (s.rV vd.toNat) (f s)
  (s.wV vd.toNat v).raise fl

/-! ### Arithmetic (R436, R437) -/

/-- A 32-bit word as a signed integer. -/
def sg32 (x : Nat) : Int := if x < 2 ^ 31 then (x : Int) else (x : Int) - 2 ^ 32

inductive Arith where
  | add | sub | mul | min | max
  deriving DecidableEq, Repr

/-- Two-operand arithmetic of a type on 32-bit words. -/
def arith (op : Arith) (ty : Ty) (rm : Rounding) (a b : Nat) : Nat × Flags :=
  if ty = .fp32 then
    match op with
    | .add => fAdd rm a b
    | .sub => fSub rm a b
    | .mul => fMul rm a b
    | .min => fMinMax false a b
    | .max => fMinMax true a b
  else
    match op with
    | .add => ((a + b) % 2 ^ 32, 0)
    | .sub => ((a + 2 ^ 32 - b) % 2 ^ 32, 0)
    | .mul => (a * b % 2 ^ 32, 0)
    | .min => (if (if ty = .int32 then decide (sg32 a ≤ sg32 b) else decide (a ≤ b)) then a else b, 0)
    | .max => (if (if ty = .int32 then decide (sg32 b ≤ sg32 a) else decide (b ≤ a)) then a else b, 0)

def opArith (op : Arith) (ty : Ty) (vd va vb : VNum) (km : KReg) (s : State) : Res :=
  .done (laneOp 32 vd km (fun s i => arith op ty s.rm (lane (s.rV va.toNat) i) (lane (s.rV vb.toNat) i)) s)

def opVadd := opArith .add
def opVsub := opArith .sub
def opVmul := opArith .mul
def opVmin := opArith .min
def opVmax := opArith .max

/-- VFMA: one rounding (R436). -/
def fma32 (ty : Ty) (rm : Rounding) (a b c : Nat) : Nat × Flags :=
  if ty = .fp32 then fFma rm a b c else ((a * b + c) % 2 ^ 32, 0)
def opVfma (ty : Ty) (vd va vb vc : VNum) (km : KReg) (s : State) : Res :=
  .done (laneOp 32 vd km (fun s i =>
    fma32 ty s.rm (lane (s.rV va.toNat) i) (lane (s.rV vb.toNat) i) (lane (s.rV vc.toNat) i)) s)

/-- An FP32 code is a NaN. -/
def isNaN32 (a : Nat) : Bool := decide (0x7F800000 < a % 2 ^ 31)
/-- An FP32 code is a NaN or an infinity. -/
def notFinite32 (a : Nat) : Bool := decide (0x7F800000 ≤ a % 2 ^ 31)
def abs32 (ty : Ty) (a : Nat) : Nat :=
  if ty = .fp32 then (if isNaN32 a then 0x7FC00000 else a % 2 ^ 31)
  else if ty = .int32 then (sg32 a).natAbs % 2 ^ 32 else a
def neg32 (ty : Ty) (a : Nat) : Nat :=
  if ty = .fp32 then (if isNaN32 a then 0x7FC00000 else Nat.xor a (2 ^ 31)) else (2 ^ 32 - a) % 2 ^ 32

/-- An operation of one source without flags. -/
def opUnary (f : Nat → Nat) (vd va : VNum) (km : KReg) (s : State) : Res :=
  .done (laneOp 32 vd km (fun s i => (f (lane (s.rV va.toNat) i), 0)) s)
/-- An operation of two sources without flags. -/
def opBinary (f : Nat → Nat → Nat) (vd va vb : VNum) (km : KReg) (s : State) : Res :=
  .done (laneOp 32 vd km (fun s i => (f (lane (s.rV va.toNat) i) (lane (s.rV vb.toNat) i), 0)) s)

def opVabs (ty : Ty) := opUnary (abs32 ty)
def opVneg (ty : Ty) := opUnary (neg32 ty)

def bit32 (op : BitOp) (a b : Nat) : Nat :=
  match op with
  | .and => Nat.land a b
  | .or => Nat.lor a b
  | .xor => Nat.xor a b
  | .andn => Nat.land a (2 ^ 32 - 1 - b)
  | .not => 2 ^ 32 - 1 - a
def opVbit (op : BitOp) := opBinary (bit32 op)

def shift32 (op : ShiftOp) (a c : Nat) : Nat :=
  match op with
  | .shl => a * 2 ^ c % 2 ^ 32
  | .shr => a / 2 ^ c
  | .sra => ((sg32 a / (2 : Int) ^ c) % (2 ^ 32 : Int)).toNat
def opVsh (op : ShiftOp) (vd va : VNum) (n : VAmount) (km : KReg) (s : State) : Res :=
  match n with
  | .vec vb => opBinary (fun a b => shift32 op a (b % 64)) vd va vb km s
  | .imm k => opUnary (fun a => shift32 op a k.toNat) vd va km s

/-! ### Comparison and selection (R438) -/

/-- A condition on two words of a type, with NV for an ordered comparison of a NaN. -/
def cmp32 (c : Cond) (ty : Ty) (a b : Nat) : Bool × Flags :=
  if ty = .fp32 then
    match cmpFV (decodeNum .fp32 a) (decodeNum .fp32 b) with
    | none => (c = .ne, if c = .eq ∨ c = .ne then 0 else fNV)
    | some o =>
      (match c with
        | .eq => o = .eq
        | .ne => o ≠ .eq
        | .lt => o = .lt
        | .le => o ≠ .gt
        | .gt => o = .gt
        | .ge => o ≠ .lt
        | _ => false, 0)
  else (condW c (BitVec.ofNat 32 a) (BitVec.ofNat 32 b), 0)

def opVcmp (c : Cond) (ty : Ty) (kd : KReg) (va vb : VNum) (km : KReg) (s : State) : Res :=
  let m := s.rK km
  let r := (List.range 16).map (fun i =>
    if m.getLsbD i then cmp32 c ty (lane (s.rV va.toNat) i) (lane (s.rV vb.toNat) i) else (false, 0))
  .done ((s.wK kd (BitVec.ofNat 16 (packW 1 (r.map (fun x => b2n x.1))))).raise (r.foldl (fun a x => a ||| x.2) 0))

def opVsel (vd va vb : VNum) (kc km : KReg) (s : State) : Res :=
  .done (laneOp 32 vd km (fun s i =>
    (if (s.rK kc).getLsbD i then lane (s.rV va.toNat) i else lane (s.rV vb.toNat) i, 0)) s)

/-! ### Conversions (R439, R246) -/

/-- One element converted; a source of the destination's type keeps its value, a NaN made canonical with the flags of its
conversion (R242). -/
def cvtElem (dty sty : Ty) (rm : Rounding) (ns : Bool) (x : Nat) : Nat × Flags :=
  if dty = sty then (if decodeNum sty x = .nan then (canonNaN sty, (convert dty rm ns .nan).2) else (x, 0))
  else convert dty rm ns (decodeNum sty x)

def opVcvt (dty sty : Ty) (ns : Bool) (vd va : VNum) (km : KReg) (s : State) : Res :=
  .done (laneOp (tyBits dty) vd km (fun s i => cvtElem dty sty s.rm ns (elem (tyBits sty) (s.rV va.toNat) i)) s)

/-- An outlier of VCVTO: infinite, or out of the destination's range once rounded without saturation (R246). -/
def outlier (dty sty : Ty) (rm : Rounding) (x : Nat) : Bool :=
  match decodeNum sty x with
  | .nan => false
  | .inf _ => true
  | v => ((convert dty rm true v).2 &&& (if (intRange dty).isSome then fNV else fOF)) ≠ 0

/-- The 8 bytes of an outlier entry (R245). -/
def outEntry (sty : Ty) (x idx : Nat) : List Byte :=
  toBytes 4 (idx % 2 ^ 32) ++ toBytes 4 (convert .fp32 .rne true (decodeNum sty x)).1

/-- VCVTO's lanes: outliers give +0. -/
def vcvtoLanes (dty sty : Ty) (ns : Bool) (vd va : VNum) (km : KReg) (s : State) : State :=
  laneOp (tyBits dty) vd km (fun s i =>
    let x := elem (tyBits sty) (s.rV va.toNat) i
    if outlier dty sty s.rm x then (0, 0) else cvtElem dty sty s.rm ns x) s

/-- VCVTO (R246). -/
def opVcvto (dty sty : Ty) (ns : Bool) (vd va : VNum) (sb : SReg) (km : KReg) (s : State) : Res :=
  let src := s.rV va.toNat
  let os := (List.range 16).filter (fun i => (s.rK km).getLsbD i && outlier dty sty s.rm (elem (tyBits sty) src i))
  let k := os.length
  if k = 0 then .done (vcvtoLanes dty sty ns vd va km s)
  else
    let ptr := s.me.olbase + w64 (8 * s.me.olcnt.toNat)
    match checkSpace s tagsScratch ptr with
    | some e => e.res s
    | none =>
      if fld ptr 2 0 ≠ 0 then .fault cALIGN ptr
      else match localPlace s ptr (8 * k) with
        | some (.bank key _) =>
          if s.me.olcap.toNat < s.me.olcnt.toNat + k then
            .fault cOUTLIER_FULL (w64 (k * 2 ^ 32 + s.me.olcap.toNat))
          else match dataMatch s false true ptr.toNat (8 * k) with
            | some c => .brk c
            | none =>
              if boardHit s s.coreId (key - scrKey s.coreId 0) (8 * k) then .wait 5 .board s
              else
                let bs := os.flatMap (fun i => outEntry sty (elem (tyBits sty) src i) ((s.rS sb).toNat % 2 ^ 32 + i))
                let s := vcvtoLanes dty sty ns vd va km (memPut s key bs)
                .done (s.setMe { s.me with olcnt := w64 ((s.me.olcnt.toNat + k) % 2 ^ 32) })
        | _ => .fault cBOUNDS ptr

/-! ### Long operations and reductions (R440, R441, R248) -/

def opLong (op : LongOp) (vd va : VNum) (km : KReg) (s : State) : Res :=
  .off (laneOp 32 vd km (fun s i => fLong op s.rm (lane (s.rV va.toNat) i)) s) 3

def opVexp2 := opLong .exp2
def opVlog2 := opLong .log2
def opVrcp := opLong .rcp
def opVrsq := opLong .rsq
def opVsqrt := opLong .sqrt

/-- One level of the tree of R248. -/
def redLevel (f : Nat → Nat → Nat × Flags) : List (Option Nat) → List (Option Nat) × Flags
  | a :: b :: t =>
    let (l, fl) := redLevel f t
    match a, b with
    | some x, some y => let (r, g) := f x y; (some r :: l, fl ||| g)
    | some x, none => (some x :: l, fl)
    | none, y => (y :: l, fl)
  | l => (l, 0)

def arithOf : FloatOp → Arith
  | .add => .add | .min => .min | .max => .max

/-- The tree over 16 lanes: its value, if a lane is active, and its flags. -/
def redTree (f : Nat → Nat → Nat × Flags) (l : List (Option Nat)) : Option Nat × Flags :=
  let (l, f1) := redLevel f l
  let (l, f2) := redLevel f l
  let (l, f3) := redLevel f l
  let (l, f4) := redLevel f l
  ((l.head?).join, f1 ||| f2 ||| f3 ||| f4)

def opVred (op : FloatOp) (ty : Ty) (vd va : VNum) (km : KReg) (s : State) : Res :=
  let m := s.rK km
  let (r, fl) := redTree (arith (arithOf op) ty s.rm)
    ((List.range 16).map (fun i => if m.getLsbD i then some (lane (s.rV va.toNat) i) else none))
  let r := r.getD 0
  let r := if ty = .fp32 && isNaN32 r then 0x7FC00000 else r
  .done ((s.wV vd.toNat (vregOf 32 [r])).raise fl)

/-! ### Lane movement (R442) -/

def opVperm (vd va vb : VNum) (km : KReg) (s : State) : Res :=
  .done (laneOp 32 vd km (fun s i => (lane (s.rV va.toNat) (lane (s.rV vb.toNat) i % 16), 0)) s)
def opVbcst (ty : Ty) (vd : VNum) (sa : SReg) (km : KReg) (s : State) : Res :=
  .done (laneOp (tyBits ty) vd km (fun s _ => ((s.rS sa).toNat % 2 ^ tyBits ty, 0)) s)
def opVmovs (f : MovsForm) (l : BitVec 4) (km : KReg) (s : State) : Res :=
  match f with
  | .toScalar sd va =>
    .done (if (s.rK km).getLsbD l.toNat then s.wS sd (w64 (lane (s.rV va.toNat) l.toNat)) else s)
  | .toVector vd sa =>
    .done (laneOp 32 vd km (fun s i => (if i = l.toNat then (s.rS sa).toNat % 2 ^ 32 else lane (s.rV vd.toNat) i, 0)) s)
def opVidx (vd : VNum) (sa : SReg) (km : KReg) (s : State) : Res :=
  .done (laneOp 32 vd km (fun s i => (((s.rS sa).toNat + i) % 2 ^ 32, 0)) s)

/-! ### Candidate lists (R83, R443) -/

/-- A candidate: its FP32 value and its token. -/
abbrev Cand := Nat × Nat
/-- The key that orders FP32 values descending, −0 equal to +0 (R83). -/
def candKey (v : Nat) : Int := if bitN v 31 then (v % 2 ^ 31 : Nat) else -((v % 2 ^ 31 : Nat) : Int)
/-- One candidate comes strictly before another: greater value, then lower token. -/
def candLt (a b : Cand) : Bool := candKey a.1 < candKey b.1 || (candKey a.1 == candKey b.1 && a.2 < b.2)
/-- A candidate placed after those that do not come after it. -/
def candInsert (c : Cand) : List Cand → List Cand
  | [] => [c]
  | a :: t => if candLt c a then c :: a :: t else a :: candInsert c t
def candSort (l : List Cand) : List Cand := l.foldl (fun acc c => candInsert c acc) []

/-- The non-empty records of 8 registers' lists. -/
def candsOf (vs : List VReg) : List Cand :=
  (vs.flatMap (fun v => (List.range 8).map (fun q => (lane v (2 * q), lane v (2 * q + 1))))).filter
    (fun c => c.2 != 0xFFFFFFFF)

def opVtopk (vd va vb : VNum) (km : KReg) (s : State) : Res :=
  let old := candsOf ((List.range 8).map (fun j => s.rV (vd.toNat + j)))
  let m := s.rK km
  let new := ((List.range 16).filter (fun i => m.getLsbD i)).map
    (fun i => (lane (s.rV va.toNat) i, lane (s.rV vb.toNat) i))
  let c := candSort (old ++ new.filter (fun c => !notFinite32 c.1 && c.2 != 0xFFFFFFFF))
  let full := (List.range 64).map (fun q => c.getD q (0, 0xFFFFFFFF))
  .done (s.wVs vd.toNat ((List.range 8).map (fun j => vregOf 32 ((slice full (8 * j) 8).flatMap (fun c => [c.1, c.2])))))

/-! ### Lane masks, RNG -/

def opKlog (op : LogicOp) (kd ka kb : KReg) (s : State) : Res :=
  let a := s.rK ka
  let b := s.rK kb
  .done (s.wK kd (BitVec.ofNat 16 (packW 1 ((List.range 16).map (fun i => b2n (logicB op (a.getLsbD i) (b.getLsbD i)))))))
def opKpop (sd : SReg) (ka : KReg) (s : State) : Res := .done (s.wS sd (w64 (popN 16 (s.rK ka).toNat)))

/-- RNG (R251, R417). -/
def opRng (vd : VNum) (sa sb sc : SReg) (s : State) : Res :=
  let a := (s.rS sa).toNat
  let b := (s.rS sb).toNat
  let c := (s.rS sc).toNat
  let l := (List.range 4).flatMap (fun j =>
    let (w0, w1, w2, w3) := philox ((a + j) % 2 ^ 32) (a / 2 ^ 32) (b % 2 ^ 32) (b / 2 ^ 32) (c % 2 ^ 32) (c / 2 ^ 32)
    [w0, w1, w2, w3])
  .done (s.wV vd.toNat (vregOf 32 l))

def execVadd (g : Guard) (ty : Ty) (vd va vb : VNum) (km : KReg) (s : State) : Outc :=
  issue (.vadd g ty vd va vb km) g (opVadd ty vd va vb km) s
def execVsub (g : Guard) (ty : Ty) (vd va vb : VNum) (km : KReg) (s : State) : Outc :=
  issue (.vsub g ty vd va vb km) g (opVsub ty vd va vb km) s
def execVmul (g : Guard) (ty : Ty) (vd va vb : VNum) (km : KReg) (s : State) : Outc :=
  issue (.vmul g ty vd va vb km) g (opVmul ty vd va vb km) s
def execVfma (g : Guard) (ty : Ty) (vd va vb vc : VNum) (km : KReg) (s : State) : Outc :=
  issue (.vfma g ty vd va vb vc km) g (opVfma ty vd va vb vc km) s
def execVmin (g : Guard) (ty : Ty) (vd va vb : VNum) (km : KReg) (s : State) : Outc :=
  issue (.vmin g ty vd va vb km) g (opVmin ty vd va vb km) s
def execVmax (g : Guard) (ty : Ty) (vd va vb : VNum) (km : KReg) (s : State) : Outc :=
  issue (.vmax g ty vd va vb km) g (opVmax ty vd va vb km) s
def execVabs (g : Guard) (ty : Ty) (vd va : VNum) (km : KReg) (s : State) : Outc :=
  issue (.vabs g ty vd va km) g (opVabs ty vd va km) s
def execVneg (g : Guard) (ty : Ty) (vd va : VNum) (km : KReg) (s : State) : Outc :=
  issue (.vneg g ty vd va km) g (opVneg ty vd va km) s
def execVbit (g : Guard) (op : BitOp) (vd va vb : VNum) (km : KReg) (s : State) : Outc :=
  issue (.vbit g op vd va vb km) g (opVbit op vd va vb km) s
def execVsh (g : Guard) (op : ShiftOp) (ty : Ty) (vd va : VNum) (n : VAmount) (km : KReg) (s : State) : Outc :=
  issue (.vsh g op ty vd va n km) g (opVsh op vd va n km) s
def execVcmp (g : Guard) (c : Cond) (ty : Ty) (kd : KReg) (va vb : VNum) (km : KReg) (s : State) : Outc :=
  issue (.vcmp g c ty kd va vb km) g (opVcmp c ty kd va vb km) s
def execVsel (g : Guard) (vd va vb : VNum) (kc km : KReg) (s : State) : Outc :=
  issue (.vsel g vd va vb kc km) g (opVsel vd va vb kc km) s
def execVcvt (g : Guard) (dty sty : Ty) (ns : Bool) (vd va : VNum) (km : KReg) (s : State) : Outc :=
  issue (.vcvt g dty sty ns vd va km) g (opVcvt dty sty ns vd va km) s
def execVcvto (g : Guard) (dty sty : Ty) (ns : Bool) (vd va : VNum) (sb : SReg) (km : KReg) (s : State) : Outc :=
  issue (.vcvto g dty sty ns vd va sb km) g (opVcvto dty sty ns vd va sb km) s
def execVexp2 (g : Guard) (vd va : VNum) (km : KReg) (s : State) : Outc := issue (.vexp2 g vd va km) g (opVexp2 vd va km) s
def execVlog2 (g : Guard) (vd va : VNum) (km : KReg) (s : State) : Outc := issue (.vlog2 g vd va km) g (opVlog2 vd va km) s
def execVrcp (g : Guard) (vd va : VNum) (km : KReg) (s : State) : Outc := issue (.vrcp g vd va km) g (opVrcp vd va km) s
def execVrsq (g : Guard) (vd va : VNum) (km : KReg) (s : State) : Outc := issue (.vrsq g vd va km) g (opVrsq vd va km) s
def execVsqrt (g : Guard) (vd va : VNum) (km : KReg) (s : State) : Outc := issue (.vsqrt g vd va km) g (opVsqrt vd va km) s
def execVred (g : Guard) (op : FloatOp) (ty : Ty) (vd va : VNum) (km : KReg) (s : State) : Outc :=
  issue (.vred g op ty vd va km) g (opVred op ty vd va km) s
def execVperm (g : Guard) (vd va vb : VNum) (km : KReg) (s : State) : Outc :=
  issue (.vperm g vd va vb km) g (opVperm vd va vb km) s
def execVbcst (g : Guard) (ty : Ty) (vd : VNum) (sa : SReg) (km : KReg) (s : State) : Outc :=
  issue (.vbcst g ty vd sa km) g (opVbcst ty vd sa km) s
def execVmovs (g : Guard) (f : MovsForm) (l : BitVec 4) (km : KReg) (s : State) : Outc :=
  issue (.vmovs g f l km) g (opVmovs f l km) s
def execVidx (g : Guard) (ty : Ty) (vd : VNum) (sa : SReg) (km : KReg) (s : State) : Outc :=
  issue (.vidx g ty vd sa km) g (opVidx vd sa km) s
def execVtopk (g : Guard) (vd va vb : VNum) (km : KReg) (s : State) : Outc :=
  issue (.vtopk g vd va vb km) g (opVtopk vd va vb km) s
def execKlog (g : Guard) (op : LogicOp) (kd ka kb : KReg) (s : State) : Outc :=
  issue (.klog g op kd ka kb) g (opKlog op kd ka kb) s
def execKpop (g : Guard) (sd : SReg) (ka : KReg) (s : State) : Outc := issue (.kpop g sd ka) g (opKpop sd ka) s
def execRng (g : Guard) (vd : VNum) (sa sb sc : SReg) (s : State) : Outc :=
  issue (.rng g vd sa sb sc) g (opRng vd sa sb sc) s

end Sys2Proof.Machine
end

