-- ==== Sys2Proof/Machine/VectorMem.lean ====
section
/-!
DEFINITION. Machine/VectorMem.lean: VLD, VST, VLDS, VSTS, VGATH and VSCAT (19 R444 to R446). Each runs at issue and again
at its reply.
-/
namespace Sys2Proof.Machine

/-- The active lanes with their addresses, in ascending order. -/
def activeLanes (s : State) (km : KReg) (f : Nat → Addr) : List (Nat × Addr) :=
  ((List.range 16).filter (fun i => (s.rK km).getLsbD i)).map (fun i => (i, f i))

/-- Every active lane's address checked, in ascending order; the first that stops decides (R445). -/
def resolveLanes (s : State) (q : Ask) : List (Nat × Addr) → Except Stop (List Piece)
  | [] => .ok []
  | (i, a) :: t =>
    match resolve s q a 4 (4 * i) with
    | .error e => .error e
    | .ok ps =>
      match resolveLanes s q t with
      | .error e => .error e
      | .ok l => .ok (ps ++ l)

/-- The base of VLD and VST. -/
def vecBase (s : State) : VecAddr → Addr
  | .gen sa sb sc _ => .ptr (s.rS sa + s.rS sb * w64 (2 ^ sc.toNat))
  | .hnd h sb => .hnd h (s.rS sb)
def vecOrd : VecAddr → Option Scope
  | .gen _ _ _ o => o
  | .hnd _ _ => none
def Addr.shift : Addr → Word → Addr
  | .ptr p, d => .ptr (p + d)
  | .hnd h o, d => .hnd h (o + d)
def Addr.word : Addr → Word
  | .ptr p => p
  | .hnd _ o => o
/-- A base to a peer or a group. -/
def Addr.toPeer : Addr → Bool
  | .ptr p => ptrTag p == 5 || ptrTag p == 6
  | .hnd _ _ => false

/-- Lane addresses of VLD and VST: consecutive words. -/
def laneUnit (a : Addr) (i : Nat) : Addr := a.shift (w64 (4 * i))
/-- Lane addresses of VLDS and VSTS: a signed stride. -/
def laneStride (s : State) (b : VecBase) (sb : SReg) (i : Nat) : Addr :=
  match b with
  | .gen sa => .ptr (s.rS sa + w64 i * s.rS sb)
  | .hnd h => .hnd h (w64 i * s.rS sb)
/-- Lane addresses of VGATH and VSCAT: signed indices on a pointer, unsigned on a handle. -/
def laneIndex (s : State) (b : VecBase) (vx : VNum) (sc : BitVec 2) (i : Nat) : Addr :=
  let x := lane (s.rV vx.toNat) i
  match b with
  | .gen sa => .ptr (s.rS sa + sextN 32 x * w64 (2 ^ sc.toNat))
  | .hnd h => .hnd h (w64 x * w64 (2 ^ sc.toNat))

/-- Lanes loaded into a register. -/
def putLanes (s : State) (vr : VNum) (l : List (Nat × List Byte)) : State :=
  let old := s.rV vr.toNat
  s.wV vr.toNat (vregOf 32 ((List.range 16).map (fun i =>
    match l.find? (fun e => e.1 == 4 * i) with
    | some e => fromBytes e.2
    | none => lane old i)))

def vload (parks : Bool) (acq : Option Scope) (bad64 : Bool) (vr : VNum) (ls : List (Nat × Addr)) (rp : Option Reply)
    (s : State) : Res :=
  match placed rp s (resolveLanes s { askLoad 4 with off64 := bad64 } ls) with
  | .error e => e.res s
  | .ok ps => loadThen rp (parks && !ps.isEmpty) ps s (fun _ l s => thenAcquire acq (putLanes s vr l))

def vstore (parks : Bool) (rel : Option Scope) (bad64 : Bool) (vr : VNum) (ls : List (Nat × Addr)) (rp : Option Reply)
    (s : State) : Res :=
  match placed rp s (resolveLanes s { askStore 4 with off64 := bad64 } ls) with
  | .error e => e.res s
  | .ok ps => storeThen rp parks true rel ps (toBytes 64 (s.rV vr.toNat).toNat) s

def opVld (vr : VNum) (a : VecAddr) (km : KReg) (rp : Option Reply) (s : State) : Res :=
  let b := vecBase s a
  vload false (vecOrd a) ((vecOrd a).isSome && b.word.toNat % 64 != 0) vr (activeLanes s km (laneUnit b)) rp s
def opVst (vr : VNum) (a : VecAddr) (km : KReg) (rp : Option Reply) (s : State) : Res :=
  let b := vecBase s a
  vstore false (vecOrd a) (((vecOrd a).isSome || b.toPeer) && b.word.toNat % 64 != 0) vr (activeLanes s km (laneUnit b)) rp s
def opVlds (vr : VNum) (b : VecBase) (sb : SReg) (km : KReg) (rp : Option Reply) (s : State) : Res :=
  vload true none false vr (activeLanes s km (laneStride s b sb)) rp s
def opVsts (vr : VNum) (b : VecBase) (sb : SReg) (km : KReg) (rp : Option Reply) (s : State) : Res :=
  vstore true none false vr (activeLanes s km (laneStride s b sb)) rp s
def opVgath (vr : VNum) (b : VecBase) (vx : VNum) (sc : BitVec 2) (km : KReg) (rp : Option Reply) (s : State) : Res :=
  vload true none false vr (activeLanes s km (laneIndex s b vx sc)) rp s
def opVscat (vr : VNum) (b : VecBase) (vx : VNum) (sc : BitVec 2) (km : KReg) (rp : Option Reply) (s : State) : Res :=
  vstore true none false vr (activeLanes s km (laneIndex s b vx sc)) rp s

def execVld (g : Guard) (vr : VNum) (a : VecAddr) (km : KReg) (s : State) : Outc :=
  issue (.vld g vr a km) g (opVld vr a km none) s
def execVst (g : Guard) (vr : VNum) (a : VecAddr) (km : KReg) (s : State) : Outc :=
  issue (.vst g vr a km) g (opVst vr a km none) s
def execVlds (g : Guard) (vr : VNum) (b : VecBase) (sb : SReg) (km : KReg) (s : State) : Outc :=
  issue (.vlds g vr b sb km) g (opVlds vr b sb km none) s
def execVsts (g : Guard) (vr : VNum) (b : VecBase) (sb : SReg) (km : KReg) (s : State) : Outc :=
  issue (.vsts g vr b sb km) g (opVsts vr b sb km none) s
def execVgath (g : Guard) (vr : VNum) (b : VecBase) (vx : VNum) (sc : BitVec 2) (km : KReg) (s : State) : Outc :=
  issue (.vgath g vr b vx sc km) g (opVgath vr b vx sc km none) s
def execVscat (g : Guard) (vr : VNum) (b : VecBase) (vx : VNum) (sc : BitVec 2) (km : KReg) (s : State) : Outc :=
  issue (.vscat g vr b vx sc km) g (opVscat vr b vx sc km none) s

end Sys2Proof.Machine
end

