-- ==== Sys2Proof/Machine/Matrix.lean ====
section
/-!
DEFINITION. Machine/Matrix.lean: the matrix array (chapter 12; 18 R390 to R405): the issue of its commands, their
execution, rings and drains.
-/
namespace Sys2Proof.Machine

/-! ### Types (R256) -/

/-- The width class of an operand type in bits: 16, 8 or 4; 0 for another type. -/
def tyClass (ty : Ty) : Nat := if ty.array then tyBits ty else 0
/-- K per step. -/
def classK (c : Nat) : Nat := 512 / c
def tyOf (code : Nat) : Ty :=
  match code with
  | 0 => .fp32 | 1 => .bf16 | 2 => .fp16 | 3 => .e4m3 | 4 => .e5m2 | 5 => .fp4 | 6 => .cir8 | 7 => .int8
  | 8 => .uint8 | 9 => .int4 | 10 => .int32 | 11 => .uint32 | 12 => .int64 | _ => .ue8m0

/-- The sparse group size N and the latch a kind needs (R262). -/
def mmaGroup : MmaKind → Nat
  | .sp32 _ => 32
  | _ => 64
def mmaNeeds : MmaKind → Nat
  | .sp64 _ => 8192
  | .sp32 _ => 16384
  | _ => 0
def mmaExtra : MmaKind → Option SReg
  | .dense => none
  | .sp64 x | .sp32 x | .mx x => some x
def mmaIsMx : MmaKind → Bool
  | .mx _ => true
  | _ => false

/-! ### The latch -/

/-- A 64-byte row of a number that holds rows one after another. -/
def rowOf (data n : Nat) : VReg := BitVec.ofNat 512 (data / 2 ^ (512 * n))
/-- Rows put into a table from row `i` on. -/
def putRows (m : FMap VReg) (i : Nat) (data : Nat) : Nat → FMap VReg
  | 0 => m
  | n + 1 => putRows (fset m (i + n) (rowOf data n)) i data n
/-- Element `j` of latch row `k`, of a type (R258). -/
def latchElem (l : LatchImg) (ty : Ty) (k j : Nat) : Nat :=
  let p := tyBits ty * (64 * k + j)
  bitsN (fget 0#512 l.rows (p / 512)).toNat (p % 512 + tyBits ty - 1) (p % 512)
/-- The scale of block `b` of column `j`. -/
def latchScale (l : LatchImg) (b j : Nat) : Nat := bitsN (fget 0#512 l.scales b).toNat (8 * j + 7) (8 * j)

/-! ### The step (R259, R260, R263) -/

/-- An element's value under an MX scale (R243). -/
def mxScale (ty : Ty) (sc : Nat) (v : FV) : FV :=
  if sc = 0xFF then .nan
  else match v with
    | .num d => .num { d with exp := d.exp + (sc : Int) - 127 - (if ty = .int8 then 6 else 0) }
    | x => x

/-- One cell after a step with the given products. -/
def cellStep (old : Nat) (ps : List FV) : Nat :=
  let o := decodeNum .fp32 old
  let inf := fun neg : Bool => if neg then 0xFF800000 else 0x7F800000
  let hasInf := fun neg : Bool => ps.any (fun p => p == .inf neg)
  if o = .nan || ps.any (· == .nan) || (hasInf true && hasInf false) then 0x7FC00000
  else if hasInf true || hasInf false then
    (if o = .inf (!hasInf true) then 0x7FC00000 else inf (hasInf true))
  else match o with
    | .inf _ => old
    | _ =>
      let ds := ps.filterMap (fun p => match p with | .num d => if d.man = 0 then none else some d | _ => none)
      match ds with
      | [] => old
      | d0 :: _ =>
        let top := fun d : Dy => d.exp + (bitLen d.man : Int) - 1
        let e := ds.foldl (fun m d => max m (top d)) (top d0)
        let q := e - 47
        let sum := ds.foldl (fun (a : Int) d => if d.neg then a - ((cutAt d q).1 : Int) else a + ((cutAt d q).1 : Int)) 0
        if sum = 0 then old else (toFP32 .rne (addFV .rne o (.num (dyOf sum q false)))).1

/-- What a step of a kind and A type does to an array under a row mask: `a` the A chunk, `x` the index or scale array. -/
def stepAcc (arr : MArray) (kind : MmaKind) (ty : Ty) (mask a x : Nat) : FMap W32 :=
  let lty := tyOf arr.latch.lty.toNat
  let w := tyBits ty
  let kk := classK w
  let aVal := fun i v : Nat =>
    let f := decodeNum ty (bitsN a (512 * i + w * v + w - 1) (512 * i + w * v))
    if (mmaIsMx kind) then mxScale ty (bitsN x (8 * (i * (kk / 32) + v / 32) + 7) (8 * (i * (kk / 32) + v / 32))) f else f
  let pos := fun i v : Nat =>
    match kind with
    | .sp64 _ | .sp32 _ => 128 * (v / (mmaGroup kind)) + bitsN x (8 * (i * kk + v) + 6) (8 * (i * kk + v))
    | _ => v
  let bVal := fun k j : Nat =>
    let f := decodeNum lty (latchElem arr.latch lty k j)
    if (mmaIsMx kind) then mxScale lty (latchScale arr.latch (k / 32) j) f else f
  (List.range 64).foldl (fun acc i =>
    if bitN mask i then
      let as := (List.range kk).map (fun v => (pos i v, aVal i v))
      (List.range 64).foldl (fun acc j =>
        fset acc (64 * i + j) (BitVec.ofNat 32
          (cellStep (fget 0#32 arr.acc (64 * i + j)).toNat (as.map (fun p => (mulFV p.2 (bVal p.1 j)).1))))) acc
    else acc) arr.acc

/-- Whether the latch in the array meets what a step needs (R256, R262, R263): the ENGINE detail it fails with. -/
def latchFails (loaded : Bool) (lty : BitVec 4) (used : Nat) (scaleOk : Bool) (kind : MmaKind) (ty : Ty) : Option Nat :=
  if !loaded || tyClass (tyOf lty.toNat) ≠ tyClass ty then some 1
  else if (if (mmaIsMx kind) then !scaleOk else used < (mmaNeeds kind)) then some 4 else none

/-- The info word of a matrix ENGINE fault (R270). -/
def engInfo (detail : Nat) : Word := w64 (3 * 256 + detail)

/-! ### Issue (R390) -/

/-- The strand's task owns the array (R254). -/
def ownsArray (s : State) : Bool := (s.me.task.map (·.mxa)).getD false
def launchOf (s : State) : Option Launch := s.me.task.bind (fun t => s.launch t.launch)

/-- Commands queued or in execution. -/
def arrayCount (a : MArray) : Nat := a.queue.length + a.run.toList.length

/-- Scoreboard entries made for ranges of a core's scratchpad, named from a number on. -/
def sbAdd (s : State) (core slot : Nat) : List (Nat × Nat) → List Nat × State
  | [] => ([], s)
  | (lo, hi) :: t =>
    let (id, s) := s.fresh
    let s := s.updCore core (fun c => { c with sb := c.sb ++ [{ id := id, lo := lo, hi := hi, slot := slot }] })
    let (ids, s) := sbAdd s core slot t
    (id :: ids, s)

/-- The key of `n` bytes at a pointer of local memory that pass check 5 of R124. -/
def localKey (s : State) (p : Word) (n : Nat) : Option Nat :=
  match localPlace s p n with
  | some (.bank key _) => some key
  | _ => none
def keyOf (s : State) (p : Word) (n : Nat) : Nat := (localKey s p n).getD 0

/-- The scalar operands of a matrix command, in their order (R285). -/
def cmdOps (s : State) : Instr → List Word
  | .mlb _ _ (.plain sa) | .mlb _ _ (.x2 sa) | .mlb _ _ (.x4 sa) => [s.rS sa]
  | .mlb _ _ (.mx sa sb) => [s.rS sa, s.rS sb]
  | .mma _ _ rag kind _ sa sm => [s.rS sa, s.rS sm] ++ ((mmaExtra kind).map s.rS).toList ++ (rag.map s.rS).toList
  | .mout _ sa sn sb sr sm => [s.rS sa, s.rS sn, s.rS sb, s.rS sr, s.rS sm]
  | .mdrain _ (.mem _ _ _ _ _ sa sr sn) => [s.rS sa, s.rS sr, s.rS sn]
  | .mdrain _ (.vec _ _ sr) => [s.rS sr]
  | _ => []

/-- What a matrix command's scalar operands give for its execution: scratchpad operands as they stand, which its scoreboard
entries keep as they stood at issue (R144, R255). `old` holds what no scalar operand gives: the vector register of `mlb.v`,
the step of a ragged mask. -/
def cmdCaps (s : State) (i : Instr) (ops : List Word) (old : List Nat) : List Nat :=
  let p := ops.getD 0 0
  let q := ops.getD 2 0
  match i with
  | .mlb _ _ (.vec _ _) => old
  | .mlb _ ty f =>
    let far := ptrTag p == 3
    let m := 2 * classK (tyClass ty)
    [b2n far, keyOf s p (mlbBytes f), if far then 0 else memNat s (keyOf s p (mlbBytes f)) (mlbBytes f),
      match f with
      | .mx _ _ => memNat s (keyOf s (ops.getD 1 0) m) m
      | _ => 0]
  | .mma _ _ rag kind ty _ _ =>
    let kk := classK (tyClass ty)
    let n := if mmaIsMx kind then 2 * kk else 64 * kk
    [(ops.getD 1 0).toNat, if rag.isSome then (ops.getLastD 0).toNat else 0, old.getD 2 0, memNat s (keyOf s p 4096) 4096,
      if (mmaExtra kind).isSome then memNat s (keyOf s q n) n else 0]
  | .mout _ _ _ _ _ _ =>
    let n := (ops.getD 1 0).toNat
    [n, q.toNat, (ops.getD 3 0).toNat, (ops.getD 4 0).toNat, memNat s (keyOf s p (8 * n)) (8 * n)]
  | .mdrain _ (.mem ty _ _ _ _ _ _ _) => [(ops.getD 1 0).toNat, q.toNat, keyOf s p (8 * tyBits ty * q.toNat)]
  | .mdrain _ (.vec _ _ _) => [p.toNat, s.me.vbase]
  | _ => []

/-- Steps 4 and 5 of R390: a place in the queue, scoreboard entries, the operands captured. -/
def enqueue (i : Instr) (own : List Nat) (ranges : List (Nat × Nat)) (vdst : Option Nat) (sh : Shadow → Shadow)
    (s : State) : Res :=
  let x := s.core s.coreId
  if 16 ≤ arrayCount x.arr then .wait 7 .cond s
  else if 16 < x.sb.length + ranges.length then .wait 5 .board s
  else
    let (ids, s) := sbAdd s s.coreId s.slotId ranges
    let m : MCmd :=
      { word := (encodeTile i).getD 0, pc := s.me.pc, slot := s.slotId, ops := cmdOps s i,
        caps := cmdCaps s i (cmdOps s i) own, sbIds := ids, vdst := vdst }
    .done (s.updCore s.coreId (fun c => { c with arr := { c.arr with queue := c.arr.queue ++ [m], shadow := sh c.arr.shadow } }))

/-- The first check that stops. -/
def firstStop : List (Option Stop) → Option Stop
  | [] => none
  | some e :: _ => some e
  | none :: t => firstStop t

def alignStop (p : Word) (n : Nat) : Option Stop := if p.toNat % n ≠ 0 then some (.bad cALIGN p) else none
def boundsStop (s : State) (p : Word) (n : Nat) (info : Word) : Option Stop :=
  if (localKey s p n).isSome then none else some (.bad cBOUNDS info)
/-- A range of the issuing core's scratchpad, for the scoreboard. -/
def sbRange (s : State) (p : Word) (n : Nat) : List (Nat × Nat) :=
  if tagsScratch (ptrTag p) && n ≠ 0 then
    [(keyOf s p n - scrKey s.coreId 0, keyOf s p n - scrKey s.coreId 0 + n)] else []

/-- A matrix command whose checks have been listed, owner first (R390 steps 1 to 3). -/
def matrixIssue (s : State) (checks : List (Option Stop)) (k : State → Res) : Res :=
  if !ownsArray s then .fault cPRIV s.me.pc
  else match firstStop checks with
    | some e => e.res s
    | none => k s

def opMzero (i : Instr) (s : State) : Res := matrixIssue s [] (enqueue i [] [] none id)

/-- MLB from memory: the source, and for `.mx` its scale array. -/
def mlbMem (i : Instr) (ty : Ty) (f : MlbForm) (sa : SReg) (sb : Option SReg) (s : State) : Res :=
  let p := s.rS sa
  let n := (mlbBytes f)
  let q := (sb.map (fun r => s.rS r)).getD 0
  let m := 2 * classK (tyClass ty)
  let second := fun l : List (Option Stop) => if sb.isSome then l else []
  matrixIssue s
    ([checkSpace s (fun t => t == 1 || t == 2 || t == 3) p, alignStop p 64, boundsStop s p n p] ++
      second [checkSpace s tagsScratch q, alignStop q 64, boundsStop s q m q])
    (enqueue i []
      (sbRange s p n ++ (if sb.isSome then sbRange s q m else [])) none
      (fun sh => { sh with loaded := true, lty := BitVec.ofNat 4 (tyCode ty), used := n, scale := sb.isSome }))

def opMlb (i : Instr) (ty : Ty) (f : MlbForm) (s : State) : Res :=
  match f with
  | .plain sa | .x2 sa | .x4 sa => mlbMem i ty f sa none s
  | .mx sa sb => mlbMem i ty f sa (some sb) s
  | .vec vs n =>
    matrixIssue s []
      (enqueue i [(s.rV vs.toNat).toNat] [] none
        (fun sh => { sh with loaded := true, lty := BitVec.ofNat 4 (tyCode ty), used := usedAfter sh.used n.toNat }))

/-- The address of step descriptor n (R70), and words of it as a unit of the device reads them. -/
def descAddr (s : State) (step : Nat) : Nat := (regGet s (offSERV + 8)).toNat + step % 2 * 0x40000
def servTenant (s : State) : Nat := fld (regGet s offSERV) 13 8
def descWord (s : State) (step off n : Nat) : Nat :=
  fromBytes ((unitRead s (servTenant s) (descAddr s step + off) n).getD [])
def descRows (s : State) (step : Nat) : Nat := bitsN (descWord s step 8 8) 14 0
def descTiles (s : State) (step : Nat) : Nat := bitsN (descWord s step 8 8) 24 16

/-- The ragged mask of a tile for a cluster (R261). -/
def ragMask (s : State) (clu step tile : Nat) : Nat :=
  (List.range 64).foldl (fun m i =>
    let row := 64 * tile + i
    if row < descRows s step ∧
        ¬ (s.clu clu).fslots.contains (bitsN (descWord s step (0x20000 + 8 * row) 8) 11 0) then m + 2 ^ i else m) 0

def opMma (i : Instr) (rot : Bool) (rag : Option SReg) (kind : MmaKind) (ty : Ty) (sa _sm : SReg) (s : State) : Res :=
  let p := s.rS sa
  let q := ((mmaExtra kind).map (fun r => s.rS r)).getD 0
  let kk := classK (tyClass ty)
  let n := if (mmaIsMx kind) then 2 * kk else 64 * kk
  let second := fun x : Option Stop => if (mmaExtra kind).isSome then x else none
  let sh := (s.core s.coreId).arr.shadow
  let step := stepId s s.me
  let tile := (rag.map (fun r => (s.rS r).toNat)).getD 0
  let eng := fun (c : Bool) (d : Nat) => if c then some (Stop.bad cENGINE (engInfo d)) else none
  let resident := (s.me.task.map (·.resident)).getD false
  matrixIssue s
    [checkSpace s tagsScratch p, second (checkSpace s tagsScratch q), alignStop p 64, second (alignStop q 64),
      boundsStop s p 4096 p, second (boundsStop s q n q),
      eng (latchFails sh.loaded sh.lty sh.used sh.scale kind ty == some 1) 1,
      eng (rot && !(((launchOf s).map (·.ringed)).getD false && sh.ring)) 2,
      eng (rag.isSome && !(resident && tile < descTiles s step)) 3,
      eng (latchFails sh.loaded sh.lty sh.used sh.scale kind ty == some 4) 4]
    (enqueue i [0, 0, step]
      (sbRange s p 4096 ++ (if (mmaExtra kind).isSome then sbRange s q n else [])) none id)

def opMout (i : Instr) (sa sn _sb _sr _sm : SReg) (s : State) : Res :=
  let p := s.rS sa
  let n := (s.rS sn).toNat
  let sh := (s.core s.coreId).arr.shadow
  matrixIssue s
    [checkSpace s tagsScratch p, alignStop p 8, if n = 0 then none else boundsStop s p (8 * n) (s.rS sn),
      if sh.loaded then none else some (.bad cENGINE (engInfo 1))]
    (enqueue i []
      (sbRange s p (8 * n)) none id)

def opMdrain (i : Instr) (f : DrainForm) (s : State) : Res :=
  match f with
  | .mem ty _ _ _ _ sa sr sn =>
    let p := s.rS sa
    let r := (s.rS sr).toNat
    let n := (s.rS sn).toNat
    let bytes := 8 * tyBits ty * n
    matrixIssue s
      [checkSpace s tagsScratch p, alignStop p 8,
        if 63 < r then some (.bad cBOUNDS (s.rS sr)) else none,
        if n < 1 || 64 < r + n then some (.bad cBOUNDS (s.rS sn)) else none,
        boundsStop s p bytes p]
      (enqueue i [] (sbRange s p bytes) none id)
  | .vec _ vd sr =>
    let r := (s.rS sr).toNat
    matrixIssue s [if 63 < r then some (.bad cBOUNDS (s.rS sr)) else none]
      (enqueue i [] [] (some vd.toNat) id)

/-- MRING (R405): the launch must have RING. -/
def opMring (i : Instr) (s : State) : Res :=
  matrixIssue s [if ((launchOf s).map (·.ringed)).getD false then none else some (.bad cENGINE (engInfo 2))]
    (enqueue i [] [] none (fun sh => { sh with ring := true }))

/-! ### Execution (R255) -/

/-- An array's post-issue notice, with the PC of its command (R198, R255). -/
def arrayNotice (s : State) (core : Nat) (m : MCmd) (code : BitVec 8) (info : Word) : State :=
  notice s (cluOfCore core) ({ noticeOf s core m.slot code true 0 m.pc info with src := .array })

/-- A core's array changed. -/
def setArr (s : State) (core : Nat) (f : MArray → MArray) : State := s.updCore core (fun c => { c with arr := f c.arr })

/-- The struck words of accumulator rows (R20, R289). -/
def struckRows (s : State) (core : Nat) (row : Nat → Bool) : List Nat :=
  (struckIn s (arrayKey core 0) (arrayKey core 0x4000)).filter (fun k => row ((k - arrayKey core 0) / 256))
/-- The struck words among the first bytes of the latch and of the scale area. -/
def struckLatch (s : State) (core n sc : Nat) : List Nat :=
  struckIn s (arrayKey core 0x4000) (arrayKey core (0x4000 + n)) ++ struckIn s (arrayKey core 0xC000) (arrayKey core (0xC000 + sc))

/-- The words that a command reads, for soft errors: the parts of the array that it reads, the scratchpad ranges of its entries
unless it only writes them, a latch source in another memory. A rotating step reads the whole latch, which it sends on. -/
def cmdWords (s : State) (core : Nat) (m : MCmd) : List Nat :=
  let held := ((s.core core).sb.filter (fun e => m.sbIds.contains e.id)).flatMap (fun e => wordsIn (scrKey core e.lo) (scrKey core e.hi))
  let cap := fun n => m.caps.getD n 0
  match decodeTile m.word with
  | .ok (.mdrain _ (.mem _ _ _ _ _ _ _ _)) => struckRows s core (fun r => cap 0 ≤ r && r < cap 0 + cap 1)
  | .ok (.mdrain _ (.vec _ _ _)) => struckRows s core (· == cap 0)
  | .ok (.mlb _ _ (.vec _ _)) => []
  | .ok (.mlb _ _ f) => if cap 0 = 1 then wordsIn (cap 1) (cap 1 + mlbBytes f) ++ held else held
  | .ok (.mma _ rot _ kind ty _ _) =>
    struckRows s core (bitN (cap 0)) ++
      (if rot then struckLatch s core 0x4000 0x200
       else struckLatch s core (max 4096 (mmaNeeds kind)) (if mmaIsMx kind then 2 * classK (tyClass ty) else 0)) ++ held
  | .ok (.mout _ _ _ _ _ _) => if cap 0 = 0 then [] else struckRows s core (bitN (cap 3)) ++ struckLatch s core 4096 0 ++ held
  | _ => []

/-- The errors of the parts of the array that a command writes whole are gone once it has executed (R288). -/
def cmdMends (s : State) (core : Nat) (m : MCmd) : State :=
  let cap := fun n => m.caps.getD n 0
  let drop := fun (s : State) (o n : Nat) => softDrop s (arrayKey core o) (arrayKey core (o + n))
  match decodeTile m.word with
  | .ok (.mzero _) => drop s 0 0x4000
  | .ok (.mlb _ _ (.vec _ n)) => drop s (0x4000 + 64 * n.toNat) 64
  | .ok (.mlb _ ty (.mx _ _)) => drop (drop s 0x4000 4096) 0xC000 (2 * classK (tyClass ty))
  | .ok (.mlb _ _ f) => drop s 0x4000 (mlbBytes f)
  | .ok (.mdrain _ (.mem _ _ _ _ true _ _ _)) => drop s (256 * cap 0) (256 * cap 1)
  | .ok (.mdrain _ (.vec z d _)) =>
    let s := softDrop s (vregKey core (cap 1 + d.toNat)) (vregKey core (cap 1 + d.toNat + 4))
    if z then drop s (256 * cap 0) 256 else s
  | _ => s

/-- The gang task that owns a core's array. -/
def gangOwner (s : State) (core : Nat) : Option Task :=
  (arrayOwner s core).bind (fun n => (s.strand core n).task.filter (·.ring))

/-- A post-issue fault of an array: its notice, then PAIR_ABORT for the rest of its gang; the command is over (R255,
R266). -/
def arrayFault (s : State) (core : Nat) (m : MCmd) (code : BitVec 8) (info : Word) : State :=
  let s := arrayNotice s core m code info
  let s := match gangOwner s core with
    | some t => pairAbort s core t
    | none => s
  setArr s core (fun a => { a with run := none, done := false }.reshadow)

/-- The drained rows of the memory form written (R270, R393). -/
def drainRows (s : State) (core : Nat) (ty : Ty) (rm : Rounding) (ns mf : Bool) (r key : Nat) : Nat → State
  | 0 => s
  | n + 1 =>
    let w := tyBits ty
    let acc := (s.core core).arr.freshAcc.acc
    let row := (List.range 64).map (fun j => (convert ty rm ns (decodeNum .fp32 (fget 0#32 acc (64 * r + j)).toNat)).1)
    let s := memPut s key (toBytes (8 * w) (packW w row))
    let s := if mf then feChangeRange s key true w else s
    drainRows s core ty rm ns mf (r + 1) (key + 8 * w) n

/-- Rows r to r + n − 1 of the accumulators set to +0. -/
def zeroRows (acc : FMap W32) (r n : Nat) : FMap W32 := acc.filter (fun e => !(64 * r ≤ e.1 && e.1 < 64 * (r + n)))

/-- MOUT's entries applied in order (R269). -/
def moutRun (arr : MArray) (sb sr sm data : Nat) : Nat → Nat → FMap W32 → FMap W32
  | 0, _, acc => acc
  | n + 1, e, acc =>
    let lty := tyOf arr.latch.lty.toNat
    let x := bitsN data (64 * e + 31) (64 * e)
    let v := decodeNum .fp32 (bitsN data (64 * e + 63) (64 * e + 32))
    let d := (x + 2 ^ 32 - sb % 2 ^ 32) % 2 ^ 32
    let i := d / sr
    let k := d % sr
    let acc :=
      if sr = 0 || 63 < i || classK (tyClass lty) ≤ k || !bitN sm i then acc
      else (List.range 64).foldl (fun acc j =>
        let p := (mulFV v (decodeNum lty (latchElem arr.latch lty k j))).1
        let old := (fget 0#32 acc (64 * i + j)).toNat
        let o := decodeNum .fp32 old
        let new := match p, o with
          | .num _, .num _ => (toFP32 .rne (addFV .rne o p)).1
          | _, _ => cellStep old [p]
        fset acc (64 * i + j) (BitVec.ofNat 32 new)) acc
    moutRun arr sb sr sm data n (e + 1) acc

/-- What a command that does not wait for a ring does when it executes. -/
def cmdRun (s : State) (core : Nat) (m : MCmd) (i : Instr) : State :=
  let cap := fun n => m.caps.getD n 0
  match i with
  | .mzero _ => setArr s core (fun a => { a with acc := [], steps := 0, staleAcc := false })
  | .mlb _ ty (.vec _ n) =>
    setArr s core (fun a =>
      let a := a.freshLatch
      { a with
      loaded := true,
      latch := { a.latch with
        rows := fset a.latch.rows n.toNat (BitVec.ofNat 512 (cap 0)), lty := BitVec.ofNat 4 (tyCode ty),
        used := usedAfter a.latch.used n.toNat } })
  | .mlb _ ty f =>
    let data := if cap 0 = 1 then memNat s (cap 1) (mlbBytes f) else cap 2
    let mx := match f with | .mx _ _ => true | _ => false
    setArr s core (fun a =>
      let a := a.freshLatch
      { a with
      loaded := true,
      latch := { a.latch with
        rows := putRows a.latch.rows 0 data ((mlbBytes f) / 64), lty := BitVec.ofNat 4 (tyCode ty), used := (mlbBytes f),
        scaleOk := mx,
        scales := if mx then putRows a.latch.scales 0 (cap 3) (classK (tyClass ty) / 32) else a.latch.scales } })
  | .mma _ _ _ kind ty _ _ =>
    setArr s core (fun a =>
      { a.freshAcc with acc := stepAcc a.fresh kind ty (cap 0) (cap 3) (cap 4), steps := (a.freshAcc.steps + 1) % 2 ^ 32 })
  | .mout _ _ _ _ _ _ =>
    setArr s core (fun a =>
      { a.freshAcc with acc := moutRun a.fresh (cap 1) (cap 2) (cap 3) (cap 4) (cap 0) 0 a.freshAcc.acc })
  | .mdrain _ (.mem ty rm ns mf z _ _ _) =>
    let s := drainRows s core ty rm ns mf (cap 0) (cap 2) (cap 1)
    if z then setArr s core (fun a => { a.freshAcc with acc := zeroRows a.freshAcc.acc (cap 0) (cap 1) }) else s
  | .mdrain _ (.vec z vd _) =>
    let acc := (s.core core).arr.freshAcc.acc
    let v := fun q => vregOf 32 ((List.range 16).map (fun l => (fget 0#32 acc (64 * cap 0 + 16 * q + l)).toNat))
    let s := s.updCore core (fun c => { c with
      v := (List.range 4).foldl (fun m q => fset m (cap 1 + vd.toNat + q) (v q)) c.v })
    if z then setArr s core (fun a => { a.freshAcc with acc := zeroRows a.freshAcc.acc (cap 0) 1 }) else s
  | _ => s

/-- The owning task lets its array start a command: it is not FROZEN or HALTED (R255). -/
def ownerRuns (s : State) (core : Nat) : Bool :=
  match arrayOwner s core with
  | some n => (s.strand core n).status != .frozen && (s.strand core n).status != .halted
  | none => false

/-- The cores of the ring or pair that a gang task was placed on. -/
def ringOf (s : State) (core : Nat) (t : Task) : List Nat := ringCores core (((s.launch t.launch).map (·.paired)).getD false)

/-- The cores that still have a part of the gang that owns a core's array, live or saved; the core alone where no gang does. -/
def gangCores (s : State) (core : Nat) : List Nat :=
  match gangOwner s core with
  | some t => (ringOf s core t).filter (fun c => (gangTask s t.launch c).isSome)
  | none => [core]

/-- The cores that a Squall of a core acts on: those of its established ring or pair (R268, R283). -/
def squallCores (s : State) (core : Nat) : List Nat :=
  if (s.core core).arr.ring = 0 then [core] else gangCores s core

/-- A strand of the core waits on the scoreboard with an operation that completes in a SAVE (R343, R429). -/
def boardCompletes (s : State) (c : Nat) : Bool :=
  (List.range 8).any (fun n =>
    let x := s.strand c n
    x.status == .parked && x.phase == .board && completing x)

/-- The commands of an array, in their order. -/
def MArray.cmds (a : MArray) : List MCmd := a.run.toList ++ a.queue

/-- Another part of the gang has fewer ring commands than come before the first vector drain of a core's array, or in it at all:
what comes after them cannot run while no instruction issues. -/
def ringStuck (s : State) (core : Nat) : Bool :=
  let ahead := ((s.core core).arr.cmds.takeWhile (·.vdst.isNone)).countP (·.rings)
  (gangCores s core).any (fun c => (s.core c).arr.cmds.countP (·.rings) < ahead)

/-- What a Squall of a core waits for in its array: a vector drain (R394), or the entries that a completing operation awaits
(R343). -/
def squallWants (s : State) (core : Nat) : Bool :=
  !ringStuck s core && ((s.core core).arr.queue.any (·.vdst.isSome) || boardCompletes s core)

/-- Another core of the gang that owns a core's array is still saved (R268). -/
def partnerSaved (s : State) (core : Nat) : Bool :=
  match gangOwner s core with
  | some t => (squallCores s core).any (fun c => c != core && (gangLive s t.launch c).isNone && (gangSaved s t.launch c).isSome)
  | none => false

/-- An array may start a command: in the drain of a Squall only what the Squalls of its ring wait for (R284, R343, R394);
otherwise not while another core of its ring is still saved (R268). -/
def arrayMayStart (s : State) (core : Nat) : Bool :=
  if saving s core then (squallCores s core).any (squallWants s) else !partnerSaved s core

/-- MATRIX_COMMAND_START (R255): the oldest queued command starts. A ragged mask is made as the step starts (R261); a
rotating step whose latch does not fit does not run (R390); while an earlier notice of the array is held, it waits (R275). -/
def execMatrixCommandStart (core : Nat) (s : State) : Outc :=
  let a := (s.core core).arr
  match a.run, a.queue with
  | none, m :: rest =>
    if !(ownerRuns s core && arrayMayStart s core) then .next s
    else
      let clu := cluOfCore core
      match decodeTile m.word with
      | .ok (.mma _ rot rag kind ty _ _) =>
        let m := if rag.isSome then
            { m with caps := m.caps.set 0 (Nat.land (m.caps.getD 0 0) (ragMask s clu (m.caps.getD 2 0) (m.caps.getD 1 0))) }
          else m
        let l := a.freshLatch
        let s' := setArr s core (fun a => { a with queue := rest, run := some m, done := false })
        match (if rot then latchFails l.loaded l.latch.lty l.latch.used l.latch.scaleOk kind ty else none) with
        | some d => if stillHeld s clu .array core then .next s else .next (arrayFault s' core m cENGINE (engInfo d))
        | none => .next s'
      | _ => .next (setArr s core (fun a => { a with queue := rest, run := some m, done := false }))
  | _, _ => .next s

/-- MATRIX_COMMAND_COMPLETE (R255): the command in execution finishes; a rotating step or MRING waits for its ring. Data
it read with a double-bit error ends it as a post-issue fault (R289). -/
def execMatrixCommandComplete (core : Nat) (s : State) : Outc :=
  match (s.core core).arr.run with
  | none => .next s
  | some m =>
    if (s.core core).arr.done then .next s
    else match eccScan s (cluOfCore core) (cmdWords s core m) with
      | (s', some info) => if stillHeld s (cluOfCore core) .array core then .next s else .next (arrayFault s' core m cECC info)
      | (s, none) =>
        if m.rings then .next (setArr s core (fun a => { a with done := true, runSince := s.cycle }))
        else match decodeTile m.word with
          | .ok i => .next (setArr (cmdMends (cmdRun s core m i) core m) core (fun a => { a with run := none }))
          | .error _ => .next s

/-- The core before another in its ring. -/
def ringPred (cs : List Nat) (c : Nat) : Nat :=
  match findIdx' (· == c) cs 0 with
  | some i => cs.getD ((i + cs.length - 1) % cs.length) c
  | none => c

/-- A core is under a Squall that has, or takes, its part of a gang, from its SAVE on to the end of its RESTORE: time that does
not count against PAIRTO (R268). -/
def underSquall (s : State) (k core : Nat) : Bool :=
  ((s.core core).sqBusy && (s.core core).sqCmd == 1 && (gangLive s k core).isSome) || (gangSaved s k core).isSome

/-- The cycle up to which the waits of a gang count: the present one, or the beginning of a Squall of one of its cores. -/
def pairNow (s : State) (k : Nat) (cs : List Nat) : Nat :=
  cs.foldl (fun n c => if underSquall s k c then min n (s.core c).sqSince else n) s.cycle

/-- PAIRTO of a core's cluster (R267). -/
def pairTo (s : State) (core : Nat) : Nat := fld (regGet s (cluWin (cluOfCore core) + 0x120)) 31 0

/-- A core's wait for its ring has passed PAIRTO (R266). -/
def pairLate (s : State) (k : Nat) (cs : List Nat) (core : Nat) : Bool :=
  let a := (s.core core).arr
  a.done && a.run.isSome && pairTo s core < pairNow s k cs - a.runSince

/-- The errors in the latches and scale areas of a ring go on to the successors with them. -/
def latchErrors (s : State) (cs : List Nat) : State :=
  if s.soft.isEmpty then s
  else
    let part := fun (c : Nat) => struckLatch s c 0x4000 0x200
    let s' := cs.foldl (fun s c =>
      softDrop (softDrop s (arrayKey c 0x4000) (arrayKey c 0x8000)) (arrayKey c 0xC000) (arrayKey c 0xC200)) s
    cs.foldl (fun t c => (part (ringPred cs c)).foldl (fun t k =>
      { t with soft := fset t.soft (arrayKey c (k - arrayKey (ringPred cs c) 0)) (fget false s.soft k) }) t) s'

/-- A core of a gang has finished a command of an operation code, MRING's or MMA's, and waits for its ring. -/
def ringWaits (s : State) (k opc core : Nat) : Bool :=
  let a := (s.core core).arr
  (gangOwner s core).any (·.launch == k) && a.done && (a.run.map (fun m => fld m.word 63 56)).getD 0 == opc

/-- RING_STEP_COMMIT (R264, R265): when every core of the ring has finished its MRING, the ring is established; when every
core has finished its rotating step, the steps commit together and the latches rotate. Past PAIRTO nothing commits (R266). -/
def execRingStepCommit (core : Nat) (s : State) : Outc :=
  match gangOwner s core with
  | none => .next s
  | some t =>
  let cs := ringOf s core t
  if cs.any (pairLate s t.launch cs) then .next s
  else if cs.all (ringWaits s t.launch 0x85) then
    .next (cs.foldl (fun s c => setArr s c (fun a =>
      { a with run := none, done := false, incoming := none, ring := if cs.length = 16 then 2 else 1 })) s)
  else if cs.all (ringWaits s t.launch 0x82) then
    let old := s
    .next (cs.foldl (fun s c =>
      match (old.core c).arr.run with
      | none => s
      | some m =>
        let s := match decodeTile m.word with
          | .ok i => cmdRun s c m i
          | .error _ => s
        let pred := (old.core (ringPred cs c)).arr.freshLatch
        setArr s c (fun a => { a with
          run := none, done := false, incoming := none, latch := pred.latch, loaded := pred.loaded, staleLatch := false }))
      (latchErrors s cs))
  else .next s

/-- PAIR_TIMEOUT (R266): a core's wait for its ring has passed PAIRTO. -/
def execPairTimeout (core : Nat) (s : State) : Outc :=
  match gangOwner s core with
  | some t =>
    let cs := ringOf s core t
    if pairLate s t.launch cs core && !(cs.any (fun c => stillHeld s (cluOfCore c) .array c)) then
      .next (gangFail s t.launch cs cs cPAIR_TIMEOUT core)
    else .next s
  | none => .next s

/-- SCOREBOARD_RETIRE (R143, R144): an entry whose operation has finished retires, and the strands of its core that wait for
entries become READY. -/
def execScoreboardRetire (core entry : Nat) (s : State) : Outc :=
  let x := s.core core
  let clu := s.clu (cluOfCore core)
  let live := (x.arr.queue ++ x.arr.run.toList).any (fun m => m.sbIds.contains entry) ||
    s.clusters.any (fun c => (c.2.copies ++ c.2.timed ++ c.2.waiting).any (fun m => m.sbIds.contains entry))
  if live || clu.halted || !(x.sb.any (·.id == entry)) then .next s
  else
    let s := s.setCore core { x with sb := x.sb.filter (·.id != entry) }
    .next ((List.range 8).foldl (fun s n =>
      let y := s.strand core n
      if y.status = .parked ∧ y.phase = .board then s.setStrand core n { y with status := .ready } else s) s)

def execMzero (g : Guard) (s : State) : Outc := issue (.mzero g) g (opMzero (.mzero g)) s
def execMlb (g : Guard) (ty : Ty) (f : MlbForm) (s : State) : Outc := issue (.mlb g ty f) g (opMlb (.mlb g ty f) ty f) s
def execMma (g : Guard) (rot : Bool) (rag : Option SReg) (kind : MmaKind) (ty : Ty) (sa sm : SReg) (s : State) : Outc :=
  issue (.mma g rot rag kind ty sa sm) g (opMma (.mma g rot rag kind ty sa sm) rot rag kind ty sa sm) s
def execMout (g : Guard) (sa sn sb sr sm : SReg) (s : State) : Outc :=
  issue (.mout g sa sn sb sr sm) g (opMout (.mout g sa sn sb sr sm) sa sn sb sr sm) s
def execMdrain (g : Guard) (f : DrainForm) (s : State) : Outc := issue (.mdrain g f) g (opMdrain (.mdrain g f) f) s
def execMring (g : Guard) (s : State) : Outc := issue (.mring g) g (opMring (.mring g)) s

end Sys2Proof.Machine
end

