-- ==== Sys2Proof/Machine/Copy.lean ====
section
/-!
DEFINITION. Machine/Copy.lean: the copy engines (09 R190 to R201; 16 R360; 19 R424, R447): CPY with its checks, the start
and the finish of commands, batches, SEAL and WAITB.
-/
namespace Sys2Proof.Machine

/-! ### Shape vectors (R191) -/

/-- The fields of a shape vector; `s1`, `s2` are the source strides and `d1`, `d2` the destination's. -/
structure Shape where
  n0 : Nat
  n1 : Nat
  n2 : Nat
  sty : Nat
  dty : Nat
  rm : Nat
  cvt : Nat
  mf : Bool
  timed : Bool
  time : Nat
  s1 : Int
  s2 : Int
  d1 : Int
  d2 : Int
  deriving DecidableEq, Repr

/-- Lane pair (2i, 2i + 1) as a 64-bit value. -/
def pairOf (v : VReg) (i : Nat) : Word := w64 (lane v (2 * i) + lane v (2 * i + 1) * 2 ^ 32)

def shapeOf (v : VReg) : Shape :=
  let f := lane v 3
  { n0 := lane v 0, n1 := lane v 1, n2 := lane v 2, sty := bitsN f 3 0, dty := bitsN f 7 4, rm := bitsN f 9 8,
    cvt := bitsN f 11 10, mf := bitN f 12, timed := bitN f 14, time := (pairOf v 6).toNat,
    s1 := (pairOf v 2).toInt, s2 := (pairOf v 3).toInt, d1 := (pairOf v 4).toInt, d2 := (pairOf v 5).toInt }

/-- Bytes of a row of `n` elements of a type. -/
def rowBytes (ty n : Nat) : Nat := n * tyBits (tyOf ty) / 8

/-- The offset of the lowest byte of an operand from its base, and one past the highest (R191). -/
def extentOf (sh : Shape) (dst : Bool) : Int × Int :=
  let a := (if dst then sh.d1 else sh.s1) * ((sh.n1 : Int) - 1)
  let b := (if dst then sh.d2 else sh.s2) * ((sh.n2 : Int) - 1)
  (min 0 a + min 0 b, max 0 a + max 0 b + (rowBytes (if dst then sh.dty else sh.sty) sh.n0 : Int))

/-- The offsets of the rows from the base, plane after plane. -/
def rowOffs (sh : Shape) (dst : Bool) : List Int :=
  (List.range sh.n2).flatMap fun (i2 : Nat) => (List.range sh.n1).map fun (i1 : Nat) =>
    (i2 : Int) * (if dst then sh.d2 else sh.s2) + (i1 : Int) * (if dst then sh.d1 else sh.s1)

/-- The info word of a copy's ENGINE fault. R193 does not say which DETAIL is reported where several conditions hold, nor which
operand bits [15:8] name for each: the lowest DETAIL is, with 2, the destination, for DETAIL 5 and 0, the shape vector, for
the others, a reserved STY or DTY among them (DESIGN CHOICE, notes/assumptions/95.md). `dp` is the destination pointer, none
for a handle. -/
def shapeBad (v : VReg) (dp : Option Word) : Option Word :=
  let sh := shapeOf v
  let four := fun ty => tyBits (tyOf ty) == 4
  let tagOk := (dp.map (fun p => ptrTag p == 1 || ptrTag p == 2 || ptrTag p == 3)).getD false
  let base := (dp.map (·.toNat)).getD 0
  if sh.n0 = 0 || 2 ^ 24 < sh.n0 || sh.n1 = 0 || 2 ^ 16 < sh.n1 || sh.n2 = 0 || 2 ^ 16 < sh.n2 then some 1
  else if 14 ≤ sh.sty || 14 ≤ sh.dty then some 2
  else if 2 ≤ sh.cvt then some 3
  else if (four sh.sty || four sh.dty) && sh.n0 % 2 == 1 then some 4
  else if sh.mf && (!tagOk || rowBytes sh.dty sh.n0 % 8 != 0 || (rowOffs sh true).any (fun o => ((base : Int) + o) % 8 != 0)) then
    some (w64 (2 * 256 + 5))
  else if Nat.land (lane v 3) 0xFFFFA000 ≠ 0 || lane v 14 ≠ 0 || lane v 15 ≠ 0 then some 6
  else none

/-! ### The checks of R193 -/

def tagsCpySrc (t : Nat) : Bool := 1 ≤ t && t ≤ 5
def tagsCpyDst (t : Nat) : Bool := 1 ≤ t && t ≤ 7

/-- The register of an operand. -/
def argVal (s : State) : CopyArg → Word
  | .ptr r => s.rS r
  | .hnd _ r => s.rS r

def copySpace (s : State) (tags : Nat → Bool) : CopyArg → Option Stop
  | .ptr r => checkSpace s tags (s.rS r)
  | .hnd _ _ => none
def copyValid (s : State) : CopyArg → Option Stop
  | .ptr _ => none
  | .hnd h r =>
    let hd := s.me.rH h
    if hd.valid then none
    else some (.bad cHANDLE_STALE (w64 (h.toNat * 2 ^ 60 + (hd.hva.toNat + (s.rS r).toNat) % 2 ^ 57)))

/-- Check 4: base and strides are multiples of the element size. -/
def copyAlign (sh : Shape) (dst : Bool) (v : Word) : Option Stop :=
  let es := max 1 (tyBits (tyOf (if dst then sh.dty else sh.sty)) / 8)
  let t1 := if dst then sh.d1 else sh.s1
  let t2 := if dst then sh.d2 else sh.s2
  if v.toNat % es ≠ 0 || t1 % (es : Int) ≠ 0 || t2 % (es : Int) ≠ 0 then some (.bad cALIGN v) else none

/-- Bits of the offset field of a pointer. -/
def offBits (tag : Nat) : Nat :=
  match tag with
  | 1 | 2 => 18
  | 3 => 22
  | 4 => 23
  | 7 => 16
  | _ => 50

/-- Check 5 on a pointer, of a range of offsets from it: the place that the command captures. -/
def copyPtr (s : State) (lo hi : Int) (p : Word) : Except Stop CopyEnd :=
  let n := offBits (ptrTag p)
  let o : Int := (bitsN p.toNat (n - 1) 0 : Nat)
  if o + lo < 0 || ((2 ^ n : Nat) : Int) < o + hi then .error (.bad cBOUNDS p)
  else if ptrTag p = 5 then .ok (.peer p.toNat)
  else if ptrTag p = 6 then .ok (.mcast p.toNat)
  else if ptrTag p = 7 then .ok (.land p.toNat)
  else match localKey s (p - w64 lo.natAbs) (hi - lo).toNat with
    | some key => .ok (.bank (key + lo.natAbs))
    | none => .error (.bad cBOUNDS p)

/-- Check 5: the operand as the command captures it. -/
def copyEnd (s : State) (sh : Shape) (dst : Bool) (a : CopyArg) : Except Stop CopyEnd :=
  let (lo, hi) := extentOf sh dst
  match a with
  | .hnd h r =>
    let hd := s.me.rH h
    let off := s.rS r
    if (off.toNat : Int) + lo < 0 || (pageBytes hd.size.toNat : Int) < (off.toNat : Int) + hi then .error (.bad cHANDLE_BOUNDS off)
    else if !(hd.perm.getLsbD (b2n dst)) then
      .error (.bad cGPF_PERM (gpfInfo false (if dst then .store else .load) (hd.hva.toNat + off.toNat)))
    else .ok (.page h.toNat hd (hd.pbase.toNat + off.toNat) off)
  | .ptr r => copyPtr s lo hi (s.rS r)

/-- The scoreboard range of an operand in the issuing core's scratchpad (R143). -/
def copyRange (s : State) (sh : Shape) (dst : Bool) (e : CopyEnd) : List (Nat × Nat) :=
  match e with
  | .bank key =>
    if key < 2 ^ 61 then
      let (lo, hi) := extentOf sh dst
      let o := key - scrKey s.coreId 0
      [(o - lo.natAbs, o + hi.toNat)]
    else []
  | _ => []

/-! ### Reading and writing -/

/-- A byte key at an offset from a base. -/
def atOff (base : Nat) (o : Int) : Nat := ((base : Int) + o).toNat

/-- Bytes of a row at its place; a peer's come from the reads that have been answered. -/
def endRead (s : State) (id : Nat) (e : CopyEnd) (o : Int) (n : Nat) : List Byte :=
  match e with
  | .bank key => memGet s (atOff key o) n
  | .page _ _ pa _ => cohRead s (atOff pa o) n
  | .peer p =>
    (List.range n).map fun i =>
      let a := bitsN (atOff p o + i) 49 0
      match s.fabTx.find? (fun t => t.kind == .copy id true && t.addr == a / 256 * 256) with
      | some t => ((t.resp.map (·.data)).getD []).getD (a % 256) 0
      | none => 0
  | _ => []

/-- The source's bytes, row after row. -/
def copyRead (s : State) (id : Nat) (sh : Shape) (e : CopyEnd) : List Byte :=
  (rowOffs sh false).flatMap (fun o => endRead s id e o (rowBytes sh.sty sh.n0))

/-- The words with a soft error among the source's bytes. -/
def copySoft (s : State) (sh : Shape) (e : CopyEnd) : List Nat :=
  let hit := fun (base key : Nat) => (rowOffs sh false).any (fun o => overlap key 8 (atOff base o) (rowBytes sh.sty sh.n0))
  match e with
  | .bank key => (s.soft.map (·.1)).filter (hit key)
  | .page _ _ pa _ =>
    (s.soft.map (·.1)).filter (fun k =>
      let w := if k < 2 ^ 64 then k else k % 2 ^ 60
      (k < 2 ^ 64 || 2 ^ 68 ≤ k) && hit pa w && homeWord s w == k)
  | _ => []

/-- A row converted (R192). -/
def convRow (sh : Shape) (bs : List Byte) : List Byte :=
  if sh.sty = sh.dty then bs
  else
    let sw := tyBits (tyOf sh.sty)
    let dw := tyBits (tyOf sh.dty)
    let x := fromBytes bs
    toBytes (rowBytes sh.dty sh.n0) (packW dw ((List.range sh.n0).map (fun i =>
      (convert (tyOf sh.dty) (roundingOf sh.rm) (sh.cvt == 1) (decodeNum (tyOf sh.sty) (bitsN x (sw * i + sw - 1) (sw * i)))).1)))

/-- The destination rows: offset from the base, and bytes. -/
def copyRows (sh : Shape) (data : List Byte) : List (Int × List Byte) :=
  let n := rowBytes sh.sty sh.n0
  (rowOffs sh true).mapIdx (fun k o => (o, convRow sh (slice data (k * n) n)))

/-- A row written; with MF its words are set FULL in the same operation (R194). -/
def rowWrite (s : State) (sh : Shape) (e : CopyEnd) (o : Int) (bs : List Byte) : State :=
  match e with
  | .bank key =>
    let s := memPut s (atOff key o) bs
    if sh.mf then feChangeRange s (atOff key o) true (bs.length / 8) else s
  | .page _ h pa _ => writeAt s (.page (atOff pa o) h.attr 0) (bs.map some)
  | _ => s

/-- The lines of a cluster's cache that a range of physical bytes covers are invalidated, dirty CP bytes among them
(R180, R187). -/
def dropRange (s : State) (clu a n : Nat) : State :=
  (List.range ((a + n - 1) / 128 + 1 - a / 128)).foldl (fun s j =>
    let line := a / 128 + j
    let s := softLeave (softLeave s (cluIndex clu) 1 line false) (cluIndex clu) 2 line false
    s.updClu clu (fun c => { c with lines := fdel (fdel c.lines (lineKey 1 line)) (lineKey 2 line) })) s

/-- A byte range cut at 256-byte granules: address, position and length of each piece (R219, R224). -/
def cut256 : Nat → Nat → Nat → Nat → List (Nat × Nat × Nat)
  | 0, _, _, _ => []
  | f + 1, a, pos, n =>
    if n = 0 then []
    else
      let k := min n (256 - a % 256)
      (a, pos, k) :: cut256 f (a + k) (pos + k) (n - k)
def pieces256 (a n : Nat) : List (Nat × Nat × Nat) := cut256 (n / 256 + 2) a 0 n

/-- The physical ranges that a command writes on this device: the rows of a page, and what a peer or group destination names in
this device's own window (R187, R212). -/
def pageRanges (s : State) (c : CopyCmd) : List (Nat × Nat) :=
  let sh := shapeOf c.shape
  let n := rowBytes sh.dty sh.n0
  let window := fun (p : Nat) => (rowOffs sh true).flatMap (fun o =>
    (pieces256 (atOff (bitsN p 49 0) o) n).filterMap (fun x =>
      match fabPlace s c.tenant x.1 x.2.2 2 with
      | some (.page pa _ _) => some (pa, x.2.2)
      | _ => none))
  match c.dst with
  | .page _ _ pa _ => (rowOffs sh true).map (fun o => (atOff pa o, n))
  | .peer p => if bitsN p 59 50 = fabId s then window p else []
  | .mcast p => if (groupMembers s (bitsN p 59 52)).contains (fabId s) then window p else []
  | _ => []

/-- The lines that a command wrote leave the issuing cluster's cache (R187). -/
def dropLines (s : State) (clu : Nat) (c : CopyCmd) : State := (pageRanges s c).foldl (fun s r => dropRange s clu r.1 r.2) s

/-- The tenant's landing key as its writes carry it (R204). -/
def landKey (s : State) (tenant : Nat) : W32 := BitVec.ofNat 32 (tset s setLZKEY tenant)
/-- The core that a landing pointer names. -/
def landCore (p : Nat) : Nat := bitsN p 49 38

/-- The reads of a peer source sent: one of each 256-byte granule that a row touches. -/
def sendReads (s : State) (c : CopyCmd) : State :=
  let sh := shapeOf c.shape
  match c.src with
  | .peer p =>
    let gs := ((rowOffs sh false).flatMap (fun o =>
      (pieces256 (atOff (bitsN p 49 0) o) (rowBytes sh.sty sh.n0)).map (fun x => x.1 / 256 * 256))).foldl (fun l g => insertAsc g l) []
    gs.foldl (fun s g => (newTx s (bitsN p 59 50) (.read 256) g (c.core, c.slot) (.copy c.id true) c.tenant).2) s
  | _ => s

/-- The writes of a peer, group or landing destination sent, piece by piece. -/
def sendWrites (s : State) (c : CopyCmd) (rows : List (Int × List Byte)) : State :=
  let own := (c.core, c.slot)
  let one := fun (s : State) (peer a : Nat) (op : FabOp) => (newTx s peer op a own (.copy c.id false) c.tenant).2
  let total := rows.foldl (fun n r => n + r.2.length) 0
  rows.foldl (fun s r =>
    match c.dst with
    | .peer p =>
      (pieces256 (atOff (bitsN p 49 0) r.1) r.2.length).foldl (fun s x =>
        one s (bitsN p 59 50) x.1 (.write false ((slice r.2 x.2.1 x.2.2).map some))) s
    | .mcast p =>
      (pieces256 (atOff (bitsN p 49 0) r.1) r.2.length).foldl (fun s x =>
        (groupMembers s (bitsN p 59 52)).foldl (fun s m =>
          one s m x.1 (.write false ((slice r.2 x.2.1 x.2.2).map some))) s) s
    | .land p =>
      (pieces256 (atOff p r.1) r.2.length).foldl (fun s x =>
        one s (bitsN p 59 50) x.1 (.land false (landKey s c.tenant) total c.core (slice r.2 x.2.1 x.2.2))) s
    | _ => s) s

/-! ### Commands -/

def copyNotice (s : State) (c : CopyCmd) (code : BitVec 8) (info : Word) : State :=
  notice s (cluOfCore c.core) { noticeOf s c.core c.slot code true 0 c.pc info with tenant := c.tenant, src := .copyEngine }
/-- A notice of the cluster's copy engine is still held: its next faulting completion waits (R275). -/
def copyHeld (s : State) (clu : Nat) : Bool := (s.clu clu).held.any (·.src == .copyEngine)

/-- A batch takes a finished command's status and visibility time. -/
def Batch.finish (b : Batch) (status vis : Nat) : Batch :=
  { b with left := b.left - 1, status := BitVec.ofNat 2 (max b.status.toNat status), vis := max b.vis vis }

/-- The visibility time that completed batches add to the writes a release covers (R176). -/
def doneVis (l : List Batch) (v : Nat) : Nat := l.foldl (fun m b => if b.left = 0 then max m b.vis else m) v

/-- A command ends with a status (R200). -/
def endCopy (s : State) (c : CopyCmd) (status vis : Nat) : State :=
  let s := s.updClu (cluOfCore c.core) (fun x => { x with copies := x.copies.filter (·.id != c.id) })
  let s := { s with fabTx := s.fabTx.filter (fun t => t.kind != .copy c.id true && t.kind != .copy c.id false) }
  match c.batch with
  | none => s
  | some b =>
    s.updStrand c.core c.slot fun x =>
      if x.openb.left ≠ 0 ∧ x.openb.num = b then { x with openb := x.openb.finish status vis }
      else
        let l := x.batches.map (fun y => if y.num = b then y.finish status vis else y)
        { x with batches := l, visMax := doneVis (l.filter (·.num == b)) x.visMax }

def CopyEnd.remote : CopyEnd → Bool
  | .peer _ | .mcast _ | .land _ => true
  | _ => false

/-- A command with a peer, group or landing destination sends its writes once its source's bytes are there. -/
def copySend (s : State) (c : CopyCmd) : State :=
  let reads := s.fabTx.filter (fun t => t.kind == .copy c.id true)
  if c.bad.isNone && c.dst.remote && !c.sent && reads.all (fun t => (t.resp.map (·.code)) == some 0) then
    let sh := shapeOf c.shape
    let data := match c.data with
      | some d => d
      | none => copyRead s c.id sh c.src
    let s := sendWrites s c (copyRows sh data)
    s.updClu (cluOfCore c.core) (fun x =>
      { x with copies := x.copies.map (fun y => if y.id = c.id then { y with sent := true } else y) })
  else s

/-- The positions among the source's bytes of those in words with a double-bit error. -/
def copyPoison (s : State) (sh : Shape) (e : CopyEnd) : List Nat :=
  let n := rowBytes sh.sty sh.n0
  let word := fun (o : Int) (i : Nat) =>
    match e with
    | .bank key => wordOf (atOff key (o + (i : Int)))
    | .page _ _ pa _ => homeWord s (atOff pa (o + (i : Int)))
    | _ => 0
  ((rowOffs sh false).mapIdx (fun k o =>
    (List.range n).filterMap (fun i => if fget? s.soft (word o i) = some true then some (k * n + i) else none))).flatten

/-- The words that received a poisoned element are marked poisoned (R289). -/
def poisonRows (s : State) (c : CopyCmd) : State :=
  let sh := shapeOf c.shape
  let base := match c.dst with
    | .bank key => key
    | .page _ _ pa _ => pa
    | _ => 0
  let sw := tyBits (tyOf sh.sty)
  let dw := tyBits (tyOf sh.dty)
  let hit := fun (k j : Nat) => c.poison.any (fun p =>
    let q := k * rowBytes sh.sty sh.n0
    q + sw * (8 * j / dw) / 8 ≤ p && p ≤ q + (sw * ((8 * j + 7) / dw) + sw - 1) / 8)
  ((rowOffs sh true).mapIdx (fun k o => (k, o))).foldl (fun s r =>
    (List.range (rowBytes sh.dty sh.n0)).foldl (fun s j =>
      if hit r.1 j then { s with soft := fset s.soft (wordOf (atOff base (r.2 + (j : Int)))) true } else s) s) s

/-- Source bytes in local memory or a page read for a command, which an uncorrectable word makes end FAULT (R289). -/
def copyTake (s : State) (c : CopyCmd) : CopyCmd × State :=
  let sh := shapeOf c.shape
  let c := { c with data := some (copyRead s c.id sh c.src) }
  match eccScan s (cluOfCore c.core) (copySoft s sh c.src) with
  | (s', some info) => ({ c with bad := some (cECC, info), poison := copyPoison s sh c.src }, s')
  | (s', none) => (c, s')

/-- A command starts: it takes a place in flight, and a source in a page or of a peer is read (R197). -/
def startCopy (s : State) (c : CopyCmd) : State :=
  let (c, s) := match c.src, c.bad with
    | .page _ _ _ _, none => copyTake s c
    | _, _ => (c, s)
  let s := s.updClu (cluOfCore c.core) (fun x => { x with copies := x.copies ++ [c] })
  if c.bad.isSome then s else copySend (sendReads s c) c

/-- The response of one of its reads has arrived. -/
def copyProgress (s : State) (core id : Nat) : State :=
  match (s.clu (cluOfCore core)).copies.find? (·.id == id) with
  | some c => copySend s c
  | none => s

/-- The status that a response gives its command (R200, R205). -/
def copyStatus (code : Nat) : Nat :=
  if code = 0 then 0 else if code = fsLINK_DOWN then 2 else if code = fsOVERRUN then 1 else 3

/-! ### Places (R196, R197) -/

/-- The CCNT from which a timed command may be served: its TIME, but for one whose handle a reset of its tenant has cleared. -/
def CopyCmd.from (c : CopyCmd) : Nat := max c.elig (if c.bad.isSome then 0 else (shapeOf c.shape).time)

/-- A timed command that has become eligible by now. -/
def timedDue (s : State) (c : CopyCmd) : Bool := c.from ≤ ccnt s

/-- An eligible timed command waits that is served before a party which became eligible at `e`. -/
def timedAhead (s : State) (clu e : Nat) : Bool := (s.clu clu).timed.any (fun c => timedDue s c && c.elig ≤ e)

/-- An untimed command may take a place in flight: none of those before it waits. -/
def placeFree (s : State) (clu : Nat) (e : Nat) (ahead : List CopyCmd) : Bool :=
  (s.clu clu).copies.length < 64 && !timedAhead s clu e && ahead.all (fun c => (shapeOf c.shape).timed)

/-- A command accepted by its engine: appended to its strand's open batch (R199), then started or kept for its TIME. -/
def acceptCopy (s : State) (c : CopyCmd) : State :=
  let s := s.updStrand c.core c.slot (fun x =>
    { x with openb := { x.openb with
        num := x.nextb, left := x.openb.left + 1,
        status := if x.openb.num = x.nextb then x.openb.status else 0, vis := if x.openb.num = x.nextb then x.openb.vis else 0 } })
  let c := { c with batch := some (s.strand c.core c.slot).nextb }
  let sh := shapeOf c.shape
  if sh.timed && !(sh.time ≤ ccnt s && placeFree s (cluOfCore c.core) (ccnt s) (s.clu (cluOfCore c.core)).waiting) then
    s.updClu (cluOfCore c.core) (fun x => { x with timed := x.timed ++ [{ c with elig := max sh.time (ccnt s) }] })
  else startCopy s c

/-- Whether a command may be accepted, given the commands that wait before it. -/
def mayAccept (s : State) (c : CopyCmd) (ahead : List CopyCmd) : Bool :=
  if (shapeOf c.shape).timed then
    (s.clu (cluOfCore c.core)).timed.length < 256 && ahead.all (fun a => !(shapeOf a.shape).timed)
  else placeFree s (cluOfCore c.core) c.elig ahead

/-- The engine accepts a command whose scoreboard entries are made, or its strand parks for a place (R196). -/
def copyPlace (c : CopyCmd) (s : State) : Res :=
  let w := (s.clu s.cluId).waiting.filter (·.boarded)
  if mayAccept s c (w.takeWhile (·.id != c.id)) then
    .done (acceptCopy (s.updClu s.cluId (fun x => { x with waiting := x.waiting.filter (·.id != c.id) })) c)
  else if w.any (·.id == c.id) then .wait 7 .cond s
  else .wait 7 .cond (s.updClu s.cluId (fun x => { x with waiting := x.waiting.filter (·.id != c.id) ++ [c] }))

/-- A strand that has issued a command goes on with it: its scoreboard entries, when enough are free, and its source in local
memory as it stands then; then its place (R360). -/
def copyAdmit (c : CopyCmd) (s : State) : Res :=
  if c.boarded then copyPlace c s
  else
    let sh := shapeOf c.shape
    let rs := copyRange s sh true c.dst ++ copyRange s sh false c.src
    if 16 < (s.core s.coreId).sb.length + rs.length then
      .wait 5 .board (s.updClu s.cluId (fun x =>
        { x with waiting := if x.waiting.any (·.id == c.id) then x.waiting else x.waiting ++ [c] }))
    else
      let (ids, s) := sbAdd s s.coreId s.slotId rs
      let c := { c with sbIds := ids, boarded := true, elig := ccnt s }
      let (c, s) := match c.src with
        | .bank _ => copyTake s c
        | _ => (c, s)
      copyPlace c s

/-- The command that the issuing strand has parked with. -/
def myWaiting (s : State) : Option CopyCmd :=
  (s.clu s.cluId).waiting.find? (fun c => c.core == s.coreId && c.slot == s.slotId)

/-- The capture of a command at its issue: its shape vector, pointers and handles (R360). -/
def copyIssue (v : VReg) (dst src : CopyEnd) (dptr sptr : Word) (s : State) : Res :=
  let (id, s) := s.fresh
  copyAdmit
    { id := id, core := s.coreId, slot := s.slotId, pc := s.me.pc, tenant := s.tenantId, batch := none, shape := v, dst := dst,
      src := src, dptr := dptr, sptr := sptr, data := none, poison := [], elig := ccnt s, sbIds := [], bad := none, boarded := false,
      sent := false } s

/-- CPY (R360): the checks of R193 in their order, the destination before the source. -/
def opCpy (dst src : CopyArg) (vn : VNum) (s : State) : Res :=
  match myWaiting s with
  | some c => copyAdmit c s
  | none =>
    let v := s.rV vn.toNat
    let sh := shapeOf v
    let dp := match dst with
      | .ptr r => some (s.rS r)
      | .hnd _ _ => none
    match firstStop
      [copySpace s tagsCpyDst dst, copySpace s tagsCpySrc src, copyValid s dst, copyValid s src,
        (shapeBad v dp).map (fun i => Stop.bad cENGINE i),
        copyAlign sh true (argVal s dst), copyAlign sh false (argVal s src)] with
    | some e => e.res s
    | none =>
      match copyEnd s sh true dst, copyEnd s sh false src with
      | .error e, _ => e.res s
      | _, .error e => e.res s
      | .ok d, .ok r => copyIssue v d r (argVal s dst) (argVal s src) s

/-- SEAL (R199, R424). -/
def opSeal (sd : SReg) (s : State) : Res :=
  let x := s.me
  if 16 ≤ x.batches.countP (fun b => b.left != 0) then .wait 9 .cond s
  else
    let b := if x.openb.num = x.nextb then x.openb else { Batch.none with num := x.nextb }
    let x := { x with
      batches := x.batches ++ [b], openb := .none, nextb := (x.nextb + 1) % 2 ^ 32, visMax := doneVis [b] x.visMax }
    .done ((s.setMe x).wS sd (w64 b.num))

/-- WAITB (R201, R447). -/
def opWaitb (pd : PReg) (sd : SReg) (n : BitVec 4) (s : State) : Res :=
  let x := s.me
  if n.toNat < x.batches.countP (fun b => b.left != 0) then .wait 4 .cond s
  else
    let done := x.batches.filter (fun b => b.left == 0)
    let w := done.foldl (fun m b => max m b.status.toNat) 0
    let num := ((done.filter (fun b => b.status.toNat == w)).map (·.num)).foldl (fun m b => match m with
      | none => some b
      | some k => some (min k b)) (none : Option Nat)
    let x := { x with
      batches := x.batches.filter (fun b => b.left != 0), reported := (done.reverse ++ x.reported).take 16 }
    .done (((s.setMe x).wS sd (w64 (num.getD 0 * 2 ^ 32 + w))).wP pd (w == 0))

/-! ### Events -/

/-- A timed command starts now: it is due, a place in flight is free, and it is served before every other party (R196, R197).
One whose TIME comes while its core drains for a SAVE does not start and is saved, which R197 and R284 leave open (DESIGN
CHOICE, notes/assumptions/96.md). -/
def timedStarts (s : State) (cluster : Nat) (c : CopyCmd) : Bool :=
  let x := s.clu cluster
  let before := x.timed.takeWhile (·.id != c.id)
  let key := fun a : CopyCmd => (a.elig, (shapeOf a.shape).time)
  let lt := fun (a b : Nat × Nat) => a.1 < b.1 || (a.1 == b.1 && a.2 < b.2)
  !(saving s c.core && c.batch.isSome) && timedDue s c && x.copies.length < 64 &&
    x.timed.all (fun a => !(timedDue s a && lt (key a) (key c))) && before.all (fun a => !(timedDue s a && key a == key c)) &&
    x.waiting.all (fun w => (shapeOf w.shape).timed || !w.boarded || c.elig ≤ w.elig)

/-- TIMED_COMMAND_START (R197): the eligible timed command that is served first takes a free place in flight. -/
def execTimedCommandStart (cluster id : Nat) (s : State) : Outc :=
  match (s.clu cluster).timed.find? (·.id == id) with
  | none => .next s
  | some c =>
    if timedStarts s cluster c then
      .next (startCopy (s.updClu cluster (fun x => { x with timed := x.timed.filter (·.id != id) })) c)
    else .next s

/-- A line that a command writes is being served at its home (R171). -/
def copyBusy (s : State) (c : CopyCmd) : Bool :=
  match c.dst with
  | .page _ _ pa _ =>
    let sh := shapeOf c.shape
    s.homeTxns.any (fun t => (rowOffs sh true).any (fun o =>
      overlap (128 * t.req.line) 128 (atOff pa o) (rowBytes sh.dty sh.n0)))
  | _ => false

/-- What a command writes in local memory and pages. -/
def copyWrite (s : State) (c : CopyCmd) : State :=
  let sh := shapeOf c.shape
  let data := match c.data with
    | some d => d
    | none => copyRead s c.id sh c.src
  let s := (copyRows sh data).foldl (fun s r => rowWrite s sh c.dst r.1 r.2) s
  dropLines (if c.poison.isEmpty then s else poisonRows s c) (cluOfCore c.core) c

/-- COPY_COMMAND_FINISH (R200): every response has arrived, the remaining writes are performed, and the command ends, one
with a fault once its notice can be raised (R198, R275). Where the responses of its pieces differ, its status is the highest,
which R200 does not say of one command (DESIGN CHOICE, notes/assumptions/95.md). One whose source had an uncorrectable word
writes that word poisoned (R289). -/
def execCopyCommandFinish (cluster id : Nat) (s : State) : Outc :=
  match (s.clu cluster).copies.find? (·.id == id) with
  | none => .next s
  | some c =>
    let txs := s.fabTx.filter (fun t => t.kind == .copy id true || t.kind == .copy id false)
    let codes := txs.map (fun t => (t.resp.map (·.code)).getD 0)
    let worst := codes.foldl (fun m k => max m (copyStatus k)) 0
    if !txsDone txs || copyBusy s c then .next s
    else match c.bad with
    | some (code, info) =>
      if copyHeld s cluster then .next s
      else
        let s := if c.poison.isEmpty || c.dst.remote then s else copyWrite s c
        .next (endCopy (copyNotice s c code info) c 3 0)
    | none =>
    if txs.any (fun t => t.kind == .copy id true && (t.resp.map (·.code)).getD 0 != 0) then .next (endCopy s c worst 0)
    else if c.dst.remote then
      (if c.sent then
        .next (endCopy (dropLines s cluster c) c worst (txs.foldl (fun m t => max m ((t.resp.map (fabVis s t)).getD 0)) 0))
      else .next s)
    else
      let s := copyWrite s c
      .next (endCopy s c 0 (match c.dst with | .page _ _ _ _ => ccnt s + 1 | _ => 0))

def execCpy (g : Guard) (dst src : CopyArg) (vn : VNum) (s : State) : Outc := issue (.cpy g dst src vn) g (opCpy dst src vn) s
def execSeal (g : Guard) (sd : SReg) (s : State) : Outc := issue (.seal g sd) g (opSeal sd) s
def execWaitb (g : Guard) (pd : PReg) (sd : SReg) (n : BitVec 4) (s : State) : Outc :=
  issue (.waitb g pd sd n) g (opWaitb pd sd n) s

end Sys2Proof.Machine
end

