-- ==== Sys2Proof/Machine/Landing.lean ====
section
/-!
DEFINITION. Machine/Landing.lean: landing zones (09 R202 to R209; 17 R387 to R389): the zone registers read, the receiver's
side of landing writes and reservations, timeouts, and LZRES, LZREL, LZCLR, LZWAIT.
-/
namespace Sys2Proof.Machine

/-! ### Zones -/

def lzCfg (s : State) (core z : Nat) : Word := regGet s (offLZ core z)
def lzSlotLog (s : State) (core z : Nat) : Nat := fld (lzCfg s core z) 47 44
/-- Slot sizes 9 to 15 disable the zone. -/
def lzOn (s : State) (core z : Nat) : Bool := (lzCfg s core z).getLsbD 63 && lzSlotLog s core z ≤ 8
def lzTenant (s : State) (core z : Nat) : Nat := fld (lzCfg s core z) 53 48
def lzSize (s : State) (core z : Nat) : Nat := 2 ^ (8 + lzSlotLog s core z)
/-- The highest slot number. -/
def lzTop (s : State) (core z : Nat) : Nat := fld (lzCfg s core z) 37 32
def lzSched (s : State) (core z : Nat) : Bool := (lzCfg s core z).getLsbD 57
def lzKeyOk (s : State) (core z : Nat) (key : W32) : Bool := fld (lzCfg s core z) 31 0 == key.toNat
def lzSlot (s : State) (core z n : Nat) : LzSlot := fget .init (s.core core).lz (64 * z + n)
def setLzSlot (s : State) (core z n : Nat) (x : LzSlot) : State :=
  s.updCore core (fun c => { c with lz := if x = .init then fdel c.lz (64 * z + n) else fset c.lz (64 * z + n) x })
/-- RESERVED or FILLING. -/
def LzSlot.pending (x : LzSlot) : Bool := x.state == 1 || x.state == 2
/-- ZPEND (R203). -/
def lzZpend (s : State) (core z : Nat) : Nat :=
  (List.range 64).foldl (fun n i => let x := lzSlot s core z i; if x.pending then n + x.pend else n) 0

/-- Bytes of a core's scratchpad written from an offset; what would lie past its end is dropped
(notes/assumptions/21.md). -/
def scrPut (s : State) (core o : Nat) (bs : List Byte) : State := memPut s (scrKey core o) (bs.take (2 ^ 18 - o))

/-- A slot's arrival word, if it lies in the scratchpad. -/
def lzWord (s : State) (core z n : Nat) : Option Nat :=
  let o := fld (regGet s (offLZ core z + 0x10)) 17 3 * 8 + 8 * n
  if o + 8 ≤ 2 ^ 18 then some (scrKey core o) else none
def lzWordEmpty (s : State) (core z n : Nat) : State :=
  match lzWord s core z n with
  | some w => feChange s w false
  | none => s
/-- The arrival word receives the total length and FULL in one bank operation (R203). -/
def lzWordFull (s : State) (core z n total : Nat) : State :=
  match lzWord s core z n with
  | some w => feChange (memPut s w (toBytes 8 total)) w true
  | none => s

/-! ### The receiver (R203 to R206) -/

/-- The info word of LZ_OVERRUN (R205). -/
def overrunInfo (n z state score sender : Nat) : Word :=
  w64 (n + z * 2 ^ 6 + state * 2 ^ 8 + score % 4096 * 2 ^ 16 + sender % 1024 * 2 ^ 32)

/-- A landing write at its zone: the code that its sender sees, and the state (R204, R205). R205 does not give CORE, STRAND and
TENANT of the LZ_OVERRUN packet: they are the zone's core, strand 0 and the zone's TENANT (DESIGN CHOICE,
notes/assumptions/97.md). -/
def landAt (s : State) (sender ptr : Nat) (key : W32) (len score : Nat) (data : List Byte) : Nat × State :=
  let core := landCore ptr
  let z := bitsN ptr 37 36
  let n := bitsN ptr 35 30
  let o := bitsN ptr 15 0
  let x := lzSlot s core z n
  let who := x.sender == sender && x.score == score
  let fits := data.length ≤ x.pend
  let ok := n ≤ lzTop s core z && o + data.length ≤ lzSize s core z &&
    (if lzSched s core z then x.state == 0 || (x.state == 2 && who && fits) else x.pending && who && fits)
  if !coreExists core || !lzOn s core z || !lzKeyOk s core z key then (fsNOZONE, s)
  else if x.state = 5 then (fsLINK_DOWN, s)
  else if !ok then
    (fsOVERRUN, notice s (cluOfCore core)
      { code := cLZ_OVERRUN, frozen := false, async := false, cwide := false, core := core, strand := 0,
        tenant := lzTenant s core z, aux := 0, pc := 0, info := overrunInfo n z x.state score sender, ccnt := w64 (ccnt s) })
  else
    let y := if x.state = 0 then { x with pend := len, total := len, sender := sender, score := score } else x
    let y := { y with state := 2, pend := y.pend - data.length, since := s.cycle }
    let s := scrPut s core (fld (regGet s (offLZ core z + 8)) 17 8 * 256 + n * lzSize s core z + o) data
    if y.pend = 0 then (0, lzWordFull (setLzSlot s core z n { y with state := 3 }) core z n y.total)
    else (0, setLzSlot s core z n y)

/-- A reservation at its zone: the code of R206 and the slot. -/
def reserveAt (s : State) (sender ptr : Nat) (key : W32) (len score : Nat) : Nat × Nat × State :=
  let core := landCore ptr
  let z := bitsN ptr 37 36
  if !coreExists core || !lzOn s core z || !lzKeyOk s core z key then (2, 0, s)
  else if lzSched s core z then (5, 0, s)
  else if len = 0 || lzSize s core z < len then (3, 0, s)
  else match (List.range (lzTop s core z + 1)).find? (fun n => (lzSlot s core z n).state == 0) with
    | none => (1, 0, s)
    | some n =>
      (0, n, setLzSlot s core z n
        { state := 1, pend := len, total := len, sender := sender, score := score, since := s.cycle, cause := 0 })

/-- LANDING_WRITE (R204); one of a .rel form is a release once it has been performed (R179). -/
def execLandingWrite (a : Arrival) (s : State) : Outc :=
  match arrivalOf s a with
  | some { peer := p, addr := ptr, op := .land rel key len core data, .. } =>
    let (code, s) := landAt s p ptr key len core data
    .next (respond (if rel && code == 0 then unitRelease s else s) a { code := code, data := [] })
  | _ => .next s

/-- LZRES_REQUEST (R206): the reply's data are the code and the slot. -/
def execLzresRequest (a : Arrival) (s : State) : Outc :=
  match arrivalOf s a with
  | some { peer := p, addr := ptr, op := .reserve key len core, .. } =>
    let (code, n, s) := reserveAt s p ptr key len core
    .next (respond s a { code := 0, data := [BitVec.ofNat 8 code, BitVec.ofNat 8 n] })
  | _ => .next s

/-- A slot breaks (R203). -/
def breakSlot (s : State) (core z n cause : Nat) : State :=
  setLzSlot s core z n { lzSlot s core z n with state := 5, cause := cause }

/-- LANDING_SLOT_TIMEOUT (R203): TIMEOUT cycles without a byte. -/
def execLandingSlotTimeout (core zone slot : Nat) (s : State) : Outc :=
  let lim := fld (regGet s (offLZ core zone + 0x18)) 47 0
  let x := lzSlot s core zone slot
  if lim ≠ 0 && x.pending && lim ≤ s.cycle - x.since then .next (breakSlot s core zone slot 1) else .next s

/-- Every slot that a peer was filling breaks (R209). -/
def breakSender (s : State) (peer : Nat) : State :=
  s.cores.foldl (fun s c => c.2.lz.foldl (fun s e =>
    if e.2.pending && e.2.sender == peer then breakSlot s c.1 (e.1 / 64) (e.1 % 64) 2 else s) s) s

/-- A zone disabled, its arrival words EMPTY for whoever waits (R202). -/
def zoneDisableAt (s : State) (core z : Nat) : State :=
  let s := regFld s (offLZ core z) 63 63 0
  let s := s.updCore core (fun c => { c with lz := c.lz.filter (fun e => e.1 / 64 != z) })
  (List.range 64).foldl (fun s n => lzWordEmpty s core z n) s

/-- ZONE_DISABLE (R202): a write clears EN. -/
def execZoneDisable (core zone : Nat) (s : State) : Outc :=
  if coreExists core && zone < 4 && (lzCfg s core zone).getLsbD 63 then .next (zoneDisableAt s core zone) else .next s

/-! ### Instructions -/

/-- LZRES (R206, R388). -/
def opLzres (pd : PReg) (sd sa sb : SReg) (rp : Option Reply) (s : State) : Res :=
  let p := s.rS sa
  match rp with
  | none =>
    match checkSpace s (fun t => t == 7) p with
    | some e => e.res s
    | none =>
      if fld p 35 30 ≠ 0 || fld p 15 0 ≠ 0 then .fault cBOUNDS p
      else
        let op := FabOp.reserve (landKey s s.tenantId) (s.rS sb).toNat s.coreId
        .wait 0 .access (newTx (dropTxs s s.coreId s.slotId) (fld p 59 50) op p.toNat s.at .strand s.tenantId).2
  | some r =>
    let s := fillTx s r
    let ts := myTxs s s.coreId s.slotId
    if !txsDone ts then .wait 0 .access s
    else
      let r : Reply := (ts.findSome? (fun t => t.resp)).getD { code := fsLINK_DOWN, data := [] }
      let code := if r.code ≠ 0 then 4 else (r.data.getD 0 0).toNat
      let s := dropTxs s s.coreId s.slotId
      let v := if code = 0 then putFld p 35 30 (r.data.getD 1 0).toNat else w64 code
      .done ((s.wS sd v).wP pd (code == 0))

/-- The faults of a zone (R207). -/
def zoneFault (s : State) (z : Nat) : Option Res :=
  if !lzOn s s.coreId z then some (.fault cBOUNDS (w64 z))
  else if lzTenant s s.coreId z ≠ s.tenantId then some (.fault cPRIV (w64 z))
  else none

/-- A wait on a zone: with FEMAX 0 it faults at once (R140). -/
def zoneWait (s : State) (z : Nat) (info : Word) : Res :=
  if s.me.bound = 0 then .faultAux cFE_TIMEOUT info (BitVec.ofNat 8 z)
  else .wait 3 .cond s

/-- LZWAIT (R207, R389). The faults of the zone are looked at again when a wait is evaluated again: one whose zone has been
disabled, or has changed its TENANT, faults then, which R207 leaves open (DESIGN CHOICE, notes/assumptions/97.md). -/
def opLzwait (pd : PReg) (sd : SReg) (zone : BitVec 2) (sm : SReg) (s : State) : Res :=
  let z := zone.toNat
  let core := s.coreId
  match zoneFault s z with
  | some r => r
  | none =>
    let m := s.rS sm
    if m = 0 then .done ((s.wS sd (w64 (3 * 2 ^ 8))).wP pd false)
    else match (List.range (lzTop s core z + 1)).find? (fun n =>
        m.getLsbD n && ((lzSlot s core z n).state == 3 || (lzSlot s core z n).state == 5)) with
      | none => zoneWait s z m
      | some n =>
        let x := lzSlot s core z n
        if x.state = 3 then
          .done (((setLzSlot s core z n { x with state := 4 }).wS sd (w64 (x.total % 2 ^ 32 * 2 ^ 32 + n))).wP pd true)
        else .done ((s.wS sd (w64 (x.cause * 2 ^ 8 + n))).wP pd false)

/-- LZWAIT.all (R207). -/
def opLzwaitAll (pd : PReg) (sd : SReg) (zone : BitVec 2) (s : State) : Res :=
  let z := zone.toNat
  let st := fun k => (List.range 64).countP (fun n => (lzSlot s s.coreId z n).state == k)
  match zoneFault s z with
  | some r => r
  | none =>
    if lzZpend s s.coreId z ≠ 0 then zoneWait s z (BitVec.allOnes 64)
    else .done ((s.wS sd (w64 (st 3))).wP pd (st 5 == 0))

/-- LZREL and LZCLR (R387): a slot in one of the given states becomes FREE, its arrival word EMPTY; SENDER and SCORE then read
0, which R203 does not say (DESIGN CHOICE, notes/assumptions/97.md). -/
def zoneFree (states : List Nat) (pd : PReg) (zone : BitVec 2) (ss : SReg) (s : State) : Res :=
  let z := zone.toNat
  let n := (s.rS ss).toNat
  match zoneFault s z with
  | some r => r
  | none =>
    if lzTop s s.coreId z < n then .fault cBOUNDS (s.rS ss)
    else if states.contains (lzSlot s s.coreId z n).state then
      .done ((lzWordEmpty (setLzSlot s s.coreId z n .init) s.coreId z n).wP pd true)
    else .done (s.wP pd false)

def opLzrel := zoneFree [3, 4]
def opLzclr := zoneFree [5]

def execLzres (g : Guard) (pd : PReg) (sd sa sb : SReg) (s : State) : Outc :=
  issue (.lzres g pd sd sa sb) g (opLzres pd sd sa sb none) s
def execLzrel (g : Guard) (pd : PReg) (z : BitVec 2) (ss : SReg) (s : State) : Outc := issue (.lzrel g pd z ss) g (opLzrel pd z ss) s
def execLzclr (g : Guard) (pd : PReg) (z : BitVec 2) (ss : SReg) (s : State) : Outc := issue (.lzclr g pd z ss) g (opLzclr pd z ss) s
def execLzwait (g : Guard) (pd : PReg) (sd : SReg) (z : BitVec 2) (sm : SReg) (s : State) : Outc :=
  issue (.lzwait g pd sd z sm) g (opLzwait pd sd z sm) s
def execLzwaitAll (g : Guard) (pd : PReg) (sd : SReg) (z : BitVec 2) (s : State) : Outc :=
  issue (.lzwaitAll g pd sd z) g (opLzwaitAll pd sd z) s

end Sys2Proof.Machine
end

