-- ==== Sys2Proof/Machine/FabricOps.lean ====
section
/-!
DEFINITION. Machine/FabricOps.lean: FLD, QPOP, FST, FAMO and MLDR (10 R215 to R223; 17 R365, R368, R369; 18 R399, R411),
requests served and answered, timeouts and escalation (R214), FABID and PEERFENCE (R213), and time (R225).
-/
namespace Sys2Proof.Machine

/-! ### Responses -/

/-- A run-ahead queue's entry receives its response; its transaction is over (R216). -/
def fldArrive (s : State) (core q id : Nat) (r : Reply) : State :=
  let s := { s with fabTx := s.fabTx.filter (·.id != id) }
  s.updCore core fun c =>
    { c with raq := fset c.raq q ((fget [] c.raq q).map (fun e =>
        if e.tx = id then { e with arrived := true, code := BitVec.ofNat 8 r.code, data := BitVec.ofNat 512 (fromBytes (r.data.take 64)) }
        else e)) }

/-- A transaction of this device receives its response: a queue's entry takes it, a copy command goes on. -/
def deliver (s : State) (id : Nat) (r : Reply) : State :=
  match s.fabTx.find? (fun t => t.id == id && t.resp.isNone) with
  | none => s
  | some t =>
    let s := answerTx s id r
    match t.kind with
    | .fld q => fldArrive s t.owner.1 q id r
    | .copy c true => copyProgress s t.owner.1 c
    | _ => s

/-- What an access through the device's own window has written, at the strand that made it: its cluster's copy of an SC line takes
the bytes (R173), and what its loads have received of an HC line is dropped (R183). -/
def ownWritten (s : State) (t : FabTx) (p : Place) (bs : List (Option Byte)) : State :=
  match t.kind, p with
  | .copy _ _, _ => s
  | _, .page pa attr _ =>
    (List.range (bs.length / 128 + 2)).foldl (fun s i =>
      let lo := if i = 0 then 0 else 128 * i - pa % 128
      let l := slice bs lo (128 * (i + 1) - pa % 128 - lo)
      if l.isEmpty then s
      else
        let s := forgetLine s t.owner.1 t.owner.2 (lineOf (pa + lo))
        if attr = 1#2 then scUpdate s (cluOfCore t.owner.1) (pa + lo) l else s) s
  | _, _ => s

/-- The bytes that a request has written at a place. -/
def fabWritten (s : State) (p : Place) : FabOp → List (Option Byte)
  | .write _ d => d
  | .atom _ _ _ _ => (readAt s p 8).map some
  | _ => []

/-- FABRIC_REQUEST_SERVED (R212). -/
def execFabricRequestServed (a : Arrival) (s : State) : Outc :=
  match arrivalOf s a with
  | none => .next s
  | some q =>
    match q.op with
    | .land _ _ _ _ _ | .reserve _ _ _ => .next s
    | _ =>
      let place := fabPlace s q.tenant q.addr (fabSize q.op) (fabPerm q.op)
      let (r, s) := fabServe s q.tenant q.addr q.op
      match a with
      | .own id =>
        let s := match s.fabTx.find? (fun t => t.id == id), place with
          | some t, some p => if r.code = 0 then ownWritten s t p (fabWritten s p q.op) else s
          | _, _ => s
        .next (deliver s id { r with time := ccnt s })
      | .peer _ => .next (respond s a r)

/-! ### FLD and QPOP (R216) -/

def raqOf (s : State) (core q : Nat) : List RaEntry := fget [] (s.core core).raq q
def setRaq (s : State) (core q : Nat) (l : List RaEntry) : State :=
  s.updCore core (fun c => { c with raq := if l.isEmpty then fdel c.raq q else fset c.raq q l })

/-- FLD (R368). A full queue parks the strand, bounded by FEMAX. -/
def opFld (q : BitVec 2) (sa : SReg) (s : State) : Res :=
  let p := s.rS sa
  match checkSpace s (fun t => t == 5) p with
  | some e => e.res s
  | none =>
    if p.toNat % 64 ≠ 0 then .fault cALIGN p
    else if 32 ≤ (raqOf s s.coreId q.toNat).length then
      if s.me.bound = 0 then .fault cFE_TIMEOUT (w64 q.toNat) else .wait 8 .cond s
    else
      let peer := fld p 59 50
      let (id, s) := newTx s peer (.read 64) (fld p 49 0) s.at (.fld q.toNat) s.tenantId
      let e : RaEntry := { tx := id, arrived := false, code := 0, peer := peer, tenant := s.tenantId, data := 0 }
      let s := setRaq s s.coreId q.toNat (raqOf s s.coreId q.toNat ++ [e])
      match (s.fabTx.find? (·.id == id)).bind (·.resp) with
      | some r => .done (fldArrive s s.coreId q.toNat id r)
      | none => .done s

/-- The number that a parked QPOP of a queue has taken in the order in which QPOPs reached it (R411). -/
def Strand.qpopTicket (x : Strand) (q : BitVec 2) : Option Nat :=
  if x.pinstr = 0 then none
  else match decodeTile x.pinstr with
    | .ok (.qpop _ _ _ q') => if q' = q then x.pcap.head? else none
    | _ => none

/-- Another strand of the core waits in a QPOP that reached the queue before the issuing strand's. -/
def qpopBehind (s : State) (q : BitVec 2) : Bool :=
  (List.range 8).any (fun n => n != s.slotId &&
    match (s.strand s.coreId n).qpopTicket q, s.me.qpopTicket q with
    | some t, some mine => t < mine
    | some _, none => true
    | none, _ => false)

/-- A QPOP waits, its place in the order kept (R411); with FEMAX 0 it faults at once (R140). -/
def qpopWait (q : BitVec 2) (s : State) : Res :=
  if s.me.bound = 0 then .fault cFE_TIMEOUT (w64 q.toNat)
  else match s.me.qpopTicket q with
    | some _ => .wait 8 .cond s
    | none => let (id, s) := s.fresh; .wait 8 .cond (s.setMe { s.me with pcap := [id] })

/-- QPOP (R411): both of its waits count against FEMAX, and the strands of a core are served in the order in which their QPOPs
reached the queue. -/
def opQpop (pd : PReg) (vd : VNum) (q : BitVec 2) (s : State) : Res :=
  let stop : Res := qpopWait q s
  if qpopBehind s q then stop
  else match raqOf s s.coreId q.toNat with
  | [] => stop
  | e :: rest =>
    if e.tenant ≠ s.tenantId then .fault cPRIV (w64 q.toNat)
    else if !e.arrived then stop
    else
      let s := setRaq s s.coreId q.toNat rest
      if e.code = 0 then .done ((s.wV vd.toNat e.data).wP pd true)
      else .done ((s.setMe (s.me.setFstat e.code.toNat e.peer 0)).wP pd false)

/-! ### FST, FAMO and MLDR -/

/-- FST (R217, R369). -/
def opFst (rel : Option Scope) (sa : SReg) (data : FstData) (s : State) : Res :=
  let p := s.rS sa
  let bs := match data with
    | .scal r => toBytes 8 (s.rS r).toNat
    | .vec v => toBytes 64 (s.rV v.toNat).toNat
  match checkSpace s (fun t => t == 5 || t == 6 || t == 7) p with
  | some e => e.res s
  | none =>
    if p.toNat % bs.length ≠ 0 then .fault cALIGN p
    else afterRelease rel s fun s =>
      if ptrTag p = 7 then
        .done (postFab s s.coreId s.slotId (fld p 59 50) (.land rel.isSome (landKey s s.tenantId) bs.length s.coreId bs) p.toNat s.tenantId)
      else
        .done (postPeer s s.coreId s.slotId (if ptrTag p = 5 then .peer p.toNat else .mcast p.toNat) rel.isSome
          (bs.map some) s.tenantId)

/-- FAMO (R218, R365). -/
def opFamo (op : FamoOp) (ord : MemOrd) (pd : PReg) (sd sa sb : SReg) (rp : Option Reply) (s : State) : Res :=
  let p := s.rS sa
  match rp with
  | none =>
    match checkSpace s (fun t => t == 5) p with
    | some e => e.res s
    | none =>
      if p.toNat % 8 ≠ 0 then .fault cALIGN p
      else match if s.me.prel then none else dataMatch s true true p.toNat 8 with
      | some n => .brk n
      | none => afterRelease (ordRel ord) s fun s =>
        let q := match op with
          | .int o => FabOp.atom (ordRel ord).isSome (some o) (s.rS sb) 0
          | .cas sc => FabOp.atom (ordRel ord).isSome none (s.rS sb) (s.rS sc)
        .wait 0 .access (newTx (dropTxs s s.coreId s.slotId) (fld p 59 50) q (fld p 49 0) s.at .strand s.tenantId).2
  | some r =>
    let s := fillTx s r
    let ts := myTxs s s.coreId s.slotId
    if !txsDone ts then .wait 0 .access s
    else
      let r : Reply := (ts.findSome? (fun t => t.resp)).getD { code := fsLINK_DOWN, data := [] }
      let (s, bad) := endTxs s
      let s := (ts.head?.map (fun t => if bad then s else noteVisSys s s.coreId s.slotId (fabVis s t r))).getD s
      let s := if bad then s.wP pd false else (s.wS sd (w64 (fromBytes (r.data.take 8)))).wP pd true
      thenAcquire (ordAcq ord) s

/-- One lane of MLDR: the members' elements added in index order; a NaN is delivered as 0x7FC0_0000 (R222, R238). -/
def mldrLane : List Nat → Nat
  | [] => 0
  | x :: xs => xs.foldl (fun acc y => (fAdd .rne acc y).1) (if bitsN x 30 23 = 255 ∧ bitsN x 22 0 ≠ 0 then 0x7FC00000 else x)

/-- MLDR (R222, R399). -/
def opMldr (bf16 : Bool) (pd : PReg) (vd : VNum) (sa : SReg) (rp : Option Reply) (s : State) : Res :=
  let p := s.rS sa
  match rp with
  | none =>
    match checkSpace s (fun t => t == 6) p with
    | some e => e.res s
    | none =>
      if p.toNat % 64 ≠ 0 then .fault cALIGN p
      else match dataMatch s true false p.toNat 64 with
      | some n => .brk n
      | none =>
        .wait 0 .access ((groupMembers s (fld p 59 52)).foldl (fun s m =>
          (newTx s m (.reduceRead 64) (fld p 49 0) s.at .strand s.tenantId).2) (dropTxs s s.coreId s.slotId))
  | some r =>
    let s := fillTx s r
    let ts := myTxs s s.coreId s.slotId
    if !txsDone ts then .wait 0 .access s
    else
      let s := dropTxs s s.coreId s.slotId
      match findIdx' (fun t : FabTx => (t.resp.map (·.code)).getD 0 ≠ 0) ts 0 with
      | some i => .done ((s.setMe (s.me.setFstat fsMEMBER_ABSENT ((ts.map (·.peer)).getD i 0) i)).wP pd false)
      | none =>
        let xs := ts.map (fun t => fromBytes (((t.resp.map (·.data)).getD []).take 64))
        if bf16 then
          let out := (List.range 32).map (fun i => mldrLane (xs.map (fun x => bitsN x (16 * i + 15) (16 * i) * 2 ^ 16)))
          .done ((s.wVs vd.toNat [vregOf 32 (out.take 16), vregOf 32 (out.drop 16)]).wP pd true)
        else
          let out := (List.range 16).map (fun i => mldrLane (xs.map (fun x => bitsN x (32 * i + 31) (32 * i))))
          .done ((s.wV vd.toNat (vregOf 32 out)).wP pd true)

def execFld (g : Guard) (q : BitVec 2) (sa : SReg) (s : State) : Outc := issue (.fld g q sa) g (opFld q sa) s
def execQpop (g : Guard) (pd : PReg) (vd : VNum) (q : BitVec 2) (s : State) : Outc :=
  issue (.qpop g pd vd q) g (opQpop pd vd q) s
def execFst (g : Guard) (rel : Option Scope) (sa : SReg) (data : FstData) (s : State) : Outc :=
  issue (.fst g rel sa data) g (opFst rel sa data) s
def execFamo (g : Guard) (op : FamoOp) (ord : MemOrd) (pd : PReg) (sd sa sb : SReg) (s : State) : Outc :=
  issue (.famo g op ord pd sd sa sb) g (opFamo op ord pd sd sa sb none) s
def execMldr (g : Guard) (bf16 : Bool) (pd : PReg) (vd : VNum) (sa : SReg) (s : State) : Outc :=
  issue (.mldr g bf16 pd vd sa) g (opMldr bf16 pd vd sa none) s

/-! ### Timeout and escalation (R213, R214) -/

/-- A peer declared unreachable: its PEERDOWN bit, every outstanding request to it LINK_DOWN, its landing slots broken. -/
def peerLost (s : State) (a : Nat) : State :=
  let s := regPut s (offPEERDOWN (a / 64)) (regGet s (offPEERDOWN (a / 64)) ||| w64 (2 ^ (a % 64)))
  let ids := (s.fabTx.filter (fun t => t.peer == a && t.resp.isNone)).map (·.id)
  let s := ids.foldl (fun s id => deliver s id { code := fsLINK_DOWN, data := [] }) s
  breakSender s a

/-- FABRIC_TIMEOUT (R214): no response within TO x 4 cycles. -/
def execFabricTimeout (id : Nat) (s : State) : Outc :=
  let cfg := regGet s offFABCFG
  match s.fabTx.find? (fun t => t.id == id && t.resp.isNone) with
  | none => .next s
  | some t =>
    if s.cycle - t.issued < fld cfg 31 4 * 4 then .next s
    else if t.tries < min 15 (fld cfg 39 32) then
      let again := { s with fabTx := s.fabTx.map (fun (u : FabTx) =>
        if u.id = id then { u with tries := u.tries + 1, issued := s.cycle } else u) }
      if !fabLive s || t.peer = fabId s then .next again
      else match switchFrom s ((t.sw + 1) % switches s) with
        | none => .next (deliver s id { code := fsLINK_DOWN, data := [] })
        | some sw => .next (sendTx again t sw)
    else
      let s := peerLost s t.peer
      let s := deliver s id { code := fsLINK_DOWN, data := [] }
      .next (({ s with mc := { s.mc with irqs := s.mc.irqs + 1 } }).send (.irq irqPeer))

/-- SWITCH_LINK_DOWN_REPORT (R231): a switch reports its links down to system software, which sets FABDOWN. -/
def execSwitchLinkDownReport (sw : Nat) (s : State) : Outc := .next (s.send (.irq (irqSwitch + sw)))

/-- PEERFENCE_WRITE (R213): each bit that is not set yet has the effects of an escalation. -/
def execPeerfenceWrite (j : Nat) (v : Word) (s : State) : Outc :=
  if 16 ≤ j then .next s
  else .next ((List.range 64).foldl (fun s i => if v.getLsbD i && !peerDown s (64 * j + i) then peerLost s (64 * j + i) else s) s)

/-- FABID_WRITE (R213). -/
def execFabidWrite (v : Word) (s : State) : Outc := .next (regWrite s offFABID v)

/-! ### Time (R225) -/

/-- TIME_MESSAGE (R225): the estimate is recorded, LOCKED follows it, and CCNT is slewed towards the master. -/
def execTimeMessage (off : Int) (s : State) : Outc :=
  let t := regGet s offTSYNC
  if t.getLsbD 0 then .next s
  else
    let run := if off.natAbs ≤ 24 then s.timeRun + 1 else 0
    let was := t.getLsbD 32
    let locked := if 32 < off.natAbs then false else was || 16 ≤ run
    let s := regPut s offTSYNC (putFld (putFld t 31 16 (off % 2 ^ 16).toNat) 32 32 (b2n locked))
    let s := { s with timeRun := run, slew := -off, slewAt := if s.slew = 0 then s.cycle else s.slewAt }
    if was && !locked && t.getLsbD 33 then .next (s.send (.irq irqTsync)) else .next s

end Sys2Proof.Machine
end

