-- ==== Sys2Proof/Machine/Shootdown.lean ====
section
/-!
DEFINITION. Machine/Shootdown.lean: shootdowns and KICK (07 R161 to R163), and the replay of side logs (07 R155 to R157).
-/
namespace Sys2Proof.Machine

/-! ### Shootdown (R162) -/

/-- The cluster with a change made to every listed cluster. -/
def updClusters (s : State) (f : Cluster → Cluster) : State :=
  { s with clusters := s.clusters.map (fun c => (c.1, f c.2)) }

/-- A physical base lies in a page. -/
def inPage (pa size base : Nat) : Bool := pa / pageBytes size * pageBytes size ≤ base && base < pa / pageBytes size * pageBytes size + pageBytes size

/-- The info word of HANDLE_STALE for an operand captured from a handle whose page is shot down (R160, R162). -/
def CopyEnd.staleInfo (pa size : Nat) : CopyEnd → Option Word
  | .page h f _ off =>
    if inPage pa size f.pbase.toNat then some (w64 (h * 2 ^ 60 + (f.hva.toNat + off.toNat) % 2 ^ 57)) else none
  | _ => none

/-- A command that has not started yet and captured a handle to the page. -/
def CopyCmd.stale (pa size : Nat) (c : CopyCmd) : CopyCmd :=
  match c.bad, c.dst.staleInfo pa size, c.src.staleInfo pa size with
  | none, some i, _ => { c with bad := some (cHANDLE_STALE, i) }
  | none, none, some i => { c with bad := some (cHANDLE_STALE, i) }
  | _, _, _ => c

/-- A HANDLES shootdown: handle registers, handle caches, and copy commands that have not started. -/
def handlesDown (s : State) (pa size : Nat) : State :=
  let s := { s with strands := s.strands.map (fun x =>
    (x.1, { x.2 with h := x.2.h.map (fun h =>
      (h.1, if inPage pa size h.2.pbase.toNat then { h.2 with valid := false } else h.2)) })) }
  updClusters s (fun c =>
    { c with
      hcache := c.hcache.filter (fun e => !inPage pa size e.pa),
      timed := c.timed.map (CopyCmd.stale pa size),
      waiting := c.waiting.map (CopyCmd.stale pa size) })

/-- A TLB shootdown: the entries of every cluster TLB, and of the endpoint's translation cache, that hold the 64 KiB granule. -/
def tlbDown (s : State) (tenant va : Nat) : State :=
  let keep := fun (e : TlbEntry) => !(e.tenant == tenant && overlap e.va (pageBytes e.size) (va / 65536 * 65536) 65536)
  let s : State := { s with epTlb := s.epTlb.filter keep }
  updClusters s (fun c => { c with tlb := c.tlb.filter keep })

/-- A name for the access that a strand is parked for. -/
def parkId (key : Nat) (x : Strand) : Nat := 2 ^ 64 + x.pstart * 2 ^ 15 + key

/-- What must finish with the page before DONE: copy commands in flight that captured a handle to it, posted writes that
have been translated, and the accesses of parked strands that have been (R162). -/
def drainIds (s : State) (handles tlb : Bool) (pa size : Nat) : List Nat :=
  (s.strands.filter (fun e => e.2.status == .parked && e.2.phase == .access && e.2.pplaces.any (fun p =>
    match p.place with
    | .page a _ _ => tlb || (handles && inPage pa size a)
    | _ => false))).map (fun e => parkId e.1 e.2) ++
  (if handles then s.clusters.flatMap (fun c => (c.2.copies.filter (fun x =>
      (x.dst.staleInfo pa size).isSome || (x.src.staleInfo pa size).isSome)).map (·.id)) else []) ++
  (s.posted.filter (fun p => p.kind != .bank && p.kind != .fab && (tlb || (handles && inPage pa size p.key)))).map (·.id)

/-- None of the named commands and writes is still under way. -/
def drained (s : State) (ids : List Nat) : Bool :=
  ids.all (fun i => !(s.clusters.any (fun c => (c.2.copies ++ c.2.timed ++ c.2.waiting).any (·.id == i))) && !(s.posted.any (·.id == i)) &&
    !(s.strands.any (fun e => e.2.status == .parked && e.2.phase == .access && parkId e.1 e.2 == i)))

/-- A BOTH shootdown of a page. -/
def bothDown (s : State) (tenant va pa size : Nat) : State := tlbDown (handlesDown s pa size) tenant va

/-! ### The side log (R155, R156) -/

def slOf (c : Cluster) (tenant gran : Nat) : List SlEntry :=
  c.sidelog.filter (fun e => e.tenant == tenant && e.va / 65536 == gran)

/-- A page's entries, request and timer leave the log. -/
def slClear (c : Cluster) (tenant gran : Nat) : Cluster :=
  { c with
    sidelog := c.sidelog.filter (fun e => !(e.tenant == tenant && e.va / 65536 == gran)),
    slReq := c.slReq.filter (· != (tenant, gran)),
    slAt := c.slAt.filter (fun x => !(x.1 == tenant && x.2.1 == gran)) }

/-- Bytes of an entry written one after another as accesses of its cluster. -/
def slBytes (f : State → Nat → List (Option Byte) → State) (s : State) (pa : Nat) : List Byte → State
  | [] => s
  | b :: bs => slBytes f (f s pa [some b]) (pa + 1) bs

/-- An entry's access performed at the page that its replay found (R155). -/
def slApply (clu : Nat) (t : TlbEntry) (s : State) (e : SlEntry) : State :=
  let pa := t.phys e.va
  let n := e.data.length
  let new := fun old : List Byte => match e.op with
    | .st => e.data
    | op => toBytes n (op.apply (fromBytes old) (fromBytes e.data))
  let vis := fun s : State => if e.gone then s else noteVis s e.core e.slot (ccnt s + 1)
  if t.attr = 0#2 then vis (cohWrite s pa (new (cohRead s pa n)))
  else if t.attr = 1#2 then
    let s := untrack (untrack s (lineOf pa)) (lineOf (pa + n - 1))
    let bs := new (readBytes s.mem pa n)
    vis (slBytes (fun s a b => scUpdate s clu a b) (writeAt s (.page pa 1 0) (bs.map some)) pa bs)
  else
    let (l, s) := cpFill s clu (lineOf pa)
    slBytes (fun s a b => cpWrite s clu a b) s pa (new (slice l.data (pa % 128) n))

/-- An entry performed; a reduction reads its word, and one that is uncorrectable is written back marked poisoned (R288, R289). -/
def slPerform (clu : Nat) (t : TlbEntry) (s : State) (e : SlEntry) : State :=
  if e.op = .st then slApply clu t s e
  else
    let pa := t.phys e.va
    let w := fun s : State => if t.attr = 2#2 then cpWord s clu pa else homeWord s pa
    let r := eccScan s clu [w s]
    let s := slApply clu t r.1 e
    if r.2.isSome then { s with soft := fset s.soft (w s) true } else s

/-- Replay of a page: it is walked afresh; mapped and allowed, its entries are performed in log order; failing the permission,
group or attribute check, it is held and reported, one page at a time; not present, it is asked for, unless it has been (R153). -/
def slReplay (s : State) (clu tenant gran : Nat) : State :=
  let c := s.clu clu
  match slOf c tenant gran with
  | [] => s
  | e :: es =>
    if c.slHeld.any (fun h => h.1 == tenant && h.2.1 == gran) then s
    else
    let s := (eccScan s clu (walkKeys s tenant e.va)).1
    match xlateWalk s tenant e.va .store clu with
    | (.ok t, some pteAddr) =>
      let s := (e :: es).foldl (slPerform clu t) (setAD s pteAddr true)
      s.updClu clu (fun c => slClear c tenant gran)
    | (.bad code, _) =>
      if code = cGPF_NP then slRequest s clu tenant e.va e.core (e.slot % 8) e.pc
      else if c.slHeld.isSome || slNoticeHeld s clu then s
      else
        let s := s.updClu clu (fun c => { c with slHeld := some (tenant, gran, e.va) })
        notice s clu
          { code := cSIDELOG_ORDER, frozen := false, async := false, cwide := false, core := e.core, strand := e.slot % 8,
            tenant := tenant, aux := 0, pc := e.pc, info := gpfInfo true .store e.va, ccnt := w64 (ccnt s), src := .sideLog }
    | _ => s

/-- The granules of a cluster's log, in log order. -/
def slGranules (c : Cluster) : List (Nat × Nat) :=
  c.sidelog.foldl (fun l e => if l.contains (e.tenant, e.va / 65536) then l else l ++ [(e.tenant, e.va / 65536)]) []

/-- A strand parked on a migrating mapping goes on: its access walks afresh, a KVCOMMIT copies afresh (R380). -/
def Strand.kicked (x : Strand) : Strand :=
  match decodeTile x.pinstr with
  | .ok (.kvcommit _ _ _ _ _) => { x with phase := .copies, pkind := 0 }
  | _ => { x with phase := .walk }

/-- The tenants in whose spaces a strand translates: its own, and for KVCOMMIT's rows the serving tenant (R379). -/
def walksOf (s : State) (x : Strand) : List Nat :=
  ((x.task.map (·.tenant)).getD 0) :: (match decodeTile x.pinstr with
    | .ok (.kvcommit _ _ _ _ _) => [servTenant s]
    | _ => [])

/-- KICK (R162): replay of every granule in the range, and its walks parked on migrating mappings walk afresh. -/
def kick (s : State) (tenant va size : Nat) : State :=
  let hit := fun a : Nat => a / pageBytes size == va / pageBytes size
  let s := s.clusters.foldl (fun s c => (slGranules c.2).foldl (fun s g =>
    if g.1 = tenant ∧ hit (g.2 * 65536) then slReplay s c.1 g.1 g.2 else s) s) s
  { s with strands := s.strands.map (fun x =>
      (x.1, if x.2.phase = .migrate ∧ (walksOf s x.2).contains tenant ∧ hit (x.2.pva.toNat % 2 ^ 57) then x.2.kicked
        else x.2)) }

/-! ### TSCMD (R161) -/

def tsTenant (s : State) : Nat := fld (regGet s offTSVA) 63 58
def tsVa (s : State) : Nat := fld (regGet s offTSVA) 56 16 * 65536
def tsPa (s : State) : Nat := fld (regGet s offTSPA) 55 16 * 65536
def tsSize (s : State) : Nat := fld (regGet s offTSPA) 1 0

/-- A command that starts: BUSY set, DONE cleared, its effect, and what DONE waits for. -/
def tsStart (s : State) (ids : List Nat) (f : State → State) : State :=
  let s := regFld s offTSCMD 9 8 1
  { f s with tsBusy := ids }

/-- A command is ignored while BUSY is set, and one that uses TSPA.SIZE while that is 3. -/
def tsIgnored (s : State) (usesSize : Bool) : Bool := (regGet s offTSCMD).getLsbD 8 || (usesSize && tsSize s == 3)

def execTscmdHandles (s : State) : Outc :=
  if tsIgnored s true then .next s
  else .next (tsStart s (drainIds s true false (tsPa s) (tsSize s)) (fun s => handlesDown s (tsPa s) (tsSize s)))
def execTscmdTlb (s : State) : Outc :=
  if tsIgnored s false then .next s
  else .next (tsStart s (drainIds s false true 0 0) (fun s => tlbDown s (tsTenant s) (tsVa s)))
def execTscmdBoth (s : State) : Outc :=
  if tsIgnored s true then .next s
  else .next (tsStart s (drainIds s true true (tsPa s) (tsSize s)) (fun s => bothDown s (tsTenant s) (tsVa s) (tsPa s) (tsSize s)))
def execTscmdKick (s : State) : Outc :=
  if tsIgnored s true then .next s else .next (tsStart s [] (fun s => kick s (tsTenant s) (tsVa s) (tsSize s)))

/-! ### Replay without KICK, SLACT (R155 to R157) -/

/-- SIDELOG_PERIODIC_REPLAY: every page of the log whose 65,536 cycles have passed. -/
def execSidelogPeriodicReplay (cluster : Nat) (s : State) : Outc :=
  .next (((s.clu cluster).slAt.filter (fun x => 65536 ≤ s.cycle - x.2.2)).foldl (fun s x =>
    let s := s.updClu cluster (fun c =>
      { c with slAt := c.slAt.map (fun y => if y.1 = x.1 ∧ y.2.1 = x.2.1 then (y.1, y.2.1, s.cycle) else y) })
    slReplay s cluster x.1 x.2.1) s)

/-- SLACT RETRY: the held page replays again. -/
def execSlactRetry (cluster : Nat) (s : State) : Outc :=
  match (s.clu cluster).slHeld with
  | none => .next s
  | some (t, g, _) => .next (slReplay (s.updClu cluster (fun c => { c with slHeld := none })) cluster t g)

/-- SLACT DISCARD: the held page's entries are removed and counted. -/
def execSlactDiscard (cluster : Nat) (s : State) : Outc :=
  match (s.clu cluster).slHeld with
  | none => .next s
  | some (t, g, _) =>
    let n := (slOf (s.clu cluster) t g).length
    let d := fld (regGet s (offSLSTAT cluster)) 63 32
    let s := s.updClu cluster (fun c => slClear { c with slHeld := none } t g)
    .next (regFld s (offSLSTAT cluster) 63 32 (min (d + n) (2 ^ 32 - 1)))

end Sys2Proof.Machine
end

