-- ==== Sys2Proof/Machine/Records.lean ====
section
/-!
DEFINITION. Machine/Records.lean: request records (03 R52 to R54), per-request faults (R76, R96), and RQLD, RQST, RQFLT and
STEPDONE (18 R418 to R421; 19 R431).
-/
namespace Sys2Proof.Machine

/-! ### Records (R52, R53) -/

/-- A request's name: its tenant and its index in the tenant's pool. -/
def reqKey (tenant rec : Nat) : Nat := tenant * 2 ^ 20 + rec
def reqTenant (r : Nat) : Nat := r / 2 ^ 20
/-- The physical address of a request's record. -/
def recordAt (s : State) (r : Nat) : Nat := tset s setRQBASE (reqTenant r) + 256 * (r % 2 ^ 20)

/-- Where a field lies: the offset of its 8-byte word, its lowest bit and its width (R53). -/
def rqPlace (f : Nat) : Nat × Nat × Nat :=
  match f with
  | 0 => (0, 0, 8) | 1 => (0, 8, 8) | 2 => (0, 16, 6) | 3 => (0, 24, 2) | 4 => (0, 28, 4) | 5 => (0, 32, 16)
  | 6 => (0x08, 0, 64) | 7 => (0x10, 0, 24) | 8 => (0x10, 32, 24) | 9 => (0x18, 0, 24) | 10 => (0x20, 0, 64)
  | 11 => (0x28, 0, 64) | 12 => (0x30, 0, 24) | 13 => (0x38, 0, 64) | 14 => (0x40, 0, 32) | 15 => (0x48, 0, 32)
  | 16 => (0x48, 32, 32) | 17 => (0x50, 0, 32) | 18 => (0x50, 32, 32) | 19 => (0x58, 0, 7) | 20 => (0x60, 0, 64)
  | 21 => (0x68, 0, 32) | 22 => (0x68, 32, 32) | 23 => (0x70, 0, 17) | 24 => (0x78, 0, 10) | 25 => (0x80, 0, 64)
  | 26 => (0x88, 0, 4) | 27 => (0x88, 8, 40)
  | 37 => (0xB8, 0, 8) | 38 => (0xC0, 0, 64) | 39 => (0xC8, 0, 64) | 40 => (0xD0, 0, 64) | 41 => (0xD8, 0, 64)
  | 42 => (0xE0, 0, 64) | 43 => (0xE8, 0, 14)
  | f => (0x90 + 4 * (f - 28) / 8 * 8, 4 * (f - 28) % 8 * 8, 32)

def rqSTATE : Nat := 0
def rqFLAGS : Nat := 1
def rqTENANT : Nat := 2
def rqPRIO : Nat := 3
def rqEVCLASS : Nat := 4
def rqSLOT : Nat := 5
def rqID : Nat := 6
def rqPOS : Nat := 7
def rqMAXTOK : Nat := 8
def rqGEN : Nat := 9
def rqSTOPSET : Nat := 10
def rqKVPT : Nat := 11
def rqKVPAGES : Nat := 12
def rqPFQBASE : Nat := 13
def rqPFQSIZE : Nat := 14
def rqPFQHEAD : Nat := 15
def rqPFQTAIL : Nat := 16
def rqTEMP : Nat := 17
def rqTOPP : Nat := 18
def rqTOPK : Nat := 19
def rqSEED : Nat := 20
def rqAUTO : Nat := 21
def rqASTATE : Nat := 22
def rqFUT : Nat := 23
def rqSPEC : Nat := 24
def rqPSTEP : Nat := 25
def rqPLEN : Nat := 26
def rqPPATH : Nat := 27
def rqPTOK (j : Nat) : Nat := 28 + j
def rqFCODE : Nat := 37
def rqFINFO : Nat := 38
def rqAGE : Nat := 39
def rqPROG : Nat := 40
def rqHIST : Nat := 41
def rqTAG : Nat := 42
def rqCQ : Nat := 43

/-- A field of the record at an address, read in one access at its home. -/
def rqAt (s : State) (pa f : Nat) : Nat :=
  let (o, lo, w) := rqPlace f
  bitsN (cohNat s (pa + o) 8) (lo + w - 1) lo
/-- A field written, the rest of its word kept. -/
def rqPutAt (s : State) (pa f v : Nat) : State :=
  let (o, lo, w) := rqPlace f
  cohPutNat s (pa + o) 8 (putBits (cohNat s (pa + o) 8) (lo + w - 1) lo v)

def rqGet (s : State) (r f : Nat) : Nat := rqAt s (recordAt s r) f
def rqPut (s : State) (r f v : Nat) : State := rqPutAt s (recordAt s r) f v
/-- Fields written one after another, as one update. -/
def rqPuts (s : State) (r : Nat) : List (Nat × Nat) → State
  | [] => s
  | (f, v) :: t => rqPuts (rqPut s r f v) r t

def rqFlag (s : State) (r i : Nat) : Bool := bitN (rqGet s r rqFLAGS) i
def rqSetFlag (s : State) (r i : Nat) (b : Bool) : State := rqPut s r rqFLAGS (putBits (rqGet s r rqFLAGS) i i (b2n b))
def flCancel : Nat := 0
def flCommit : Nat := 1
def flSpilled : Nat := 2

/-- States of a request (R55). -/
def stFREE : Nat := 0
def stQUEUED : Nat := 1
def stADMITTED : Nat := 2
def stRUNNING : Nat := 3
def stBLOCKED : Nat := 4
def stSUSPENDED : Nat := 5
def stRETIRED : Nat := 6
def stFAULTED : Nat := 7
def stCANCELLED : Nat := 8

/-- The request that holds a batch slot. -/
def slotReq (s : State) (slot : Nat) : Option Nat := if slot < 4096 then fget? s.front.slots slot else none

/-! ### Per-request faults (R76, R96) -/

/-- A fault on a request: its first fault of the step is kept, COMMIT_PENDING is cleared. -/
def reqFault (s : State) (r code : Nat) (info : Word) : State :=
  let s := if rqGet s r rqFCODE = 0 then rqPuts s r [(rqFCODE, code), (rqFINFO, info.toNat)] else s
  rqSetFlag s r flCommit false

/-- A fault on the request of a slot: the slot's bit is set in the mask. -/
def slotFault (s : State) (slot code : Nat) (info : Word) : State :=
  match slotReq s slot with
  | none => s
  | some r =>
    let s := reqFault s r code info
    { s with front := { s.front with
        faulted := insertAsc slot s.front.faulted,
        faultAt := if s.front.faulted.contains slot then s.front.faultAt else fset s.front.faultAt slot s.cycle } }

def fcRQ_PAGE : Nat := 0x80
def fcRQ_PROG : Nat := 0x81
def fcKV_EXHAUSTED : Nat := 0x82
def fcCOMMIT_LOST : Nat := 0x83
def fcPFQ_FULL : Nat := 0x84
def fcKV_WINDOW : Nat := 0x85

/-- The faulted-slot bit of a slot has arrived at a cluster (R76). -/
def slotMasked (s : State) (clu slot : Nat) : Bool := (s.clu clu).fslots.contains slot

/-- FAULTED_SLOT_ARRIVAL (R76): the bit that reaches a cluster clears what an ACCEPT has set since the fault (R96, R345). -/
def execFaultedSlotArrival (cluster slot : Nat) (s : State) : Outc :=
  if s.front.faulted.contains slot then
    let s := match slotReq s slot with
      | some r => rqSetFlag s r flCommit false
      | none => s
    .next (s.updClu cluster (fun c => { c with fslots := insertAsc slot c.fslots }))
  else .next s

/-! ### RQLD, RQST, RQFLT -/

/-- The first two checks of every instruction on a slot: RQ_STATE, then PRIV (R419). -/
def onSlot (s : State) (sa : Word) (k : Nat → Res) : Res :=
  match slotReq s sa.toNat with
  | none => .fault cRQ_STATE sa
  | some r => if rqGet s r rqTENANT ≠ s.tenantId then .fault cPRIV sa else k r

/-- An operation of the Front that its strand parks for: performed at the reply. -/
def atReply (rp : Option Reply) (s : State) (k : State → Res) : Res :=
  match rp with
  | none => .wait 0 .access s
  | some _ => k s

/-- The same for an operation that reads words, whose errors are then found (R288, R289). -/
def atReplyOf (rp : Option Reply) (s : State) (words : State → List Nat) (k : State → Res) : Res :=
  atReply rp s fun s =>
    match eccScan s s.cluId (words s) with
    | (s, some i) => .ecc s i
    | (s, none) => k s

/-- The word of a record's field. -/
def rqWord (s : State) (r f : Nat) : Nat := homeWord s (recordAt s r + (rqPlace f).1)

/-- The words of a record's fields are read for a strand: the first uncorrectable one freezes it (R288, R289). -/
def recThen (s : State) (r : Nat) (fs : List Nat) (k : State → Res) : Res :=
  match eccScan s s.cluId (fs.map (rqWord s r)) with
  | (s, some i) => .ecc s i
  | (s, none) => k s

/-- The Front reads a record: the word of its state, and the other words of one that is not FREE. Errors count at the agent
die (R288); no report of a double-bit error is stated for the Front. -/
def recScan (s : State) (r : Nat) : State :=
  let n := if rqGet s r rqSTATE = stFREE then 1 else 30
  (scanAt s offECCAD ((List.range n).map (fun i => homeWord s (recordAt s r + 8 * i)))).1

/-- RQLD (R419, R420). -/
def opRqld (sd sa : SReg) (f : BitVec 6) (rp : Option Reply) (s : State) : Res :=
  onSlot s (s.rS sa) fun r =>
    if 43 < f.toNat then .fault cBOUNDS (w64 f.toNat)
    else atReplyOf rp s (fun s => [rqWord s r f.toNat]) (fun s => .done (s.wS sd (w64 (rqGet s r f.toNat))))

/-- The fields that RQST writes (R420). -/
def rqstField (f : Nat) : Bool := f == 1 || f == 15 || f == 22 || (24 ≤ f && f ≤ 36)

/-- A value fits an RQST field (R420). -/
def rqstFits (f v : Nat) : Bool :=
  if f = 1 || f = 25 then true
  else if f = 24 then v < 2 ^ 5
  else if f = 26 then v ≤ 9
  else if f = 27 then v < 2 ^ 40
  else v < 2 ^ 32

/-- The field as RQST leaves it: in RQ_FLAGS only bits 1, 4 and 3 change (R54). -/
def rqstValue (f old v : Nat) : Nat :=
  if f = 1 then putBits (putBits old 1 1 (bitsN v 1 1)) 4 3 (bitsN v 4 3)
  else if f = 24 then putBits old 4 0 v
  else v

/-- RQST (R419, R420). -/
def opRqst (sa sb : SReg) (f : BitVec 6) (rp : Option Reply) (s : State) : Res :=
  let v := (s.rS sb).toNat
  onSlot s (s.rS sa) fun r =>
    if 43 < f.toNat then .fault cBOUNDS (w64 f.toNat)
    else if !rqstField f.toNat then .fault cPRIV (w64 f.toNat)
    else if !rqstFits f.toNat v then .fault cBOUNDS (s.rS sb)
    else atReplyOf rp s (fun s => if (rqPlace f.toNat).2.2 = 64 then [] else [rqWord s r f.toNat])
      (fun s => .done (rqPut s r f.toNat (rqstValue f.toNat (rqGet s r f.toNat) v)))

/-- RQFLT (R418). -/
def opRqflt (sa sb : SReg) (rp : Option Reply) (s : State) : Res :=
  onSlot s (s.rS sa) fun r =>
    atReplyOf rp s (fun s => [rqFLAGS, rqFCODE].map (rqWord s r))
      (fun s => .done (slotFault s (s.rS sa).toNat fcRQ_PROG (s.rS sb)))

/-! ### STEPDONE -/

/-- STEPDONE (R431): its release, then it waits until the Front has received it. -/
def opStepdone (sa : SReg) (s : State) : Res :=
  if !((s.me.task.map (·.resident)).getD false) then .fault cPRIV (s.rS sa)
  else afterRelease (some .dev) s (fun s => .wait 0 .sent s)

/-- A core whose strand waits in a STEPDONE that the Front has not received, and its step number. -/
def stepdoneOf (s : State) (core : Nat) : Option (Nat × Word) :=
  (List.range 8).findSome? (fun n =>
    let x := s.strand core n
    if x.phase = .sent then
      match decodeTile x.pinstr with
      | .ok (.stepdone _ sa) => some (n, x.rS sa)
      | _ => none
    else none)

/-- STEPDONE_RECEIVED (R50, R431): a mark for the core if the number is that of the step being ended; the strand goes on. -/
def execStepdoneReceived (core : Nat) (s : State) : Outc :=
  match stepdoneOf s core with
  | none => .next s
  | some (slot, step) =>
    let f := s.front
    let s := if f.ending && step = w64 f.step then { s with front := { f with doneCores := insertAsc core f.doneCores } } else s
    .next (retire s core slot)

def execRqld (g : Guard) (sd sa : SReg) (f : BitVec 6) (s : State) : Outc := issue (.rqld g sd sa f) g (opRqld sd sa f none) s
def execRqst (g : Guard) (sa sb : SReg) (f : BitVec 6) (s : State) : Outc := issue (.rqst g sa sb f) g (opRqst sa sb f none) s
def execRqflt (g : Guard) (sa sb : SReg) (s : State) : Outc := issue (.rqflt g sa sb) g (opRqflt sa sb none) s
def execStepdone (g : Guard) (sa : SReg) (s : State) : Outc := issue (.stepdone g sa) g (opStepdone sa) s

end Sys2Proof.Machine
end

