-- ==== Sys2Proof/Machine/Forecast.lean ====
section
/-!
DEFINITION. Machine/Forecast.lean: the Forecast table (05 R102 to R115): futures, tool queues (R108 to R110), injection
(R111), and FUTCALL, FUTQRY and FUTWAIT (17 R370 to R372).
-/
namespace Sys2Proof.Machine

/-! ### Entries (R103) -/

def futOf (s : State) (i : Nat) : Future := fget .init s.futures (i % 65536)
def putFut (s : State) (i : Nat) (f : Future) : State := { s with futures := fset s.futures (i % 65536) f }
def fuIDLE : Nat := 0
def fuARMED : Nat := 1
def fuRUNNING : Nat := 2
def fuCOMPLETED : Nat := 3
def fuTIMEDOUT : Nat := 4
def fuFAILED : Nat := 5
def fuCANCELLED : Nat := 6
/-- ARMED or RUNNING. -/
def Future.live (f : Future) : Bool := f.state == 1 || f.state == 2
/-- The owning request. -/
def Future.req (f : Future) : Nat := reqKey f.tenant f.record

/-- Word 0 of an entry (R103, R371). -/
def futWord0 (f : Future) : Word :=
  if f.state = 0 then w64 (f.gen * 2 ^ 16)
  else w64 (f.record % 2 ^ 20 * 2 ^ 32 + f.gen * 2 ^ 16 + f.tenant % 64 * 2 ^ 8 + f.result * 2 ^ 4 + b2n f.queued * 2 ^ 3 + f.state)
/-- Words 1 to 3. -/
def futWord (f : Future) (w : Nat) : Word :=
  match w with
  | 0 => futWord0 f
  | 1 => w64 f.deadline
  | 2 => w64 f.key
  | _ => w64 (f.fcode % 2 ^ 32 * 2 ^ 32 + f.queue % 2 ^ 8 * 2 ^ 24 + f.argpos % 2 ^ 24)

/-- The entry whose KEY equals a key, if it is not IDLE (R104). -/
def futMatch (s : State) (key : Word) : Option (Nat × Future) :=
  let i := fld key 15 0
  let f := futOf s i
  if f.state ≠ 0 ∧ f.key = key.toNat then some (i, f) else none

/-! ### Injection (R110, R111) -/

/-- Tokens written to a ring of 4-byte entries, from a count on. -/
def ringTokens (s : State) (tenant base size at_ : Nat) : List Nat → Option State
  | [] => some s
  | t :: ts =>
    match unitWrite s tenant (base + 4 * (at_ % size)) (toBytes 4 t) with
    | some s => ringTokens s tenant base size (at_ + 1) ts
    | none => none

/-- PFQ_FULL on a request: in its slot, or in its record while it holds none (R110). -/
def pfqFull (s : State) (r : Nat) (n : Nat) : State :=
  let slot := rqGet s r rqSLOT
  if slotReq s slot = some r then slotFault s slot fcPFQ_FULL (w64 n) else reqFault s r fcPFQ_FULL (w64 n)

/-- Tokens injected into a request's prefill ring as one unit (R110). -/
def inject (s : State) (r : Nat) (toks : List Nat) : State :=
  let size := rqGet s r rqPFQSIZE
  let tail := rqGet s r rqPFQTAIL
  let used := (tail + 2 ^ 32 - rqGet s r rqPFQHEAD) % 2 ^ 32
  if toks.isEmpty || size < toks.length then s
  else if size - used < toks.length then pfqFull s r toks.length
  else match ringTokens s (reqTenant r) (rqGet s r rqPFQBASE) size tail toks with
    | some s => rqPut (unitRelease s) r rqPFQTAIL ((tail + toks.length) % 2 ^ 32)
    | none => s

/-- A tenant's token sequence (R102). -/
def seqOf (s : State) (i tenant : Nat) : List W32 := fget [0#32] s.tseq (64 * i + tenant)
/-- The tokens of a sequence. -/
def seqToks (l : List W32) : List Nat := l.map (·.toNat)

/-- A future resolves: the tokens are injected, then the state is written (R111). -/
def resolveFut (s : State) (i state result : Nat) (toks : List Nat) : State :=
  let f := futOf s i
  putFut (inject s f.req toks) i { f with state := state, result := result }

/-- The deadline event (R113): TIMEDOUT, with the TOSEQ that the future was armed with injected. -/
def futExpire (s : State) (i : Nat) : State :=
  let f := futOf s i
  if f.live then resolveFut s i fuTIMEDOUT 0 (seqToks f.toSeq) else s

/-- Cycles from a future's deadline to now, if that has come. -/
def pastDeadline (s : State) (f : Future) : Option Nat :=
  let d := w64 (ccnt s) - w64 f.deadline
  if d.msb then none else some d.toNat

/-- The table serialised at the present cycle: the entry is read (R288), and a deadline event that had to arrive by now has
arrived (R113). -/
def futNow (s : State) (i : Nat) : State :=
  let s := (scanAt s offECCAD [futKey i]).1
  match pastDeadline s (futOf s i) with
  | some d => if 256 < d then futExpire s i else s
  | none => s

/-- FUTURE_DEADLINE (R113): at some cycle from DEADLINE on. -/
def execFutureDeadline (idx : Nat) (s : State) : Outc :=
  if (pastDeadline s (futOf s idx)).isSome then .next (futExpire s idx) else .next s

/-- A cancellation (R105): only a live future is affected. -/
def futCancel (s : State) (i : Nat) : State :=
  let s := futNow s i
  if (futOf s i).live then resolveFut s i fuCANCELLED 0 [] else s

/-- An entry that goes to IDLE: GEN rises (R114), words 1 to 3 read 0 (notes/assumptions/92.md). -/
def Future.idle (f : Future) : Future := { Future.init with gen := (f.gen + 1) % 2 ^ 16 }

/-- The entry goes to IDLE, GEN rises, RQ_FUT is cleared (R114). -/
def futReclaim (s : State) (i : Nat) : State :=
  let f := futOf s i
  if f.state = 0 then s
  else rqPut (putFut (softDrop s (futKey i) (futKey i + 1)) i f.idle) f.req rqFUT 0

/-- A completion (`toks`) or a failure with its code, under R112 and KW.FUTFAIL: the status and the state. -/
def futComplete (s : State) (key : Word) (toks : Option (List Nat)) (fcode : Nat) : Nat × State :=
  let s := futNow s (fld key 15 0)
  match futMatch s key with
  | none => (2, s)
  | some (i, f) =>
    if f.state = 3 ∨ f.state = 4 then (2, s)
    else if f.state = 5 ∨ f.state = 6 then (3, s)
    else match toks with
      | none => (0, resolveFut (putFut s i { f with fcode := fcode % 2 ^ 32 }) i fuFAILED 3 (seqToks f.failSeq))
      | some ts =>
        if rqGet s f.req rqPFQSIZE < ts.length then (1, resolveFut s i fuCOMPLETED 2 [f.trunc])
        else (0, resolveFut s i fuCOMPLETED 1 ts)

/-! ### Tool queues (R107 to R109, R120) -/

structure TqDesc where
  pa     : Nat
  base   : Nat
  size   : Nat
  head   : Nat
  tail   : Nat
  valid  : Bool
  remote : Bool
  tenant : Nat
  deriving DecidableEq, Repr

/-- A tool queue's descriptor, in HC memory at TQDBASE; no entry or setting of tenant control writes one
(notes/assumptions/92.md). -/
def tqDesc (s : State) (q : Nat) : TqDesc :=
  let pa := fld (regGet s (offSERV + 0x28)) 55 0 + 32 * q
  let w2 := cohNat s (pa + 16) 8
  let w3 := cohNat s (pa + 24) 8
  { pa := pa, base := cohNat s pa 8, size := cohNat s (pa + 8) 4, head := bitsN w2 31 0, tail := bitsN w2 63 32,
    valid := bitN w3 0, remote := bitN w3 1, tenant := bitsN w3 7 2 }

/-- The VA of the entry that a free-running count names (R110). -/
def TqDesc.entry (q : TqDesc) (n : Nat) : Nat := q.base + 64 * (n % q.size)
def TqDesc.used (q : TqDesc) : Nat := (q.tail + 2 ^ 32 - q.head) % 2 ^ 32

/-- ARGLEN of a future (R109, R119). -/
def argLen (s : State) (f : Future) : Nat :=
  let pos := rqGet s f.req rqPOS
  if f.argpos ≤ pos then pos - f.argpos else 0

/-- A tool entry (R109). -/
def toolEntry (s : State) (f : Future) : List Byte :=
  recBytes f.key (rqGet s f.req rqID) (rqGet s f.req rqTAG)
    (f.argpos + argLen s f % 2 ^ 24 * 2 ^ 24 + f.queue % 2 ^ 8 * 2 ^ 48) ++
  recBytes f.deadline f.step (f.record % 2 ^ 20 + f.tenant % 64 * 2 ^ 20) 0

/-- The oldest tool entry that a queue holds back, written if there is room; one whose future has resolved is discarded
(R107, R110). The flag says whether the entry left the list. -/
def tqFlushOne (s : State) (q : Nat) : State × Bool :=
  match fget [] s.front.held q with
  | [] => (s, false)
  | (i, key) :: rest =>
    let pop := fun s : State => { s with front := { s.front with held := if rest.isEmpty then fdel s.front.held q else fset s.front.held q rest } }
    let s := futNow s i
    let f := futOf s i
    if f.state ≠ 1 ∨ f.key ≠ key then (pop s, true)
    else
      let d := tqDesc s q
      if d.used < d.size then
        match unitWrite s d.tenant (d.entry d.tail) (toolEntry s f) with
        | some s =>
          let s := cohPutNat (unitRelease s) (d.pa + 20) 4 ((d.tail + 1) % 2 ^ 32)
          (pop (putFut s i { f with queued := true }), true)
        | none => (s, false)
      else (s, false)

/-- Entries held back by a queue, until one cannot be written. -/
def tqFlush : Nat → State → Nat → State
  | 0, s, _ => s
  | n + 1, s, q =>
    match tqFlushOne s q with
    | (s, true) => tqFlush n s q
    | (s, false) => s

def tqFlushAll (s : State) (q : Nat) : State := tqFlush (fget [] s.front.held q).length s q

/-- R107: a tool entry for each ARMED future with QUEUED clear whose request is BLOCKED. Of several futures of one boundary the
one with the lower entry index goes first into a queue, which R107 leaves open (DESIGN CHOICE, notes/assumptions/98.md). -/
def writeToolEntries (s : State) : State :=
  s.futures.foldl (fun s e =>
    let f := e.2
    let h := fget [] s.front.held f.queue
    if f.state = 1 ∧ !f.queued ∧ rqGet s f.req rqSTATE = stBLOCKED ∧ !(h.any (· == (e.1, f.key))) then
      tqFlushAll { s with front := { s.front with held := fset s.front.held f.queue (h ++ [(e.1, f.key)]) } } f.queue
    else s) s

/-- Entries popped until one whose future is ARMED is found (R120): the entry and its future's index. They are read by `rd`. -/
def tqPopFrom (rd : State → Nat → Nat → Nat → Option (List Byte)) (tenant : Nat) :
    Nat → State → TqDesc → Option (List Byte × Nat) × State
  | 0, s, _ => (none, s)
  | n + 1, s, d =>
    if d.head = d.tail then (none, s)
    else
      let s := unitScan s tenant (d.entry d.head) 64
      match rd s tenant (d.entry d.head) 64 with
      | none => (none, s)
      | some e =>
        let d := { d with head := (d.head + 1) % 2 ^ 32 }
        let s := cohPutNat s (d.pa + 16) 4 d.head
        let key := w64 (fromBytes (e.take 8))
        let s := futNow s (fld key 15 0)
        match futMatch s key with
        | some (i, f) => if f.state = 1 then (some (e, i), putFut s i { f with state := fuRUNNING }) else tqPopFrom rd tenant n s d
        | none => tqPopFrom rd tenant n s d

/-- The next ARMED entry of a queue, its future RUNNING. -/
def tqPop (rd : State → Nat → Nat → Nat → Option (List Byte)) (s : State) (q : Nat) : Option (List Byte × Nat) × State :=
  let d := tqDesc s q
  if d.size = 0 then (none, s) else tqPopFrom rd d.tenant (min d.used d.size) s d

/-! ### FUTCALL, FUTQRY, FUTWAIT -/

/-- The lowest IDLE entry from one on, among so many. -/
def firstIdle (m : FMap Future) : Nat → Nat → Option Nat
  | 0, _ => none
  | n + 1, i => if (fget .init m i).state = 0 then some i else firstIdle m n (i + 1)

/-- Futures of a tenant that are not IDLE. -/
def futCount (s : State) (tenant : Nat) : Nat := s.futures.countP (fun e => e.2.state != 0 && e.2.tenant == tenant)

/-- FUTCALL's update at the table (R106). -/
def futCall (r slot queue argpos : Nat) (pd : PReg) (sd : SReg) (s : State) : Res :=
  let t := s.tenantId
  if slotMasked s s.cluId slot || rqFlag s r flCancel then .done ((s.wS sd 0xFFFFFFFF#64).wP pd false)
  else
    let fut := rqGet s r rqFUT
    if bitN fut 16 then .done ((s.wS sd (w64 (bitsN fut 15 0))).wP pd true)
    else if tset s setFUTQUOTA t ≤ futCount s t then .fault cFUT_EXHAUSTED (w64 (2 ^ 16 + slot))
    else match firstIdle s.futures 65536 0 with
      | none => .fault cFUT_EXHAUSTED (w64 slot)
      | some i =>
        let (nonce, s) := s.free
        let gen := (futOf s i).gen
        let f : Future :=
          { record := r % 2 ^ 20, gen := gen, tenant := t, result := 0, queued := false, state := fuARMED,
            deadline := (ccnt s + tset s setFUTTO t) % 2 ^ 64, key := fld nonce 31 0 * 2 ^ 32 + gen * 2 ^ 16 + i, fcode := 0,
            queue := queue, argpos := argpos, step := s.front.step, toSeq := seqOf s setTOSEQ t, failSeq := seqOf s setFAILSEQ t,
            trunc := tset s setTRUNCTOK t }
        let s := rqPut (putFut (softDrop s (futKey i) (futKey i + 1)) i f) r rqFUT (2 ^ 16 + i)
        let s := if rqGet s r rqSTATE = stRUNNING then rqPut s r rqSTATE stBLOCKED else s
        .done ((s.wS sd (w64 i)).wP pd true)

/-- The words that FUTCALL reads at the table: of the record, and the entry that it takes, whose GEN it goes on with. -/
def futcallWords (s : State) (r : Nat) : List Nat :=
  [rqFLAGS, rqFUT, rqSTATE].map (rqWord s r) ++ ((firstIdle s.futures 65536 0).map futKey).toList

/-- FUTCALL (R106, R370). -/
def opFutcall (pd : PReg) (sd sa sb sc : SReg) (rp : Option Reply) (s : State) : Res :=
  let q := s.rS sb
  onSlot s (s.rS sa) fun r =>
    if 255 < q.toNat || !(tqDesc s q.toNat).valid then .fault cBOUNDS q
    else if (tqDesc s q.toNat).tenant ≠ s.tenantId then .fault cPRIV q
    else atReplyOf rp s (fun s => futcallWords s r) (futCall r (s.rS sa).toNat q.toNat (fld (s.rS sc) 23 0) pd sd)

/-- A future of another tenant (R371). -/
def futPriv (s : State) (i : Nat) : Bool := (futOf s i).state != 0 && (futOf s i).tenant != s.tenantId

/-- FUTQRY (R115, R371). -/
def opFutqry (sd sa : SReg) (rp : Option Reply) (s : State) : Res :=
  let i := fld (s.rS sa) 15 0
  if futPriv s i then .fault cPRIV (w64 i)
  else atReply rp s (fun s => let s := futNow s i; .done (s.wS sd (futWord0 (futOf s i))))

/-- FUTWAIT (R115, R372): the GEN captured at issue stands in `pcap`. -/
def opFutwait (sa : SReg) (s : State) : Res :=
  let i := fld (s.rS sa) 15 0
  let s := futNow s i
  let f := futOf s i
  if s.me.pkind = 2 && !s.me.pcap.isEmpty && s.me.pcap != [f.gen] then .done s
  else if futPriv s i then .fault cPRIV (w64 i)
  else if f.live then .wait 2 .cond (s.setMe { s.me with pcap := [f.gen] })
  else .done s

def execFutcall (g : Guard) (pd : PReg) (sd sa sb sc : SReg) (s : State) : Outc :=
  issue (.futcall g pd sd sa sb sc) g (opFutcall pd sd sa sb sc none) s
def execFutqry (g : Guard) (sd sa : SReg) (s : State) : Outc := issue (.futqry g sd sa) g (opFutqry sd sa none) s
def execFutwait (g : Guard) (sa : SReg) (s : State) : Outc := issue (.futwait g sa) g (opFutwait sa) s

end Sys2Proof.Machine
end

