-- ==== Sys2Proof/Machine/Generation.lean ====
section
/-!
DEFINITION. Machine/Generation.lean: SAMPLE (04 R82 to R86; 19 R422, R423), the Isobar engines with ISOMASK and ISOSTEP
(04 R88 to R92; 17 R375, R376), ACCEPT (04 R94, R95; 16 R344, R345) and KVCOMMIT (04 R98; 17 R379, R380).
-/
namespace Sys2Proof.Machine

/-! ### SAMPLE (R85) -/

/-- The quotient of two exact numbers, the divisor not zero, to 100 bits and a sticky bit. -/
def divDy (a b : Dy) : Dy :=
  let k := bitLen b.man + 100
  { neg := xor a.neg b.neg, man := a.man * 2 ^ k / b.man, exp := a.exp - k - b.exp, st := a.man * 2 ^ k % b.man ≠ 0 }

/-- rnd(a / b, fp32, RNE), saturating, for finite a and positive finite b. -/
def divSat (a b : Nat) : Nat :=
  match decodeNum .fp32 a, decodeNum .fp32 b with
  | .num x, .num y => (convert .fp32 .rne false (.num (divDy x y))).1
  | _, _ => canonNaN .fp32

/-- An FP32 code with its sign changed. -/
def fNegate (a : Nat) : Nat := Nat.xor a 0x80000000

/-- a > b as FP32 values. -/
def fGt (a b : Nat) : Bool := cmpFV (decodeNum .fp32 a) (decodeNum .fp32 b) == some .gt

/-- The candidate order (R83): record `a` may stand before record `b`. -/
def candLe (a b : Nat × Nat) : Bool :=
  match cmpFV (decodeNum .fp32 a.1) (decodeNum .fp32 b.1) with
  | some .gt => true
  | some .eq => a.2 ≤ b.2
  | _ => false

/-- No record comes after its successor. -/
def candSorted : List (Nat × Nat) → Bool
  | a :: b :: t => candLe a b && candSorted (b :: t)
  | _ => true

/-- A finite FP32 value. -/
def fFinite (a : Nat) : Bool := a / 2 ^ 23 % 256 ≠ 255

/-- The Gumbel noise of a token (R85, R86). -/
def gumbel (tok pos rqid seed : Nat) : Nat :=
  let w := philoxWord tok ((pos + 1) % 2 ^ 32) (rqid % 2 ^ 32) 0 (seed % 2 ^ 32) (seed / 2 ^ 32) 0
  let u := (toFP32 .rne (.num { neg := false, man := 2 * (w / 2 ^ 9) + 1, exp := -24, st := false }, 0)).1
  let nl := fun x : Nat => fNegate (fMul .rne (fLong .log2 .rne x).1 0x3F317218).1
  nl (nl u)

/-- Running sums of the softmax numerators, in order. -/
def cums (c : Nat) : List Nat → List Nat
  | [] => []
  | e :: es => let c := (fAdd .rne c e).1; c :: cums c es

/-- The index of the largest of a list, ties to the lower: `best` is the largest so far, at index `at_`. -/
def argmax : List Nat → Nat → Nat → Nat → Nat
  | [], _, _, at_ => at_
  | z :: zs, i, best, at_ => if fGt z best then argmax zs (i + 1) z i else argmax zs (i + 1) best at_

/-- The token that R85 computes from a list that is not empty. -/
def sampleToken (recs : List (Nat × Nat)) (temp topk topp seed rqid pos : Nat) : Nat :=
  let ks := recs.take topk
  let ys := ks.map (fun r => divSat r.1 temp)
  let y0 := ys.getD 0 0
  let es := ys.map (fun y => (fLong .exp2 .rne (fMul .rne (fSub .rne y y0).1 0x3FB8AA3B).1).1)
  let cum := cums 0 es
  let theta := (fMul .rne topp (cum.getD (cum.length - 1) 0)).1
  let p := ((findIdx' (fun c => !fGt theta c) cum 0).getD 0) + 1
  let zs := ((ks.map (·.2)).zip ys).take p |>.map (fun ty => (fAdd .rne ty.2 (gumbel ty.1 pos rqid seed)).1)
  (ks.map (·.2)).getD (argmax (zs.drop 1) 1 (zs.getD 0 0) 0) 0

/-- The candidate records before the end record (R422). -/
def candRecords : Nat → List Byte → List (Nat × Nat)
  | 0, _ => []
  | n + 1, bs =>
    let w := fromBytes (bs.take 8)
    if bitsN w 63 32 = 0xFFFFFFFF then [] else (bitsN w 31 0, bitsN w 63 32) :: candRecords n (bs.drop 8)

/-- The sampling fields of a record lie in their ranges (R58). -/
def sampleFieldsOk (temp topk topp : Nat) : Bool :=
  0 < temp && temp < 0x7F800000 && 1 ≤ topk && topk ≤ 64 && 0 < topp && topp ≤ 0x3F800000

/-- SAMPLE on the records read. Where the record's sampling fields are out of their ranges, the token is a free value. -/
def sampleDo (pd : PReg) (sd : SReg) (r pos : Nat) (recs : List (Nat × Nat)) (s : State) : Res :=
  let put := fun (s : State) (st tok : Nat) => Res.done ((s.wS sd (w64 (st * 2 ^ 32 + tok % 2 ^ 32))).wP pd (st == 0))
  if recs.any (fun x => !fFinite x.1) || !candSorted recs then put s 2 0xFFFFFFFF
  else if recs.isEmpty then put s 1 0xFFFFFFFF
  else
    let temp := rqGet s r rqTEMP
    let topk := rqGet s r rqTOPK
    let topp := rqGet s r rqTOPP
    recThen s r [rqTEMP, rqTOPP, rqTOPK, rqSEED, rqID] fun s =>
    if sampleFieldsOk temp topk topp then
      put s 0 (sampleToken recs temp topk topp (rqGet s r rqSEED) (rqGet s r rqID) pos)
    else let (v, s) := s.free; put s 0 (fld v 31 0)

/-- The 64 words of the candidate list at a place. -/
def listPieces (p : Place) : List Piece :=
  match p with
  | .bank key far => (List.range 64).map (fun j => { off := 8 * j, len := 8, place := .bank (key + 8 * j) far })
  | _ => []

/-- SAMPLE (R423). -/
def opSample (pd : PReg) (sd sa sb sc : SReg) (rp : Option Reply) (s : State) : Res :=
  let p := s.rS sb
  onSlot s (s.rS sa) fun r =>
    match firstStop [checkSpace s (fun t => t == 1 || t == 2 || t == 3) p, alignStop p 8, boundsStop s p 512 p] with
    | some e => e.res s
    | none =>
      if fld (s.rS sc) 63 24 ≠ 0 then .fault cBOUNDS (s.rS sc)
      else match dataMatch s true false p.toNat 512 with
        | some c => .brk c
        | none =>
          loadThen rp true ((localPlace s p 512).map listPieces |>.getD []) s
            (fun _ l s => sampleDo pd sd r (fld (s.rS sc) 23 0) (candRecords 64 (l.flatMap (·.2))) s)

/-! ### The Isobar engines (R88 to R92, R375) -/

/-- An 8-byte word that the engine of the strand's cluster reads: from its mask cache, or from memory (R93). -/
def isoWord (s : State) (pa : Nat) : Nat := (fget? (s.clu s.cluId).masks pa).getD (cohNat s pa 8)
/-- Such a read meets an error (R288, R289). -/
def isoErr (s : State) (pa : Nat) : Bool :=
  (fget? (s.clu s.cluId).masks pa).isNone && (fget? s.soft (homeWord s pa)).isSome

/-- An 8-byte word of automaton data, through the cluster TLB with the strand's tenant. -/
def isoRead (s : State) (va : Nat) : Except Stop Nat :=
  let va := va % 2 ^ 57
  match tlbFind (s.clu s.cluId) s.tenantId va .load with
  | some e =>
    match checkEntry e .load s.cluId with
    | some code => .error (.bad code (gpfInfo false .load va))
    | none => if isoErr s (e.phys va) then .error (.ecc (homeWord s (e.phys va))) else .ok (isoWord s (e.phys va))
  | none => .error (.walk va .load)

/-- A directory entry in use by the strand's tenant (R88). -/
structure Automaton where
  states  : Nat
  masks   : Nat
  trans   : Nat
  nstates : Nat
  vocab   : Nat
  opn     : Nat
  cls     : Nat
  deriving DecidableEq, Repr

/-- The directory entry of an automaton. -/
def autoAt (s : State) (a : Nat) : Nat := fld (regGet s (offSERV + 0x20)) 55 0 + 64 * a
def automaton (s : State) (a : Nat) : Option Automaton :=
  let pa := autoAt s a
  let w3 := isoWord s (pa + 24)
  let w4 := isoWord s (pa + 32)
  let w5 := isoWord s (pa + 40)
  if a < 4096 && bitN w5 0 && bitsN w5 6 1 == s.tenantId then
    some { states := isoWord s pa, masks := isoWord s (pa + 8), trans := isoWord s (pa + 16), nstates := bitsN w3 31 0,
           vocab := bitsN w3 63 32, opn := bitsN w4 31 0, cls := bitsN w4 63 32 }
  else none

/-- The engine reads the directory entry. -/
def isoDir (s : State) (a : Nat) : Except Stop Unit :=
  match ((List.range 6).map (fun i => autoAt s a + 8 * i)).find? (isoErr s) with
  | some pa => .error (.ecc (homeWord s pa))
  | none => .ok ()

/-- The two words of a state (R89). -/
def isoState (s : State) (e : Automaton) (x : Nat) : Except Stop (Nat × Nat) := do
  let lo ← isoRead s (e.states + 16 * x)
  let hi ← isoRead s (e.states + 16 * x + 8)
  return (lo, hi)

/-- Binary search of transitions [lo, hi) for a token: its next state (R91). -/
def isoFind (s : State) (base tok : Nat) : Nat → Nat → Nat → Except Stop (Option Nat)
  | 0, _, _ => .ok none
  | n + 1, lo, hi =>
    if hi ≤ lo then .ok none
    else do
      let mid := (lo + hi) / 2
      let w ← isoRead s (base + 8 * mid)
      if bitsN w 31 0 = tok then return some (bitsN w 63 32)
      else if bitsN w 31 0 < tok then isoFind s base tok n (mid + 1) hi
      else isoFind s base tok n lo mid

/-- ISOSTEP's result: status, next state, and flags CALLOPEN, CALLCLOSE, STOP from bit 0 (R91, R376). -/
def isoStep (s : State) (a x tok : Nat) : Except Stop (Nat × Nat × Nat) :=
  match automaton s a with
  | none => .ok (3, x, 0)
  | some e =>
    if e.nstates ≤ x then .ok (2, x, 0)
    else do
      let (lo, hi) ← isoState s e x
      let f ← isoFind s (e.trans + 8 * bitsN hi 31 0) tok 25 0 (bitsN hi 55 32)
      let nx := f.getD (bitsN lo 31 0)
      if nx = 0xFFFFFFFF then return (1, x, 0)
      else
        let (_, h) ← isoState s e nx
        return (0, nx, b2n (tok == e.opn) + 2 * b2n (tok == e.cls) + 4 * bitsN h 58 58)

/-- The number of ranges in [lo, hi) that begin at or before a token, the ranges being sorted. -/
def isoRanges (s : State) (base tok : Nat) : Nat → Nat → Nat → Except Stop Nat
  | 0, lo, _ => .ok lo
  | n + 1, lo, hi =>
    if hi ≤ lo then .ok lo
    else do
      let mid := (lo + hi) / 2
      let w ← isoRead s (base + 8 * (1 + mid))
      if bitsN w 31 0 ≤ tok then isoRanges s base tok n (mid + 1) hi else isoRanges s base tok n lo mid

/-- Whether a mask allows a token (R90). -/
def isoAllowed (s : State) (e : Automaton) (base form tok : Nat) : Except Stop Bool :=
  if e.vocab ≤ tok then .ok false
  else if form = 0 then .ok true
  else if form = 3 then do
    let w ← isoRead s (base + 8 * (tok / 64))
    return bitN w (tok % 64)
  else do
    let n ← isoRead s base
    let k ← isoRanges s base tok 33 0 (bitsN n 31 0)
    let hit ← if k = 0 then pure false else do
      let w ← isoRead s (base + 8 * k)
      pure (decide (tok ≤ bitsN w 63 32))
    return hit == (form == 1)

/-- Lanes from `i` on masked (R92). -/
def isoLanes (s : State) (e : Automaton) (base form t0 : Nat) (v : VReg) : Nat → Nat → Except Stop (List Nat)
  | 0, _ => .ok []
  | n + 1, i => do
    let ok ← isoAllowed s e base form (t0 + i)
    let rest ← isoLanes s e base form t0 v n (i + 1)
    return (if ok then lane v i else 0xFF800000) :: rest

/-- ISOMASK's result: the lanes, and the predicate. -/
def isoMask (s : State) (a x t0 : Nat) (v : VReg) : Except Stop (List Nat × Bool) :=
  match automaton s a with
  | none => .ok (List.replicate 16 0xFF800000, false)
  | some e =>
    if e.nstates ≤ x then .ok (List.replicate 16 0xFF800000, false)
    else do
      let (lo, hi) ← isoState s e x
      let l ← isoLanes s e (e.masks + 8 * bitsN lo 63 32) (bitsN hi 57 56) t0 v 16 0
      return (l, true)

/-- The engine's work on a state: each single-bit error that it meets is corrected and counted, and the work done again; a
double-bit error stops it. -/
def isoRun {α : Type} (f : State → Except Stop α) : Nat → State → State × Except Stop α
  | 0, s => (s, f s)
  | n + 1, s =>
    match f s with
    | .error (.ecc w) =>
      match eccScan s s.cluId [w] with
      | (s, none) => isoRun f n s
      | (s, some _) => (s, .error (.ecc w))
    | x => (s, x)

/-- The engine's answer: a read that misses the TLB walks, one that fails freezes; the strand parks until the reply, when the
engine's reads count their errors. -/
def isoReply {α : Type} (rp : Option Reply) (s : State) (f : State → Except Stop α) (k : State → α → Res) : Res :=
  match rp with
  | none =>
    match f s with
    | .ok _ | .error (.ecc _) => .wait 0 .access s
    | .error e => e.res s
  | some _ =>
    match isoRun f (s.soft.length + 1) s with
    | (s, .ok a) => k s a
    | (s, .error e) => e.res s

def opIsomask (pd : PReg) (vd : VNum) (sa sb sc : SReg) (rp : Option Reply) (s : State) : Res :=
  isoReply rp s (fun s => do
      isoDir s (s.rS sa).toNat
      isoMask s (s.rS sa).toNat (fld (s.rS sb) 31 0) (fld (s.rS sc) 31 0) (s.rV vd.toNat))
    (fun s l => .done ((s.wV vd.toNat (vregOf 32 l.1)).wP pd l.2))

def opIsostep (pd : PReg) (sd sa sb sc : SReg) (rp : Option Reply) (s : State) : Res :=
  isoReply rp s (fun s => do
      isoDir s (s.rS sa).toNat
      isoStep s (s.rS sa).toNat (fld (s.rS sb) 31 0) (fld (s.rS sc) 31 0))
    (fun s r => .done ((s.wS sd (w64 (r.1 * 2 ^ 40 + r.2.2 * 2 ^ 32 + r.2.1))).wP pd (r.1 == 0)))

/-! ### Rows of a step (R69, R70, R80) -/

/-- A row-table entry. -/
def descRow (w : Nat) : Row :=
  { slot := bitsN w 11 0, pos := bitsN w 35 12, node := bitsN w 40 36, kind := bitsN w 42 41, parent := bitsN w 47 43 }

/-- The rows of a slot in a step, with their indices in the row table. -/
def slotRows (s : State) (step slot : Nat) : List (Nat × Row) :=
  ((List.range (descRows s step)).map (fun i => (i, descRow (descWord s step (0x20000 + 8 * i) 8)))).filter (fun r => r.2.slot == slot)

/-- ACTIVE of a slot in a step's descriptor. -/
def descActive (s : State) (step slot : Nat) : Bool := bitN (descWord s step (0x40 + slot / 8) 1) (slot % 8)

/-- A request holds a frontier token (R80). -/
def hasFrontier (s : State) (r : Nat) : Bool :=
  (rqGet s r rqPFQHEAD + rqGet s r rqGEN) % 2 ^ 32 == (rqGet s r rqPOS + 1) % 2 ^ 32

/-- A prefill row is a rebuild row, or the frontier row; any other is ring-sourced (R80). -/
def isRebuild (s : State) (r : Nat) (x : Row) : Bool := x.kind == 0 && x.pos < rqGet s r rqPOS
def isRing (s : State) (r : Nat) (x : Row) : Bool :=
  x.kind == 0 && rqGet s r rqPOS ≤ x.pos && !(x.pos == rqGet s r rqPOS && hasFrontier s r)

/-! ### ACCEPT (R95, R345) -/

/-- The walk of the draft tree: rows of draft nodes with their tokens, from a node on (R95). -/
def treeWalk (drafts : List (Row × Nat)) (sigma : Nat → Nat) : Nat → Nat → List (Nat × Nat)
  | 0, _ => []
  | f + 1, n =>
    match (List.range 32).find? (fun c => drafts.any (fun d => d.1.node == c && d.1.parent == n && d.2 == sigma n)) with
    | some c => (c, sigma n) :: treeWalk drafts sigma f c
    | none => []

/-- The decision: RQ_PEND.PATH and the accepted tokens. Of a draft block that does not translate every draft token reads as 0,
so that a sampled 0 matches; R95 says nothing of such a block (DESIGN CHOICE, notes/assumptions/25.md). -/
def acceptWhat (s : State) (r slot : Nat) (rows : List (Nat × Row)) (sigma : Nat → Nat) : List Nat × List Nat :=
  if rows.any (fun x => x.2.kind == 1) then
    let blk := (unitRead s (servTenant s) ((regGet s (offSERV + 0x10)).toNat + 256 * slot) 256).getD []
    let drafts := (rows.filter (fun x => x.2.kind == 2)).map (fun x => (x.2, fromBytes (slice blk (8 * x.2.node) 4)))
    let path := treeWalk drafts sigma 8 0
    (path.map (·.1), path.map (·.2) ++ [sigma ((path.map (·.1)).getLastD 0)])
  else
    let pre := (rows.map (·.2)).filter (fun x => x.kind == 0)
    let ring := (rqGet s r rqPFQTAIL + 2 ^ 32 - rqGet s r rqPFQHEAD) % 2 ^ 32
    match pre.getLast? with
    | some l => if !isRebuild s r l && pre.countP (isRing s r) == ring then ([], [sigma 0]) else ([], [])
    | none => ([], [])

/-- The record update of ACCEPT. -/
def acceptDo (r slot : Nat) (step : Word) (pd : PReg) (vn : Nat) (s : State) : Res :=
  if !descActive s step.toNat slot || slotMasked s s.cluId slot then .done (s.wP pd false)
  else if rqFlag s r flCancel then .done ((rqPuts s r [(rqPSTEP, step.toNat), (rqPLEN, 0)]).wP pd false)
  else if rqFlag s r flCommit then .done (s.wP pd (rqGet s r rqPSTEP == step.toNat))
  else
    let sigma := fun n => if n < 16 then lane (s.rV vn) n else lane (s.rV (vn + 1)) (n - 16)
    let (path, toks) := acceptWhat s r slot (slotRows s step.toNat slot) sigma
    let s := rqPuts s r ([(rqPSTEP, step.toNat), (rqPLEN, toks.length),
      (rqPPATH, (path.mapIdx (fun j c => c * 2 ^ (5 * j))).sum)] ++ (List.range 9).map (fun j => (rqPTOK j, toks.getD j 0)))
    .done ((rqSetFlag s r flCommit true).wP pd true)

/-- The words of a step's row table. -/
def rowWords (s : State) (step : Nat) : List Nat :=
  unitKeys s (servTenant s) (descAddr s step + 0x20000) (8 * descRows s step)

/-- The words that ACCEPT reads: of the record, of the descriptor with its row table, and of the draft block. -/
def acceptWords (s : State) (r slot step : Nat) : List Nat :=
  let t := servTenant s
  [rqFLAGS, rqPOS, rqGEN, rqPFQHEAD, rqPSTEP].map (rqWord s r) ++
  unitKeys s t (descAddr s step + 0x40 + slot / 8) 1 ++ rowWords s step ++
  unitKeys s t ((regGet s (offSERV + 0x10)).toNat + 256 * slot) 256

/-- ACCEPT (R344, R345). -/
def opAccept (pd : PReg) (sa sb : SReg) (vn : VNum) (rp : Option Reply) (s : State) : Res :=
  onSlot s (s.rS sa) fun r =>
    if descWord s (s.rS sb).toNat 0 8 ≠ (s.rS sb).toNat then .fault cBOUNDS (s.rS sb)
    else atReplyOf rp s (fun s => acceptWords s r (s.rS sa).toNat (s.rS sb).toNat)
      (acceptDo r (s.rS sa).toNat (s.rS sb) pd vn.toNat)

/-! ### KVCOMMIT (R98) -/

/-- Tokens per KV page (R73). -/
def kvTok (s : State) : Nat := 16 * 2 ^ fld (regGet s (offSERV + 0x38)) 1 0

/-- Why the copies of a KVCOMMIT stop: a migrating mapping, a VA that fails R149, or an uncorrectable word with its info word
(R289). -/
inductive KvStop where
  | migrating (va : Nat) (acc : AccKind)
  | bad (va : Nat)
  | ecc (info : Word)
  deriving DecidableEq, Repr

/-- A part of a commit: its value or why it stops, and the state; what has been written before a stop stays (R380). -/
abbrev KvRes (α : Type) := Except KvStop α × State

def kvThen {α β : Type} (x : KvRes α) (k : α → State → KvRes β) : KvRes β :=
  match x with
  | (.ok a, s) => k a s
  | (.error e, s) => (.error e, s)

/-- Words read for a commit by its cluster (R288, R289). -/
def kvScan (s : State) (clu : Nat) (ws : List Nat) : KvRes Unit :=
  match eccScan s clu ws with
  | (s, some i) => (.error (.ecc i), s)
  | (s, none) => (.ok (), s)

/-- A translation through a cluster's TLB, filled by a walk where it misses (R380): the physical address and attribute. -/
def kvXlate (s : State) (clu tenant va : Nat) (acc : AccKind) : KvRes (Nat × BitVec 2) :=
  let va := va % 2 ^ 57
  match tlbFind (s.clu clu) tenant va acc with
  | some e => if (checkEntry e acc clu).isSome then (.error (.bad va), s) else (.ok (e.phys va, e.attr), s)
  | none =>
    kvThen (kvScan s clu (walkKeys s tenant va)) fun _ s =>
    match walkAD s tenant va acc clu with
    | (.ok e, s) => (.ok (e.phys va, e.attr), s.updClu clu (fun c => tlbFill c e))
    | (.migrating, s) => (.error (.migrating va acc), s)
    | (.bad _, s) => (.error (.bad va), s)

/-- A word of `n` bytes read for a commit at a VA of the record's tenant: a page-table entry, or a token of its ring. -/
def kvLoad (s : State) (clu tenant va n : Nat) : KvRes Nat :=
  kvThen (kvXlate s clu tenant va .load) fun a s =>
  kvThen (kvScan s clu [homeWord s a.1]) fun _ s => (.ok (cohNat s a.1 n), s)

/-- A copy carries uncorrectable words marked poisoned (R289). -/
def softCopy (s : State) (src dst n : Nat) : State :=
  (s.soft.filter (fun e => e.2 && src ≤ e.1 && e.1 < src + n)).foldl
    (fun s e => { s with soft := fset s.soft (wordOf (dst + (e.1 - src))) true }) s

/-- Bytes of a page written for a strand of a cluster by its copy engine. -/
def kvPut (s : State) (core slot pa : Nat) (attr : BitVec 2) (bs : List Byte) : State :=
  let s := writeAt s (.page pa attr 0) (bs.map some)
  noteVis (dropRange s (cluOfCore core) pa bs.length) core slot (ccnt s + 1)

/-- `n` bytes copied from one VA to another, in pieces within 64 KiB granules of both. -/
def kvCopy (core slot ts td : Nat) : Nat → State → Nat → Nat → Nat → KvRes Unit
  | 0, s, _, _, _ => (.ok (), s)
  | f + 1, s, src, dst, n =>
    if n = 0 then (.ok (), s)
    else
      let k := min n (min (65536 - src % 65536) (65536 - dst % 65536))
      kvThen (kvXlate s (cluOfCore core) ts src .load) fun a s =>
      kvThen (kvXlate s (cluOfCore core) td dst .store) fun b s =>
      let s := (eccScan s (cluOfCore core) ((wordsIn a.1 (a.1 + k)).map (homeWord s))).1
      kvCopy core slot ts td f (softCopy (kvPut s core slot b.1 b.2 (cohRead s a.1 k)) a.1 b.1 k) (src + k) (dst + k) (n - k)

/-- A row's KV entry copied to its place in the page that the page table names (R98, R379). -/
def kvRow (core slot r : Nat) (s : State) (x : Nat × Row) : KvRes Unit :=
  let tok := kvTok s
  let nb := 65536 / tok
  let t := reqTenant r
  kvThen (kvLoad s (cluOfCore core) t (rqGet s r rqKVPT + 8 * (x.2.pos / tok)) 8) fun page s =>
  kvCopy core slot (servTenant s) t 4 s ((regGet s (offSERV + 0x18)).toNat + x.1 * nb) (page + x.2.pos % tok * nb) nb

/-- A history entry written: the 4-byte token of a position. -/
def kvHist (core slot r : Nat) (s : State) (pos tok : Nat) : KvRes Unit :=
  kvThen (kvXlate s (cluOfCore core) (reqTenant r) (rqGet s r rqHIST + 4 * pos) .store) fun d s =>
  (.ok (), kvPut s core slot d.1 d.2 (toBytes 4 tok))

/-- The history entries of ring-sourced rows, from ring index `i` on. -/
def kvRing (core slot r : Nat) : State → Nat → List Row → KvRes Unit
  | s, _, [] => (.ok (), s)
  | s, i, x :: xs =>
    kvThen (kvLoad s (cluOfCore core) (reqTenant r) (rqGet s r rqPFQBASE + 4 * (i % max 1 (rqGet s r rqPFQSIZE))) 4) fun tok s =>
    kvThen (kvHist core slot r s x.pos tok) fun _ s => kvRing core slot r s (i + 1) xs

/-- The history entries of committed tokens from the j-th on, the first one for position `at_ + j`. -/
def kvToks (core slot r at_ : Nat) : Nat → State → Nat → KvRes Unit
  | 0, s, _ => (.ok (), s)
  | n + 1, s, j =>
    kvThen (kvHist core slot r s ((at_ + j) % 2 ^ 58) (rqGet s r (rqPTOK j))) fun _ s => kvToks core slot r at_ n s (j + 1)

/-- Rows copied one after another. -/
def kvRows (core slot r : Nat) : State → List (Nat × Row) → KvRes Unit
  | s, [] => (.ok (), s)
  | s, x :: xs => kvThen (kvRow core slot r s x) fun _ s => kvRows core slot r s xs

/-- The rows that a commit of `n` tokens covers: prefill rows in position order, then the decode row and the accepted path. -/
def kvWhich (s : State) (r step slot n : Nat) : List (Nat × Row) :=
  let rows := slotRows s step slot
  let path := rqGet s r rqPPATH
  rows.filter (fun x => x.2.kind == 0) ++
  (if rows.any (fun x => x.2.kind == 1) then
    rows.filter (fun x => x.2.kind == 1) ++
    (List.range (n - 1)).flatMap (fun j => rows.filter (fun x => x.2.kind == 2 && x.2.node == bitsN path (5 * j + 4) (5 * j)))
  else [])

/-- The words of the record and of the row table that a commit of `n` tokens reads. -/
def kvWords (s : State) (r step n : Nat) : List Nat :=
  ([rqFLAGS, rqPOS, rqGEN, rqKVPT, rqHIST, rqPFQBASE, rqPFQSIZE, rqPFQHEAD, rqPPATH] ++ (List.range n).map rqPTOK).map (rqWord s r) ++
  rowWords s step

/-- The copies, the history and the record update of a commit of `n` tokens with a new automaton state. A migrating mapping
leaves the strand parked on it (R165, R380), an uncorrectable word of what is read freezes it. -/
def kvDo (core slot r step bslot n ast : Nat) (pd : PReg) (s : State) : State :=
  let rows := kvWhich s r step bslot n
  let ring := (rows.map (·.2)).filter (isRing s r)
  let adv := rows.countP (fun x => !isRebuild s r x.2)
  let head := rqGet s r rqPFQHEAD
  let pos := rqGet s r rqPOS + adv
  let wp := fun (s : State) (b : Bool) => s.updStrand core slot (fun x => x.wP pd b)
  let all :=
    kvThen (kvScan s (cluOfCore core) (kvWords s r step n)) fun _ s =>
    kvThen (kvRows core slot r s rows) fun _ s =>
    kvThen (kvRing core slot r s head ring) fun _ s =>
    kvToks core slot r (pos + 1 + 2 ^ 58 - n) n s 0
  match all with
  | (.error (.migrating va acc), s) =>
    s.updStrand core slot (fun x => { x with phase := .migrate, pkind := 6, pva := w64 va, pacc := acc })
  | (.error (.ecc i), s) => freeze s core slot cECC i
  | (.error (.bad va), s) => retire (wp (slotFault s bslot fcRQ_PAGE (w64 va)) false) core slot
  | (.ok _, s) =>
    let s := rqPuts s r ([(rqPFQHEAD, (head + ring.length) % 2 ^ 32), (rqPOS, pos), (rqGEN, rqGet s r rqGEN + n)] ++
      (if n = 0 then [] else [(rqASTATE, ast)]) ++ [(rqPROG, ccnt s)])
    retire (wp (rqSetFlag s r flCommit false) true) core slot

/-- KVCOMMIT before its copies (R98, R379). -/
def opKvcommit (pd : PReg) (sa sb sc : SReg) (rp : Option Reply) (s : State) : Res :=
  let slot := (s.rS sa).toNat
  let c := s.rS sc
  onSlot s (s.rS sa) fun r =>
    if fld c 63 36 ≠ 0 then .fault cBOUNDS c
    else atReplyOf rp s (fun s => [rqFLAGS, rqPSTEP, rqPLEN].map (rqWord s r)) fun s =>
      if slotMasked s s.cluId slot then .done (s.wP pd false)
      else if !rqFlag s r flCommit then .done (s.wP pd (rqGet s r rqPSTEP == (s.rS sb).toNat))
      else if rqGet s r rqPSTEP ≠ (s.rS sb).toNat then .done (s.wP pd false)
      else if rqGet s r rqPLEN < fld c 35 32 then .fault cBOUNDS (w64 (fld c 35 32))
      else if rqFlag s r flCancel then .done ((rqSetFlag s r flCommit false).wP pd true)
      else .wait 0 .copies s

/-- KVCOMMIT_COPIES_DONE (R98, R380): with a place in flight (R196), the copies finish and the record takes one update. A
faulted-slot bit that has arrived leaves the record as it is (R76). -/
def execKvcommitCopiesDone (core slot : Nat) (s : State) : Outc :=
  let x := s.strand core slot
  if x.status = .parked ∧ x.phase = .copies ∧ (s.clu (cluOfCore core)).copies.length < 64 then
    match decodeTile x.pinstr with
    | .ok (.kvcommit _ pd sa sb sc) =>
      let bslot := (x.rS sa).toNat
      match slotReq s bslot with
      | none => .next (freeze s core slot cRQ_STATE (x.rS sa))
      | some r =>
        if slotMasked s (cluOfCore core) bslot then .next (retire (s.updStrand core slot (fun y => y.wP pd false)) core slot)
        else .next (kvDo core slot r (x.rS sb).toNat bslot (fld (x.rS sc) 35 32) (fld (x.rS sc) 31 0) pd s)
    | _ => .next s
  else .next s

def execSample (g : Guard) (pd : PReg) (sd sa sb sc : SReg) (s : State) : Outc :=
  issue (.sample g pd sd sa sb sc) g (opSample pd sd sa sb sc none) s
def execIsomask (g : Guard) (pd : PReg) (vd : VNum) (sa sb sc : SReg) (s : State) : Outc :=
  issue (.isomask g pd vd sa sb sc) g (opIsomask pd vd sa sb sc none) s
def execIsostep (g : Guard) (pd : PReg) (sd sa sb sc : SReg) (s : State) : Outc :=
  issue (.isostep g pd sd sa sb sc) g (opIsostep pd sd sa sb sc none) s
def execAccept (g : Guard) (pd : PReg) (sa sb : SReg) (vn : VNum) (s : State) : Outc :=
  issue (.accept g pd sa sb vn) g (opAccept pd sa sb vn none) s
def execKvcommit (g : Guard) (pd : PReg) (sa sb sc : SReg) (s : State) : Outc :=
  issue (.kvcommit g pd sa sb sc) g (opKvcommit pd sa sb sc none) s

end Sys2Proof.Machine
end

