-- ==== Sys2Proof/Machine/Launch.lean ====
section
/-!
DEFINITION. Machine/Launch.lean: launches (02 R29 to R47, 17 R383): submission, pools and spill queues, the arbiter,
placement of tasks, gangs and resident tasks, and the LAUNCH instruction.
-/
namespace Sys2Proof.Machine

/-! ### Fields (R29) -/

def Launch.field (l : Launch) (w hi lo : Nat) : Nat := fld (l.words.getD w 0) hi lo
/-- Vector-register groups of 8, private-window granules, scratchpad granules and shared blocks of a task. -/
def Launch.vg (l : Launch) : Nat := l.vregs / 8
def Launch.pg (l : Launch) : Nat := l.field 3 26 16
def Launch.sg (l : Launch) : Nat := l.field 3 42 32
def Launch.cb (l : Launch) : Nat := l.field 3 58 48
def Launch.prio (l : Launch) : Nat := l.field 7 33 32

/-! ### Validation (R30, R37, R38) -/

/-- The resident launch, while it holds resources. -/
def residentOf (s : State) : Option Launch :=
  match s.front.launch with
  | none => none
  | some k =>
    match s.launch k with
    | some l => if !l.resident || l.pend.isNone || l.outcome != 0 && l.live == 0 then none else some l
    | none => none

/-- A cluster whose cores a resident launch runs on (R47, R73). -/
def inServeMask (s : State) (clu : Nat) : Bool := (regGet s (offSERV + 0x40 + 8 * dieOfClu clu)).getLsbD (clu % 64)

/-- A launch's home die has a cluster, or the two clusters of a pair, where the resident launch holds nothing. -/
def outsideMask (s : State) (l : Launch) : Bool :=
  let out := fun c => !(inServeMask s (l.home * 64 + c))
  if l.paired then (List.range 24).any (fun m => out (2 * m) && out (2 * m + 1)) else (List.range 48).any out

/-- What is available to a launch on a core and in a cluster (R30): vector registers, scratchpad bytes, shared bytes, the
array. A resident launch that has started holds its share on every core of the mask, and nothing outside it
(notes/assumptions/30.md). -/
def available (s : State) (l : Launch) : Nat × Nat × Nat × Bool :=
  match residentOf s with
  | none => (640, 262144, 4194304, true)
  | some r =>
    if !l.resident && outsideMask s l then (640, 262144, 4194304, true)
    else (640 - r.gz * r.vregs, 262144 - r.gz * (r.priv + r.scratch), 4194304 - r.shared, !r.mxa)

/-- The first of some checks that fails: its detail number. -/
def firstBad : List (Bool × Nat) → Option Nat
  | [] => none
  | (ok, d) :: cs => if ok then firstBad cs else some d

/-- Checks 9 to 13 of R30. -/
def oversize (s : State) (l : Launch) : Option Nat :=
  let (v, g, c, m) := available s l
  firstBad [(l.vregs ≤ v, 1), (l.priv ≤ 131072, 2), (l.priv + l.scratch ≤ g, 3), (l.shared ≤ c, 4), (!l.mxa || m, 5)]

/-- Whether a dependency field names a launch that the tenant has assigned and that lies in its window (R37). -/
def depOk (s : State) (tenant d : Nat) : Bool :=
  d == 0 || ((fget 0 s.newest tenant + 2 ^ 32 - d) % 2 ^ 32 < 4096 && (s.launch (launchKey tenant d)).isSome)

/-- Checks 1 to 8 of R30. -/
def badField (s : State) (tenant : Nat) (sysctl : Bool) (l : Launch) : Option Nat :=
  firstBad [
    (l.field 0 2 0 == 0, 1),
    (l.gx != 0 && l.gy != 0 && l.gz != 0, 2),
    ((!l.paired || l.ringed) && (!l.flag 4 || sysctl), 3),
    (!l.ringed || l.gx % (if l.paired then 16 else 8) == 0, 4),
    (l.field 1 63 53 == 0 && l.field 3 15 10 == 0 && l.field 3 31 27 == 0 && l.field 3 47 43 == 0 &&
      l.field 3 63 59 == 0 && l.field 7 63 42 == 0, 5),
    (!l.flag 4 || (l.gx == 16 && l.gy == 192 && l.gz ≤ 8 && l.home == 0), 6),
    (l.field 7 41 36 == tenant, 7),
    (l.deps.all (depOk s tenant), 8)]

/-- The state of a launch's dependencies (R38): 0 all satisfied, 1 waiting, 2 one has failed. -/
def depState (s : State) (l : Launch) : Nat :=
  (l.deps.filter (· != 0)).foldl (fun r d =>
    match s.launch (launchKey l.tenant d) with
    | none => max r 1
    | some x => if x.met then r else if 2 ≤ x.outcome then 2 else max r 1) 0

/-! ### Queues (R40 to R43) -/

def poolRoom (s : State) (die : Nat) : Nat := 256 - (s.pool die).ents.length
def spillOf (s : State) (tenant : Nat) : List Nat := fget [] s.spillq tenant
/-- A tenant's spill entries for a die. -/
def spillFor (s : State) (die tenant : Nat) : List Nat :=
  (spillOf s tenant).filter (fun k => ((s.launch k).map (fun l => l.home == die)).getD false)
/-- Entries of a pool owed to the tenants other than one (R41): two, or as many as the tenant has spill entries for the die,
whatever entries of the pool it holds already (DESIGN CHOICE, notes/assumptions/86.md). -/
def owedOthers (s : State) (die tenant : Nat) : Nat :=
  (s.spillq.map (fun q => if q.1 = tenant then 0 else min 2 (spillFor s die q.1).length)).sum

/-- A launch enters a pool at its tail. -/
def poolEnter (s : State) (die k level : Nat) : State :=
  let p := s.pool die
  poolHeads (s.setPool die { p with ents := p.ents ++ [{ launch := k, level := level, since := s.cycle, head := false }] })

/-- The next launch ID of a tenant (R32). -/
def nextLaunchId (s : State) (tenant : Nat) : Nat :=
  let n := fget 0 s.newest tenant
  if n < 2 ^ 32 - 1 then n + 1 else 1

/-- When a resident launch starts, launches with unplaced tasks that would now fail checks 9 to 13 are FAILED (R30). -/
def failOversize (s : State) : State :=
  s.launches.foldl (fun s e =>
    match s.launch e.1 with
    | some l =>
      if l.outcome = 0 ∧ l.placed < l.tasks ∧ !l.resident ∧ (oversize s l).isSome then fixOutcome s e.1 2 else s
    | none => s) s

/-- A launch enters the tail of its tenant's spill queue: its record is written to the lowest free entry of 128 bytes at
SPILLBASE, with the device's own bookkeeping, whose bytes are free values (R40, notes/assumptions/16.md). -/
def spillEnter (s : State) (k : Nat) (l : Launch) : State :=
  let used := (spillOf s l.tenant).filterMap (fun j => (s.launch j).bind (·.spill))
  let n := ((List.range (used.length + 1)).find? (fun i => !used.contains i)).getD 0
  let (own, s) := (List.range 8).foldl (fun (p : List Byte × State) _ =>
    let (w, s) := p.2.free
    (p.1 ++ toBytes 8 w.toNat, s)) ([], s)
  let s := cohWrite s (tset s setSPILLBASE l.tenant + 128 * n) (l.words.flatMap (fun w => toBytes 8 w.toNat) ++ own)
  { s.setLaunch k { l with spill := some n } with spillq := fset s.spillq l.tenant (spillOf s l.tenant ++ [k]) }

/-- A launch submitted (R30 to R32, R41, R42): its status word (R31), and the state it leaves. A RESIDENT launch takes an
entry in every pool, and is refused with QFULL where one has none free (R40, R47; DESIGN CHOICE, notes/assumptions/30.md). -/
def submitLaunch (s : State) (tenant : Nat) (ws : List Word) (sysctl : Bool) (host : Option (Nat × Bool × Word)) :
    Word × State :=
  let id := nextLaunchId s tenant
  let k := launchKey tenant id
  let l : Launch :=
    { id := id, tenant := tenant, words := ws, resident := (fld (ws.getD 1 0) 52 52 == 1), placed := 0, live := 0,
      trigd := 0, outcome := 0, met := false, pend := none, holds := [], host := host,
      spill := none }
  match badField s tenant sysctl l with
  | some d => (w64 (d * 256 + 3), s)
  | none =>
    match oversize s l with
    | some d => (w64 (d * 256 + 2), s)
    | none =>
      let acc := fun (s : State) => { s.setLaunch k l with newest := fset s.newest tenant id }
      let ok := w64 (id * 2 ^ 32)
      if l.resident then
        if (List.range 4).all (fun d => owedOthers s d tenant < poolRoom s d) then
          let s := { acc s with front := { s.front with launch := some k } }
          (ok, (List.range 4).foldl (fun s d => poolEnter s d k l.prio) s)
        else (w64 1, s)
      else
        let direct := depState s l == 0 && (spillFor s l.home tenant).isEmpty &&
          owedOthers s l.home tenant < poolRoom s l.home
        if direct then (ok, poolEnter (acc s) l.home k l.prio)
        else
          let n := (spillOf s tenant).length
          let cap := tset s setSPILLSZ tenant
          if (if l.flag 3 then cap ≤ n else cap ≤ n + 32) then (w64 1, s)
          else (ok, spillEnter (acc s) k l)

/-- The oldest spill entry of a tenant for a die whose dependencies are satisfied. -/
def spillNext (s : State) (die tenant : Nat) : Option Nat :=
  (spillFor s die tenant).find? (fun k => ((s.launch k).map (fun l => depState s l == 0)).getD false)

/-- One round of R43: one entry for each of the given tenants, in order, while entries are free. -/
def fillRound (die : Nat) : List Nat → State → State
  | [], s => s
  | t :: ts, s =>
    if poolRoom s die = 0 then s
    else match spillNext s die t with
      | some k =>
        let s := { s with spillq := fset s.spillq t ((spillOf s t).filter (· != k)) }
        let s := match s.launch k with
          | some l => s.setLaunch k { l with spill := none }
          | none => s
        fillRound die ts (poolEnter s die k (((s.launch k).map Launch.prio).getD 0))
      | none => fillRound die ts s

/-- Rounds until nothing can move. -/
def fillRounds (die : Nat) : Nat → State → State
  | 0, s => s
  | n + 1, s => fillRounds die n (fillRound die (s.spillq.map (·.1)) s)

/-- Spilled launches whose dependencies have failed leave with outcome DEP_FAILED (R43). -/
def failDeps (s : State) : State :=
  (s.spillq.flatMap (·.2)).foldl (fun s k =>
    match s.launch k with
    | some l => if depState s l = 2 then fixOutcome s k 3 else s
    | none => s) s

/-- POOL_FILL (R43): every tenant with an eligible spill entry is owed entries, so the rounds of the owed tenants move
everything that can move. -/
def execPoolFill (die : Nat) (s : State) : Outc :=
  if 4 ≤ die then .next s
  else
    let s := failDeps s
    .next (fillRounds die (poolRoom s die) s)

/-- AGING_PROMOTION (R44): a head that has waited 2^20 cycles at its level moves up one, ahead of its tenant's entries
there. -/
def execAgingPromotion (die entry : Nat) (s : State) : Outc :=
  let p := s.pool die
  match p.ents[entry]? with
  | none => .next s
  | some e =>
    if e.head ∧ poolEligible s e ∧ e.level < 3 ∧ e.since + 2 ^ 20 ≤ s.cycle then
      let e' := { e with level := e.level + 1, head := false }
      let rest := p.ents.eraseIdx entry
      let at_ := (findIdx' (fun x => entTenant s x == entTenant s e && x.level == e.level + 1) rest 0).getD entry
      let i := min at_ entry
      .next (poolHeads (s.setPool die { p with ents := rest.take i ++ e' :: rest.drop i }))
    else .next s

/-! ### Resources (R35, R45) -/

/-- What is free on a core for a launch: slots, register groups, scratchpad granules, shared blocks, the array. -/
structure Room where
  slots : List Nat
  v : List Bool
  g : List Bool
  c : List Bool
  m : Bool

/-- The shared allocation that a launch has in a cluster now. -/
def launchShr (s : State) (clu k : Nat) : Option (Nat × Nat) :=
  (coresOf clu).findSome? (fun c => (coreTasks s c).findSome? (fun t => if t.launch = k then some t.shr else none))

def inRange (i : Nat) (r : Nat × Nat) : Bool := r.1 ≤ i && i < r.1 + r.2

/-- Units that RESTOREs in progress hold (R287). -/
def restoreHolds (s : State) : List Hold := s.cores.flatMap (fun c => c.2.saved.holds)

/-- The free units of a core, less those that some holds keep for others. -/
def roomOf (s : State) (core : Nat) (holds : List Hold) : Room :=
  let mine := holds.filter (fun h => h.core == core)
  let near := holds.filter (fun h => cluOfCore h.core == cluOfCore core)
  let used := (List.range 8).filterMap (fun n =>
    let x := s.strand core n
    if x.task.isSome then some (x.vbase / 8, x.vcount / 8) else none)
  { slots := (List.range 8).filter (fun n =>
      (s.strand core n).status == .empty && (s.strand core n).task.isNone && !(mine.any (fun h => h.slot == n))),
    v := (List.range 80).map (fun i => !(used.any (inRange i)) && !(mine.any (fun h => inRange i h.v))),
    g := (List.range 1024).map (fun i => !((fget 0#8 s.own (offSCROWN core i)).getLsbD 7) && !(mine.any (fun h => inRange i h.g))),
    c := (List.range 1024).map (fun i =>
      !((fget 0#8 s.own (offCSHOWN (cluOfCore core) i)).getLsbD 7) && !(near.any (fun h => inRange i h.c))),
    m := (arrayOwner s core).isNone && (s.core core).arr.run.isNone && !(mine.any (·.m)) }

/-- The lowest range of `n` free units. -/
def firstFit (free : List Bool) (n : Nat) : Option Nat :=
  (List.range (free.length + 1 - n)).find? (fun i => (slice free i n).all id)

/-- The range of `n` units that holds the fewest occupied ones, ties to the lowest (R45), with their number. A range that
one of `mine`, fixed for the same launch, overlaps is taken only where there is no other. -/
def fewest (free : List Bool) (mine : List (Nat × Nat)) (n : Nat) : Nat × Nat :=
  let at_ := fun i => ((slice free i n).countP (fun x => !x), i)
  let all := (List.range (free.length + 1 - n)).map at_
  let apart := all.filter (fun x => !(mine.any (fun r => overlap r.1 r.2 x.2 n)))
  let best := (if apart.isEmpty then all else apart).foldl (fun (b : Nat × Nat) x => if x.1 < b.1 then x else b) (n + 1, 0)
  (best.2, best.1)

/-- Ranges of the given sizes, each as `fewest` chooses it beside those before it; packed from 0 on where two of them would
overlap, for they fit together in the whole. -/
def fixRanges (free : List Bool) (sizes : List Nat) : List (Nat × Nat) :=
  let greedy := sizes.foldl (fun rs n => rs ++ [((fewest free rs n).1, n)]) []
  let apart := fun (rs : List (Nat × Nat)) => rs.Pairwise (fun a b => overlap a.1 a.2 b.1 b.2 = false)
  if apart greedy then greedy else sizes.foldl (fun rs n => rs ++ [((rs.map (·.2)).sum, n)]) []

/-- Where a task would go on a core. -/
structure Fit where
  core : Nat
  slot : Nat
  free : Nat     -- the core's free slots
  v : Nat
  p : Nat
  g : Nat
  c : Nat

/-- The place of a launch's task on a core, in a given slot or the lowest free one, if everything it needs is free: each
range the lowest that is free (notes/assumptions/31.md). A slot held for another head does not count among the core's free
slots (DESIGN CHOICE, notes/assumptions/86.md). -/
def fitCore (s : State) (k : Nat) (l : Launch) (core : Nat) (slot : Option Nat) (holds : List Hold) : Option Fit :=
  if !cluReady s (cluOfCore core) then none
  else
    let r := roomOf s core holds
    match (match slot with | some n => r.slots.find? (· == n) | none => r.slots.head?) with
    | none => none
    | some n =>
      if l.mxa && !r.m then none
      else match firstFit r.v l.vg, firstFit r.g l.pg with
        | some v, some p =>
          let g' := (List.range 1024).zipWith (fun i f => f && !inRange i (p, l.pg)) r.g
          match firstFit g' l.sg with
          | none => none
          | some g =>
            match launchShr s (cluOfCore core) k with
            | some _ => some { core := core, slot := n, free := r.slots.length, v := v, p := p, g := g, c := 0 }
            | none =>
              match firstFit r.c l.cb with
              | some c => some { core := core, slot := n, free := r.slots.length, v := v, p := p, g := g, c := c }
              | none => none
        | _, _ => none

/-! ### A task is placed (R34) -/

/-- The identity and window registers of a task (R23, R33, R36). -/
def taskIds (l : Launch) (idx : Nat) (f : Fit) (shr : Nat × Nat) : FMap Word :=
  let tx := idx % l.gx
  let ty := idx / l.gx % l.gy
  let tz := idx / (l.gx * l.gy)
  let ext := fun (e n t : Nat) => let w := (e + n - 1) / n; min w (e - t * w)
  let ring := if l.paired then tx % 16 else if l.ringed then tx % 8 else 0
  (List.zip
    [0x010, 0x011, 0x012, 0x013, 0x014, 0x015, 0x016, 0x017, 0x018, 0x019, 0x01A, 0x01B, 0x01C, 0x01D, 0x01E,
     0x020, 0x021, 0x022, 0x023, 0x024, 0x025, 0x026, 0x027]
    ([tx, ty, tz, l.gx, l.gy, l.gz, ext (l.field 2 31 0) l.gx tx, ext (l.field 2 63 32) l.gy ty, f.core,
      cluOfCore f.core, dieOfCore f.core, f.slot, ring, l.id, l.tenant,
      8 * f.v, l.vregs, 256 * f.p, l.priv, 256 * f.g, l.scratch, shr.1, shr.2].map w64))

/-- The strand of a task at its first instruction (R34). -/
def taskStrand (s : State) (k : Nat) (l : Launch) (idx : Nat) (f : Fit) (shr : Nat × Nat) : Strand :=
  let fm := if l.field 7 31 0 = 0 then tset s setFEMAXDEF l.tenant else l.field 7 31 0
  { Strand.init with
    status := .ready, pc := l.words.getD 0 0,
    s := [(1, l.words.getD 6 0), (61, w64 (2 ^ 60 + l.priv))],
    ids := taskIds l idx f shr, femax := BitVec.ofNat 32 fm,
    task := some { launch := k, idx := idx, tenant := l.tenant, entry := l.words.getD 0 0, arg := l.words.getD 6 0,
                   resident := l.resident, mxa := l.mxa, ring := l.ringed, femax0 := BitVec.ofNat 32 fm, trig := false,
                   scr := (256 * f.g, l.scratch), shr := shr, started := s.cycle } }

/-- Bytes of local memory set to zero with every word EMPTY. -/
def zeroRange (s : State) (key n : Nat) : State := feRange (memZero (softClear s key n) key n) key false (n / 8)

/-- The same for a task (R34): where that changes a word's state, its bank examines the
entries listed on it (R139). -/
def zeroEmpty (s : State) (key n : Nat) : State :=
  let words := (s.waits.flatMap (·.2)).filterMap (fun e =>
    if key ≤ e.word && e.word < key + n && feFull s e.word then some e.word else none)
  words.eraseDups.foldl (fun s w => passes s w 17) (zeroRange s key n)

/-- What the registers of a slot held is gone, with its errors. -/
def slotMended (s : State) (core slot : Nat) : State :=
  softDrop (softDrop s (sregKey core slot 0) (sregKey core slot 64)) (pregKey core slot 0) (pregKey core slot 32)
/-- The vector registers of a window set to zero (R34, R280). -/
def clearWindow (s : State) (core base n : Nat) : State :=
  (softDrop s (vregKey core base) (vregKey core (base + n))).updCore core (fun x =>
    { x with v := x.v.filter (fun e => !(base ≤ e.1 && e.1 < base + n)) })

/-- The private window, the scratchpad allocation and the vector registers of a task cleared, its slot given its first
state (R34, R280). -/
def taskInit (s : State) (k : Nat) (l : Launch) (idx : Nat) (f : Fit) (shr : Nat × Nat) : State :=
  let s := zeroEmpty s (scrKey f.core (256 * f.p)) l.priv
  let s := zeroEmpty s (scrKey f.core (256 * f.g)) l.scratch
  let s := clearWindow s f.core (8 * f.v) l.vregs
  (slotMended s f.core f.slot).setStrand f.core f.slot (taskStrand s k l idx f shr)

/-- A task placed: ownership, zeroed memory, an array in which nothing of an earlier owner's shows to it (R252, R363), the
acquire at .dev that stands before its first instruction (R34, R35, R128, R131, R383). -/
def taskPlace (s : State) (k : Nat) (l : Launch) (idx : Nat) (f : Fit) : State :=
  let clu := cluOfCore f.core
  let own := BitVec.ofNat 8 (0x80 + l.tenant)
  let s := scrownRange s f.core (256 * f.p) l.priv own
  let s := scrownRange s f.core (256 * f.g) l.scratch own
  let (shr, s) := match launchShr s clu k with
    | some r => (r, s)
    | none =>
      let s := cshownRange s clu (4096 * f.c) l.shared own
      ((4096 * f.c, l.shared), zeroEmpty s (shrKey clu (4096 * f.c)) l.shared)
  let s := taskInit s k l idx f shr
  let s := if l.mxa then s.updCore f.core (fun x => { x with arr := { x.arr with staleAcc := true, staleLatch := true, ring := 0, shadow := .init } }) else s
  let s := acquireAt s clu .dev
  match s.launch k with
  | some l => s.setLaunch k { l with placed := l.placed + 1, live := l.live + 1 }
  | none => s

/-! ### Targets and reservations (R35, R36, R45) -/

/-- A hold less what one of the given holds has of the same core: the units of an older reservation are its head's. -/
def Hold.less (h : Hold) (mine : List Hold) : Hold :=
  let on := mine.filter (fun m => m.core == h.core)
  let near := mine.filter (fun m => cluOfCore m.core == cluOfCore h.core)
  let cut := fun (r : Nat × Nat) (rs : List (Nat × Nat)) => if rs.any (fun m => overlap r.1 r.2 m.1 m.2) then (0, 0) else r
  { h with
    slot := if on.any (fun m => m.slot == h.slot) then 8 else h.slot, v := cut h.v (on.map (·.v)), g := cut h.g (on.map (·.g)),
    c := cut h.c (near.map (·.c)), m := h.m && !(on.any (·.m)) }

/-- Units held for others on a die, as a launch sees them: those of every head of its own level or a higher one that holds a
reservation (R45), less what the launch has reserved before it. -/
def heldFrom (s : State) (die k : Nat) : List Hold :=
  let p := s.pool die
  let binds := fun r : Reserve => r.launch != k && p.level k ≤ p.level r.launch
  let mine := (p.res.filter (fun r => r.launch == k)).flatMap (·.holds)
  ((p.res.takeWhile (fun r => r.launch != k)).filter binds).flatMap (·.holds) ++
  (((p.res.dropWhile (fun r => r.launch != k)).filter binds).flatMap (·.holds)).map (fun h => h.less mine) ++
  (match residentOf s with
    | some l => if s.front.launch = some k then [] else l.holds
    | none => []) ++ restoreHolds s

/-- The targets of a launch on a die: cores, rings or pairs, lowest first. -/
def targets (die : Nat) (l : Launch) : List (List Nat) :=
  if l.paired then
    (List.range 24).flatMap (fun m => [0, 1].map (fun j => ringCores (coreOf (die * 64 + 2 * m) (8 * j)) true))
  else if l.ringed then
    (clustersOf die).flatMap (fun c => [0, 1].map (fun j => ringCores (coreOf c (8 * j)) false))
  else (clustersOf die).flatMap (fun c => (coresOf c).map (fun x => [x]))

/-- Every core of a target has its place. -/
def fitAll (s : State) (k : Nat) (l : Launch) (holds : List Hold) : List Nat → Option (List Fit)
  | [] => some []
  | c :: cs =>
    match fitCore s k l c none holds, fitAll s k l holds cs with
    | some f, some fs => some (f :: fs)
    | _, _ => none

/-- The next task or gang of a launch placed, with its cost; a plain task goes to the core with the most free slots, a gang
to the lowest target (R35, R36). -/
def placeNext (s : State) (die k : Nat) (l : Launch) : Option (State × Nat) :=
  let holds := heldFrom s die k
  let best := (targets die l).foldl (fun b cs =>
    match b with
    | some fs =>
      if l.ringed then b
      else match fitAll s k l holds cs with
        | some fs' => if ((fs.head?.map (·.free)).getD 0) < ((fs'.head?.map (·.free)).getD 0) then some fs' else b
        | none => b
    | none => fitAll s k l holds cs) none
  best.map (fun fs =>
    ((List.zip (List.range fs.length) fs).foldl (fun s p => taskPlace s k l (l.placed + p.1) p.2) s, fs.length))

/-- The units of a core that a resident launch other than `k` holds: its tasks', live or saved, and those kept for the ones still
to be placed. They do not free while it runs (R47). -/
def residentUnits (s : State) (k core : Nat) : List Hold :=
  let strands := (List.range 8).map (fun n => (n, s.strand core n)) ++ (s.core core).saved.tasks
  strands.flatMap (fun e =>
    match e.2.task with
    | some t =>
      if t.resident && t.launch != k then
        [{ core := core, slot := e.1, v := (e.2.vbase / 8, e.2.vcount / 8), g := (e.2.privbase / 256, e.2.privlen / 256),
           c := (t.shr.1 / 4096, t.shr.2 / 4096), m := t.mxa },
         { core := core, slot := e.1, v := (0, 0), g := (t.scr.1 / 256, t.scr.2 / 256), c := (0, 0), m := false }]
      else []
    | none => []) ++
  (match residentOf s with
    | some l => if s.front.launch = some k then [] else l.holds.filter (fun h => cluOfCore h.core == cluOfCore core)
    | none => [])

/-- A core could hold a launch's task once the tasks on it that end have ended (R45). -/
def couldHold (s : State) (k : Nat) (l : Launch) (core : Nat) : Bool :=
  let us := residentUnits s k core
  let on := us.filter (fun h => h.core == core)
  let room := fun (total n : Nat) (rs : List (Nat × Nat)) =>
    (firstFit ((List.range total).map (fun i => !(rs.any (inRange i)))) n).isSome
  cluReady s (cluOfCore core) && (List.range 8).any (fun n => !(on.any (fun h => h.slot == n))) && !(l.mxa && on.any (·.m)) &&
    room 80 l.vg (on.map (·.v)) && room 1024 (l.pg + l.sg) (on.map (·.g)) && room 1024 l.cb (us.map (·.c))

/-- The units that a head fixes on a core, and how many of them are occupied (R45). The slot is the lowest-numbered free one,
or the lowest that no resident task holds where none is free (DESIGN CHOICE, notes/assumptions/86.md). The ranges lie apart
from a resident launch's units where they can. The shared range is fixed once for a cluster. -/
def fixUnits (s : State) (k : Nat) (l : Launch) (core : Nat) (slot : Option Nat) (shared : Bool) (holds : List Hold) :
    Hold × Nat :=
  let r := roomOf s core holds
  let us := residentUnits s k core
  let mine := holds.filter (fun h => h.core == core) ++ us.filter (fun h => h.core == core)
  let n := slot.getD (r.slots.head?.getD (((List.range 8).find? (fun n => !(mine.any (fun h => h.slot == n)))).getD 0))
  let v := fewest r.v (mine.map (·.v)) l.vg
  let g := fewest r.g (mine.map (·.g)) (l.pg + l.sg)
  let c := if shared && (launchShr s (cluOfCore core) k).isNone then fewest r.c (us.map (·.c)) l.cb else (0, 0)
  ({ core := core, slot := n, v := (v.1, l.vg), g := (g.1, l.pg + l.sg),
     c := if shared && (launchShr s (cluOfCore core) k).isNone then (c.1, l.cb) else (0, 0), m := l.mxa },
   b2n (!r.slots.contains n) + b2n (l.mxa && (arrayOwner s core).isSome) + v.2 + g.2 + c.2)

/-- The units of a whole target, and its shortfall. -/
def fixTarget (s : State) (k : Nat) (l : Launch) (holds : List Hold) (cs : List Nat) : List Hold × Nat :=
  cs.foldl (fun acc c =>
    let first := !(acc.1.any (fun h => cluOfCore h.core == cluOfCore c))
    let (h, m) := fixUnits s k l c none first holds
    (acc.1 ++ [h], acc.2 + m)) ([], 0)

/-- The reservation of a head: of the targets that could hold it, the one with the smallest shortfall, ties to the lowest core
(R45). -/
def reserveFor (s : State) (die k : Nat) (l : Launch) : Reserve :=
  let holds := heldFrom s die k
  let best := ((targets die l).filter (fun cs => cs.all (couldHold s k l))).foldl (fun b cs =>
    let t := fixTarget s k l holds cs
    match b with
    | some (_, m) => if t.2 < m then some t else b
    | none => some t) none
  { launch := k, holds := (best.map (·.1)).getD [] }

/-! ### The arbiter (R44) -/

/-- Eligible entries of a level. -/
def atLevel (s : State) (die lv : Nat) : List PoolEnt := (s.pool die).ents.filter (fun e => e.level == lv && poolEligible s e)
def tenantsAt (s : State) (die lv : Nat) : List Nat := (atLevel s die lv).foldl (fun l e => insertAsc (entTenant s e) l) []
def defKey (lv tenant : Nat) : Nat := 64 * lv + tenant

/-- A task or gang of the entry's launch has been placed: its cost, and the end of its own reservation. -/
def chargePlaced (s : State) (die lv tenant k cost : Nat) : State :=
  let p := s.pool die
  poolHeads (s.setPool die { p with
    deficit := fset p.deficit (defKey lv tenant) (fget 0 p.deficit (defKey lv tenant) - (cost : Int)),
    res := p.res.filter (fun r => r.launch != k) })

/-- The tenant whose turn it is among some: the one visited last while its deficit is positive, else the next one in cyclic
order, which gets 64 times its weight. -/
def drrTurn (s : State) (die lv : Nat) (ts : List Nat) : Option (Nat × State) :=
  let p := s.pool die
  let last := fget? p.turn lv
  let keep := match last with
    | some t => if ts.contains t && 0 < fget 0 p.deficit (defKey lv t) then some t else none
    | none => none
  match keep with
  | some t => some (t, s)
  | none =>
    match ((ts.find? (fun t => match last with | some u => u < t | none => true)).or ts.head?) with
    | none => none
    | some t =>
      let d := fget 0 p.deficit (defKey lv t) + 64 * (tset s setLWEIGHT t : Int)
      some (t, s.setPool die { p with deficit := fset p.deficit (defKey lv t) d, turn := fset p.turn lv t })

/-- A chosen head that cannot place reserves, unless it holds a reservation (R45). -/
def takeReserve (s : State) (die k : Nat) (l : Launch) : State :=
  let p := s.pool die
  if p.res.any (fun r => r.launch == k) then s else s.setPool die { p with res := p.res ++ [reserveFor s die k l] }

/-- The arbiter's next placement, passing over heads that cannot place; none where nothing can be placed. The state then
holds at most new reservations: what the visits of such an arbitration would add to deficits is dropped (DESIGN CHOICE,
notes/assumptions/86.md). -/
def arbitrate (die : Nat) : Nat → List (Nat × Nat) → State → State → Option State × State
  | 0, _, _, kept => (none, kept)
  | n + 1, blocked, s, kept =>
    let open_ := fun (lv : Nat) => (tenantsAt s die lv).filter (fun t => !blocked.contains (lv, t))
    match [3, 2, 1, 0].find? (fun lv => !(open_ lv).isEmpty) with
    | none => (none, kept)
    | some lv =>
      match drrTurn s die lv (open_ lv) with
      | none => (none, kept)
      | some (t, s) =>
        match (atLevel s die lv).find? (fun e => entTenant s e == t) with
        | none => (none, kept)
        | some e =>
          match s.launch e.launch with
          | none => (none, kept)
          | some l =>
            match placeNext s die e.launch l with
            | some (s', cost) => (some (chargePlaced s' die lv t e.launch cost), kept)
            | none =>
              let s' := takeReserve s die e.launch l
              arbitrate die n ((lv, t) :: blocked) s' { kept with pools := fset kept.pools die { kept.pool die with res := (s'.pool die).res } }

/-- A reserving head places first as soon as it can (R44), the oldest reservation before others. -/
def placeReserved (s : State) (die : Nat) : Option State :=
  (s.pool die).res.findSome? (fun r =>
    match (s.pool die).ents.find? (fun e => e.launch == r.launch && poolEligible s e), s.launch r.launch with
    | some e, some l => (placeNext s die r.launch l).map (fun x => chargePlaced x.1 die e.level l.tenant r.launch x.2)
    | _, _ => none)

/-! ### The resident launch (R47) -/

/-- Where a resident task runs: core tx of the cluster with index ty, slot tz. -/
def residentAt (idx : Nat) : Nat × Nat := (coreOf (cluOfIndex (idx / 16 % 192)) (idx % 16), idx / (16 * 192))

/-- The units that a resident launch reserves for its tasks on a core, in the given slots: ranges apart from each other, and
the cluster's one shared range where `shared` (R47). -/
def residentHolds (s : State) (k : Nat) (l : Launch) (core : Nat) (slots : List Nat) (shared : Bool) : List Hold :=
  let r := roomOf s core []
  let vs := fixRanges r.v (slots.map (fun _ => l.vg))
  let gs := fixRanges r.g (slots.map (fun _ => l.pg + l.sg))
  slots.mapIdx (fun i n =>
    { core := core, slot := n, v := vs.getD i (0, 0), g := gs.getD i (0, 0),
      c := if shared && i == 0 && (launchShr s (cluOfCore core) k).isNone then ((fewest r.c [] l.cb).1, l.cb) else (0, 0),
      m := l.mxa })

/-- A resident launch's placement begins (R47): it reserves what its tasks need on every core of the mask; tasks of clusters
outside count as exited; launches that the others' share no longer admits end (R30). -/
def residentBegin (s : State) (k : Nat) (l : Launch) : State :=
  let pend := (List.range l.tasks).filter (fun i => inServeMask s (cluOfCore (residentAt i).1))
  let out := l.tasks - pend.length
  let cores := (pend.map (fun i => (residentAt i).1)).eraseDups
  let holds := cores.flatMap (fun c =>
    residentHolds s k l c ((pend.filter (fun i => (residentAt i).1 == c)).map (fun i => (residentAt i).2)) (c % 16 == 0))
  let l := { l with pend := some pend, holds := holds, placed := out, trigd := out, met := l.tasks ≤ out }
  let s := failOversize (s.setLaunch k l)
  if pend.isEmpty then fixOutcome s k 1 else s

/-- One pending task: placed as soon as its slot and what it needs are free, its own reservation and its cluster's shared one
not in its way. -/
def residentTask (k : Nat) (s : State) (idx : Nat) : State :=
  match s.launch k with
  | none => s
  | some l =>
    let (core, slot) := residentAt idx
    let other := fun (h : Hold) => !(h.core == core && h.slot == slot)
    match fitCore s k l core (some slot) ((l.holds.filter other).map (fun h => { h with c := (0, 0) })) with
    | none => s
    | some f =>
      let s := taskPlace s k l idx f
      match s.launch k with
      | none => s
      | some l => s.setLaunch k { l with
          pend := l.pend.map (·.filter (· != idx)),
          holds := (l.holds.filter other).map (fun h => if cluOfCore h.core = cluOfCore core then { h with c := (0, 0) } else h) }

/-- The resident launch's tasks of a die: none where there is nothing for it to do. -/
def placeResident (s : State) (die : Nat) : Option State :=
  match s.front.launch with
  | none => none
  | some k =>
    match s.launch k with
    | none => none
    | some l =>
      if l.outcome ≠ 0 ∨ !l.resident then none
      else match l.pend with
        | none =>
          if depState s l = 2 then some (fixOutcome s k 3)
          else if depState s l = 0 then some (residentBegin s k l)
          else none
        | some ps =>
          let mine := ps.filter (fun i => dieOfCore (residentAt i).1 == die)
          let s' := mine.foldl (residentTask k) s
          if mine.isEmpty || s' == s then none else some (poolHeads s')

/-- TASK_PLACEMENT (R35, R36, R44, R45, R47): the resident launch first, then a head with a reservation, then the arbiter;
one task or gang in a step. -/
def execTaskPlacement (die : Nat) (s : State) : Outc :=
  if 4 ≤ die then .next s
  else match placeResident s die with
    | some s => .next s
    | none =>
      match placeReserved s die with
      | some s => .next s
      | none =>
        match arbitrate die ((s.pool die).ents.length + 1) [] s s with
        | (some s, _) => .next s
        | (none, s) => .next s

/-! ### LAUNCH (R46, R383) -/

/-- LAUNCH. -/
def opLaunch (pd : PReg) (sd sa : SReg) (rp : Option Reply) (s : State) : Res :=
  let p := s.rS sa
  match firstStop [checkSpace s (· == 0) p, alignStop p 64] with
  | some e => e.res s
  | none =>
    match dataMatch s true false (fld p 56 0) 64 with
    | some c => .brk c
    | none =>
      afterRelease (some .dev) s fun s =>
        match placeAll (fun a m => globalPlace s .load a m) 0 ((List.range 8).map (fun j => (fld p 56 0 + 8 * j, 8 * j, 8))) with
        | .error e => e.res s
        | .ok ps =>
          loadThen rp true ps s fun _ l s =>
            let (w, s) := submitLaunch s s.tenantId (l.map (fun x => w64 (fromBytes x.2))) false none
            .done ((s.wS sd w).wP pd (fld w 7 0 == 0))

def execLaunch (g : Guard) (pd : PReg) (sd sa : SReg) (s : State) : Outc :=
  issue (.launch g pd sd sa) g (opLaunch pd sd sa none) s

end Sys2Proof.Machine
end

