-- ==== Sys2Proof/Machine/Coherence.lean ====
section
/-!
DEFINITION. Machine/Coherence.lean: homes and snoops (08 R169 to R172), posted writes performed and acknowledged (R173,
R176, R214), and the flush of a page (R182).
-/
namespace Sys2Proof.Machine

/-! ### The snoop filter (R172) -/

/-- Sets of the filter of a home: 16 ways each; the set of a line is its number modulo the sets
(notes/assumptions/32.md). -/
def filterSets (home : Nat) : Nat := if home = 4 then 131072 else 65536
def sameSet (a b : Nat) : Bool :=
  homeOf (128 * a) == homeOf (128 * b) && a % filterSets (homeOf (128 * a)) == b % filterSets (homeOf (128 * a))

/-- Entries of a line's set, and requests in progress that will take one. -/
def setLines (s : State) (line : Nat) : List Nat :=
  let have_ := (s.dirs.filter (fun e => sameSet e.1 line)).map (·.1)
  have_ ++ ((s.homeTxns.map (·.req.line)).filter (fun l => sameSet l line && !have_.contains l))

/-- The entry allocated least recently in a line's set. -/
def oldestInSet (s : State) (line : Nat) : Option Nat :=
  ((s.dirs.filter (fun e => sameSet e.1 line)).foldl (fun b e =>
    match b with
    | none => some (e.1, e.2.born)
    | some (_, n) => if e.2.born < n then some (e.1, e.2.born) else b) none).map (·.1)

/-- Room made for a line's entry: none while the entry to be evicted is in use (R171, R172). -/
def makeRoom (s : State) (line : Nat) : Option State :=
  if (fget? s.dirs line).isSome || (setLines s line).length < 16 then some s
  else match oldestInSet s line with
    | none => none
    | some v => if lineBusy s v then none else some (recallLine s v)

/-! ### A request served (R170, R171) -/

/-- A request completes: the requester's copy, the data for the loads that wait for it, and the filter's entry. -/
def homeComplete (s : State) (t : HomeTxn) : State :=
  let line := t.req.line
  let who := t.req.who
  let s := if (hcHeld s who line).isSome then s else roomIn s who (if who < 192 then lineKey 0 line else line)
  let d := dirOf s line
  let others := d.holders.filter (· != who)
  let born := if (fget? s.dirs line).isSome then d.born else s.nextId
  let data := match hcHeld s who line with
    | some (_, data) => data
    | none => lineData s line
  let s := { s with homeTxns := s.homeTxns.filter (·.req != t.req), nextId := s.nextId + 1 }
  let s := if who < 192 then deliverLine s (cluOfIndex who) line data else s
  match t.req.kind with
  | .read =>
    if (hcHeld s who line).isSome then s
    else
      let e : DirEnt := { holders := insertAsc who others, owner := if others.isEmpty then some who else d.owner, born := born }
      { hcPut s who line (some (if others.isEmpty then .e else .s, data)) with dirs := fset s.dirs line e }
  | .own =>
    let s := others.foldl (fun s w => hcPut s w line none) s
    let e : DirEnt := { holders := [who], owner := some who, born := born }
    { hcPut s who line (some (.m, data)) with dirs := fset s.dirs line e }

/-- The holders that a request's home snoops. -/
def snoopsFor (s : State) (r : HomeReq) : List Participant :=
  let d := dirOf s r.line
  match r.kind with
  | .read => (d.owner.toList).filter (· != r.who)
  | .own => d.holders.filter (· != r.who)

/-- The host reaches a line: through one of its HDM decoders (R292), once its protocols are up (R302). -/
def hostMapped (s : State) (line : Nat) : Bool :=
  fnReady s 27 && s.hdm.any (fun e => e.2.2.2 ≤ 128 * line && 128 * line + 128 ≤ e.2.2.2 + e.2.2.1)

/-- The host sets a decoder, to a range of HBM or LPDDR-6 or to none (R292). -/
def hdmSet (s : State) (n : Nat) (r : Option (Nat × Nat × Nat)) : State :=
  if 8 ≤ n then s
  else match r with
    | none => { s with hdm := fdel s.hdm n }
    | some (base, size, pa) =>
      if size ≠ 0 ∧ physOk pa ∧ physOk (pa + size - 1) ∧ inHbm pa = inHbm (pa + size - 1) then { s with hdm := fset s.hdm n (base, size, pa) }
      else s

/-- HOME_COHERENT_REQUEST (R170 to R172): a request of the system cache or the host may arrive with it; the home takes up the
oldest request that waits for the line. -/
def execHomeCoherentRequest (line : Nat) (src : Option (Nat × Bool)) (s : State) : Outc :=
  if !physOk (128 * line) then .next s
  else
    let s := match src with
      | some (who, own) => if who = 192 ∨ (who = 193 ∧ hostMapped s line) then addHomeReq s line who (if own then .own else .read) else s
      | none => s
    if lineBusy s line then .next s
    else match s.homeReqs.find? (·.line == line) with
      | none => .next s
      | some r =>
        match makeRoom s line with
        | none => .next s
        | some s =>
          let t : HomeTxn := { req := r, snoops := snoopsFor s r, data := none }
          let s := { s with homeReqs := s.homeReqs.erase r, homeTxns := s.homeTxns ++ [t] }
          .next (if t.snoops.isEmpty then homeComplete s t else s)

/-- A snooped holder's copy as it is sent or kept. The host may have written a line that it holds in E or M: `r` then carries
its 128 bytes. -/
def snoopCopy (st : Moesi) (data : List Byte) (who : Nat) (r : Reply) : Moesi × List Byte :=
  if who = 193 ∧ r.data.length = 128 ∧ (st = .e ∨ st = .m) then (.m, r.data) else (st, data)

/-- The host writes a line that it holds in E or M, which is then M (R170). -/
def hostWrite (s : State) (line : Nat) (data : List Byte) : State :=
  match hcHeld s 193 line with
  | some (st, _) => if data.length = 128 ∧ (st = .e ∨ st = .m) then hcPut s 193 line (some (.m, data)) else s
  | none => s

/-- A snoop of the request that the home serves reaches a holder (R170). -/
def snoopReceived (line who : Nat) (r : Reply) (s : State) : State :=
  match s.homeTxns.find? (fun t => t.req.line == line && t.snoops.contains who) with
  | none => s
  | some t =>
    let (fwd, s) : Option (List Byte) × State :=
      match hcHeld s who line with
      | none => (none, s)
      | some (st0, data0) =>
        let (st, data) := snoopCopy st0 data0 who r
        let d := dirOf s line
        match t.req.kind with
        | .read =>
          let st' := if st.dirty then Moesi.o else .s
          let s := { hcPut s who line (some (st', data)) with
            dirs := fset s.dirs line { d with owner := if st.dirty then some who else none } }
          (if st.dirty then some data else none, s)
        | .own =>
          let e : DirEnt :=
            { d with holders := d.holders.filter (· != who), owner := if d.owner = some who then none else d.owner }
          (if st.dirty then some data else none, { softLeave (hcPut s who line none) who 0 line false with dirs := fset s.dirs line e })
    let t' := { t with snoops := t.snoops.filter (· != who), data := fwd.or t.data }
    let s := { s with homeTxns := s.homeTxns.map (fun u => if u.req = t.req then t' else u) }
    if t'.snoops.isEmpty then homeComplete s t' else s

/-- SNOOP_RECEIVED (R170). -/
def execSnoopReceived (line who : Nat) (r : Reply) (s : State) : Outc := .next (snoopReceived line who r s)

/-! ### The system cache (R169) -/

/-- A request of the system cache served whole, as of one instruction of a hart: none while the home serves the line, has a
request for it or evicts for it (R171). -/
def homeNow (s : State) (line : Nat) (kind : HomeReqKind) : Option State :=
  if lineBusy s line || s.homeReqs.any (·.line == line) then none
  else match makeRoom s line with
    | none => none
    | some s =>
      let r : HomeReq := { line := line, who := 192, kind := kind }
      let t : HomeTxn := { req := r, snoops := snoopsFor s r, data := none }
      let s := { s with homeTxns := s.homeTxns ++ [t] }
      some (if t.snoops.isEmpty then homeComplete s t else t.snoops.foldl (fun s w => snoopReceived line w { code := 0, data := [] } s) s)

/-- A line that a hart reads or writes is held by the system cache, in M for a write (R170); none while it must wait. -/
def sysTake (s : State) (line : Nat) (write : Bool) : Option State :=
  match hcHeld s 192 line with
  | none => homeNow s line (if write then .own else .read)
  | some (st, data) =>
    if !write || st == .m then some s
    else if st = .e then some (hcPut s 192 line (some (.m, data)))
    else homeNow s line .own

/-- The 128-byte lines of a hart's L2 of 2 MiB, and of its L1I and its L1D of 64 KiB each (R15). -/
def l2Lines : Nat := 16384
def l1Lines : Nat := 512

/-- Room in a hart's full L2: a line of the hardware's own choice leaves it (notes/assumptions/87.md). -/
def l2Room (s : State) (n : Nat) : State :=
  let mine := (s.l2.filter (fun e => e.2.contains n)).map (·.1)
  if mine.length < l2Lines then s
  else
    let (f, s) := s.free
    let v := mine.getD (f.toNat % mine.length) 0
    { s with l2 := fset s.l2 v ((fget [] s.l2 v).filter (· != n)) }

/-- The system cache's record of the harts that hold a line (R169): a reader joins, a writer holds it alone. -/
def l2Take (s : State) (n line : Nat) (write : Bool) : State :=
  let s := if (fget [] s.l2 line).contains n then s else l2Room s n
  { s with l2 := fset s.l2 line (if write then [n] else insertAsc n (fget [] s.l2 line)) }

/-- The lines of an L1 once one has been taken into it, the latest first: lines that its hart's L2 has lost have left it, and of
a full L1 the one taken longest ago goes (R15; notes/assumptions/87.md). -/
def l1Put (s : State) (n line : Nat) (l : List Nat) : List Nat :=
  (line :: l.filter (fun k => k != line && (fget [] s.l2 k).contains n)).take l1Lines

/-- A hart's access of a line, a fetch of code or one of data, through its L1 and its L2. -/
def l1Take (s : State) (n line : Nat) (code write : Bool) : State :=
  let s := l2Take s n line write
  let k := 2 * n + b2n code
  { s with l1 := fset s.l1 k (l1Put s n line (fget [] s.l1 k)) }

/-! ### Posted writes (R173, R176) -/

/-- A posted write marked performed. -/
def markDone (s : State) (p : Posted) : State :=
  { s with posted := s.posted.map (fun q => if q.id = p.id then { q with done := true, vis := ccnt s + 1 } else q) }

/-- SC_WRITE_AT_HOME (R173). -/
def execScWriteAtHome (id : Nat) (s : State) : Outc :=
  match s.posted.find? (fun p => p.id == id && p.kind == .sc && !p.done) with
  | none => .next s
  | some p =>
    if !postedFirst s p || lineBusy s (lineOf p.key) then .next s
    else .next (markDone (performPosted s p).1 p)

/-- A posted write that is acknowledged leaves the list. -/
def dropPosted (s : State) (id : Nat) : State := { s with posted := s.posted.filter (·.id != id) }

/-- The acknowledgement of a posted fabric write: a failure sets the strand's posted-failure fields (R215). -/
def ackFabric (s : State) (p : Posted) (t : FabTx) (r : Reply) : State :=
  let s := { s with fabTx := s.fabTx.filter (·.id != t.id) }
  let s := dropPosted s p.id
  if r.code ≠ 0 then (if p.slot < 8 then s.updStrand p.core p.slot (fun x => x.pfail r.code t.peer) else s)
  else noteVisSys s p.core p.slot (fabVis s t r)

/-- POSTED_WRITE_ACK (R130, R133, R173, R176, R217): a write to a bank, or to an HC or CP page, is performed by then, with the
visibility time of an SC write (notes/assumptions/89.md); one to an SC page has been. The response of a peer to any transaction of this device arrives here too. -/
def execPostedWriteAck (id : Nat) (r : Reply) (s : State) : Outc :=
  match s.posted.find? (·.id == id) with
  | none =>
    match s.fabTx.find? (fun t => t.id == id && t.peer != fabId s && t.kind != .strand && t.sent) with
    | some _ => .next (deliver s id r)
    | none => .next s
  | some p =>
    match p.kind with
    | .fab =>
      match s.fabTx.find? (·.id == id) with
      | none => .next (dropPosted s id)
      | some t =>
        match t.resp with
        | some r => .next (ackFabric s p t r)
        | none => if t.peer = fabId s || !t.sent then .next s else .next (ackFabric s p t r)
    | .sc => if p.done then .next (noteVis (dropPosted s id) p.core p.slot p.vis) else .next s
    | _ =>
      if !postedFirst s p then .next s
      else match performPosted s p with
        | (s, true) => .next (noteVis (dropPosted s id) p.core p.slot (ccnt s + 1))
        | (s, false) => .next s

/-! ### The flush of a page (R182) -/

/-- Every copy of every line of a page written back where it is dirty, and dropped. -/
def flushPage (s : State) (pa size : Nat) : State :=
  let hit := fun line : Nat => inPage pa size (128 * line)
  let lines := (s.dirs.map (·.1) ++ s.homeTxns.map (·.req.line)).filter hit
  let s := lines.foldl (fun s l => if tracked s l then recallLine s l else s) s
  let s := s.clusters.foldl (fun s c => c.2.lines.foldl (fun s e =>
    if e.2.attr = .cp ∧ hit (e.1 / 4) then cpWriteBack s (e.1 / 4) e.2 else s) s) s
  updClusters s (fun c => { c with lines := c.lines.filter (fun e => !hit (e.1 / 4)) })

/-- CMOCMD_FLUSH (R182): a write to CMOCMD. -/
def execCmocmdFlush (v : Word) (s : State) : Outc :=
  if (regGet s offCMOCMD).getLsbD 8 then .next s
  else if v.getLsbD 0 then
    if fld (regGet s offCMOPA) 1 0 = 3 then .next s
    else .next { regFld s offCMOCMD 9 8 1 with cmo := some (fld (regGet s offCMOPA) 55 16 * 65536, fld (regGet s offCMOPA) 1 0) }
  else if v.getLsbD 9 then .next (regFld s offCMOCMD 9 9 0)
  else .next s

/-- CMO_FLUSH_DONE (R182): by DONE no cache holds a line of the page. -/
def execCmoFlushDone (s : State) : Outc :=
  match s.cmo with
  | some (pa, size) => .next (regFld { flushPage s pa size with cmo := none } offCMOCMD 9 8 2)
  | none => .next s

end Sys2Proof.Machine
end

