-- ==== Sys2Proof/Machine/Control.lean ====
section
/-!
DEFINITION. Machine/Control.lean: branches, the end of a task, and the instructions that only trap or idle
(15 R312, R324; 16 to 19).
-/
namespace Sys2Proof.Machine

/-- A canonical Sv57 VA: bits [63:57] equal bit 56 (R312). -/
def canonical (a : Word) : Bool := fld a 63 56 = 0 || fld a 63 56 = 255

/-- The target of a B-format branch (R312). -/
def branchTarget (s : State) (disp : BitVec 40) : Word := s.me.pc + 8#64 * disp.signExtend 64

/-- A taken branch: a target that is not canonical faults BOUNDS (R312). -/
def branchTo (s' : State) (target : Word) : Res :=
  if canonical target then .jump s' target else .fault cBOUNDS target

/-- JMP and RET: the ALIGN check comes first (R312). -/
def jumpTo (s : State) (target : Word) : Res :=
  if fld target 2 0 ≠ 0 then .fault cALIGN target else branchTo s target

def opBra (disp : BitVec 40) (s : State) : Res := branchTo s (branchTarget s disp)
def opCall (disp : BitVec 40) (s : State) : Res :=
  branchTo (s.wS 62#6 (s.me.pc + 8#64)) (branchTarget s disp)
/-- LOOP: the counter less one; the branch is taken while it is not zero (R386). -/
def opLoop (sr : SReg) (disp : BitVec 40) (s : State) : Res :=
  let c := s.rS sr - 1#64
  if c = 0#64 then .done (s.wS sr c) else branchTo (s.wS sr c) (branchTarget s disp)
def opJmp (sa : SReg) (s : State) : Res := jumpTo s (s.rS sa)
def opRet (sa : SReg) (s : State) : Res := jumpTo s (s.rS sa)
def opNop (s : State) : Res := .done s
def opBkpt (imm : W32) (_ : State) : Res := .fault cBKPT (imm.zeroExtend 64)
def opTrap (sa : SReg) (imm : BitVec 12) (s : State) : Res := .fault cTRAP (s.rS sa + imm.zeroExtend 64)

/-- A matrix command is queued or in flight (R267). -/
def arrayBusy (s : State) (core : Nat) : Bool := (s.core core).arr.run.isSome || !(s.core core).arr.queue.isEmpty

/-- EXIT (R362): it waits for the strand's scoreboard entries, and for the array where the task owns it; then the task
ends. -/
def opExit (s : State) : Res :=
  if (s.core s.coreId).sb.any (fun e => e.slot == s.slotId) then .wait 5 .board s
  else if (s.me.task.map (·.mxa)).getD false && arrayBusy s s.coreId then .wait 0 .cond s
  else .ended (taskEnd s s.coreId s.slotId false)

/-- YIELD counts in the core's idle-issue statistics (R450). -/
def countYield (s : State) : State := s.updCore s.coreId (fun c => { c with yields := c.yields + 1 })

def execBra (g : Guard) (disp : BitVec 40) (s : State) : Outc := issue (.bra g disp) g (opBra disp) s
def execCall (g : Guard) (disp : BitVec 40) (s : State) : Outc := issue (.call g disp) g (opCall disp) s
def execLoop (g : Guard) (sr : SReg) (disp : BitVec 40) (s : State) : Outc :=
  issue (.loop g sr disp) g (opLoop sr disp) s
def execJmp (g : Guard) (sa : SReg) (s : State) : Outc := issue (.jmp g sa) g (opJmp sa) s
def execRet (g : Guard) (sa : SReg) (s : State) : Outc := issue (.ret g sa) g (opRet sa) s
def execExit (g : Guard) (s : State) : Outc := issue (.exit g) g opExit s
def execYield (g : Guard) (s : State) : Outc := issue (.yield g) g opNop (countYield s)
def execNop (g : Guard) (s : State) : Outc := issue (.nop g) g opNop s
def execBkpt (g : Guard) (imm : W32) (s : State) : Outc := issue (.bkpt g imm) g (opBkpt imm) s
def execTrap (g : Guard) (sa : SReg) (imm : BitVec 12) (s : State) : Outc :=
  issue (.trap g sa imm) g (opTrap sa imm) s

/-- A word that no instruction has freezes its strand with IOPC (R310, R322). -/
def execUndefinedOpcode (w : Word) (s : State) : Outc := .next (freeze s s.coreId s.slotId cIOPC w)

end Sys2Proof.Machine
end

