-- ==== Sys2Proof/Machine/EpSpace.lean ====
section
/-!
DEFINITION. Machine/EpSpace.lean: the address spaces that the Ultra Ethernet endpoint reaches: its translation cache, and the
RMA writes and reads of peers whose target this device is (10 R226).
-/
namespace Sys2Proof.Machine

/-- The endpoint's translation of a tenant's VA: through its cache, or by a walk that fills it (R226). -/
def epXlate (s : State) (tenant va : Nat) (acc : AccKind) : Option Nat × State :=
  match s.epTlb.find? (fun e => e.hits tenant va && (!acc.writes || e.d)) with
  | some e => (if e.perm.getLsbD acc.perm then some (e.phys va) else none, s)
  | none =>
    match unitLeaf s tenant va acc with
    | some (e, pteAddr) =>
      (some (e.phys va), { setAD s pteAddr acc.writes with
        epTlb := e :: s.epTlb.filter (fun x => !(x.tenant == e.tenant && x.va == e.va && x.size == e.size)) })
    | none => (none, s)

/-- Bytes of a tenant's space read by the endpoint; none where one cannot be translated. -/
def epRead : State → Nat → Nat → Nat → Option (List Byte) × State
  | s, _, _, 0 => (some [], s)
  | s, tenant, va, n + 1 =>
    match epXlate s tenant va .load with
    | (none, s) => (none, s)
    | (some pa, s) =>
      match epRead s tenant (va + 1) n with
      | (none, s) => (none, s)
      | (some bs, s) => (some (cohByte s pa :: bs), s)

/-- Bytes of a tenant's space written by the endpoint; none, and nothing written, where one cannot be translated. -/
def epWrite (s : State) (tenant va : Nat) : List Byte → Option State
  | [] => some s
  | b :: bs =>
    match epXlate s tenant va .store with
    | (some pa, s) => epWrite (cohPutByte s pa b) tenant (va + 1) bs
    | (none, _) => none

/-- A peer's RMA write performed, which the endpoint's release then covers (R179), or answered "resend later" where it meets a
translation fault (notes/assumptions/64.md). -/
def rmaWrite (s : State) (m : EpMsg) : State :=
  match epWrite s m.tenant m.tag.toNat m.data with
  | some s => (unitRelease s).send (.epData m.peer [])
  | none => s.send (.epResend m.peer)

/-- A peer's RMA read answered. -/
def rmaRead (s : State) (m : EpMsg) (len : Nat) : State :=
  match epRead s m.tenant m.tag.toNat len with
  | (some bs, s) => s.send (.epData m.peer bs)
  | (none, s) => s.send (.epResend m.peer)

end Sys2Proof.Machine
end

