-- ==== Sys2Proof/Machine/Front.lean ====
section
/-!
DEFINITION. Machine/Front.lean: the Front: requests that end (03 R55, R56, R59 to R61), the boundary of a step (R50),
admission (R64), rows (R68, R69), KV pages, eviction and spilling (R65 to R67, R75), the step descriptor (R70, R71) and
serving control (R73, R74).
-/
namespace Sys2Proof.Machine

def State.updFront (s : State) (f : Front → Front) : State := { s with front := f s.front }

/-! ### Requests (R52, R55) -/

/-- A tenant's records that are not FREE. -/
def recordsOf (s : State) (tenant : Nat) : List Nat :=
  ((List.range (tset s setRQCOUNT tenant)).map (reqKey tenant)).filter (fun r => rqGet s r rqSTATE ≠ stFREE)
/-- Every request of the device. -/
def allRequests (s : State) : List Nat := (List.range 64).flatMap (recordsOf s)

def frontReq (s : State) (r : Nat) : FrontReq := fget { pages := [], rebuild := none } s.front.reqs r
def setFrontReq (s : State) (r : Nat) (x : FrontReq) : State :=
  s.updFront (fun f => { f with reqs := if x.pages.isEmpty && x.rebuild.isNone then fdel f.reqs r else fset f.reqs r x })

/-- The valid future of a request. -/
def rqFuture (s : State) (r : Nat) : Option Nat :=
  let v := rqGet s r rqFUT
  if bitN v 16 then some (bitsN v 15 0) else none
/-- A request has a future that has not resolved. -/
def futPending (s : State) (r : Nat) : Bool := ((rqFuture s r).map (fun i => (futOf s i).live)).getD false
def reclaimOf (s : State) (r : Nat) : State :=
  match rqFuture s r with
  | some i => futReclaim s i
  | none => s

/-! ### KV windows and pages (R75) -/

/-- Where the PTE of a VA lies, if the tables reach it. -/
def ptePlaceFrom (s : State) (va : Nat) : Nat → Nat → Option Nat
  | _, 0 => none
  | page, lvl + 1 =>
    let a := page + 8 * bitsN va (20 + 9 * lvl) (12 + 9 * lvl)
    if !(physOk a && physOk (a + 4096)) then none
    else if lvl = 0 then some a
    else
      let pte := cohNat s a 8
      if bitN pte 0 && bitsN pte 3 1 == 0 then ptePlaceFrom s va (bitsN pte 53 10 * 4096) lvl else none
def ptePlace (s : State) (tenant va : Nat) : Option Nat :=
  let root := tset s setTROOT tenant
  if root = 0 then none else ptePlaceFrom s va root 5

/-- The 16 PTEs of a window slot written, if the tables reach them. -/
def putPtes (s : State) (tenant va : Nat) (f : Nat → Nat) : State :=
  match ptePlace s tenant va with
  | none => s
  | some a => (List.range 16).foldl (fun s i => cohPutNat s (a + 8 * i) 8 (f (cohNat s (a + 8 * i) 8))) s

/-- The PTE of a KV page: V, R, W, U, A and D set, N = 1. -/
def kvPte (pa : Nat) : Nat := 2 ^ 63 + (pa / 65536 * 16 + 8) * 2 ^ 10 + 0xD7
/-- A migrating PTE (R148): V clear, RSW bit 8 set. -/
def migPte (old : Nat) : Nat := putBits (putBits old 0 0 0) 8 8 1

def winVa (s : State) (tenant w : Nat) : Nat := tset s setKVWIN tenant + 65536 * w
/-- A tenant's KV pages: those of its requests, and those being freed. -/
def tenantPages (s : State) (tenant : Nat) : List KvPage :=
  (s.front.reqs.filter (fun e => reqTenant e.1 == tenant)).flatMap (·.2.pages) ++
  (s.front.frees.filter (·.tenant == tenant)).map (·.page) ++
  (s.front.deadPages.filter (·.1 == tenant)).map (·.2)
/-- The lowest unused slot of a tenant's window. -/
def freeWin (s : State) (tenant : Nat) : Option Nat :=
  let used := (tenantPages s tenant).map (·.win)
  (List.range (min (used.length + 1) (tset s setPAGEQ tenant))).find? (fun w => !used.contains w)

/-- A page's freeing begins: its PTEs invalid, its shootdown started (R75). -/
def freePage (tenant : Nat) (s : State) (p : KvPage) : State :=
  let va := winVa s tenant p.win
  let s := bothDown (putPtes s tenant va (fun _ => 0)) tenant va p.pa 0
  let (id, s) := s.fresh
  s.updFront (fun f => { f with frees := f.frees ++ [{ id := id, tenant := tenant, page := p, ids := drainIds s true true p.pa 0 }] })

def servCtl (s : State) : Word := regGet s offSERV
def servFld (s : State) (hi lo v : Nat) : State := regFld s offSERV hi lo v
def servActive (s : State) : Bool := (servCtl s).getLsbD 2
def servBusy (s : State) : Bool := (servCtl s).getLsbD 3
def servDrain (s : State) : Bool := (servCtl s).getLsbD 1
def kvFreeBase (s : State) : Nat := fld (regGet s (offSERV + 0x60)) 55 0
def kvFreeCnt (s : State) : Nat := fld (regGet s (offSERV + 0x68)) 24 0

/-- A page rejoins the free pool, or the stack in memory while serving mode is off (R74, R75). -/
def pushFree (s : State) (pa : Nat) : State :=
  if servActive s || servBusy s then s.updFront (fun f => { f with free := pa :: f.free })
  else
    let n := kvFreeCnt s
    regFld (cohPutNat s (kvFreeBase s + 8 * n) 8 pa) (offSERV + 0x68) 24 0 (n + 1)

/-- A request's moves under way are given up: a page that was to receive one goes back to the free pool. -/
def dropMoves (s : State) (mine : PageMove → Bool) : State :=
  let gone := s.front.moves.filter mine
  let s := s.updFront (fun f => { f with moves := f.moves.filter (fun m => !mine m) })
  gone.foldl (fun s m => if m.spill then s else pushFree s m.dst) s

/-- All pages of a request freed. -/
def freePages (s : State) (r : Nat) : State :=
  let s := dropMoves s (fun m => m.req == r)
  let x := frontReq s r
  let s := x.pages.foldl (freePage (reqTenant r)) (setFrontReq s r { x with pages := [] })
  rqPut s r rqKVPAGES 0

/-- The shootdown of a page being freed has ended. -/
def freeDone (s : State) (x : PageFree) : State :=
  let s := s.updFront (fun f => { f with frees := f.frees.filter (·.id != x.id) })
  if x.page.spill then s else pushFree s x.page.pa

/-- Shootdowns that could have ended may have ended by the time of a test: a free value says how many (R75). -/
def settleFrees (s : State) : State :=
  let ready := s.front.frees.filter (fun x => drained s x.ids)
  if ready.isEmpty then s
  else
    let (v, s) := s.free
    (ready.take (v.toNat % (ready.length + 1))).foldl freeDone s

/-! ### A request ends (R56, R59 to R61) -/

/-- A request's slot and pages are freed (R61). -/
def vacate (s : State) (r : Nat) : State :=
  let s := freePages s r
  let s := setFrontReq s r { pages := [], rebuild := none }
  let s := s.updFront (fun f => { f with slots := f.slots.filter (·.2 != r) })
  rqPut s r rqSLOT 0xFFFF

/-- A request's record becomes FREE; its future is reclaimed (R61, R114). -/
def leave (s : State) (r : Nat) : State :=
  let s := reclaimOf (s.updFront (fun f => { f with leaving := f.leaving.filter (· != r) })) r
  rqPut s r rqSTATE stFREE

/-- Both. -/
def freeRequest (s : State) (r : Nat) : State := leave (vacate s r) r

/-- The completion record of a request (R60). -/
def endRecord (s : State) (r state reason : Nat) : List Byte :=
  recBytes
    (1 + reason * 2 ^ 8 + state * 2 ^ 16 + rqGet s r rqFCODE * 2 ^ 24 + rqGet s r rqGEN * 2 ^ 32)
    (rqGet s r rqTAG) (rqGet s r rqID) (rqGet s r rqPOS + s.front.step % 2 ^ 32 * 2 ^ 32)

/-- A request reaches its final state: its future is cancelled where it was cancelled or faulted (R105), a release at .sys
precedes its completion record, and once that is written or discarded the record becomes FREE (R61). That of a request whose
future has been cancelled becomes FREE some time after, so that a completion under way may still find the future CANCELLED
(R460; notes/assumptions/99.md). -/
def endRequest (s : State) (r state reason : Nat) : State :=
  let s := if state = stRETIRED then reclaimOf s r
    else match rqFuture s r with
      | some i => futCancel s i
      | none => s
  let s := unitRelease (rqPut s r rqSTATE state)
  let cq := rqGet s r rqCQ
  match cqPut s (bitsN cq 12 0) (reqTenant r) (bitN cq 13) (endRecord s r state reason) (some r) with
  | (s, true) =>
    if (rqFuture s r).any (fun i => (futOf s i).state == fuCANCELLED) then
      (vacate s r).updFront (fun f => { f with leaving := f.leaving ++ [r] })
    else freeRequest s r
  | (s, false) => s

/-- Once the record of KIND 0x07 is out, its tenant's reset has ended (R301). -/
def resetRecordOut (s : State) (data : List Byte) : State :=
  if data.getD 0 0 = 7#8 then
    let t := (data.getD 16 0).toNat % 64
    regFld s offTRSTBUSY t t 0
  else s

/-- DEFERRED_RING_WRITE (R110): the oldest deferred write of a completion ring, or with 2^16 added to its number of a tool
queue, is retried; a request's record that is written frees the request (R61). Where the ring has none, the oldest request that
leaves by it becomes FREE. -/
def execDeferredRingWrite (ring : Nat) (s : State) : Outc :=
  if 2 ^ 16 ≤ ring then .next (tqFlushOne s (ring - 2 ^ 16)).1
  else match s.deferred.find? (·.ring == ring) with
    | none =>
      match s.front.leaving.find? (fun r => bitsN (rqGet s r rqCQ) 12 0 == ring) with
      | some r => .next (leave s r)
      | none => .next s
    | some d =>
      let done := fun s : State =>
        let s : State := { s with deferred := s.deferred.erase d }
        match d.req with
        | some r => freeRequest s r
        | none => resetRecordOut s d.data
      if !cqOwned s ring d.tenant d.sys then .next (done s)
      else match cqStore s ring d.data with
        | some s => .next (done s)
        | none => .next s

/-- Whether a request has ended and waits for its record to be written. -/
def hasEnded (s : State) (r : Nat) : Bool := rqGet s r rqSTATE ≥ stRETIRED

/-- A record of KIND 0x02 or 0x03 (R60): it answers no request that has ended, and its GEN, POS and STEP have no value in the
spec. -/
def openRecord (s : State) (kind reason detail tag id : Nat) : List Byte × State :=
  let (g, s) := s.free
  let (p, s) := s.free
  (recBytes (kind + reason * 2 ^ 8 + fld g 23 0 * 2 ^ 32 + detail * 2 ^ 56) tag id (fld p 23 0 + fld p 63 32 * 2 ^ 32), s)

/-- Item 2 of R50 for one CANCEL entry (R59): the requests that get CANCEL_PENDING now are collected. -/
def applyCancel (sf : State × List Nat) (c : CancelReq) : State × List Nat :=
  let (s, fresh) := sf
  let ack := fun (reason : Nat) =>
    let (r, s) := openRecord s 3 reason 0 c.tag.toNat c.id.toNat
    cqWrite s c.ring c.tenant c.sys r
  match (recordsOf s c.tenant).find? (fun r => rqGet s r rqID == c.id.toNat) with
  | none => (ack 0x11, fresh)
  | some r =>
    let st := rqGet s r rqSTATE
    if st ≥ stRETIRED then (ack 0x11, fresh)
    else
      let s := ack 0x10
      if st = stQUEUED ∨ st = stSUSPENDED ∨ st = stBLOCKED then (endRequest s r stCANCELLED 4, fresh)
      else if rqFlag s r flCancel then (s, fresh)
      else (rqSetFlag s r flCancel true, r :: fresh)

/-- Items 2 of R50. -/
def applyCancels (s : State) : State × List Nat :=
  let cs := s.front.cancels
  cs.foldl applyCancel (s.updFront (fun f => { f with cancels := [] }), [])

/-- The outcome of the request of one slot (R56): one faulted in this step ends with its own code (R96). -/
def slotOutcome (fresh : List Nat) (s : State) (x : Nat × Nat) : State :=
  let (slot, r) := x
  if hasEnded s r then s
  else if rqFlag s r flCommit ∧ !(s.front.faulted.contains slot && rqGet s r rqFCODE != 0) then
    let (info, s) := s.free
    endRequest (rqPuts s r [(rqFCODE, fcCOMMIT_LOST), (rqFINFO, info.toNat)]) r stFAULTED 5
  else if rqGet s r rqFCODE ≠ 0 then endRequest s r stFAULTED 5
  else if rqFlag s r flCancel ∧ !fresh.contains r then endRequest s r stCANCELLED 4
  else
    let stop := bitsN (rqGet s r rqFLAGS) 4 3
    if stop ≠ 0 then endRequest s r stRETIRED stop
    else if rqGet s r rqSTATE = stADMITTED ∧ s.front.active.contains slot then
      rqPut s r rqSTATE (if (rqFuture s r).isSome then stBLOCKED else stRUNNING)
    else s

/-- Item 3 of R50. -/
def outcomes (s : State) (fresh : List Nat) : State := s.front.slots.foldl (slotOutcome fresh) s

/-- Item 4 of R50: a BLOCKED request whose future has resolved returns, and its future is reclaimed (R114). -/
def returns (s : State) : State :=
  s.front.slots.foldl (fun s x =>
    let r := x.2
    if rqGet s r rqSTATE = stBLOCKED then
      let s := match rqFuture s r with
        | some i => futNow s i
        | none => s
      if futPending s r then s else reclaimOf (rqPut s r rqSTATE stRUNNING) r
    else s) s

/-! ### Pages that a request needs (R65, R68) -/

def tokPerPage (s : State) : Nat := kvTok s

/-- The first position without a KV entry or rebuild row, RQ_POS, and the rows that the ring and the frontier give (R68,
R80). -/
def pending (s : State) (r : Nat) : Nat × Nat × Nat :=
  let pos := rqGet s r rqPOS
  let ring := (rqGet s r rqPFQTAIL + 2 ^ 32 - rqGet s r rqPFQHEAD) % 2 ^ 32
  ((frontReq s r).rebuild.getD pos, pos, if ring = 0 then 0 else ring + b2n (hasFrontier s r))
def pendingRows (s : State) (r : Nat) : Nat :=
  let (b, pos, n) := pending s r
  pos - b + n

/-- Pages that the first step of a candidate needs beyond those it has. -/
def wantPages (s : State) (r : Nat) : Nat :=
  let (b, pos, n) := pending s r
  let k := min (pos - b + n) (tset s setPFCHUNK (reqTenant r))
  let have_ := (frontReq s r).pages.length
  if 0 < k then (b + k - 1) / tokPerPage s + 1 - have_
  else if 1 ≤ rqGet s r rqGEN then (pos + 8) / tokPerPage s + 1 - have_
  else 0
def spilledPages (s : State) (r : Nat) : Nat := (frontReq s r).pages.countP (·.spill)

/-! ### Moving a page (R67, R75, R164) -/

/-- A page's move begins: a migrating leaf, a release, a shootdown. -/
def startMove (s : State) (r idx dst : Nat) (spill : Bool) (p : KvPage) : State :=
  let t := reqTenant r
  let va := winVa s t p.win
  let s := bothDown (genInc (putPtes s t va migPte) 4) t va p.pa 0
  let (id, s) := s.fresh
  s.updFront (fun f => { f with moves := f.moves ++
    [{ id := id, req := r, idx := idx, dst := dst, spill := spill, ids := drainIds s true true p.pa 0 }] })

/-- A spill page that a tenant does not use, the lowest. -/
def freeSpill (s : State) (tenant : Nat) : List Nat :=
  let used := ((tenantPages s tenant).filter (·.spill)).map (·.pa) ++
    (s.front.moves.filter (fun m => reqTenant m.req == tenant && m.spill)).map (·.dst)
  ((List.range (tset s setSPOOLCNT tenant)).map (fun j => tset s setSPOOLBASE tenant + 65536 * j)).filter (fun a => !used.contains a)

/-- The pages of a request that is spilled, with their indices, begin to move, each to the lowest free spill page. -/
def spillOut (s : State) (r : Nat) (ps : List (Nat × KvPage)) : State :=
  (List.zip ps (freeSpill s (reqTenant r))).foldl (fun s x => startMove s r x.1.1 x.2 true x.1.2) s

/-- A request's moves under way are undone: each page stays where it was, its leaf valid again. -/
def undoMoves (s : State) (r : Nat) : State :=
  let ms := s.front.moves.filter (·.req == r)
  let t := reqTenant r
  ms.foldl (fun s m => match (frontReq s r).pages[m.idx]? with
    | some p =>
      let va := winVa s t p.win
      kick (genInc (putPtes s t va (fun _ => kvPte p.pa)) 4) t va 0
    | none => s) (dropMoves s (fun m => m.req == r))

/-- The spilled pages of a request that is readmitted begin to move to pages of the free pool. -/
def spillBack (s : State) (r : Nat) : State :=
  let ps := (frontReq s r).pages
  (List.zip (List.range ps.length) ps).foldl (fun s x =>
    if x.2.spill then
      match s.front.free with
      | pa :: rest => startMove (s.updFront (fun f => { f with free := rest })) r x.1 pa false x.2
      | [] => s
    else s) s

/-- A page's copy ends: caches flushed, bytes copied, the new leaf, a release, a KICK. -/
def endMove (s : State) (m : PageMove) : State :=
  let x := frontReq s m.req
  let t := reqTenant m.req
  let s := s.updFront (fun f => { f with moves := f.moves.filter (·.id != m.id) })
  match x.pages[m.idx]? with
  | none => s
  | some p =>
    let va := winVa s t p.win
    let s := flushPage s p.pa 0
    let s := softCopy s p.pa m.dst 65536
    let s := s.withMem (writeBytes s.mem m.dst (readBytes s.mem p.pa 65536))
    let s := genInc (putPtes s t va (fun _ => kvPte m.dst)) 4
    let s := kick s t va 0
    let s := setFrontReq s m.req { x with pages := x.pages.set m.idx { p with pa := m.dst, spill := m.spill } }
    let s := if m.spill then pushFree s p.pa else s
    if s.front.moves.any (·.req == m.req) then s else rqSetFlag s m.req flSpilled m.spill

/-! ### Admission (R63, R64) -/

/-- The lowest free slot. -/
def freeSlot (s : State) : Option Nat :=
  (List.range (min (s.front.slots.length + s.front.deadSlots.length + 1) 4096)).find? (fun n =>
    (fget? s.front.slots n).isNone && !s.front.deadSlots.contains n)
def slotsHeld (s : State) (tenant : Nat) : Nat := s.front.slots.countP (fun x => reqTenant x.2 == tenant)

/-- A candidate for readmission (item 4 of R50). -/
def mayReturn (s : State) (r : Nat) : Bool := rqGet s r rqSTATE == stSUSPENDED && !futPending s r
/-- A candidate for admission. -/
def isCandidate (s : State) (r : Nat) : Bool := rqGet s r rqSTATE == stQUEUED || mayReturn s r

/-- A request takes a slot (R55, R63, R67, R114). -/
def admitOne (s : State) (r slot : Nat) : State :=
  let s := if rqGet s r rqSTATE = stSUSPENDED then reclaimOf s r else s
  let s := rqPuts s r [(rqSTATE, stADMITTED), (rqSLOT, slot), (rqPROG, ccnt s)]
  let s := s.updFront (fun f => { f with slots := fset f.slots slot r })
  spillBack s r

/-- The tenant with the largest deficit, ties to the lowest number. -/
def largest (d : Nat → Int) : List Nat → Option Nat
  | [] => none
  | t :: ts => some (ts.foldl (fun b u => if d b < d u then u else b) t)

/-- The candidate with the smallest RQ_AGE, ties to the lowest record. -/
def oldestReq (s : State) : List Nat → Option Nat
  | [] => none
  | r :: rs => some (rs.foldl (fun b q => if rqGet s q rqAGE < rqGet s b rqAGE then q else b) r)

/-- What a pass of admission carries: tenants still in it, candidates left, pages promised per tenant and in all, the slots
given, and whether admission has ended. -/
structure Admit where
  live  : List Nat
  cands : List Nat
  kept  : FMap Nat
  fresh : List Nat
  full  : Bool

/-- A tenant's deficit in admission (R64). -/
def deficitOf (s : State) (tenant : Nat) : Int := fget 0 s.front.deficit tenant

/-- The loop of R64 within one class. -/
def admitLoop : Nat → State → Admit → State × Admit
  | 0, s, a => (s, a)
  | n + 1, s, a =>
    match freeSlot s, largest (deficitOf s) a.live with
    | some slot, some t =>
      let drop : Admit := { a with live := a.live.filter (· != t) }
      match oldestReq s (a.cands.filter (fun r => reqTenant r == t)) with
      | none => admitLoop n s drop
      | some c =>
        let s := settleFrees s
        let want := wantPages s c
        let mine := fget 0 a.kept t
        let all := (a.kept.map (·.2)).sum
        if slotsHeld s t ≥ tset s setSLOTQ t ∨ tset s setPAGEQ t < (tenantPages s t).length + mine + want then
          admitLoop n s drop
        else if s.front.free.length < all + want + spilledPages s c then (s, { a with full := true })
        else
          let s := admitOne s c slot
          let s := s.updFront (fun f => { f with deficit := fset f.deficit t (fget 0 f.deficit t - 256) })
          admitLoop n s
            { a with cands := a.cands.filter (· != c), kept := fset a.kept t (mine + want), fresh := a.fresh ++ [slot] }
    | _, _ => (s, a)

/-- One class: deficits first, of which those of tenants without a candidate in the class become 0, then the loop. -/
def admitClass (ok : State → Nat → Bool) (sa : State × Admit) (cls : Nat) : State × Admit :=
  let (s, a) := sa
  if a.full then (s, a)
  else
    let cands := (allRequests s).filter (fun r => ok s r && rqGet s r rqPRIO == cls)
    let ts := cands.foldl (fun l r => insertAsc (reqTenant r) l) []
    let s := s.updFront (fun f => { f with
      deficit := ts.foldl (fun d t => fset d t (min (fget 0 f.deficit t + (tset s setWEIGHT t : Int)) 65535)) [] })
    admitLoop (cands.length + ts.length + 1) s { a with live := ts, cands := cands }

/-- Admission among the candidates that `ok` names: the slots admitted. -/
def admission (ok : State → Nat → Bool) (s : State) : State × List Nat :=
  let (s, a) := [3, 2, 1, 0].foldl (admitClass ok) (s, { live := [], cands := [], kept := [], fresh := [], full := false })
  (s, a.fresh)

/-! ### Rows (R68, R69, R94) -/

/-- Rows left to the device and used by each tenant. -/
structure RowRoom where
  left : Nat
  used : FMap Nat

def RowRoom.for (q : RowRoom) (s : State) (t : Nat) : Nat := min q.left (tset s setROWQ t - fget 0 q.used t)
def RowRoom.take (q : RowRoom) (t n : Nat) : RowRoom :=
  { left := q.left - n, used := fset q.used t (fget 0 q.used t + n) }

/-- The draft rows of a request, from its draft block; none where the tree is not as R94 asks. -/
def draftRows (s : State) (slot r : Nat) : List Row :=
  let n := bitsN (rqGet s r rqSPEC) 4 0
  if n = 0 then []
  else match unitRead s (servTenant s) ((regGet s (offSERV + 0x10)).toNat + 256 * slot) 256 with
    | none => []
    | some bs =>
      let parents := (List.range n).map (fun j => bitsN (fromBytes (slice bs (8 * (j + 1)) 8)) 36 32)
      let depths := parents.foldl (fun ds p => ds ++ [ds.getD p 99 + 1]) [0]
      let ok := (List.zip (List.range n) parents).all (fun x => x.2 ≤ x.1) && depths.all (· ≤ 8)
      if !ok then []
      else (List.zip (List.range n) parents).map (fun x =>
        { slot := slot, pos := rqGet s r rqPOS + depths.getD (x.1 + 1) 0, node := x.1 + 1, kind := 2, parent := x.2 })

/-- The draft blocks are read (R288). -/
def draftScan (s : State) : State :=
  s.front.slots.foldl (fun s x =>
    if bitsN (rqGet s x.2 rqSPEC) 4 0 = 0 then s
    else unitScan s (servTenant s) ((regGet s (offSERV + 0x10)).toNat + 256 * x.1) 256) s

/-- Requests that may have rows: ADMITTED or RUNNING, in slot order. -/
def rowReqs (s : State) : List (Nat × Nat) :=
  s.front.slots.filter (fun x => rqGet s x.2 rqSTATE = stADMITTED || rqGet s x.2 rqSTATE = stRUNNING)

/-- The three passes of R68; the rows are then listed by slot, prefill rows first, then the decode row, then draft rows. Pass 1
goes in slot order, and in pass 3 the lowest tenant and record goes first of requests of one RQ_AGE
(notes/assumptions/91.md). -/
def chooseRows (s : State) : List Row :=
  let reqs := rowReqs s
  let (dec, q1) := (reqs.filter (fun x => pendingRows s x.2 = 0 && 1 ≤ rqGet s x.2 rqGEN)).foldl (fun (a : List (Nat × Nat) × RowRoom) x =>
    if 1 ≤ a.2.for s (reqTenant x.2) then (a.1 ++ [x], a.2.take (reqTenant x.2) 1) else a) ([], { left := 16384, used := [] })
  let (dra, q2) := dec.foldl (fun (a : List Row × RowRoom) x =>
    let ds := draftRows s x.1 x.2
    if ds.length ≤ a.2.for s (reqTenant x.2) then (a.1 ++ ds, a.2.take (reqTenant x.2) ds.length) else a) ([], q1)
  let old := (reqs.filter (fun x => pendingRows s x.2 ≠ 0)).foldl (fun l x =>
    let (a, b) := l.span (fun y => rqGet s y.2 rqAGE < rqGet s x.2 rqAGE ||
      (rqGet s y.2 rqAGE == rqGet s x.2 rqAGE && y.2 < x.2))
    a ++ x :: b) []
  let (pre, _) := old.foldl (fun (a : List Row × RowRoom) x =>
    let t := reqTenant x.2
    let k := min (min (pendingRows s x.2) (tset s setPFCHUNK t)) (a.2.for s t)
    let b := (pending s x.2).1
    (a.1 ++ (List.range k).map (fun i => { slot := x.1, pos := b + i, node := 0, kind := 0, parent := 0 }), a.2.take t k)) ([], q2)
  reqs.flatMap (fun x =>
    pre.filter (·.slot == x.1) ++
    (if dec.contains x then [{ slot := x.1, pos := rqGet s x.2 rqPOS, node := 0, kind := 1, parent := 0 }] else []) ++
    dra.filter (·.slot == x.1))

/-- A row-table entry (R69). -/
def rowWord (r : Row) : Nat := r.slot + r.pos % 2 ^ 24 * 2 ^ 12 + r.node * 2 ^ 36 + r.kind * 2 ^ 41 + r.parent * 2 ^ 43

/-! ### Mapping and eviction (R65 to R67) -/

/-- Rows of a slot leave the plan. -/
def dropRows (s : State) (slot : Nat) : State :=
  s.updFront (fun f => { f with plan := f.plan.map (fun p => { p with rows := p.rows.filter (·.slot != slot) }) })

/-- Pages that a slot's rows need beyond those its request has. -/
def needPages (s : State) (rows : List Row) (slot r : Nat) : Nat :=
  let mine := rows.filter (·.slot == slot)
  let top := mine.foldl (fun m x => max m (if x.kind = 0 then x.pos else if x.kind = 1 then x.pos + 8 else 0)) 0
  if mine.isEmpty then 0 else top / tokPerPage s + 1 - (frontReq s r).pages.length

/-- One page mapped for a request; the flag says that its tables reach the slot (R75). -/
def mapPage (s : State) (slot r : Nat) : State × Bool :=
  let t := reqTenant r
  match freeWin s t, s.front.free with
  | some w, pa :: rest =>
    let va := winVa s t w
    match ptePlace s t va with
    | none => (dropRows (slotFault s slot fcKV_WINDOW (w64 va)) slot, false)
    | some _ =>
      let x := frontReq s r
      let i := x.pages.length
      let s := s.updFront (fun f => { f with free := rest })
      let s := genInc (putPtes s t va (fun _ => kvPte pa)) 4
      let s := match unitWrite s t (rqGet s r rqKVPT + 8 * i) (toBytes 8 va) with
        | some s => s
        | none => s
      let s := setFrontReq s r { x with pages := x.pages ++ [{ win := w, pa := pa, spill := false }] }
      (rqPut s r rqKVPAGES (i + 1), true)
  | _, _ => (s, false)

def mapPages (slot r : Nat) : Nat → State → State
  | 0, s => s
  | n + 1, s =>
    match mapPage s slot r with
    | (s, true) => mapPages slot r n s
    | (s, false) => s

/-- Requests that may be evicted (R66). -/
def evictable (s : State) (x : Nat × Nat) : Bool :=
  let st := rqGet s x.2 rqSTATE
  (st == stADMITTED || st == stRUNNING || st == stBLOCKED) && rqGet s x.2 rqEVCLASS ≠ 0 &&
  !rqFlag s x.2 flCommit && !rqFlag s x.2 flCancel

/-- The order of eviction: RQ_EVCLASS descending, RQ_PRIO, RQ_PROG and slot ascending. -/
def evictBefore (s : State) (x y : Nat × Nat) : Bool :=
  let k := fun (z : Nat × Nat) => (15 - rqGet s z.2 rqEVCLASS, rqGet s z.2 rqPRIO, rqGet s z.2 rqPROG, z.1)
  let (a1, a2, a3, a4) := k x
  let (b1, b2, b3, b4) := k y
  a1 < b1 || (a1 == b1 && (a2 < b2 || (a2 == b2 && (a3 < b3 || (a3 == b3 && a4 < b4)))))

def firstEvicted (s : State) : List (Nat × Nat) → Option (Nat × Nat)
  | [] => none
  | x :: xs => some (xs.foldl (fun b y => if evictBefore s y b then y else b) x)

/-- A request is evicted (R67): its pages go to the spill pool, those that are still there stay, or all are dropped. Of one that
has no mapped page SPILLED stays clear under EVPOL SPILL, since the flag is set as a page's move ends; R67 does not say (DESIGN
CHOICE, notes/assumptions/98.md). -/
def evict (s : State) (slot r : Nat) : State :=
  let t := reqTenant r
  let s := dropRows s slot
  let s := s.updFront (fun f => { f with slots := fdel f.slots slot })
  let s := undoMoves (rqPuts s r [(rqSTATE, stSUSPENDED), (rqSLOT, 0xFFFF)]) r
  let ps := (frontReq s r).pages
  let hbm := (List.zip (List.range ps.length) ps).filter (fun x => !x.2.spill)
  if tset s setEVPOL t = 0 && Config.isModule && hbm.length ≤ (freeSpill s t).length then spillOut s r hbm
  else
    let s := rqSetFlag (freePages s r) r flSpilled false
    let x := frontReq s r
    setFrontReq s r { x with rebuild := if rqGet s r rqPOS = 0 then none else some 0 }

/-- A request's pages found, by eviction where they run short; the flag says that it waits for a spill copy (R66, R72). -/
def getPages (slot r : Nat) : Nat → State → State × Bool
  | 0, s => (s, false)
  | n + 1, s =>
    match s.front.plan, slotReq s slot with
    | some plan, some r' =>
      let need := needPages s plan.rows slot r
      if r' ≠ r ∨ need = 0 then (s, false)
      else
        let s := settleFrees s
        let t := reqTenant r
        let short := tset s setPAGEQ t < (tenantPages s t).length + need
        if !short && need ≤ s.front.free.length then (mapPages slot r need s, false)
        else if !short && need ≤ s.front.free.length + s.front.moves.countP (·.spill) then (s, true)
        else
          match firstEvicted s ((s.front.slots.filter (evictable s)).filter (fun x => !short || reqTenant x.2 == t)) with
          | some v => getPages slot r n (evict s v.1 v.2)
          | none =>
            let (info, s) := s.free
            (freePages (dropRows (slotFault s slot fcKV_EXHAUSTED info) slot) r, false)
    | _, _ => (s, false)

/-- The slots of the plan mapped one after another, until one waits. -/
def mapTodo : Nat → State → State
  | 0, s => s
  | n + 1, s =>
    match s.front.plan with
    | none => s
    | some p =>
      match p.todo with
      | [] => s
      | slot :: rest =>
        match slotReq s slot with
        | none => mapTodo n (s.updFront (fun f => { f with plan := f.plan.map (fun p => { p with todo := rest }) }))
        | some r =>
          match getPages slot r (s.front.slots.length + 1) s with
          | (s, true) => s
          | (s, false) => mapTodo n (s.updFront (fun f => { f with plan := f.plan.map (fun p => { p with todo := rest }) }))

/-! ### Publication (R70, R71) -/

/-- The clusters of the serving core mask. -/
def servClusters (s : State) : List Nat := allClusters.filter (inServeMask s)

/-- 4,096 bits as 512 bytes. -/
def slotBits (l : List Nat) : List Byte :=
  (List.range 512).map (fun i => BitVec.ofNat 8 ((List.range 8).map (fun j => if l.contains (8 * i + j) then 2 ^ j else 0)).sum)

/-- Positions that have now been given rebuild rows (R68). -/
def noteRebuild (rows : List Row) (s : State) (x : Nat × Nat) : State :=
  let q := frontReq s x.2
  match q.rebuild with
  | none => s
  | some b =>
    let pos := rqGet s x.2 rqPOS
    let b' := rows.foldl (fun m y => if y.slot = x.1 ∧ y.kind = 0 then max m (min pos (y.pos + 1)) else m) b
    setFrontReq s x.2 { q with rebuild := if pos ≤ b' then none else some b' }

/-- The Front writes a word of every masked cluster FULL (R71). -/
def writeStep (n : Nat) (s : State) (clu : Nat) : State :=
  let key := shrKey clu (fld (regGet s (offSERV + 0x30)) 21 0)
  feChange (memPut s key (toBytes 8 n)) key true

/-- Bytes written in the serving tenant's space; skipped where they cannot be translated. -/
def servWrite (s : State) (va : Nat) (bs : List Byte) : State := (unitWrite s (servTenant s) va bs).getD s

/-- Item 7 of R50: the descriptor and its row table are written and released, then the step words. -/
def publishStep (s : State) (p : Plan) : State :=
  let n := s.front.step + 1
  let s := s.front.slots.foldl (noteRebuild p.rows) s
  let base := descAddr s n
  let active := p.rows.foldl (fun l r => insertAsc r.slot l) []
  let k := p.rows.length
  let fresh := p.fresh.filter (fun x => (slotReq s x).isSome)
  let hdr := toBytes 8 n ++ toBytes 8 (k + (k + 63) / 64 * 2 ^ 16) ++ toBytes 8 (base + 0x20000) ++
    toBytes 8 (b2n (servDrain s)) ++ List.replicate 32 0#8 ++ slotBits active ++ slotBits fresh
  let s := servWrite s base (hdr ++ List.replicate (0x20000 - 0x440) 0#8)
  let s := servWrite s (base + 0x20000) (p.rows.flatMap (fun r => toBytes 8 (rowWord r)))
  let s := genInc s 4
  let s := s.updFront (fun f => { f with
    step := n, ending := true, doneCores := [], active := active, faulted := [], faultAt := [], plan := none, drainPub := servDrain s })
  let s := updClusters s (fun c => { c with fslots := [] })
  (servClusters s).foldl (writeStep n) s

/-- The plan carried on: pages mapped; published once every page it needs is in place. -/
def carryOn (s : State) : State :=
  match s.front.plan with
  | none => s
  | some p =>
    let s := mapTodo (p.todo.length + 1) s
    match s.front.plan with
    | some p => if p.todo.isEmpty && s.front.moves.isEmpty then publishStep s p else s
    | none => s

/-- Items 5 to 7 of R50. -/
def planStep (s : State) : State :=
  let (s, fresh) := admission isCandidate s
  let s := draftScan s
  let rows := chooseRows s
  let todo := rows.foldl (fun l r => insertAsc r.slot l) []
  carryOn (s.updFront (fun f => { f with plan := some { rows := rows, fresh := fresh, todo := todo } }))

/-- STEPDONE has arrived from every core of the mask; the cores of a halted cluster count as having sent it (R276). -/
def allDone (s : State) : Bool :=
  ((servClusters s).filter (fun c => !(s.clu c).halted)).all (fun c => (coresOf c).all (fun x => s.front.doneCores.contains x))

/-- A boundary frees the slots and pages of requests that a tenant reset ended (R301). -/
def freeDead (s : State) : State :=
  let ps := s.front.deadPages
  let recl := fun (f : Future) => if f.state = fuFAILED ∧ f.result = 4 then f.idle else f
  let s : State := { s with futures := s.futures.map (fun e => (e.1, recl e.2)) }
  ps.foldl (fun s p => freePage p.1 s p.2) (s.updFront (fun f => { f with deadSlots := [], deadPages := [] }))

/-- A boundary reads the Front's cache and the records (R288), and requests that were leaving have left (R61). -/
def boundaryReads (s : State) : State :=
  let s := s.front.leaving.foldl leave s
  if s.soft.isEmpty then s
  else
    let s := (scanAt s offECCAD [frontKey]).1
    ((List.range 64).flatMap (fun t => (List.range (tset s setRQCOUNT t)).map (reqKey t))).foldl recScan s

/-- STEP_BOUNDARY (R50): the boundary that ends the step published last. After one with DRAIN set only items 1 to 4 are done,
and serving mode begins to turn off (R73, R74; notes/assumptions/60.md). -/
def execStepBoundary (s : State) : Outc :=
  if s.front.ending && servActive s && s.front.plan.isNone && allDone s then
    let s := freeDead (boundaryReads (s.updFront (fun f => { f with ending := false })))
    let (s, fresh) := applyCancels s
    let s := returns (writeToolEntries (outcomes s fresh))
    if s.front.drainPub then
      let s := (admission mayReturn s).1
      .next ((servFld s 3 3 1).updFront (fun f => { f with drained := true }))
    else .next (planStep s)
  else .next s

/-- KV_SPILL_COPY_DONE (R67, R75): a page's copy ends once what its shootdown waits for has ended. -/
def execKvSpillCopyDone (id : Nat) (s : State) : Outc :=
  match s.front.moves.find? (·.id == id) with
  | none => .next s
  | some m => if drained s m.ids then .next (carryOn (endMove s m)) else .next s

/-- KV_PAGE_FREE_DONE (R75). -/
def execKvPageFreeDone (id : Nat) (s : State) : Outc :=
  match s.front.frees.find? (·.id == id) with
  | none => .next s
  | some x => if drained s x.ids then .next (carryOn (freeDone s x)) else .next s

/-! ### Serving control (R73, R74) -/

/-- The free pool written back to its stack in memory (R74). -/
def writeBackPool (s : State) : State :=
  let ps := s.front.free.reverse
  let s := (List.zip (List.range ps.length) ps).foldl (fun s x => cohPutNat s (kvFreeBase s + 8 * x.1) 8 x.2) s
  regFld (s.updFront (fun f => { f with free := [] })) (offSERV + 0x68) 24 0 ps.length

/-- The alignments that R73 asks for. -/
def servAligned (s : State) : Bool :=
  let r := fun o => (regGet s (offSERV + o)).toNat
  r 0x08 % 0x40000 == 0 && r 0x10 % 256 == 0 && r 0x18 % 64 == 0 && r 0x20 % 64 == 0 && r 0x28 % 32 == 0 &&
  bitsN (r 0x30) 53 32 % 8 == 0 && bitsN (r 0x30) 21 0 % 8 == 0 && r 0x60 % 8 == 0

/-- GO is refused (R74). -/
def goRefused (s : State) : Bool :=
  servActive s || servBusy s || tset s setRESIDENT (servTenant s) == 0 || (servClusters s).isEmpty ||
  (servClusters s).any (fun c => !(regGet s (offREADYCLU (dieOfClu c))).getLsbD (c % 64)) ||
  !servAligned s || 2 ^ 24 < kvFreeCnt s

/-- A word of cluster-shared memory set to zero and EMPTY. -/
def emptyWord (clu : Nat) (s : State) (o : Nat) : State :=
  let key := shrKey clu o
  feChange (memPut s key (toBytes 8 0)) key false

/-- Serving mode does not turn on after all. -/
def goFailed (s : State) : State := servFld (servFld (writeBackPool s) 4 4 1) 3 3 0

/-- SERVECTL_GO (R74): a write of 1 to GO, once the Front is ready (R302, R304). -/
def execServectlGo (s : State) : Outc :=
  if !fnReady s 28 then .next s
  else if goRefused s then .next (servFld s 4 4 1)
  else
    let n := kvFreeCnt s
    let pool := (List.range n).map (fun i => bitsN (cohNat s (kvFreeBase s + 8 * i) 8) 55 16 * 65536)
    let s := (servFld s 3 3 1).updFront (fun f => { f with free := pool.reverse })
    let off := regGet s (offSERV + 0x30)
    let words := fld off 21 0 :: (List.range 16).map (fun c => fld off 53 32 + 8 * c)
    let s := (servClusters s).foldl (fun s c => words.foldl (emptyWord c) s) s
    let t := servTenant s
    let s := unitScan s t (tset s setRESIDENT t) 64
    match unitRead s t (tset s setRESIDENT t) 64 with
    | none => .next (goFailed s)
    | some bs =>
      let ws := (List.range 8).map (fun i => w64 (fromBytes (slice bs (8 * i) 8)))
      let (w, s) := submitLaunch s t ws true none
      if fld w 7 0 ≠ 0 then .next (goFailed s)
      else .next (s.updFront (fun f => { f with launch := some (launchKey t (fld w 63 32)) }))

/-- SERVING_ACTIVATE (R74): every task of the step program has been placed, or its launch has failed before that. -/
def execServingActivate (s : State) : Outc :=
  match s.front.launch.bind s.launch with
  | none => .next s
  | some l =>
    if !servBusy s || servActive s then .next s
    else if l.placed < l.tasks then .next (if l.outcome ≠ 0 then goFailed s else s)
    else
      let s := servFld s 3 2 1
      .next (planStep (returns (applyCancels (freeDead (boundaryReads s))).1))

/-- SERVECTL_DRAIN (R73, R74): a write of 1 to DRAIN. -/
def execServectlDrain (s : State) : Outc := if servActive s then .next (servFld s 1 1 1) else .next s

/-- SERVING_OFF (R74): the last step has ended and every task of the step program has exited; ACTIVE, BUSY and DRAIN clear. -/
def execServingOff (s : State) : Outc :=
  let gone := match s.front.launch.bind s.launch with
    | some l => l.live == 0
    | none => true
  if servActive s && s.front.drained && gone then
    let s := writeBackPool s
    let s := servFld s 3 1 0
    .next (s.updFront (fun f => { f with drained := false, drainPub := false }))
  else .next s

/-- SERVEMASK_WRITE (R73, R74): while serving mode is on a bit can only be cleared. -/
def execServemaskWrite (die : Nat) (v : Word) (s : State) : Outc :=
  if 4 ≤ die then .next s
  else
    let o := offSERV + 0x40 + 8 * die
    if servActive s then .next (regWrite s o (v &&& regGet s o)) else .next (regWrite s o v)

end Sys2Proof.Machine
end

