-- ==== Sys2Proof/Machine/System.lean ====
section
/-!
DEFINITION. Machine/System.lean: the system registers with MFS and MTS (15 R333, 18 R395, R396), ICINV (07 R167, 17 R374),
handles: XLATE, XLATE.SLOT and HREL (07 R158, R159, 17 R373, 19 R448), and SPTEST and SPCAST (06 R126, 19 R427).
-/
namespace Sys2Proof.Machine

/-! ### System registers (R333) -/

/-- STEPPING (R7): stepping A1 of part 0xB4A0. -/
def stepping : Word := w64 (0xB4A00011 + (if Config.isModule then 0x1000 else 0))

/-- MSTEP as the issuing strand reads it (R267, R395): 0 for a strand that does not own the array (notes/assumptions/90.md). -/
def mstep (s : State) : Word :=
  let a := (s.core s.coreId).arr.fresh
  let busy := (a.queue ++ a.run.toList).any (·.slot == s.slotId)
  if !((s.me.task.map (·.mxa)).getD false) then 0
  else w64 (a.steps % 2 ^ 32 + a.latch.lty.toNat * 2 ^ 32 + a.ring % 4 * 2 ^ 36 + b2n busy * 2 ^ 38)

/-- A system register other than a scope instance. -/
def sysGet (s : State) (n : Nat) : Word :=
  let x := s.me
  match n with
  | 0x000 => w64 (ccnt s)
  | 0x001 => stepping
  | 0x01F => w64 (stepId s x)
  | 0x028 => x.femax.zeroExtend 64
  | 0x030 => x.fstat
  | 0x050 => x.fpmode
  | 0x051 => x.olbase
  | 0x052 => x.olcap
  | 0x053 => x.olcnt
  | 0x060 => mstep s
  | n => fget 0 x.ids n

/-- A register of a scope instance (R178): the die of the reading strand, the device, the system. -/
def scopeReg (s : State) (n : Nat) : Word :=
  let i := fun k : Nat => s.scope (if k = 0 then s.dieId else k + 3)
  if n < 0x043 then w64 (i (n - 0x040)).ts else w64 ((i (n - 0x043)).gen % 2 ^ 32)

/-- A register updated field by field: RW bits take the value, W1C bits are cleared by a 1 (R3, R396). -/
def mtsField (old v : Word) (rw w1c : Nat) : Word :=
  (old &&& ~~~(w64 rw) &&& ~~~(w64 w1c &&& v)) ||| (v &&& w64 rw)

/-- MTS's effect on a strand. -/
def sysPut (x : Strand) (n : Nat) (v : Word) : Strand :=
  match n with
  | 0x028 => { x with femax := v.setWidth 32 }
  | 0x030 => { x with fstat := mtsField x.fstat v (maskB 41 32 + maskB 31 16 + maskB 7 0) (maskB 8 8) }
  | 0x050 => { x with fpmode := mtsField x.fpmode v (maskB 1 0) (maskB 8 4) }
  | 0x051 => { x with olbase := v }
  | 0x052 => { x with olcap := w64 (fld v 31 0) }
  | 0x053 => { x with olcnt := w64 (fld v 31 0) }
  | _ => x

/-- MFS (R395): a scope instance answers the parked strand, every other register is read at issue. -/
def opMfs (sd : SReg) (n : BitVec 12) (rp : Option Reply) (s : State) : Res :=
  if 0x040 ≤ n.toNat ∧ n.toNat ≤ 0x045 then atReply rp s (fun s => .done (s.wS sd (scopeReg s n.toNat)))
  else .done (s.wS sd (sysGet s n.toNat))

/-- MTS (R396). -/
def opMts (n : BitVec 12) (sa : SReg) (s : State) : Res := .done (s.setMe (sysPut s.me n.toNat (s.rS sa)))

/-! ### ICINV (R167) -/

def coreInScope (sc : Scope) (me core : Nat) : Bool :=
  match sc with
  | .cor => core == me
  | .clu => cluOfCore core == cluOfCore me
  | .die => dieOfCore core == dieOfCore me
  | .dev | .sys => true

/-- ICINV (R374): it invalidates when it is issued; between two instructions every strand is at a boundary. -/
def opIcinv (sc : Scope) (rp : Option Reply) (s : State) : Res :=
  match rp with
  | none =>
    .wait 0 .access
      { s with
        cores := s.cores.map (fun c => (c.1, if coreInScope sc s.coreId c.1 then { c.2 with icache := [] } else c.2)),
        soft := s.soft.filter (fun e => !(s.cores.any (fun c => coreInScope sc s.coreId c.1 && e.1 == icacheKey c.1))) }
  | some _ => .done s

/-! ### Handles (R158, R159) -/

/-- The handle-cache entry of a VA. -/
def hcacheFind (c : Cluster) (tenant va : Nat) : Option TlbEntry := c.hcache.find? (·.hits tenant va)

/-- The handle an entry gives. -/
def TlbEntry.handle (e : TlbEntry) : Handle :=
  { valid := true, pbase := BitVec.ofNat 56 e.pa, size := BitVec.ofNat 2 e.size, perm := e.perm, attr := e.attr,
    hva := BitVec.ofNat 57 e.va }

/-- What a failed XLATE does: the plain form faults; the slot form raises RQ_PAGE on its slot (R159). -/
def xlateFail (slot : Option (Word × PReg × HReg)) (code : BitVec 8) (va : Word) (s : State) : Res :=
  match slot with
  | none => .fault code (gpfInfo false .xlate va.toNat)
  | some (ss, pd, hd) =>
    let s := slotFault s ss.toNat fcRQ_PAGE va
    let s := s.setMe (s.me.wH hd { s.me.rH hd with valid := false })
    .done (s.wP pd false)

/-- The pointer checks of XLATE. -/
def xlateStop (p : Word) : Option (BitVec 8) :=
  if ptrTag p ≠ 0 then some cSPACE else if fld p 59 57 ≠ 0 then some cBOUNDS else none

/-- XLATE's effect once its checks have passed: a handle-cache hit, or a walk. -/
def xlateHit (slot : Option (Word × PReg × HReg)) (hd : HReg) (p : Word) (s : State) : Res :=
  match hcacheFind (s.clu s.cluId) s.tenantId (fld p 56 0) with
  | none => (Stop.walk (fld p 56 0) .xlate).res s
  | some e =>
    if !e.pin then xlateFail slot cGPF_PERM p s
    else
      let s := s.wH hd e.handle
      match slot with
      | some (_, pd, _) => .done (s.wP pd true)
      | none => .done s

/-- XLATE (R159, R448). -/
def opXlate (hd : HReg) (sa : SReg) (s : State) : Res :=
  match xlateStop (s.rS sa) with
  | some c => .fault c (s.rS sa)
  | none => xlateHit none hd (s.rS sa) s

/-- XLATE.SLOT (R159, R448). -/
def opXlateSlot (pd : PReg) (hd : HReg) (sa ss : SReg) (s : State) : Res :=
  match xlateStop (s.rS sa) with
  | some c => .fault c (s.rS sa)
  | none => onSlot s (s.rS ss) (fun _ => xlateHit (some (s.rS ss, pd, hd)) hd (s.rS sa) s)

/-- HREL (R159, R373). -/
def opHrel (hd : Option HReg) (s : State) : Res :=
  match hd with
  | some h => .done (s.setMe (s.me.wH h { s.me.rH h with valid := false }))
  | none => .done (s.setMe { s.me with h := s.me.h.map (fun e => (e.1, { e.2 with valid := false })) })

/-! ### Pointers (R126) -/

/-- SPTEST. -/
def opSptest (sd sa : SReg) (s : State) : Res := .done (s.wS sd (w64 (ptrTag (s.rS sa))))

/-- SPCAST. -/
def opSpcast (f : CastForm) (sd sa : SReg) (s : State) : Res :=
  let p := s.rS sa
  let o := fld p 17 0
  match f with
  | .abs =>
    if ptrTag p = 1 then
      if s.me.privlen ≤ o ∨ fld p 59 18 ≠ 0 then .fault cBOUNDS p
      else .done (s.wS sd (w64 (2 * 2 ^ 60 + s.coreId * 2 ^ 48 + (s.me.privbase + o))))
    else .done (s.wS sd p)
  | .priv =>
    if ptrTag p = 2 then
      if fld p 59 48 ≠ s.coreId then .fault cFOREIGN (foreignInfo s p)
      else if fld p 47 18 ≠ 0 ∨ o < s.me.privbase ∨ s.me.privbase + s.me.privlen ≤ o then .fault cBOUNDS p
      else .done (s.wS sd (w64 (2 ^ 60 + (o - s.me.privbase))))
    else if ptrTag p = 1 then .done (s.wS sd p)
    else .fault cSPACE p
  | .chk t => if ptrTag p = t.toNat then .done (s.wS sd p) else .fault cSPACE p

def execMfs (g : Guard) (sd : SReg) (n : BitVec 12) (s : State) : Outc := issue (.mfs g sd n) g (opMfs sd n none) s
def execMts (g : Guard) (n : BitVec 12) (sa : SReg) (s : State) : Outc := issue (.mts g n sa) g (opMts n sa) s
def execIcinv (g : Guard) (sc : Scope) (s : State) : Outc := issue (.icinv g sc) g (opIcinv sc none) s
def execXlate (g : Guard) (hd : HReg) (sa : SReg) (s : State) : Outc := issue (.xlate g hd sa) g (opXlate hd sa) s
def execXlateSlot (g : Guard) (pd : PReg) (hd : HReg) (sa ss : SReg) (s : State) : Outc :=
  issue (.xlateSlot g pd hd sa ss) g (opXlateSlot pd hd sa ss) s
def execHrel (g : Guard) (hd : Option HReg) (s : State) : Outc := issue (.hrel g hd) g (opHrel hd) s
def execSptest (g : Guard) (sd sa : SReg) (s : State) : Outc := issue (.sptest g sd sa) g (opSptest sd sa) s
def execSpcast (g : Guard) (f : CastForm) (sd sa : SReg) (s : State) : Outc := issue (.spcast g f sd sa) g (opSpcast f sd sa) s

end Sys2Proof.Machine
end

