-- ==== Sys2Proof/Machine/Replies.lean ====
section
/-!
DEFINITION. Machine/Replies.lean: what ends a strand's wait: the end of a rotation count (02 R27), a reply or condition
(R28), a page walk (07 R149 to R153), the 64-cycle retry (06 R139) and the FEMAX bound (06 R140, 16 R353).
-/
namespace Sys2Proof.Machine

/-- A parked strand READY again: it issues its instruction afresh (R28). -/
def wake (s : State) (core slot : Nat) : State := s.updStrand core slot (fun x => { x with status := .ready })

/-- ROTATION_COUNT_SPENT (R27). -/
def execRotationCountSpent (core slot : Nat) (s : State) : Outc :=
  let x := s.strand core slot
  if x.status = .offrot ∧ x.rot = 0 then .next (boundary s core slot) else .next s

/-! ### ACCESS_REPLY -/

/-- An operation performed at its reply. -/
def replyOp (r : Option Reply) : Instr → Option (State → Res)
  | .ld _ u sz acq sd sa imm => some (opLd u sz acq sd sa imm r)
  | .ldIndexed _ u sz acq sd a => some (opLdIndexed u sz acq sd a r)
  | .st _ sz rel sd sa imm => some (opSt sz rel sd sa imm r)
  | .stIndexed _ sz rel sd a => some (opStIndexed sz rel sd a r)
  | .ldfe _ sd sa imm => some (opLdfe sd sa imm r)
  | .ldff _ sd sa imm => some (opLdff sd sa imm r)
  | .stef _ sd sa imm => some (opStef sd sa imm r)
  | .stff _ sd sa imm => some (opStff sd sa imm r)
  | .feset _ sd sa imm => some (opFeset sd sa imm r)
  | .feq _ sd sa imm => some (opFeq sd sa imm r)
  | .amo _ op d ord sd a sb => some (opAmo op d ord sd a sb r)
  | .cas _ d ord sd sa sb sc => some (opCas d ord sd sa sb sc r)
  | .amof _ op ord sd a sb => some (opAmof op ord sd a sb r)
  | .red _ op d rl a sb => some (opRed op d rl a sb r)
  | .redf _ op rl a sb => some (opRedf op rl a sb r)
  | .vld _ vr a km => some (opVld vr a km r)
  | .vst _ vr a km => some (opVst vr a km r)
  | .vlds _ vr b sb km => some (opVlds vr b sb km r)
  | .vsts _ vr b sb km => some (opVsts vr b sb km r)
  | .vgath _ vr b vx sc km => some (opVgath vr b vx sc km r)
  | .vscat _ vr b vx sc km => some (opVscat vr b vx sc km r)
  | .lzres _ pd sd sa sb => some (opLzres pd sd sa sb r)
  | .famo _ op ord pd sd sa sb => some (opFamo op ord pd sd sa sb r)
  | .mldr _ bf16 pd vd sa => some (opMldr bf16 pd vd sa r)
  | .rqld _ sd sa f => some (opRqld sd sa f r)
  | .rqst _ sa sb f => some (opRqst sa sb f r)
  | .rqflt _ sa sb => some (opRqflt sa sb r)
  | .sample _ pd sd sa sb sc => some (opSample pd sd sa sb sc r)
  | .isomask _ pd vd sa sb sc => some (opIsomask pd vd sa sb sc r)
  | .isostep _ pd sd sa sb sc => some (opIsostep pd sd sa sb sc r)
  | .accept _ pd sa sb vn => some (opAccept pd sa sb vn r)
  | .kvcommit _ pd sa sb sc => some (opKvcommit pd sa sb sc r)
  | .futcall _ pd sd sa sb sc => some (opFutcall pd sd sa sb sc r)
  | .futqry _ sd sa => some (opFutqry sd sa r)
  | .mfs _ sd n => some (opMfs sd n r)
  | .icinv _ sc => some (opIcinv sc r)
  | .bar _ sa sb => some (opBar sa sb r)
  | .launch _ pd sd sa => some (opLaunch pd sd sa r)
  | _ => none

/-- The scope of an instruction's acquire (R177, R184). -/
def acqScope : Instr → Option Scope
  | .ld _ _ _ acq _ _ _ | .ldIndexed _ _ _ acq _ _ | .vld _ _ (.gen _ _ _ acq) _ => acq
  | .amo _ _ _ ord _ _ _ | .cas _ _ ord _ _ _ _ | .amof _ _ ord _ _ _ | .famo _ _ ord _ _ _ _ => ordAcq ord
  | .fence _ sc | .acq _ sc => some sc
  | _ => none

/-- The scope of an instruction's release (R176, R184). -/
def relScope : Instr → Option Scope
  | .st _ _ rl _ _ _ | .stIndexed _ _ rl _ _ | .vst _ _ (.gen _ _ _ rl) _ | .red _ _ _ rl _ _ | .redf _ _ rl _ _
  | .fst _ rl _ _ => rl
  | .amo _ _ _ ord _ _ _ | .cas _ _ ord _ _ _ _ | .amof _ _ ord _ _ _ | .famo _ _ ord _ _ _ _ => ordRel ord
  | .fence _ sc | .rel _ sc => some sc
  | .trig _ | .stepdone _ _ | .launch _ _ _ _ => some .dev
  | .bar _ _ _ => some .clu
  | _ => none

/-- ACQ, which awaits the strand's earlier loads (R346). -/
def isAcq : Instr → Bool
  | .acq _ _ => true
  | _ => false

/-- A reply or a condition reaches a parked strand whose instruction is `i`. -/
def replyTo (i : Instr) (core slot : Nat) (r : Reply) (s : State) : State :=
  let x := s.strand core slot
  match x.phase with
  | .access =>
    match replyOp (some r) i with
    | some f => settle s x.pinstr (f s)
    | none => s
  | .acquire =>
    match acqScope i with
    | some sc => if isAcq i && fldsOut s core slot then s else retire (acquireAt s (cluOfCore core) sc) core slot
    | none => s
  | .release =>
    match relScope i with
    | some sc =>
      match tryRelease s core slot sc with
      | (s, true) => wake s core slot
      | (s, false) => s
    | none => s
  | .cond | .board =>
    match myWaiting s, i with
    | some c, .cpy _ _ _ _ => settle s x.pinstr (copyAdmit c s)
    | _, _ => wake s core slot
  | _ => s

/-- The range-scoreboard entries of a strand's earlier commands on its private window and scratchpad allocation. -/
def restartHeld (s : State) (core slot : Nat) (x : Strand) : Bool :=
  let scr := (x.task.map (·.scr)).getD (0, 0)
  (s.core core).sb.any (fun e => e.slot == slot &&
    (overlap e.lo (e.hi - e.lo) x.privbase x.privlen || overlap e.lo (e.hi - e.lo) scr.1 scr.2))

/-- A restarted task's memory is cleared once no earlier command holds it; then it may issue (R280). -/
def restartEnd (s : State) (core slot : Nat) : State :=
  let x := s.strand core slot
  let scr := (x.task.map (·.scr)).getD (0, 0)
  if restartHeld s core slot x then s
  else
    let s := zeroEmpty s (scrKey core x.privbase) x.privlen
    let s := zeroEmpty s (scrKey core scr.1) scr.2
    boundary (s.updStrand core slot (fun y => { y with phase := .none })) core slot

/-- ACCESS_REPLY (R28): the reply or condition that a parked strand waits for arrives; other waits end by events of their
own. -/
def execAccessReply (core slot : Nat) (r : Reply) (s : State) : Outc :=
  let x := s.strand core slot
  if x.status = .parked ∧ x.phase = .restart then .next (restartEnd s core slot)
  else if x.status = .parked then
    match decodeTile x.pinstr with
    | .ok i => .next (replyTo i core slot r { s with cur := .strand core slot })
    | .error _ => .next s
  else .next s

/-! ### WALK_COMPLETE -/

/-- The slot operands of a parked XLATE. -/
def xlateSlotOf (s : State) (i : Instr) : Option (Word × PReg × HReg) :=
  match i with
  | .xlateSlot _ pd hd _ ss => some (s.rS ss, pd, hd)
  | _ => none

/-- The walk of a strand's XLATE has ended: a page that may be pinned enters the handle cache, and the XLATE is executed
again; a failure is its outcome (R159). -/
def xlateWalked (s : State) (core slot : Nat) (i : Instr) : State :=
  let x := s.strand core slot
  let va := x.pva.toNat
  let full := match i with
    | .xlate _ _ sa | .xlateSlot _ _ _ sa _ => s.rS sa
    | _ => x.pva
  match walkAD s s.tenantId va .xlate (cluOfCore core) with
  | (.ok e, s) =>
    if e.pin then wake (s.updClu (cluOfCore core) (fun c => hcacheFill c e)) core slot
    else settle s x.pinstr (xlateFail (xlateSlotOf s i) cGPF_PERM full s)
  | (.migrating, s) => s.updStrand core slot (fun y => { y with phase := .migrate })
  | (.bad code, s) => settle s x.pinstr (xlateFail (xlateSlotOf s i) code full s)

/-- The walk of any other access has ended: it fills the TLB and the instruction is executed again, a store to a page that
is not present or migrating goes to the side log (R153), another access parks on a migrating mapping or faults (R149). -/
def accessWalked (s : State) (core slot : Nat) : State :=
  let x := s.strand core slot
  let va := x.pva.toNat
  let toLog := fun s : State =>
    wake (s.updStrand core slot (fun y => { y with plog := va / 65536 :: y.plog })) core slot
  match walkAD s s.tenantId va x.pacc (cluOfCore core) with
  | (.ok e, s) => wake (s.updClu (cluOfCore core) (fun c => tlbFill c e)) core slot
  | (.migrating, s) => if x.pacc = .store then toLog s else s.updStrand core slot (fun y => { y with phase := .migrate })
  | (.bad code, s) =>
    if x.pacc = .store ∧ code = cGPF_NP then toLog s else freeze s core slot code (gpfInfo false x.pacc va)

/-- WALK_COMPLETE (R151, R149): the walk's reads of the page table count their errors, and a double-bit one freezes the strand
(R288, R289). -/
def execWalkComplete (core slot : Nat) (s : State) : Outc :=
  let x := s.strand core slot
  if x.status = .parked ∧ x.phase = .walk then
    let s := { s with cur := .strand core slot }
    match eccScan s s.cluId (walkKeys s s.tenantId (x.pva.toNat % 2 ^ 57)) with
    | (s, some info) => .next (freeze s core slot cECC info)
    | (s, none) =>
      if x.pacc = .xlate then
        match decodeTile x.pinstr with
        | .ok i => .next (xlateWalked s core slot i)
        | .error _ => .next s
      else .next (accessWalked s core slot)
  else .next s

/-! ### Bounded waits -/

/-- A retry of a full/empty form whose bank's list was full: it never joins the list (R139); it accesses nothing that a
scoreboard entry holds (R144). -/
def retryFe (f : FeForm) (sd sa : SReg) (imm : W32) (s : State) : Res :=
  match placed none s (resolvePtr s (askFe f) (s.rS sa + imm.signExtend 64) 8 0) with
  | .error e => e.res s
  | .ok ps =>
    match ps with
    | { place := .bank key _, .. } :: _ =>
      if ps.any (fun p => p.onBoard s) then .wait 1 .retry s
      else if f.awaits = some (feFull s key) then
        if f.readsWord then eccThen s ps (fun s => .done (feDo f sd key s)) else .done (feDo f sd key s)
      else .wait 1 .retry s
    | _ => .done s

/-- The barrier word of a BAR, if it can still be reached. -/
def barWord (s : State) (sa : SReg) : Option Nat :=
  match placed none s (resolvePtr s askBar (s.rS sa) 8 0) with
  | .ok ({ place := .bank key _, .. } :: _) => some key
  | _ => none

/-- A retry of a BAR reads GEN again and never arrives again (R352). -/
def retryBar (sa : SReg) (s : State) : Res :=
  match placed none s (resolvePtr s askBar (s.rS sa) 8 0) with
  | .error e => e.res s
  | .ok _ =>
    match barWord s sa with
    | some key => if barGen s key = s.me.pcap.headD 0 then .wait 1 .retry s else .done s
    | none => .done s

/-- The retry of a parked form. -/
def retryOf (i : Instr) (s : State) : Res :=
  match i with
  | .ldfe _ sd sa imm => retryFe .ldfe sd sa imm s
  | .ldff _ sd sa imm => retryFe .ldff sd sa imm s
  | .stef _ sd sa imm => retryFe .stef sd sa imm s
  | .bar _ sa _ => retryBar sa s
  | _ => .wait 1 .retry s

/-- FE_RETRY (R139): every 64 cycles. -/
def execFeRetry (core slot : Nat) (s : State) : Outc :=
  let x := s.strand core slot
  if x.status = .parked ∧ x.phase = .retry ∧ x.pstart < s.cycle ∧ x.issueAt ≤ s.cycle ∧ (s.cycle - x.pstart) % 64 = 0 then
    let s := ({ s with cur := .strand core slot }).updStrand core slot (fun x => { x with issueAt := s.cycle + 1 })
    match decodeTile x.pinstr with
    | .ok i => .next (settle s x.pinstr (retryOf i s))
    | .error _ => .next s
  else .next s

/-- What the FEMAX bound of a wait does: the info word and the AUX field of FE_TIMEOUT (R140, R207, R216). -/
def timeoutInfo (s : State) (i : Instr) : Option (Word × BitVec 8) :=
  match i with
  | .ldfe _ _ sa imm | .ldff _ _ sa imm | .stef _ _ sa imm => some (s.rS sa + imm.signExtend 64, 0)
  | .bar _ sa _ => some (s.rS sa, 0)
  | .lzwait _ _ _ z sm => some (s.rS sm, z.zeroExtend 8)
  | .lzwaitAll _ _ _ z => some (BitVec.allOnes 64, z.zeroExtend 8)
  | .qpop _ _ _ q | .fld _ q _ => some (q.zeroExtend 64, 0)
  | _ => none

/-- A strand's entry leaves whatever wait list holds it. -/
def dropWaits (s : State) (core slot : Nat) : State :=
  { s with waits := s.waits.map (fun b => (b.1, b.2.filter (fun e => !(e.core == core && e.slot == slot)))) }

/-- A BAR of the issuing strand leaves its wait: its arrival is withdrawn, or the barrier has completed (R353). -/
def leaveBar (s : State) (sa : SReg) : State × Bool :=
  match barWord s sa with
  | some key => barWithdraw s key (s.me.pcap.headD 0)
  | none => (s, true)

/-- The FEMAX bound reached by a parked instruction. -/
def timeoutOf (i : Instr) (core slot : Nat) (s : State) : State :=
  let s := dropWaits s core slot
  match timeoutInfo s i with
  | none => s
  | some (info, aux) =>
    match i with
    | .bar _ sa _ =>
      match leaveBar s sa with
      | (s, true) => freezeAux s core slot cFE_TIMEOUT info aux
      | (s, false) => retire s core slot
    | _ => freezeAux s core slot cFE_TIMEOUT info aux

/-- The waits that FEMAX bounds (R140, R207, R216). -/
def femaxBounds (x : Strand) : Bool :=
  match x.phase with
  | .listed | .retry => x.pkind == 1
  | .cond => x.pkind == 3 || x.pkind == 8
  | _ => false

/-- FE_TIMEOUT (R140): a wait that has counted its bound. -/
def execFeTimeout (core slot : Nat) (s : State) : Outc :=
  let x := s.strand core slot
  if x.status = .parked && femaxBounds x && x.plimit ≤ waited s x then
    let s := { s with cur := .strand core slot }
    match decodeTile x.pinstr with
    | .ok i => .next (timeoutOf i core slot s)
    | .error _ => .next s
  else .next s

end Sys2Proof.Machine
end

