-- ==== Sys2Proof/Machine/Endpoint.lean ====
section
/-!
DEFINITION. Machine/Endpoint.lean: the Ultra Ethernet endpoint (10 R226 to R230): work requests armed and disarmed through
EPDB, triggers, counters, messages, translation faults, remote tool queues (05 R121) and remote completions (05 R122).
-/
namespace Sys2Proof.Machine

/-! ### Work requests (R227) -/

def EpReq.word (r : EpReq) (i : Nat) : Word := r.words.getD i 0
def EpReq.kind (r : EpReq) : Nat := fld (r.word 0) 3 0
def EpReq.trig (r : EpReq) : Nat := fld (r.word 0) 5 4
/-- ODP: resend later at once, instead of a stall (R229). -/
def EpReq.odp (r : EpReq) : Bool := (r.word 0).getLsbD 6
def EpReq.persist (r : EpReq) : Bool := (r.word 0).getLsbD 7
def EpReq.ctr (r : EpReq) : Nat := fld (r.word 0) 15 8
def EpReq.laddr (r : EpReq) : Nat := (r.word 4).toNat
def EpReq.len (r : EpReq) : Nat := (r.word 5).toNat
def EpReq.peer (r : EpReq) : Word := r.word 7
/-- The tag of a message matches under MASK. -/
def EpReq.matches (r : EpReq) (m : EpMsg) : Bool := r.tenant == m.tenant && (r.word 1 ^^^ m.tag) &&& r.word 2 == 0

/-- An entry that the layout of R227 admits. -/
def epEntryOk (w : Word) : Bool :=
  fld w 3 0 ≤ 5 && fld w 5 4 ≤ 2 && fld w 63 16 == 0 && (!w.getLsbD 7 || fld w 3 0 == 3)

def epFind (s : State) (id : Nat) : Option EpReq := s.epReqs.find? (·.id == id)
def epUpd (s : State) (id : Nat) (f : EpReq → EpReq) : State :=
  { s with epReqs := s.epReqs.map (fun r => if r.id = id then f r else r) }
def epDrop (s : State) (id : Nat) : State := { s with epReqs := s.epReqs.filter (·.id != id) }

/-- A request inserted in table order. -/
def epInsert (r : EpReq) : List EpReq → List EpReq
  | [] => [r]
  | a :: l => if r.index < a.index then r :: a :: l else a :: epInsert r l

/-! ### Firing, counters (R227 to R229) -/

/-- A translation fault (R229): a stall, or "resend later" at once. A request that gets that answer has made no access. -/
def epStall (s : State) (r : EpReq) (m : Option EpMsg) : State :=
  if r.odp then
    (epUpd s r.id (fun x => { x with stall := none, msg := none })).send (.epResend ((m.map (·.peer)).getD r.peer))
  else epUpd s r.id (fun x => { x with stall := some (x.stall.getD s.cycle), msg := m })

/-- The VA of a tenant's event counter (R228). -/
def ctrVa (s : State) (tenant ctr : Nat) : Nat := tset s setEPCTRBASE tenant + 8 * ctr

/-- A request fires: a send or a transfer starts, a receive or a forward becomes ready. A transfer starts only once its counter
is mapped too, so that one answered "resend later" has made no access (R229). -/
def epFire (s : State) (r : EpReq) : State :=
  let go := fun s : State => epUpd s r.id (fun x => { x with fired := true, spent := true, stall := none })
  let stop := fun s : State => epStall (epUpd s r.id (fun x => { x with spent := true })) r none
  if 2 < r.kind then go s
  else match epXlate s r.tenant (ctrVa s r.tenant r.ctr) .store with
    | (none, s) => stop s
    | (some _, s) =>
      if r.kind = 2 then (go s).send (.epRead r.peer (r.word 6) r.len)
      else match epRead s r.tenant r.laddr r.len with
        | (some bs, s) => (go s).send (.epSend r.kind r.peer (r.word 6) bs)
        | (none, s) => stop s

/-- TRIG 2 requests on a counter, at a physical address, that has reached their threshold fire, in table order, once each. -/
def epTest (s : State) (tenant ctr pa : Nat) : State :=
  let n := cohNat s pa 8
  s.epReqs.foldl (fun s r =>
    if r.tenant = tenant ∧ r.armed ∧ r.trig = 2 ∧ r.ctr = ctr ∧ !r.fired ∧ !r.spent ∧ (r.word 3).toNat ≤ n then epFire s r
    else s) s

/-- A TRIG 2 request is armed: its counter is tested, and one that is not mapped is a translation fault (R229). -/
def epWatch (s : State) (r : EpReq) : State :=
  match epXlate s r.tenant (ctrVa s r.tenant r.ctr) .load with
  | (some pa, s) => epTest (epUpd s r.id (fun x => { x with stall := none })) r.tenant r.ctr pa
  | (none, s) => epStall s r none

/-- A completion of a request, whose counter lies at a physical address: what it covers is released, the counter rises by 1,
and TRIG 2 requests are tested. -/
def epCount (s : State) (r : EpReq) (pa : Nat) : State :=
  let s := unitRelease s
  epTest (cohPutNat s pa 8 ((cohNat s pa 8 + 1) % 2 ^ 64)) r.tenant r.ctr pa

/-- What a request has received, or an RMA read has returned, written at LADDR as far as LEN reaches; none at a translation
fault. -/
def epPayload (s : State) (r : EpReq) (m : EpMsg) : Option State :=
  match r.kind with
  | 2 | 3 | 5 => epWrite s r.tenant r.laddr (m.data.take r.len)
  | _ => some s

/-- A request that completes is disarmed, but for KINDs 4 and 5 and a KIND 3 that persists (R228). -/
def epLeave (s : State) (r : EpReq) : State :=
  if 4 ≤ r.kind || (r.kind == 3 && r.persist) then epUpd s r.id (fun x => { x with stall := none, msg := none })
  else epDrop s r.id

/-- The end of a transfer or of a message's reception: the payload is written, the request leaves, its counter rises. At a
translation fault of either access the request stalls with the message, neither access made (R229); the flag says whether it
has completed. -/
def epEnd (s : State) (r : EpReq) (m : EpMsg) : State × Bool :=
  match epXlate s r.tenant (ctrVa s r.tenant r.ctr) .store with
  | (none, s) => (epStall s r (some m), false)
  | (some pa, s) =>
    match epPayload s r m with
    | none => (epStall s r (some m), false)
    | some s => (epCount (epLeave s r) r pa, true)

/-! ### EPDB (R228) -/

/-- A tenant's requests of an index leave: one whose transfer has started finishes it disarmed. -/
def epDisarm (s : State) (tenant index : Nat) : State :=
  let mine := fun r : EpReq => r.tenant == tenant && r.index == index
  let kept := s.epReqs.filter (fun r => !(mine r && (3 ≤ r.kind || !r.fired)))
  { s with epReqs := kept.map (fun r => if mine r then { r with armed := false } else r) }

/-- EPDB_ARM (R228). -/
def execEpdbArm (tenant : Nat) (v : Word) (s : State) : Outc :=
  let i := fld v 11 0
  if v.getLsbD 12 || tset s setEPWRCNT tenant ≤ i then .next s
  else
    let s := epDisarm (unitRelease s) tenant i
    match epRead s tenant (tset s setEPWRBASE tenant + 64 * i) 64 with
    | (none, s) => .next s
    | (some bs, s) =>
      let words := (List.range 8).map (fun j => w64 (fromBytes (slice bs (8 * j) 8)))
      if epEntryOk (words.getD 0 0) then
        let (id, s) := s.fresh
        let r : EpReq :=
          { id := id, tenant := tenant, index := i, words := words, armed := true, fired := false, spent := false,
            stall := none, msg := none }
        let s := { s with epReqs := epInsert r s.epReqs }
        if r.trig = 0 then .next (epFire s r)
        else if r.trig = 1 then .next s
        else .next (epWatch s r)
      else .next s

/-- EPDB_DISARM (R228). -/
def execEpdbDisarm (tenant : Nat) (v : Word) (s : State) : Outc :=
  let i := fld v 11 0
  if !v.getLsbD 12 || tset s setEPWRCNT tenant ≤ i then .next s else .next (epDisarm (unitRelease s) tenant i)

/-- Every request of a tenant is disarmed (R228). -/
def epReset (s : State) (tenant : Nat) : State :=
  (s.epReqs.filter (fun r => r.tenant == tenant)).foldl (fun s r => epDisarm s tenant r.index) s

/-! ### Remote tool queues and remote completions (R121, R122, R230) -/

/-- The next entry of a queue, which is not empty, cannot be read by the endpoint. -/
def tqFaults (s : State) (d : TqDesc) : Bool :=
  d.head != d.tail && d.size != 0 && (epRead s d.tenant (d.entry d.head) 64).1.isNone

/-- TOOL_QUEUE_FORWARD (R121): an armed KIND 4 request drains its tenant's REMOTE queue, entry by entry; it stalls at a
translation fault of the entry or of its counter (R229). -/
def execToolQueueForward (q : Nat) (s : State) : Outc :=
  let d := tqDesc s q
  match s.epReqs.find? (fun r => r.armed && r.fired && r.kind == 4 && r.stall.isNone && r.laddr == q && r.tenant == d.tenant) with
  | none => .next s
  | some r =>
    if 255 < q || !d.valid || !d.remote || d.head == d.tail then .next s
    else match epXlate s r.tenant (ctrVa s r.tenant r.ctr) .store with
    | (none, s) => .next (epStall s r none)
    | (some pa, s) =>
      if tqFaults s d then .next (epStall s r none)
      else match tqPop (fun s t a n => (epRead s t a n).1) s q with
      | (none, s) => .next s
      | (some (e, _), s) => .next (epCount ((epLeave s r).send (.epSend 4 r.peer (r.word 6) e)) r pa)

/-- A future-completion message applied (R122, R230): its status. -/
def applyCompletion (s : State) (m : EpMsg) : Nat × State :=
  let n := m.data.length
  let key := w64 (fromBytes (slice m.data 0 8))
  let kind := fromBytes (slice m.data 8 1)
  let toks := (List.range ((n - 16) / 4)).map (fun j => fromBytes (slice m.data (16 + 4 * j) 4))
  if n < 16 || n % 4 ≠ 0 || 1 < kind || 2 ^ 20 < toks.length then (4, s)
  else
    let s := futNow s (fld key 15 0)
    let foreign := match futMatch s key with
      | some (_, f) => f.tenant != m.tenant
      | none => false
    if foreign then (4, s)
    else if kind = 0 then futComplete s key (some toks) 0
    else futComplete s key none (fromBytes (slice m.data 12 4))

/-- The request that receives a message: the first armed KIND 3 or KIND 5 request, in table order, whose tag matches. -/
def epReceiver (s : State) (m : EpMsg) : Option EpReq :=
  s.epReqs.find? (fun r => r.armed && r.fired && (r.kind == 3 || r.kind == 5) && r.stall.isNone && r.matches m)

/-- A message received: its payload is written at LADDR, as far as LEN reaches, and the request completes; a message of a
KIND 5 request is applied to its future, its status in the response. -/
def epReceive (s : State) (r : EpReq) (m : EpMsg) : State :=
  match epEnd s r m with
  | (s, true) =>
    if r.kind = 5 then
      let (st, s) := applyCompletion s m
      s.send (.epStatus m.peer st)
    else s
  | (s, false) => s

/-- TRIG 1 requests fire at a matching arrival, in table order: those that send or transfer, or the others. -/
def epTrigger (sends : Bool) (s : State) (m : EpMsg) : State :=
  s.epReqs.foldl (fun s r =>
    if r.armed && !r.fired && r.trig == 1 && decide (r.kind ≤ 2) == sends && r.matches m then epFire s r else s) s

/-- A message arrives: it makes ready what waits for it and receives or forwards, is received, and fires what waits for it and
sends. -/
def epArrive (s : State) (m : EpMsg) (r : Option EpReq) : State :=
  epTrigger true ((r.map (fun r => epReceive s r m)).getD s) m

/-- FUTURE_COMPLETION_MESSAGE (R230): a message that a KIND 5 request receives. -/
def execFutureCompletionMessage (m : EpMsg) (s : State) : Outc :=
  let s' := epTrigger false s m
  match epReceiver s' m with
  | some r => if r.kind = 5 then .next (epArrive s' m (some r)) else .next s
  | none => .next s

/-- EP_MESSAGE_ARRIVAL (R227): the message is received if a KIND 3 request matches it, and fires what waits for it. -/
def execEpMessageArrival (m : EpMsg) (s : State) : Outc :=
  let s' := epTrigger false s m
  match epReceiver s' m with
  | some r => if r.kind = 3 then .next (epArrive s' m (some r)) else .next s
  | none => .next (epArrive s' m none)

/-! ### Transfers (R228, R229) -/

/-- A request has made its access of memory: it is answered "resend later" no more (R229). -/
def EpReq.accessed (r : EpReq) : Bool := r.fired && r.kind ≤ 1

/-- The end of a transfer. A read that is answered "resend later" has not happened; a send or a write whose counter has been
unmapped since it read its data stays stalled (DESIGN CHOICE, notes/assumptions/100.md). -/
def epFinish (s : State) (r : EpReq) (data : List Byte) : State :=
  match epEnd s (if r.accessed then { r with words := r.words.set 0 (putFld (r.word 0) 6 6 0) } else r)
      { tenant := r.tenant, peer := r.peer, tag := 0, data := data } with
  | (s, true) => s
  | (s, false) => if r.odp && !r.accessed then epUpd s r.id (fun x => { x with fired := false }) else s

/-- EP_TRANSFER_COMPLETE (R228). -/
def execEpTransferComplete (id : Nat) (r : Reply) (s : State) : Outc :=
  match epFind s id with
  | some q => if q.fired && q.kind ≤ 2 && q.stall.isNone && r.code = 0 then .next (epFinish s q r.data) else .next s
  | none => .next s

/-- A stalled request tries again. -/
def epRetry (s : State) (r : EpReq) : State :=
  if r.trig = 2 && !r.spent then epWatch s r
  else match r.kind, r.msg with
  | 0, some m | 1, some m | 2, some m => epFinish s r m.data
  | 3, some m | 5, some m => epReceive s r m
  | 4, _ =>
    if tqFaults s (tqDesc s r.laddr) || (epXlate s r.tenant (ctrVa s r.tenant r.ctr) .store).1.isNone then s
    else epUpd s r.id (fun x => { x with stall := none })
  | _, _ => epFire s r

/-- EP_ODP_TIMEOUT (R229): a stall ends when the page has been mapped, or after 320,000 cycles with "resend later". -/
def execEpOdpTimeout (id : Nat) (s : State) : Outc :=
  match epFind s id with
  | none => .next s
  | some r =>
    match r.stall with
    | none => .next s
    | some t =>
      let s' := epRetry s r
      if ((epFind s' id).bind (·.stall)).isNone then .next s'
      else if t + 320000 ≤ s.cycle && !r.accessed then
        .next ((epUpd s id (fun x => { x with stall := none, msg := none, fired := x.fired && 3 ≤ x.kind })).send
          (.epResend ((r.msg.map (·.peer)).getD r.peer)))
      else .next s

end Sys2Proof.Machine
end

