-- ==== Sys2Proof/Machine/Debug.lean ====
section
/-!
DEFINITION. Machine/Debug.lean: the fault chain's timeout and HEAD (13 R275), the debug window (R277 to R279), its commands
(R280 to R282) and RQFAULT.
-/
namespace Sys2Proof.Machine

/-! ### The fault chain (R275) -/

/-- FRPTR_HEAD_WRITE (R275): packets are consumed, and held notices are written. -/
def execFrptrHeadWrite (cluster level : Nat) (v : Word) (s : State) : Outc :=
  if cluExists cluster && level < 4 then
    let s := regFld s (offFRPTR cluster level) 31 0 (fld v 31 0)
    .next (frRoom s cluster)
  else .next s

/-- A freezing packet that the current level has left unconsumed for more than its bound. -/
def ackLate (s : State) (clu : Nat) : Bool :=
  let n := curLvl s clu
  (s.clu clu).freezes.any (fun f =>
    f.1 == n && (f.2.1 + 2 ^ 32 - frHead s clu n) % 2 ^ 32 < frUsed s clu n &&
    fld (regGet s (offFACKTO clu)) 31 0 < s.cycle - f.2.2)

/-- FAULT_ACK_TIMEOUT (R275): the current level declines; the next enabled one receives what it held, or the cluster halts
(R276). -/
def execFaultAckTimeout (cluster : Nat) (s : State) : Outc :=
  if ackLate s cluster then
    let n := curLvl s cluster
    let all := frPending s cluster n
    let s := s.updClu cluster (fun c => { c with freezes := c.freezes.filter (fun f => f.1 != n) })
    match frMove s cluster [] ((frLevels s cluster).drop 1) all with
    | (s, false) => .next (frRoom s cluster)
    | (s, true) => .next (cluHalt s cluster)
  else .next s

/-! ### The strand block (R278) -/

/-- STATE of a strand. -/
def Status.code : Status → Nat
  | .empty => 0 | .ready => 1 | .parked => 2 | .offrot => 3 | .frozen => 4 | .halted => 5

/-- Four lane masks from one on, 16 bits each. -/
def Strand.masks (x : Strand) (i : Nat) : Word :=
  w64 ((List.range 4).foldl (fun a j => a + (x.rK (BitVec.ofNat 3 (i + j))).toNat * 2 ^ (16 * j)) 0)

/-- A sealed batch's word: NUM, REP, DONE, STATUS. -/
def Batch.word (rep : Bool) (b : Batch) : Word :=
  w64 (b.num % 2 ^ 32 * 2 ^ 32 + b2n rep * 2 ^ 9 + b2n (b.left == 0) * 2 ^ 8 + b.status.toNat)

/-- The sealed batch that a strand block shows at a place: those not reported, oldest first, then the latest reported ones
(notes/assumptions/19.md). -/
def Strand.batchWord (x : Strand) (b : Nat) : Word :=
  match x.batches[b]? with
  | some y => y.word false
  | none => ((x.reported[b - x.batches.length]?).map (Batch.word true)).getD 0

/-- The registers of the block at 0x000 to 0x070. -/
def Strand.control (x : Strand) (o : Nat) : Word :=
  match o with
  | 0x000 => x.pc
  | 0x008 => w64 (x.status.code + x.rot % 8 * 2 ^ 4 + x.cause.toNat * 2 ^ 8)
  | 0x010 => w64 (x.p ||| 1#8).toNat
  | 0x018 => x.masks 0
  | 0x020 => x.masks 4
  | 0x028 => x.femax.zeroExtend 64
  | 0x030 => x.fpmode
  | 0x038 => x.olbase
  | 0x040 => x.olcap
  | 0x048 => x.olcnt
  | 0x050 => x.fstat
  | 0x058 => w64 (x.vbase % 2 ^ 10 + x.vcount % 2 ^ 11 * 2 ^ 10 + x.privbase % 2 ^ 18 * 2 ^ 21 + x.privlen % 2 ^ 18 * 2 ^ 39)
  | 0x060 => x.pinstr
  | 0x068 => w64 x.pwait
  | 0x070 => w64 x.pkind.toNat
  | _ => 0

/-- The word of a strand block at an offset. -/
def Strand.block (x : Strand) (o : Nat) : Word :=
  let h := x.rH (BitVec.ofNat 4 ((o - 0x300) / 16))
  if o < 0x100 then x.control o
  else if o < 0x300 then x.rS (BitVec.ofNat 6 ((o - 0x100) / 8))
  else if o < 0x400 then
    if o % 16 = 0 then w64 (b2n h.valid * 2 ^ 63 + h.pbase.toNat)
    else w64 (h.size.toNat + h.perm.toNat * 2 ^ 2 + h.attr.toNat * 2 ^ 5 + h.hva.toNat * 2 ^ 7)
  else if o = 0x400 then w64 (x.nextb % 2 ^ 32)
  else if 0x410 ≤ o ∧ o < 0x490 then x.batchWord ((o - 0x410) / 8)
  else if 0x500 ≤ o ∧ o < 0x5C0 then fget 0 x.ids (0x010 + (o - 0x500) / 8)
  else 0

/-- A field of the block written: RW fields only. A new PC leaves no withdrawn operation behind. -/
def Strand.blockPut (x : Strand) (o : Nat) (w : Word) : Strand :=
  let masks := fun (i : Nat) (x : Strand) =>
    (List.range 4).foldl (fun x j => x.wK (BitVec.ofNat 3 (i + j)) (BitVec.ofNat 16 (fld w (16 * j + 15) (16 * j)))) x
  let hn : HReg := BitVec.ofNat 4 ((o - 0x300) / 16)
  let h := x.rH hn
  if 0x100 ≤ o ∧ o < 0x300 then x.wS (BitVec.ofNat 6 ((o - 0x100) / 8)) w
  else if 0x300 ≤ o ∧ o < 0x400 then
    if o % 16 = 0 then x.wH hn { h with valid := w.getLsbD 63, pbase := BitVec.ofNat 56 (fld w 55 0) }
    else x.wH hn { h with
      size := BitVec.ofNat 2 (fld w 1 0), perm := BitVec.ofNat 3 (fld w 4 2), attr := BitVec.ofNat 2 (fld w 6 5),
      hva := BitVec.ofNat 57 (fld w 63 7) }
  else match o with
    | 0x000 => { x.clearPark with pc := w64 (w.toNat / 8 * 8), bpSkip := x.bpSkip }
    | 0x010 => { x with p := w.setWidth 8 }
    | 0x018 => masks 0 x
    | 0x020 => masks 4 x
    | 0x028 => { x with femax := w.setWidth 32 }
    | 0x030 => { x with fpmode := w &&& w64 (maskB 8 4 + maskB 1 0) }
    | 0x038 => { x with olbase := w }
    | 0x040 => { x with olcap := w64 (fld w 31 0) }
    | 0x048 => { x with olcnt := w64 (fld w 31 0) }
    | 0x050 => { x with fstat := w &&& w64 (maskB 41 32 + maskB 31 16 + maskB 8 8 + maskB 7 0) }
    | _ => x

/-! ### Commands (R280, R282) -/

def offDBGSTAT (core slot : Nat) : Nat := offDbg core + 0x1000 * slot + 0xF08

/-- A refused access or command sets ERR. -/
def dbgErr (s : State) (core slot : Nat) : State := regFld s (offDBGSTAT core slot) 1 1 1

/-- ENGBUSY: batches incomplete, the open one included, or matrix commands queued. -/
def engBusy (s : State) (core slot : Nat) : Bool :=
  let x := s.strand core slot
  let a := (s.core core).arr
  x.openb.left != 0 || x.batches.any (fun b => b.left != 0) || (a.queue ++ a.run.toList).any (fun m => m.slot == slot)

def stopped (x : Strand) : Bool := x.status == .frozen || x.status == .halted

/-- A strand waits in ICINV, which is withdrawn and issued afresh (R374). -/
def icinvWait (x : Strand) : Bool := x.phase == .access && fld x.pinstr 63 56 == 0xC6

/-- The waits that a HALT withdraws: those of PKIND 1 to 9 and the like; accesses that are under way complete (R280). -/
def withdrawable (x : Strand) : Bool :=
  match x.phase with
  | .listed | .retry | .cond | .board | .walk | .migrate | .reissue => true
  | _ => icinvWait x

/-- The waits that a Squall withdraws: those of a HALT, but for the operations that complete (R284, R343). -/
def savesWait (x : Strand) : Bool :=
  match x.phase with
  | .listed | .retry | .migrate | .reissue => true
  | .cond | .board | .walk => !completing x
  | _ => icinvWait x

/-- The copy command that a strand has parked with leaves its queue, with its scoreboard entries. -/
def dropWaiting (s : State) (core slot : Nat) : State :=
  let gone := ((s.clu (cluOfCore core)).waiting.filter (fun c => c.core == core && c.slot == slot)).flatMap (·.sbIds)
  let s := s.updClu (cluOfCore core) (fun c => { c with waiting := c.waiting.filter (fun x => !(x.core == core && x.slot == slot)) })
  s.updCore core (fun x => { x with sb := x.sb.filter (fun e => !gone.contains e.id) })

/-- A parked operation withdrawn into PINSTR, PWAIT and PKIND, to be issued afresh; the flag says that a BAR whose barrier
had completed has completed instead (R141, R280, R353). -/
def withdraw (s : State) (core slot : Nat) : State × Bool :=
  let x := s.strand core slot
  let s := dropWaiting (dropWaits { s with cur := .strand core slot } core slot) core slot
  let keep := fun s : State => s.updStrand core slot (fun y =>
    { y with status := .ready, phase := .none, pwait := if femaxBounds x then waited s x else x.pwait, pcap := [],
             pplaces := [], prel := false, ptime := 0 })
  match x.phase, decodeTile x.pinstr with
  | .listed, .ok (.bar _ sa _) | .retry, .ok (.bar _ sa _) =>
    match leaveBar s sa with
    | (s, true) => (keep s, false)
    | (s, false) => (s.updStrand core slot (fun y => { y.clearPark with status := .ready, pc := y.pc + 8#64 }), true)
  | _, _ => (keep s, false)

/-- HALT: the strand is HALTED at an instruction boundary. -/
def haltAt (s : State) (core slot : Nat) : State :=
  boundary (s.updStrand core slot (fun x => { x with haltReq := true })) core slot

/-- DBGCMD_HALT (R280). -/
def execDbgcmdHalt (core slot : Nat) (s : State) : Outc :=
  let x := s.strand core slot
  match x.status with
  | .ready => .next (haltAt s core slot)
  | .offrot => .next (s.setStrand core slot { x with haltReq := true })
  | .parked =>
    if withdrawable x then .next (haltAt (withdraw s core slot).1 core slot)
    else .next (s.setStrand core slot { x with haltReq := true })
  | _ => .next (dbgErr s core slot)

/-- DBGCMD_RESUME (R280). -/
def execDbgcmdResume (core slot : Nat) (s : State) : Outc :=
  if stopped (s.strand core slot) then .next (resume s core slot) else .next (dbgErr s core slot)

/-- DBGCMD_STEP (R282). -/
def execDbgcmdStep (core slot : Nat) (s : State) : Outc :=
  if (s.strand core slot).status = .halted then
    .next ((resume s core slot).updStrand core slot (fun x => { x with stepping := true }))
  else .next (dbgErr s core slot)

/-- What a RESTART or KILL does to the engine work of a strand (R280, R266): its commands that have not started go, and the
rest of its gang is told. -/
def dropWork (s : State) (core slot : Nat) (t : Task) : State :=
  let s := if t.ring then pairAbort s core t else s
  let s := dropCopies s core slot true
  if t.mxa then
    s.updCore core (fun x => { x with sb := x.sb.filter (fun e => !(x.arr.dropIds.contains e.id)), arr := x.arr.drop })
  else s

/-- The strand of a restarted task (R280, R34): an earlier TRIG stays counted. -/
def restartStrand (x : Strand) (t : Task) : Strand :=
  { Strand.init with
    status := .parked, phase := .restart, pc := t.entry, s := [(1, t.arg), (61, w64 (2 ^ 60 + x.privlen))], ids := x.ids,
    femax := t.femax0, task := some t }

/-- DBGCMD_RESTART (R280). -/
def execDbgcmdRestart (core slot : Nat) (s : State) : Outc :=
  let x := s.strand core slot
  match stopped x, x.task with
  | true, some t =>
    let s := orphan (dropWork s core slot t) core slot
    let s := slotMended (clearWindow s core x.vbase x.vcount) core slot
    .next (restartEnd (s.setStrand core slot (restartStrand x t)) core slot)
  | _, _ => .next (dbgErr s core slot)

/-- DBGCMD_KILL (R280). -/
def execDbgcmdKill (core slot : Nat) (s : State) : Outc :=
  let x := s.strand core slot
  match stopped x, x.task with
  | true, some _ => .next (taskEnd s core slot true)
  | _, _ => .next (dbgErr s core slot)

/-- RQFAULT_WRITE (R280): a per-request fault with the info word of the strand's current fault. -/
def execRqfaultWrite (core slot : Nat) (v : Word) (s : State) : Outc :=
  let x := s.strand core slot
  let code := fld v 7 0
  if code = 0 || 0x1D < code || (slotReq s (fld v 27 16)).isNone then .next (dbgErr s core slot)
  else .next (slotFault s (fld v 27 16) code (if x.status = .frozen then x.info else 0))

/-- A write to DBGCMD: a command, or nothing. -/
def dbgCommand (core slot : Nat) (v : Word) (s : State) : Outc :=
  match fld v 2 0 with
  | 1 => execDbgcmdHalt core slot s
  | 2 => execDbgcmdResume core slot s
  | 3 => execDbgcmdStep core slot s
  | 4 => execDbgcmdRestart core slot s
  | 5 => execDbgcmdKill core slot s
  | _ => .next s

end Sys2Proof.Machine
end

