-- ==== Sys2Proof/Machine/Csr.lean ====
section
/-!
DEFINITION. Machine/Csr.lean: the control and status registers of an application hart, the traps it takes and the returns from
them: Xkwedar's own (05 R116 to R118), and those of the RISC-V privileged architecture that R116 names (RVA23S64 with the H
extension; notes/assumptions/12.md, PRESUMED).
-/
namespace Sys2Proof.Machine

/-! ### Traps -/

/-- The causes whose trap value is an address. -/
def addressCause (cause : Word) : Bool := [0, 1, 3, 4, 5, 6, 7, 12, 13, 15, 20, 21, 23, 24].contains cause.toNat

/-- The address a trap goes to: in vectored mode an interrupt adds four times its number. -/
def trapVector (tvec cause : Word) : Word :=
  w64 (tvec.toNat / 4 * 4 + (if tvec.getLsbD 0 && cause.getLsbD 63 then 4 * fld cause 5 0 else 0))

/-- A status word at a trap: xPIE takes xIE, xIE is cleared, and xPP holds the mode. -/
def statusIn (st ie pie ppHi ppLo priv : Nat) : Nat :=
  putBits (putBits (putBits st pie pie (bitsN st ie ie)) ie ie 0) ppHi ppLo priv

/-- Where a trap is taken: machine, hypervisor-extended supervisor, or virtual supervisor. -/
inductive TrapTo where
  | m | hs | vs
  deriving DecidableEq, Repr

/-- The mode that takes a trap: delegated by medeleg or mideleg, then by hedeleg or hideleg. -/
def Hart.trapTo (h : Hart) (cause : Word) : TrapTo :=
  let n := fld cause 5 0
  let irq := cause.getLsbD 63
  if h.priv = 3 || !(h.rCsr (if irq then 0x303 else 0x302)).getLsbD n then .m
  else if h.virt && (h.rCsr (if irq then 0x603 else 0x602)).getLsbD n then .vs
  else .hs

/-- TAKING A TRAP ON A HART: SBX is copied to PSBX and cleared (R118); then the trap entry of the RISC-V privileged
architecture. `gpa` is a guest page fault's address, and `gv` says that the trap value is a guest's virtual address. -/
def Hart.trapAt (h : Hart) (cause tval gpa : Word) (gv : Bool) : Hart :=
  let dest := h.trapTo cause
  let h := { h with psbx := h.sbx, sbx := false }
  let ms := (h.rCsr 0x300).toNat
  match dest with
  | .m =>
    let ms' := putBits (putBits (statusIn ms 3 7 12 11 h.priv) 39 39 (b2n h.virt)) 38 38 (b2n gv)
    let h := ((((h.wCsr 0x341 h.pc).wCsr 0x342 cause).wCsr 0x343 tval).wCsr 0x300 (w64 ms')).wCsr 0x34B (w64 (gpa.toNat / 4))
    { h with priv := 3, virt := false, pc := trapVector (h.rCsr 0x305) cause }
  | .vs =>
    let vs' := statusIn (h.rCsr 0x200).toNat 1 5 8 8 h.priv
    let c := if cause.getLsbD 63 then cause - 1#64 else cause
    let h := (((h.wCsr 0x241 h.pc).wCsr 0x242 c).wCsr 0x243 tval).wCsr 0x200 (w64 vs')
    { h with priv := 1, pc := trapVector (h.rCsr 0x205) c }
  | .hs =>
    let hs := (h.rCsr 0x600).toNat
    let hs := putBits (putBits hs 6 6 (b2n gv)) 7 7 (b2n h.virt)
    let hs' := if h.virt then putBits hs 8 8 h.priv else hs
    let h := (((h.wCsr 0x141 h.pc).wCsr 0x142 cause).wCsr 0x143 tval).wCsr 0x300 (w64 (statusIn ms 1 5 8 8 h.priv))
    let h := (h.wCsr 0x600 (w64 hs')).wCsr 0x643 (w64 (gpa.toNat / 4))
    { h with priv := 1, virt := false, pc := trapVector (h.rCsr 0x105) cause }

/-- A trap with no guest physical address. -/
def Hart.trap (h : Hart) (cause tval : Word) : Hart := h.trapAt cause tval 0 (h.virt && addressCause cause)

/-- The trap of the hart whose instruction this is. -/
def hartTrap (s : State) (cause tval : Word) : State := s.setHart s.hartId (s.myHart.trap cause tval)

/-! ### Returns -/

/-- RETURNING FROM A TRAP: SRET to U-mode sets SBX from PSBX (R118); the rest is the RISC-V SRET. -/
def Hart.sret (h : Hart) : Hart :=
  let st := if h.virt then 0x200 else 0x300
  let v := (h.rCsr st).toNat
  let spp := bitsN v 8 8
  let v' := putBits (putBits (putBits v 1 1 (bitsN v 5 5)) 5 5 1) 8 8 0
  let v' := if h.virt then v' else putBits v' 17 17 0
  let pc := if h.virt then h.rCsr 0x241 else h.rCsr 0x141
  let virt := h.virt || (h.rCsr 0x600).getLsbD 7
  let h := h.wCsr st (w64 v')
  let h := if h.virt then h else h.wCsr 0x600 (w64 (putBits (h.rCsr 0x600).toNat 7 7 0))
  { h.goes pc with priv := spp, virt := virt, sbx := if spp = 0 then h.psbx else h.sbx }

/-- MRET on a hart. -/
def Hart.mret (h : Hart) : Hart :=
  let v := (h.rCsr 0x300).toNat
  let mpp := bitsN v 12 11
  let v' := putBits (putBits (putBits (putBits v 3 3 (bitsN v 7 7)) 7 7 1) 12 11 0) 39 39 0
  let v' := if mpp = 3 then v' else putBits v' 17 17 0
  { (h.wCsr 0x300 (w64 v')).goes (h.rCsr 0x341) with priv := mpp, virt := bitN v 39 && mpp != 3 }

/-- The SRET word of the RISC-V privileged architecture. -/
def sretWord : W32 := 0x10200073#32

/-- A virtual-instruction exception. -/
def xVirtual : Word := 22

/-- Whether SRET is an illegal instruction, or a virtual one, in a hart's mode. -/
def Hart.sretTrap (h : Hart) : Option Word :=
  if h.virt then (if h.priv = 0 || (h.rCsr 0x600).getLsbD 22 then some xVirtual else none)
  else if h.priv = 0 || (h.priv = 1 && (h.rCsr 0x300).getLsbD 22) then some xIllegal
  else none

/-! ### The registers -/

/-- The writable bits of mstatus, and those of them that sstatus shows. -/
def mstatusMask : Nat := maskB 1 1 + maskB 3 3 + maskB 5 5 + maskB 14 7 + maskB 22 17 + maskB 39 38
def sstatusMask : Nat := maskB 1 1 + maskB 5 5 + maskB 10 8 + maskB 14 13 + maskB 19 18

/-- A number's bits under a mask replaced. -/
def mergeN (mask old v : Nat) : Nat := old - (old &&& mask) + (v &&& mask)

/-- A status word as it reads: SD with a dirty FS or VS, and the fixed XLEN fields. -/
def statusOut (st fixed : Nat) : Word :=
  w64 ((st ||| fixed) + (if bitsN st 14 13 = 3 ∨ bitsN st 10 9 = 3 then 2 ^ 63 else 0))

/-- The interrupts that HS-mode, and that VS-mode, may be given. -/
def hsInts : Nat := 0x2222
def vsInts : Nat := 0x444

/-- time as a mode reads it. -/
def Hart.time (h : Hart) (s : State) (virt : Bool) : Word := w64 (ccnt s) + (if virt then h.rCsr 0x605 else 0#64)

/-- The pending interrupts: what software has set, and the supervisor timers (Sstc). -/
def Hart.mip (h : Hart) (s : State) : Nat :=
  let sw := (h.rCsr 0x344).toNat ||| (h.rCsr 0x645).toNat
  let st := (h.rCsr 0x30A).getLsbD 63
  let timer := fun (on : Bool) (cmp t : Word) (i : Nat) => if on && cmp ≤ t then 2 ^ i else 0
  sw ||| timer st (h.rCsr 0x14D) (h.time s false) 5 ||| timer (st && (h.rCsr 0x60A).getLsbD 63) (h.rCsr 0x24D) (h.time s true) 6

/-- mideleg as it reads with the H extension. -/
def Hart.mideleg (h : Hart) : Nat := (h.rCsr 0x303).toNat ||| 0x1444

/-- The capability register that a CSR number from 0x5C0 shows, one word of it (R117). -/
def Hart.capWord (h : Hart) (n : Nat) : Word :=
  let c := fget .null h.caps ((n - 0x5C0) / 4)
  match n % 4 with
  | 0 => c.base
  | 1 => c.length
  | 2 => w64 (b2n c.sealed * 16 + c.perm.toNat)
  | _ => 0

/-- That word written: its reserved bits stay zero (R117). -/
def Hart.putCapWord (h : Hart) (n : Nat) (v : Word) : Hart :=
  let i := (n - 0x5C0) / 4
  let c := fget .null h.caps i
  let c' := match n % 4 with
    | 0 => { c with base := v }
    | 1 => { c with length := v }
    | 2 => { c with sealed := v.getLsbD 4, perm := v.setWidth 4 }
    | _ => c
  { h with caps := fset h.caps i c' }

/-- A feature that menvcfg enables and, for a guest, henvcfg too; without the first the second reads as zero. -/
def Hart.envBit (h : Hart) (virt : Bool) (i : Nat) : Bool := (h.rCsr 0x30A).getLsbD i && (!virt || (h.rCsr 0x60A).getLsbD i)

/-- What a CSR reads as. -/
def Hart.readCsr (h : Hart) (s : State) (hart n : Nat) : Word :=
  if 0x5C0 ≤ n ∧ n < 0x600 then h.capWord n
  else match n with
    | 0x001 => w64 (fld (h.rCsr 3) 4 0)
    | 0x002 => w64 (fld (h.rCsr 3) 7 5)
    | 0x009 => w64 (fld (h.rCsr 15) 0 0)
    | 0x00A => w64 (fld (h.rCsr 15) 2 1)
    | 0x100 => statusOut ((h.rCsr 0x300).toNat &&& sstatusMask) (2 ^ 33)
    | 0x104 => w64 ((h.rCsr 0x304).toNat &&& h.mideleg &&& hsInts)
    | 0x144 => w64 (h.mip s &&& h.mideleg &&& hsInts)
    | 0x200 => statusOut (h.rCsr 0x200).toNat (2 ^ 33)
    | 0x204 => w64 (((h.rCsr 0x304).toNat &&& (h.rCsr 0x603).toNat &&& vsInts) / 2)
    | 0x244 => w64 ((h.mip s &&& (h.rCsr 0x603).toNat &&& vsInts) / 2)
    | 0x300 => statusOut (h.rCsr 0x300).toNat (2 ^ 33 + 2 ^ 35)
    | 0x301 => 0x80000000003411AF#64
    | 0x303 => w64 h.mideleg
    | 0x344 => w64 (h.mip s)
    | 0x600 => h.rCsr 0x600 ||| 0x200000000#64
    | 0x60A => h.rCsr 0x60A &&& (h.rCsr 0x30A ||| w64 (2 ^ 61 - 1))
    | 0x604 => w64 ((h.rCsr 0x304).toNat &&& 0x1444)
    | 0x644 => w64 (h.mip s &&& 0x1444)
    | 0x9C0 => w64 (b2n h.psbx * 2 + b2n h.sbx)
    | 0x9C2 => w64 (fld h.kwtenant 5 0)
    | 0xB00 | 0xC00 => w64 s.cycle + h.rCsr 0xB00
    | 0xC01 => h.time s h.virt
    | 0xC02 => h.rCsr 0xB02
    | 0xC22 => 32
    | 0xF14 => w64 hart
    | n => if 0xC03 ≤ n ∧ n < 0xC20 then h.rCsr (n - 0x100) else h.rCsr n

/-- A page-table base of a supported mode; any other write is ignored. -/
def atpOk (v : Word) : Bool := [0, 8, 9, 10].contains (fld v 63 60)

/-- The writable bits of the registers that have no more to them. -/
def csrMask (n : Nat) : Nat :=
  match n with
  | 0x003 => 0xFF
  | 0x008 => 0xFF
  | 0x00F => 7
  | 0x105 | 0x205 | 0x305 => 2 ^ 64 - 3
  | 0x141 | 0x241 | 0x341 => 2 ^ 64 - 2
  | 0x106 | 0x306 | 0x606 => 0xFFFFFFFF
  | 0x10A => 0xF1 + 2 ^ 33 + 2 ^ 32
  | 0x30A | 0x60A => 0xF1 + 2 ^ 33 + 2 ^ 32 + 7 * 2 ^ 61
  | 0x302 => 0x1FCB7FF
  | 0x602 => 0x108B1FF
  | 0x303 => hsInts
  | 0x603 => vsInts
  | 0x304 => 0x3FFE
  | 0x344 => hsInts
  | 0x645 => vsInts
  | 0x320 => 0xFFFFFFFD
  | 0x30C | 0x60C => 2 ^ 63 + 2 ^ 62
  | 0x600 => maskB 9 6 + maskB 22 20
  | 0x747 => 2 ^ 33 + 2 ^ 32
  | n =>
    if (0x3A0 ≤ n ∧ n < 0x3F0) ∨ (0x10C ≤ n ∧ n < 0x110) ∨ (0x30D ≤ n ∧ n < 0x310) ∨ (0x60D ≤ n ∧ n < 0x610) ∨ n = 0x607 ∨
      n = 0x34A ∨ n = 0x64A ∨ n = 0x301 then 0
    else 2 ^ 64 - 1

/-- A CSR written. -/
def Hart.writeCsr (h : Hart) (s : State) (n : Nat) (v : Word) : Hart :=
  let w := v.toNat
  let put := fun (n mask val : Nat) => h.wCsr n (w64 (mergeN mask (h.rCsr n).toNat val))
  if 0x5C0 ≤ n ∧ n < 0x600 then h.putCapWord n v
  else match n with
    | 0x001 => put 3 0x1F w
    | 0x002 => put 3 0xE0 (w * 32)
    | 0x009 => put 15 1 w
    | 0x00A => put 15 6 (w * 2)
    | 0x100 => put 0x300 sstatusMask w
    | 0x200 => put 0x200 sstatusMask w
    | 0x300 => put 0x300 (if bitsN w 12 11 = 2 then mstatusMask - maskB 12 11 else mstatusMask) w
    | 0x104 => put 0x304 (h.mideleg &&& hsInts) w
    | 0x144 => put 0x344 (h.mideleg &&& 0x2002) w
    | 0x204 => put 0x304 ((h.rCsr 0x603).toNat &&& vsInts) (w * 2)
    | 0x244 => put 0x645 ((h.rCsr 0x603).toNat &&& 4) (w * 2)
    | 0x604 => put 0x304 0x1444 w
    | 0x644 => put 0x645 4 w
    | 0x180 | 0x280 => if atpOk v then h.wCsr n v else h
    | 0x680 => if atpOk v then h.wCsr n (w64 (w &&& (maskB 63 60 + maskB 57 44 + maskB 43 2))) else h
    | 0x9C0 => { h with psbx := v.getLsbD 1 }
    | 0x9C2 => { h with kwtenant := w64 (fld v 5 0) }
    | 0xB00 => h.wCsr 0xB00 (v - w64 s.cycle)
    | n => put n (csrMask n) w

/-- The register that a number names in a mode: in VS-mode a supervisor register that has a VS copy is that copy. -/
def Hart.csrOf (h : Hart) (n : Nat) : Nat :=
  if h.virt && ([0x100, 0x104, 0x105, 0x14D, 0x180].contains n || (0x140 ≤ n && n < 0x145)) then n + 0x100 else n

/-- The CSR numbers that exist. -/
def csrKnown (n : Nat) : Bool :=
  [0x1, 0x2, 0x3, 0x8, 0x9, 0xA, 0xF, 0xC20, 0xC21, 0xC22, 0x100, 0x104, 0x105, 0x106, 0x10A, 0x14D, 0x180, 0xDA0,
   0x200, 0x204, 0x205, 0x24D, 0x280, 0x600, 0x602, 0x603, 0x604, 0x605, 0x606, 0x607, 0x60A, 0x643, 0x644, 0x645, 0x64A, 0x680, 0xE12,
   0x34A, 0x34B, 0x30A, 0x320, 0x747, 0xB00].contains n ||
  (0xC00 ≤ n && n < 0xC20) || (0x10C ≤ n && n < 0x110) || (0x140 ≤ n && n < 0x145) || (0x240 ≤ n && n < 0x245) ||
  (0x60C ≤ n && n < 0x610) || (0x300 ≤ n && n < 0x307) || (0x30C ≤ n && n < 0x310) || (0x323 ≤ n && n < 0x345) ||
  (0x3A0 ≤ n && n < 0x3B0 && n % 2 == 0) || (0x3B0 ≤ n && n < 0x3F0) || (0xB02 ≤ n && n < 0xB20) || (0xF11 ≤ n && n < 0xF16) ||
  (0x5C0 ≤ n && n < 0x600) || (0x9C0 ≤ n && n < 0x9C3)

/-- A status field (FS at 13, VS at 9) that is off makes its unit's instructions and registers illegal. -/
def Hart.unitOff (h : Hart) (lo : Nat) : Bool :=
  fld (h.rCsr 0x300) (lo + 1) lo == 0 || (h.virt && fld (h.rCsr 0x200) (lo + 1) lo == 0)

/-- That field set dirty, in the guest's status too. -/
def Hart.dirtied (h : Hart) (lo : Nat) : Hart :=
  let put := fun (h : Hart) (c : Nat) => h.wCsr c (putFld (h.rCsr c) (lo + 1) lo 3)
  if h.virt then put (put h 0x300) 0x200 else put h 0x300

/-- The unit whose state a CSR is: FS 13, VS 9. -/
def csrUnit (n : Nat) : Option Nat :=
  if 1 ≤ n ∧ n ≤ 3 then some 13
  else if n = 8 ∨ n = 9 ∨ n = 10 ∨ n = 15 ∨ (0xC20 ≤ n ∧ n < 0xC23) then some 9
  else none

/-- The exception that an access to a CSR raises in a hart's mode, if any. -/
def Hart.csrTrap (h : Hart) (n : Nat) (write : Bool) : Option Word :=
  let ill := some xIllegal
  let guest := if h.virt then some xVirtual else ill
  let on := fun (c i : Nat) => (h.rCsr c).getLsbD i
  if !csrKnown n || (write && n / 1024 = 3) then ill
  else if n / 256 % 4 = 3 && h.priv ≠ 3 then ill
  else if n / 256 % 4 = 2 && (h.virt || h.priv = 0) then guest
  else if n / 256 % 4 = 1 && h.priv = 0 then guest
  else if (n = 0x180 && !h.virt || n = 0x680) && h.priv = 1 && on 0x300 20 then ill
  else if n = 0x180 && h.virt && on 0x600 20 then guest
  else if (csrUnit n).any h.unitOff then ill
  else if 0xC00 ≤ n ∧ n < 0xC20 ∧ h.priv ≠ 3 then
    (if !on 0x306 (n % 32) then ill
     else if (h.virt && !on 0x606 (n % 32)) || (h.priv = 0 && !on 0x106 (n % 32)) then guest
     else none)
  else if (n = 0x14D ∨ n = 0x24D) ∧ h.priv ≠ 3 then
    (if !on 0x306 1 || !on 0x30A 63 then ill
     else if h.virt && (!on 0x606 1 || !on 0x60A 63) then guest
     else none)
  else if ((0x10C ≤ n ∧ n < 0x110) ∨ (0x60C ≤ n ∧ n < 0x610)) ∧ h.priv ≠ 3 then
    (if !on (0x30C + n % 4) 63 then ill else if h.virt && !on (0x60C + n % 4) 63 then guest else none)
  else if (n = 0x10A ∨ n = 0x60A) ∧ h.priv ≠ 3 then
    (if !on 0x30C 62 then ill else if h.virt && !on 0x60C 62 then guest else none)
  else none

/-! ### Interrupts -/

/-- The interrupt that a hart takes before its next instruction: pending, enabled, and not masked by the mode that takes it;
the standard priority. -/
def Hart.irq (h : Hart) (s : State) : Option Nat :=
  let go := h.mip s &&& (h.rCsr 0x304).toNat
  [11, 3, 7, 9, 1, 5, 12, 10, 2, 6, 13].find? fun n =>
    bitN go n &&
    (if !bitN h.mideleg n then h.priv ≠ 3 || (h.rCsr 0x300).getLsbD 3
     else if (h.rCsr 0x603).getLsbD n then h.virt && (h.priv = 0 || (h.rCsr 0x200).getLsbD 1)
     else h.priv ≠ 3 && (h.virt || h.priv = 0 || (h.rCsr 0x300).getLsbD 1))

end Sys2Proof.Machine
end

