-- ==== Sys2Proof/Machine/Squall.lean ====
section
/-!
DEFINITION. Machine/Squall.lean: Squalls (13 R283 to R287; 12 R268): SAVE, its drain, the save area, RESTORE; and the debug
window (13 R277, R279).
-/
namespace Sys2Proof.Machine

/-! ### SAVE (R283, R284) -/

/-- A core on which the save may not begin: one of its strands is FROZEN (R284 step 1). -/
def hasFrozen (s : State) (core : Nat) : Bool := (List.range 8).any (fun n => (s.strand core n).status == .frozen)

/-- SQCMD_SAVE (R283): on every core of an established ring or pair. -/
def execSqcmdSave (core who : Nat) (s : State) : Outc :=
  let cs := squallCores s core
  if coreExists core && cs.all (fun c => !(s.core c).sqBusy && !(s.core c).sqSaved) then
    let defer := cs.any (hasFrozen s)
    .next (cs.foldl (fun s c => s.updCore c (fun x =>
      { x with sqBusy := true, sqCmd := 1, sqWho := who % 4, sqDone := false, sqDefer := defer, sqSince := s.cycle })) s)
  else .next s

/-- FENCE and REL. -/
def isFenceRel (i : Instr) : Bool :=
  match i with
  | .fence _ _ | .rel _ _ => true
  | _ => false

/-- A FENCE or REL that waits on side-log entries is withdrawn; every other release completes (R366, R414). -/
def releaseOnLog (s : State) (core slot : Nat) : Bool :=
  let x := s.strand core slot
  x.phase == .release && x.ptime == 0 && (match decodeTile x.pinstr with
    | .ok i => isFenceRel i
    | .error _ => false) &&
    (s.clu (cluOfCore core)).sidelog.any (fun e => e.core == core && e.slot == slot && !e.gone)

/-- The copy command that a strand has parked with, its scoreboard entries made, is saved with it (R201, R286). -/
def boardedCopy (s : State) (core slot : Nat) : Bool :=
  (s.clu (cluOfCore core)).waiting.any (fun c => c.core == core && c.slot == slot && c.boarded)

/-- A strand's issued work has drained (R284 steps 2 and 3): it is not parked, or its wait is withdrawn or saved. One that waits
for commands that a part of its gang keeps from running is withdrawn too. -/
def strandDrained (s : State) (core slot : Nat) : Bool :=
  let x := s.strand core slot
  (x.status != .parked || savesWait x || releaseOnLog s core slot || boardedCopy s core slot ||
    (x.phase == .board && ringStuck s core)) &&
  !(x.status == .ready && completing x) &&
  !(s.posted.any (fun p => p.core == core && p.slot == slot)) && !(s.fabTx.any (fun t => t.owner == (core, slot)))

/-- The step in flight of a core's gang can still commit: every core of the gang has begun it (R268). -/
def ringInFlight (s : State) (core : Nat) : Bool :=
  (gangCores s core).all (fun c => ((s.core c).arr.run.map (·.rings)).getD false)

/-- A core's array has drained: nothing is in execution but a ring step that no longer can commit, and no vector drain is
queued (R284, R268, R394). -/
def arrayDrained (s : State) (core : Nat) : Bool :=
  let a := (s.core core).arr
  (match a.run with
    | none => true
    | some m => m.rings && !ringInFlight s core) && (ringStuck s core || !(a.queue.any (·.vdst.isSome)))

/-- A core's work has drained, and no core of its ring waits for a command that needs this one's array (R268). -/
def coreDrained (s : State) (core : Nat) : Bool :=
  (List.range 8).all (strandDrained s core) && arrayDrained s core && !((squallCores s core).any (squallWants s)) &&
  !((s.clu (cluOfCore core)).copies.any (fun c => c.core == core)) &&
  (s.core core).raq.all (fun q => q.2.all (·.arrived))

/-! ### The save area (R285, R286) -/

def saveBase (s : State) (core : Nat) : Nat := fld (regGet s (offSQADDR core)) 55 12 * 4096
def saveBytes : Nat := 176128

/-- The offsets of the words of a strand block. -/
def blockOffs : List Nat :=
  (List.range 15).map (fun i => 8 * i) ++ (List.range 64).map (fun i => 0x100 + 8 * i) ++
  (List.range 32).map (fun i => 0x300 + 8 * i) ++ 0x400 :: (List.range 16).map (fun i => 0x410 + 8 * i) ++
  (List.range 24).map (fun i => 0x500 + 8 * i)

/-- The word of a saved strand block: PBASE is written as zero. -/
def Strand.saveWord (x : Strand) (o : Nat) : Word :=
  if 0x300 ≤ o ∧ o < 0x400 ∧ o % 16 = 0 then x.block o &&& (1#64 <<< 63) else x.block o

/-- The word of a strand block at an offset, id.step among them (R23, R278). -/
def blockWord (s : State) (x : Strand) (o : Nat) : Word := if o = 0x578 then w64 (stepId s x) else x.block o

/-- A strand block in the save area. -/
def blockArea (s : State) (slot : Nat) (x : Strand) : List (Nat × List Byte) :=
  blockOffs.map (fun o => (0x11000 + 0x1000 * slot + o, toBytes 8 (if o = 0x578 then stepId s x else (x.saveWord o).toNat)))

/-- A run-ahead queue entry's 128 bytes. -/
def RaEntry.bytes (e : RaEntry) : List Byte :=
  toBytes 64 e.data.toNat ++ toBytes 8 (e.code.toNat + e.peer % 1024 * 2 ^ 32 + 2 ^ 48 + e.tenant % 64 * 2 ^ 49)

/-- VALID and HVA of the handle an operand was captured from. -/
def CopyEnd.saved : CopyEnd → Nat
  | .page _ f _ _ => b2n f.valid * 2 ^ 63 + f.hva.toNat
  | _ => 0
def CopyEnd.isPage : CopyEnd → Bool
  | .page _ _ _ _ => true
  | _ => false

/-- A saved copy command (R286): one of the time-sorted buffer, or one parked for a place. -/
def CopyCmd.saveBytes (c : CopyCmd) (parked : Bool) : List Byte :=
  toBytes 64 c.shape.toNat ++ toBytes 8 c.dptr.toNat ++ toBytes 8 c.sptr.toNat ++ toBytes 8 c.dst.saved ++
  toBytes 8 c.src.saved ++
  toBytes 8 (c.slot % 8 + b2n c.dst.isPage * 2 ^ 3 + b2n c.src.isPage * 2 ^ 4 + b2n parked * 2 ^ 5 +
    c.batch.getD 0 % 2 ^ 32 * 2 ^ 32)

/-- MSTEP of an array (R267). -/
def MArray.mstep (a : MArray) : Nat :=
  a.steps % 2 ^ 32 + a.latch.lty.toNat * 2 ^ 32 + a.ring % 4 * 2 ^ 36 + b2n (!a.queue.isEmpty || a.run.isSome) * 2 ^ 38

/-- The array's part of the save area. -/
def arrayArea (a : MArray) : List (Nat × List Byte) :=
  (0x100, toBytes 8 a.mstep) ::
  ((a.queue.take 16).mapIdx (fun k m => (0x200 + 32 * k, toBytes 8 m.word.toNat ++
    (List.range 3).flatMap (fun j => toBytes 8 (m.ops.getD j 0).toNat)))) ++
  a.latch.scales.map (fun r => (0x400 + 64 * r.1, toBytes 64 r.2.toNat)) ++
  a.acc.map (fun c => (0x1000 + 256 * (c.1 / 64) + 4 * (c.1 % 64), toBytes 4 c.2.toNat)) ++
  a.latch.rows.map (fun r => (0x5000 + 64 * r.1, toBytes 64 r.2.toNat)) ++
  ((a.incoming.map (·.rows)).getD []).map (fun r => (0x9000 + 64 * r.1, toBytes 64 r.2.toNat))

/-- What a core's save area holds, piece by piece; every other byte of it is zero. -/
def saveArea (s : State) (core : Nat) (v : Saved) (vregs : FMap VReg) : List (Nat × List Byte) :=
  let copies := v.timed.map (·.saveBytes false) ++ v.parked.map (·.saveBytes true)
  let mask := v.tasks.foldl (fun m e => m + 2 ^ e.1) 0
  [(0, toBytes 8 (1 + core * 2 ^ 16)), (8, toBytes 8 (ccnt s)), (16, toBytes 8 mask), (24, toBytes 8 (s.core core).sqWho),
    (32, toBytes 8 copies.length)] ++
  (match v.arr with
    | some a => arrayArea a
    | none => []) ++
  v.raq.flatMap (fun q => q.2.mapIdx (fun e x => (0xD000 + 0x1000 * q.1 + 128 * e, x.bytes))) ++
  v.tasks.flatMap (fun e => blockArea s e.1 e.2) ++
  v.tasks.flatMap (fun e => (List.range e.2.vcount).map (fun n =>
    (0x19000 + 64 * (e.2.vbase + n), toBytes 64 (fget 0#512 vregs (e.2.vbase + n)).toNat))) ++
  copies.mapIdx (fun k b => (0x23000 + 128 * k, b))

/-- The save area written. -/
def writeArea (s : State) (base : Nat) (ps : List (Nat × List Byte)) : State :=
  ps.foldl (fun s p => cohWrite s (base + p.1) p.2) (cohWrite s base (List.replicate saveBytes 0))

/-! ### SAVE completes (R284) -/

/-- A strand's wait withdrawn for a save: a parked one is saved PARKED. One parked with a copy command that has its scoreboard
entries is saved as it waits. -/
def saveStrand (s : State) (core slot : Nat) : State :=
  if (s.strand core slot).status = .parked && !boardedCopy s core slot then
    match withdraw s core slot with
    | (s, true) => s
    | (s, false) => s.updStrand core slot (fun x => { x with status := .parked, prel := false, ptime := 0 })
  else s

/-- The array as it is saved: a ring step that has not committed is the oldest queued command again (R268). -/
def MArray.toSave (a : MArray) : MArray := { a.fresh with queue := a.run.toList ++ a.queue, run := none, done := false }

/-- The context that a core's save keeps. The commands that an exited strand left stay in the cluster's engine (R201). -/
def saveContext (s : State) (core : Nat) : Saved :=
  let x := s.core core
  let timed := (s.clu (cluOfCore core)).timed.filter (fun c => c.core == core && c.batch.isSome)
  let arr := x.arr.toSave
  let parked := (s.clu (cluOfCore core)).waiting.filter (fun c => c.core == core)
  let ids := timed.flatMap (·.sbIds) ++ parked.flatMap (·.sbIds) ++ arr.queue.flatMap (·.sbIds)
  { tasks := (List.range 8).filterMap (fun n =>
      let y := s.strand core n
      y.task.map (fun t => (n, { y with task := some { t with started := s.cycle - t.started } }))),
    arr := if (arrayOwner s core).isSome then some arr else none,
    timed := timed, sb := x.sb.filter (fun e => ids.contains e.id), raq := x.raq, parked := parked, holds := [] }

/-- A drained core saved: the waits withdrawn, the area written, a release at .sys, the units freed. -/
def saveCore (s : State) (core : Nat) : State :=
  let clu := cluOfCore core
  let s := (List.range 8).foldl (fun s n => saveStrand s core n) s
  let v := saveContext s core
  let s := writeArea s (saveBase s core) (saveArea s core v (s.core core).v)
  let s := publish (cpFlush s clu) (ccnt s + 128) (scopeInsts .sys (dieOfClu clu))
  let s := s.updClu clu (fun c =>
    { c with
      timed := c.timed.filter (fun x => !(x.core == core && x.batch.isSome)), waiting := c.waiting.filter (fun x => x.core != core),
      sidelog := c.sidelog.map (fun e => if e.core = core ∧ e.slot < 8 ∧ !e.gone then { e with slot := e.slot + 16 } else e) })
  let s := (List.range 8).foldl (fun s n => s.setStrand core n .init) s
  s.updCore core (fun x =>
    let arr := { x.arr with queue := [], run := none, done := false, ring := 0, incoming := none }
    { x with
      arr := arr.reshadow, raq := [], sb := x.sb.filter (fun e => !(v.sb.any (fun f => f.id == e.id))),
      saved := v, sqSaved := true, sqDone := true, sqBusy := false, sqDefer := false })

/-- SQUALL_SAVE_COMPLETE (R284): a deferred SAVE goes on once no strand is FROZEN; a drained core is saved. -/
def execSquallSaveComplete (core : Nat) (s : State) : Outc :=
  let x := s.core core
  let cs := squallCores s core
  if x.sqBusy && x.sqCmd == 1 then
    if x.sqDefer then
      if cs.any (hasFrozen s) then .next s
      else .next (cs.foldl (fun s c => s.updCore c (fun x => { x with sqDefer := false })) s)
    else if coreDrained s core then .next (saveCore s core) else .next s
  else .next s

/-! ### RESTORE (R287) -/

/-- The units that a RESTORE holds: the slots, vector registers and array that the saved tasks need (R45). -/
def restoreFix (s : State) (core : Nat) : List Hold :=
  let tasks := (s.core core).saved.tasks
  let vs := fixRanges (roomOf s core (restoreHolds s)).v (tasks.map (fun e => e.2.vcount / 8))
  tasks.mapIdx (fun i e =>
    { core := core, slot := e.1, v := vs.getD i (0, 0), g := (0, 0), c := (0, 0), m := (e.2.task.map (·.mxa)).getD false })

/-- SQCMD_RESTORE (R287). -/
def execSqcmdRestore (core : Nat) (s : State) : Outc :=
  let x := s.core core
  if x.sqSaved && !x.sqBusy then
    let hs := restoreFix s core
    .next (s.setCore core
      { x with sqBusy := true, sqCmd := 2, sqDone := false, sqDefer := false, saved := { x.saved with holds := hs } })
  else .next s

/-- Every unit that the RESTORE holds is free. -/
def restoreReady (s : State) (core : Nat) : Bool :=
  let r := roomOf s core []
  (s.core core).saved.holds.all (fun h =>
    r.slots.contains h.slot && (slice r.v h.v.1 h.v.2).all id && (!h.m || r.m))

/-- A saved handle retranslated from its HVA: invalid where that fails. -/
def rehandle (s : State) (clu tenant : Nat) (hva : Nat) : Option TlbEntry × State :=
  match walkAD s tenant hva .xlate clu with
  | (.ok e, s') => if e.pin then (some e, s') else (none, s)
  | _ => (none, s)

/-- A strand's fields reloaded from its block: `w` is the word at an offset. Handles are set apart. -/
def Strand.blockLoad (x : Strand) (w : Nat → Word) : Strand :=
  let x := ([0x000, 0x010, 0x018, 0x020, 0x028, 0x030, 0x038, 0x040, 0x048, 0x050] ++
    (List.range 64).map (fun i => 0x100 + 8 * i)).foldl (fun (x : Strand) o => x.blockPut o (w o)) x
  { x with
    rot := fld (w 0x008) 6 4, cause := BitVec.ofNat 8 (fld (w 0x008) 15 8),
    status := match fld (w 0x008) 2 0 with
      | 2 => .parked
      | 3 => .offrot
      | 4 => .frozen
      | 5 => .halted
      | _ => .ready,
    pinstr := w 0x060, pwait := (w 0x068).toNat, pkind := BitVec.ofNat 4 (fld (w 0x070) 3 0), nextb := fld (w 0x400) 31 0,
    batches := x.batches.mapIdx (fun b y => batch w b y),
    reported := x.reported.mapIdx (fun b y => batch w (x.batches.length + b) y) }
where
  /-- A sealed batch as the block shows it; it shows the first 16. -/
  batch (w : Nat → Word) (b : Nat) (y : Batch) : Batch :=
    if b < 16 then
      { y with num := fld (w (0x410 + 8 * b)) 63 32, status := BitVec.ofNat 2 (fld (w (0x410 + 8 * b)) 1 0) }
    else y

/-- A strand's handles retranslated, from h0 on. -/
def reHandles (core slot tenant : Nat) (w : Nat → Word) : Nat → State → State
  | 0, s => s
  | n + 1, s =>
    let s := reHandles core slot tenant w n s
    let hn : HReg := BitVec.ofNat 4 n
    let hva := fld (w (0x308 + 16 * n)) 63 7
    if (w (0x300 + 16 * n)).getLsbD 63 then
      match rehandle s (cluOfCore core) tenant hva with
      | (some e, s) => s.updStrand core slot (fun x => x.wH hn e.handle)
      | (none, s) => s.updStrand core slot (fun x => x.wH hn { x.rH hn with valid := false, hva := BitVec.ofNat 57 hva })
    else s.updStrand core slot (fun x => x.wH hn { x.rH hn with valid := false })

/-- One saved task put back in its slot, its vector window at the base that the RESTORE holds. A PARKED strand waits for its
issue cycle, in which the operation is issued again, or for the engine place that its copy command awaits (R24, R287). -/
def restoreTask (core base : Nat) (holds : List Hold) (s : State) (e : Nat × Strand) : State :=
  let w := fun o => w64 (cohNat s (base + 0x11000 + 0x1000 * e.1 + o) 8)
  let vb := 8 * ((holds.find? (fun h => h.slot == e.1)).map (·.v.1)).getD 0
  let y := e.2.blockLoad w
  let y := { y with
    ids := fset y.ids 0x020 (w64 vb), plimit := e.2.plimit, bpSkip := e.2.bpSkip, issueAt := s.cycle + 1,
    task := e.2.task.map (fun t => { t with started := s.cycle - t.started }),
    phase := if y.status ≠ .parked then .none
      else if (s.core core).saved.parked.any (fun c => c.slot == e.1) then .cond else .reissue }
  let regs := (List.range e.2.vcount).map (fun n =>
    (vb + n, BitVec.ofNat 512 (cohNat s (base + 0x19000 + 64 * (e.2.vbase + n)) 64)))
  let s := s.updCore core (fun x => { x with v := regs.foldl (fun m r => fset m r.1 r.2) x.v })
  let tenant := (y.task.map (·.tenant)).getD 0
  reHandles core e.1 tenant w 16 ((slotMended s core e.1).setStrand core e.1 y)

/-- The rows of a latch or scale area read from the save area. -/
def areaRows (s : State) (a n : Nat) : FMap VReg :=
  (List.range n).filterMap (fun i =>
    let r := cohNat s (a + 64 * i) 64
    if r = 0 then none else some (i, BitVec.ofNat 512 r))

/-- A queued matrix command reloaded: its word and the three operands that the area holds; a further operand and what is no
scalar operand as they were saved. What it reads is taken anew from the scratchpad (R285). -/
def restoreCmd (s : State) (core base k : Nat) (m : MCmd) : MCmd :=
  if 16 ≤ k then m
  else
    let word := w64 (cohNat s (base + 0x200 + 32 * k) 8)
    let ops := m.ops.mapIdx (fun j w => if j < 3 then w64 (cohNat s (base + 0x208 + 32 * k + 8 * j) 8) else w)
    match decodeTile word with
    | .ok i => { m with word := word, ops := ops, caps := cmdCaps { s with cur := .strand core m.slot } i ops m.caps }
    | .error _ => m

/-- A run-ahead queue reloaded from its entries in the save area (R285). -/
def restoreQueue (s : State) (base q : Nat) : List RaEntry :=
  (List.range 32).filterMap (fun e =>
    let a := base + 0xD000 + 0x1000 * q + 128 * e
    let w := cohNat s (a + 64) 8
    if bitN w 48 then
      some { tx := 0, arrived := true, code := BitVec.ofNat 8 (bitsN w 7 0), peer := bitsN w 41 32, tenant := bitsN w 54 49,
             data := BitVec.ofNat 512 (cohNat s a 64) }
    else none)

/-- The array reloaded from the save area (R285): MSTEP, accumulators, latches, scale area and queue. A ring that was broken while
the array was saved stays broken (R266). -/
def restoreArray (s : State) (core base : Nat) (a : MArray) : MArray :=
  let m := cohNat s (base + 0x100) 8
  let latch := { a.latch with
    rows := areaRows s (base + 0x5000) 256, lty := BitVec.ofNat 4 (bitsN m 35 32), scales := areaRows s (base + 0x400) 8 }
  MArray.reshadow { a with
    acc := (List.range 4096).filterMap (fun c =>
      let v := cohNat s (base + 0x1000 + 256 * (c / 64) + 4 * (c % 64)) 4
      if v = 0 then none else some (c, BitVec.ofNat 32 v)),
    latch := latch, incoming := a.incoming.map (fun l => { l with rows := areaRows s (base + 0x9000) 256 }),
    steps := bitsN m 31 0, ring := if a.ring = 0 then 0 else bitsN m 37 36,
    queue := a.queue.mapIdx (fun k m => restoreCmd s core base k m) }

/-- An operand of a saved command, from its word and its handle word in the area (R286): a handle is retranslated from its
HVA, and one that cannot be makes the command stale; a pointer is placed again. -/
def restoreEnd (s : State) (clu tenant : Nat) (lo hi : Int) (e : CopyEnd) (p hw : Word) :
    CopyEnd × Option (BitVec 8 × Word) × State :=
  match e with
  | .page h f _ _ =>
    match if hw.getLsbD 63 then rehandle s clu tenant (fld hw 56 0) else (none, s) with
    | (some t, s) => (.page h t.handle (t.pa + p.toNat) p, none, s)
    | (none, s) => (.page h f (f.pbase.toNat + p.toNat) p, some (cHANDLE_STALE, w64 (h * 2 ^ 60 + (fld hw 56 0 + p.toNat) % 2 ^ 57)), s)
  | e =>
    match copyPtr s lo hi p with
    | .ok d => (d, none, s)
    | .error _ => (e, none, s)

/-- A saved command rebuilt from the area (R286): `k` is its place among the saved commands. -/
def restoreCmdOf (core base k : Nat) (s : State) (c : CopyCmd) : CopyCmd × State :=
  let clu := cluOfCore core
  let w := fun o => w64 (cohNat s (base + 0x23000 + 128 * k + o) 8)
  let shape : VReg := BitVec.ofNat 512 (cohNat s (base + 0x23000 + 128 * k) 64)
  let sh := shapeOf shape
  let at_ := { s with cur := .strand core c.slot }
  let (d, b1, s) := restoreEnd at_ clu c.tenant (extentOf sh true).1 (extentOf sh true).2 c.dst (w 0x40) (w 0x50)
  let (r, b2, s) := restoreEnd s clu c.tenant (extentOf sh false).1 (extentOf sh false).2 c.src (w 0x48) (w 0x58)
  ({ c with
      shape := shape, dst := d, src := r, dptr := w 0x40, sptr := w 0x48, bad := (c.bad.or b1).or b2,
      batch := c.batch.map (fun _ => fld (w 0x60) 63 32), elig := max (if sh.timed then sh.time else 0) (ccnt s) }, s)

/-- The saved timed commands back in the time-sorted buffer, then the commands of parked strands back before their engine
(R201, R287). The buffer takes them back even where it holds 256 by then, which R201 leaves open (DESIGN CHOICE,
notes/assumptions/96.md). -/
def restoreCopies (core base : Nat) (s : State) (timed parked : List CopyCmd) : State :=
  let clu := cluOfCore core
  let s := (timed.mapIdx (fun i c => (i, c))).foldl (fun s k =>
    let (c, s) := restoreCmdOf core base k.1 s k.2
    s.updClu clu (fun x => { x with timed := x.timed ++ [c] })) s
  (parked.mapIdx (fun i c => (timed.length + i, c))).foldl (fun s k =>
    let (c, s) := restoreCmdOf core base k.1 s k.2
    s.updClu clu (fun x => { x with waiting := x.waiting ++ [c] })) s

/-- The waits of a core's gang for its ring do not count the time of a Squall (R268, R287): what has passed since the first
Squall of one of its cores began. A core of the gang that stays saved counts from now on. -/
def pairShift (s : State) (core : Nat) : State :=
  match gangOwner s core with
  | none => s
  | some t =>
    let n := s.cycle - pairNow s t.launch (gangCores s core)
    (gangCores s core).foldl (fun s c => s.updCore c (fun x =>
      { x with sqSince := if underSquall s t.launch c then s.cycle else x.sqSince,
               arr := { x.arr with runSince := min s.cycle (x.arr.runSince + n) } })) s

/-- The steps of R287 on a core whose units are free. -/
def restoreCore (s : State) (core : Nat) : State :=
  let v := (s.core core).saved
  let base := saveBase s core
  let mxa := v.tasks.any (fun e => (e.2.task.map (·.mxa)).getD false)
  let s := match v.arr with
    | some a =>
      if mxa then
        s.updCore core (fun x => { x with arr := a })
      else s
    | none => s
  let s := s.updCore core (fun x => { x with
    raq := (List.range 4).foldl (fun m q =>
      let l := (if (fget [] v.raq q).isEmpty then [] else restoreQueue s base q) ++ fget [] x.raq q
      if l.isEmpty then fdel m q else fset m q l) x.raq,
    sb := x.sb ++ v.sb })
  let s := v.tasks.foldl (restoreTask core base v.holds) s
  let s := if mxa then setArr s core (restoreArray s core base) else s
  let s := restoreCopies core base s v.timed v.parked
  let s := s.updClu (cluOfCore core) (fun c =>
    { c with sidelog := c.sidelog.map (fun e =>
        if e.core = core ∧ 16 ≤ e.slot then { e with slot := e.slot - 16 } else e) })
  let s := pairShift s core
  s.updCore core (fun x => { x with saved := .init, sqSaved := false, sqDone := true, sqBusy := false })

/-- SQUALL_RESTORE_COMPLETE (R287). -/
def execSquallRestoreComplete (core : Nat) (s : State) : Outc :=
  let x := s.core core
  if x.sqBusy && x.sqCmd == 2 && restoreReady s core then .next (restoreCore s core) else .next s

/-- A pool entry's launch waits for a core: no target takes its next task or gang now, and one with the core in it would if the
tasks that a SAVE takes away were gone (R300). -/
def waitsFor (s : State) (core : Nat) (e : PoolEnt) : Bool :=
  match s.launch e.launch with
  | none => false
  | some l =>
    let ts := targets (dieOfCore core) l
    let holds := heldFrom s (dieOfCore core) e.launch
    let gone := (squallCores s core).foldl (fun s c => (List.range 8).foldl (fun s n => s.setStrand c n .init) s) s
    poolEligible s e && ts.any (fun cs => cs.contains core && (fitAll gone e.launch l holds cs).isSome) &&
      !(ts.any (fun cs => (fitAll s e.launch l holds cs).isSome))

/-- TENANT_TIME_SLICE (R300): the host port sends SAVE to a core on which a task of the tenant has run for TSLICE cycles
while another tenant's placeable launch waits. -/
def execTenantTimeSlice (core tenant : Nat) (s : State) : Outc :=
  let lim := tset s setTSLICE tenant
  let ran := (List.range 8).any (fun n =>
    ((s.strand core n).task.map (fun t => t.tenant == tenant && lim ≤ s.cycle - t.started)).getD false)
  let waits := (s.pool (dieOfCore core)).ents.any (fun e => entTenant s e != tenant && waitsFor s core e)
  if lim ≠ 0 && ran && waits then execSqcmdSave core 1 s else .next s

/-! ### The debug window (R277, R279) -/

/-- SQSTAT. -/
def sqstat (x : Core) : Word :=
  w64 (b2n x.sqBusy + b2n x.sqDone * 2 + b2n x.sqSaved * 4 + b2n x.sqDefer * 8 + x.sqWho % 4 * 16)

/-- The slot whose window holds a physical vector register. -/
def vregSlot (s : State) (core n : Nat) : Option Nat :=
  (List.range 8).find? (fun k =>
    let x := s.strand core k
    x.task.isSome && x.vbase ≤ n && n < x.vbase + x.vcount)

/-- A strand's fields reached, or the refusal of R279: all ones, and ERR set. -/
def ifStopped (s : State) (core slot : Nat) (k : Word × State) : Word × State :=
  if stopped (s.strand core slot) then k else (BitVec.allOnes 64, dbgErr s core slot)

/-- The P, K and handle registers, as `pregKey` numbers them, that a word of a strand block shows. -/
def blockPregs (o : Nat) : List Nat :=
  if o = 0x010 then List.range 8
  else if o = 0x018 then [8, 9, 10, 11]
  else if o = 0x020 then [12, 13, 14, 15]
  else if 0x300 ≤ o ∧ o < 0x400 then [16 + (o - 0x300) / 16]
  else []

/-- A word of a strand block written; the predicates and lane masks in it are written whole, and lose their errors. -/
def blockWrite (s : State) (core slot o : Nat) (v : Word) : State :=
  if 0x100 ≤ o ∧ o < 0x300 then s.putReg core slot (BitVec.ofNat 6 ((o - 0x100) / 8)) v
  else
    let s := if o < 0x100 then (blockPregs o).foldl (fun s r => softDrop s (pregKey core slot r) (pregKey core slot r + 1)) s else s
    s.setStrand core slot ((s.strand core slot).blockPut o v)

/-- A word of a vector register changed. -/
def vregWord (v : VReg) (i : Nat) (w : Word) : VReg := BitVec.ofNat 512 (putBits v.toNat (64 * i + 63) (64 * i) w.toNat)

/-- An 8-byte access in a core's debug window: what a read returns, and the state. -/
def dbgAccess (s : State) (core off : Nat) (wr : Option Word) : Word × State :=
  let slot := off / 0x1000
  let o := off % 0x1000
  if off < 0x8000 then
    if o = 0xF08 then
      match wr with
      | none => (regGet s (offDBGSTAT core slot) ||| (if engBusy s core slot then 1 else 0), s)
      | some v => (0, if v.getLsbD 1 then regFld s (offDBGSTAT core slot) 1 1 0 else s)
    else if 0xF00 ≤ o then (0, s)
    else
      let x := s.strand core slot
      ifStopped s core slot (blockWord s x o, match wr with
        | none => s
        | some v => blockWrite s core slot o v)
  else if off < 0x12000 then
    let n := (off - 0x8000) / 64
    let i := off % 64 / 8
    let v := fget 0#512 (s.core core).v n
    match vregSlot s core n with
    | none => (0, s)
    | some k =>
      ifStopped s core k (w64 (v.toNat / 2 ^ (64 * i)), match wr with
        | none => s
        | some w => s.updCore core (fun x => { x with v := fset x.v n (vregWord v i w) }))
  else if off < 0x16000 then
    let a := (s.core core).arr
    let c := (off - 0x12000) / 256 * 64 + off % 256 / 4
    if arrayBusy s core then (BitVec.allOnes 64, s)
    else (w64 ((fget 0#32 a.acc c).toNat + (fget 0#32 a.acc (c + 1)).toNat * 2 ^ 32), match wr with
      | none => s
      | some w => setArr (softDrop s (arrayKey core (off - 0x12000)) (arrayKey core (off - 0x12000) + 1)) core (fun _ =>
          { a.freshAcc with acc := fset (fset a.freshAcc.acc c (w.setWidth 32)) (c + 1) (BitVec.ofNat 32 (fld w 63 32)) }))
  else if off < 0x17000 then
    (regGet s (offDbg core + off), match wr with
      | none => s
      | some w => regWrite s (offDbg core + off) w)
  else if off < 0x20000 then
    match off, wr with
    | 0x17000, none => (regGet s (offSQADDR core), s)
    | 0x17000, some w => (0, regWrite s (offSQADDR core) w)
    | 0x17010, none => (sqstat (s.core core), s)
    | 0x17010, some w => (0, if w.getLsbD 1 then s.updCore core (fun x => { x with sqDone := false }) else s)
    | _, _ => (0, s)
  else if off < 0x60000 then
    let k := scrKey core (off - 0x20000)
    (w64 (memNat s k 8), match wr with
      | none => s
      | some w => memPut s k (toBytes 8 w.toNat))
  else (0, s)

/-- A read of the window meets its soft errors like another access (R288): the words that it reaches. -/
def dbgKeys (s : State) (core off : Nat) : List Nat :=
  if off < 0x8000 then
    let o := off % 0x1000
    if !stopped (s.strand core (off / 0x1000)) then []
    else if 0x100 ≤ o ∧ o < 0x300 then [sregKey core (off / 0x1000) ((o - 0x100) / 8)]
    else (blockPregs o).map (pregKey core (off / 0x1000))
  else if off < 0x12000 then
    match vregSlot s core ((off - 0x8000) / 64) with
    | some k => if stopped (s.strand core k) then [vregKey core ((off - 0x8000) / 64)] else []
    | none => []
  else if off < 0x16000 then (if arrayBusy s core then [] else [arrayKey core (off - 0x12000)])
  else if 0x20000 ≤ off ∧ off < 0x60000 then [scrKey core (off - 0x20000)]
  else []

/-- Those errors corrected and counted (R288); no report of a double-bit error to the window is stated. -/
def dbgScan (s : State) (core off : Nat) : State := (eccScan s (cluOfCore core) (dbgKeys s core off)).1

/-- A write that is a command (R280, R283). -/
def dbgWriteCmd (core off : Nat) (v : Word) (s : State) : Option Outc :=
  if off < 0x8000 ∧ off % 0x1000 = 0xF00 then some (dbgCommand core (off / 0x1000) v s)
  else if off < 0x8000 ∧ off % 0x1000 = 0xF10 then some (execRqfaultWrite core (off / 0x1000) v s)
  else if off = 0x17008 then
    match fld v 1 0 with
    | 1 => some (execSqcmdSave core 0 s)
    | 2 => some (execSqcmdRestore core s)
    | _ => some (.next s)
  else none

/-- DEBUG_WINDOW_ACCESS (R279): a read answers with what it finds. -/
def execDebugWindowAccess (core off : Nat) (wr : Option Word) (s : State) : Outc :=
  if !coreExists core || off % 8 ≠ 0 then .next s
  else match wr with
    | none =>
      let (w, s) := dbgAccess (dbgScan s core off) core off none
      .next (s.send (.answer 1 (toBytes 8 w.toNat)))
    | some v =>
      match dbgWriteCmd core off v s with
      | some r => r
      | none => .next (dbgAccess s core off (some v)).2

end Sys2Proof.Machine
end

