-- ==== Sys2Proof/Machine/HostPort.lean ====
section
/-!
DEFINITION. Machine/HostPort.lean: work queues and completion rings at the host port (14 R295, R296), the entries of a
queue (R297, R298; 03 R58, R59), and the tenant settings (R299).
-/
namespace Sys2Proof.Machine

/-! ### Queues (R295, R296) -/

def wqCfg (s : State) (q : Nat) : Word := regGet s (offWQ q + 8)
def wqSys (s : State) (q : Nat) : Bool := (wqCfg s q).getLsbD 62
def wqTenant (s : State) (q : Nat) : Nat := fld (wqCfg s q) 57 52
def wqRing (s : State) (q : Nat) : Nat := fld (wqCfg s q) 44 32
def wqHead (s : State) (q : Nat) : Nat := fld (regGet s (offWQ q + 16)) 31 0
def wqTail (s : State) (q : Nat) : Nat := fld (regGet s (offWQ q + 16)) 63 32

/-- The function that owns a queue or ring: 0 for PF0, tenant + 1 for a VF (R292). -/
def ownerFn (sys : Bool) (tenant : Nat) : Nat := if sys then 0 else tenant + 1

/-- A tenant's reset is under way (R301). -/
def inReset (s : State) (tenant : Nat) : Bool := (regGet s offTRSTBUSY).getLsbD tenant

/-- WQ_DOORBELL (R295, R296): function `fn` writes DB`q`. -/
def execWqDoorbell (fn q : Nat) (v : Word) (s : State) : Outc :=
  let cfg := wqCfg s q
  let tail := fld v 31 0
  let old := (wqTail s q + 2 ^ 32 - wqHead s q) % 2 ^ 32
  let new := (tail + 2 ^ 32 - wqHead s q) % 2 ^ 32
  if 8192 ≤ q ∨ fn ≠ ownerFn (wqSys s q) (wqTenant s q) ∨ ¬ cfg.getLsbD 63 ∨ (¬ wqSys s q ∧ inReset s (wqTenant s q)) then .next s
  else if cqSize cfg < new ∨ new < old then .next (regFld s (offWQ q + 8) 47 47 1)
  else .next (unitRelease (regFld s (offWQ q + 16) 63 32 tail))

/-- CQ_HEAD_WRITE (R295): function `fn` writes a ring's HEAD. -/
def execCqHeadWrite (fn r : Nat) (v : Word) (s : State) : Outc :=
  let cfg := regGet s (offCQ r + 8)
  if 8192 ≤ r ∨ fn ≠ ownerFn (cfg.getLsbD 61) (fld cfg 57 52) then .next s
  else .next (regFld s (offCQ r + 16) 31 0 (fld v 31 0))

/-- The entry at HEAD of a queue, read through its tenant's space: none where there is none, or where it cannot be
translated. -/
def wqEntry (s : State) (q : Nat) : Option (List Byte) :=
  let cfg := wqCfg s q
  if 8192 ≤ q ∨ ¬ cfg.getLsbD 63 ∨ wqHead s q = wqTail s q then none
  else unitRead s (wqTenant s q) ((regGet s (offWQ q)).toNat + 128 * (wqHead s q % cqSize cfg)) 128

/-- The host port's read of that entry (R288). -/
def wqScan (s : State) (q : Nat) : State :=
  unitScan s (wqTenant s q) ((regGet s (offWQ q)).toNat + 128 * (wqHead s q % cqSize (wqCfg s q))) 128

/-- The 8-byte word of an entry at an offset. -/
def entWord (e : List Byte) (o : Nat) : Word := w64 (fromBytes (slice e o 8))

/-- An entry of a type at HEAD is processed: its effect, then HEAD moves past it, then its records are written, each to the
queue's ring as the queue stood (R296, R299). -/
def onEntry (q : Nat) (ty : Nat → Bool) (k : List Byte → State → State × List (List Byte)) (s : State) : Outc :=
  match wqEntry s q with
  | none => .next s
  | some e =>
    if ty (fld (entWord e 0) 7 0) then
      let (ring, t, sys) := (wqRing s q, wqTenant s q, wqSys s q)
      let (s', recs) := k e (wqScan s q)
      let s' := regFld s' (offWQ q + 16) 31 0 ((wqHead s q + 1) % 2 ^ 32)
      .next (recs.foldl (fun s r => cqWrite s ring t sys r) s')
    else .next s

/-- A record of KIND 0x04 to 0x06 for an entry (R298). -/
def entRecord (e : List Byte) (kind reason detail w2 : Nat) : List Byte :=
  recBytes (kind + reason * 2 ^ 8 + detail * 2 ^ 56) (entWord e 0).toNat w2 0

/-- The record that ends an AUTOMATON, ZONE or TENANT_CTL entry: on success only where CPL asks for one. -/
def endEntry (e : List Byte) (reason detail : Nat) : List (List Byte) :=
  if reason = 0 ∧ ¬ (entWord e 0).getLsbD 8 then [] else [entRecord e 6 reason detail 0]

def reBADFIELD : Nat := 0x22
def rePRIV : Nat := 0x23

/-! ### LAUNCH, CANCEL, other types -/

/-- LAUNCH_ENTRY (R297, R298, R30): the launch is submitted for the queue's tenant. -/
def execLaunchEntry (q : Nat) (s : State) : Outc :=
  onEntry q (· == 1) (fun e s =>
    let ws := (List.range 8).map (fun i => entWord e (0x40 + 8 * i))
    let (w, s') := submitLaunch s (wqTenant s q) ws false (some (wqRing s q, wqSys s q, entWord e 0))
    (s', [entRecord e 4 0 0 w.toNat])) s

/-- CANCEL_ENTRY (R59): kept for the next boundary. -/
def execCancelEntry (q : Nat) (s : State) : Outc :=
  onEntry q (· == 3) (fun e s =>
    let c : CancelReq := { tenant := wqTenant s q, id := entWord e 8, tag := entWord e 16, ring := wqRing s q, sys := wqSys s q }
    (s.updFront (fun f => { f with cancels := f.cancels ++ [c] }), [])) s

/-- BADTYPE_ENTRY (R297): the record's TAG and ID have no value in the spec. -/
def execBadtypeEntry (q : Nat) (s : State) : Outc :=
  onEntry q (fun t => t == 0 || 7 ≤ t) (fun _ s =>
    let (tag, s) := s.free
    let (id, s) := s.free
    let (r, s) := openRecord s 2 0x24 0 tag.toNat id.toNat
    (s, [r])) s

/-! ### REQUEST (R58) -/

/-- The first check of R58 that an entry fails. -/
def requestBad (s : State) (t : Nat) (e : List Byte) : Option Nat :=
  let w := entWord e
  let size := fld (w 0x20) 31 0
  let plen := fld (w 0x20) 63 32
  let topk := fld (w 0x40) 6 0
  let temp := fld (w 0x38) 31 0
  let topp := fld (w 0x38) 63 32
  let auto := fld (w 0x50) 31 0
  firstBad [
    (fld (w 0) 31 9 == 0 && fld (w 0x40) 7 7 == 0 && fld (w 0x40) 11 10 == 0 && fld (w 0x40) 63 40 == 0 && (slice e 0x60 0x20).all (· == 0#8), 1),
    ((recordsOf s t).all (fun r => rqGet s r rqID ≠ (w 8).toNat), 2),
    ((List.range 15).any (fun i => size == 2 ^ (6 + i)) && (w 0x18).toNat % 64 == 0, 3),
    (1 ≤ plen && plen ≤ size, 4),
    (sampleFieldsOk temp topk topp, 5),
    (auto < 4096 || auto == 0xFFFFFFFF, 6),
    (fld (w 0x40) 39 16 ≠ 0, 7),
    ((w 0x28).toNat % 8 == 0 && (w 0x30).toNat % 8 == 0, 8)]

/-- The lowest FREE record of a tenant's pool. -/
def freeRecord (s : State) (t : Nat) : Option Nat :=
  ((List.range (tset s setRQCOUNT t)).map (reqKey t)).find? (fun r => rqGet s r rqSTATE == stFREE)

/-- A record as the Front fills it from an entry (R53, R55, R58). -/
def requestFields (s : State) (t ring : Nat) (sys : Bool) (e : List Byte) : List (Nat × Nat) :=
  let w := entWord e
  [(rqSTATE, stQUEUED), (rqTENANT, t), (rqPRIO, fld (w 0x40) 9 8), (rqEVCLASS, fld (w 0x40) 15 12), (rqSLOT, 0xFFFF),
   (rqID, (w 8).toNat), (rqMAXTOK, fld (w 0x40) 39 16), (rqSTOPSET, (w 0x58).toNat), (rqKVPT, (w 0x28).toNat),
   (rqPFQBASE, (w 0x18).toNat), (rqPFQSIZE, fld (w 0x20) 31 0), (rqPFQTAIL, fld (w 0x20) 63 32),
   (rqTEMP, fld (w 0x38) 31 0), (rqTOPP, fld (w 0x38) 63 32), (rqTOPK, fld (w 0x40) 6 0), (rqSEED, (w 0x48).toNat),
   (rqAUTO, fld (w 0x50) 31 0), (rqASTATE, fld (w 0x50) 63 32), (rqAGE, ccnt s), (rqPROG, ccnt s), (rqHIST, (w 0x30).toNat),
   (rqTAG, (w 0x10).toNat), (rqCQ, ring + b2n sys * 2 ^ 13)]

/-- REQUEST_ENTRY (R52, R58): the fields of the record that no field of the entry goes to begin at 0
(notes/assumptions/52.md). -/
def execRequestEntry (q : Nat) (s : State) : Outc :=
  onEntry q (· == 2) (fun e s =>
    let t := wqTenant s q
    let reject := fun (reason detail : Nat) =>
      let (r, s) := openRecord s 2 reason detail (entWord e 0x10).toNat (entWord e 8).toNat
      (s, [r])
    if tset s setRQCOUNT t = 0 then reject 0x21 0
    else match requestBad s t e, freeRecord s t with
    | some d, _ => reject 0x20 d
    | none, none => reject 0x21 0
    | none, some r =>
      let fs := requestFields s t (wqRing s q) (wqSys s q) e
      (rqPuts (cohWrite s (recordAt s r) (List.replicate 256 0#8)) r fs, [])) s

/-! ### AUTOMATON and ZONE (R297) -/

/-- AUTOMATON_ENTRY (R297, R88, R93): every mask cache drops what it holds (notes/assumptions/9.md). -/
def execAutomatonEntry (q : Nat) (s : State) : Outc :=
  onEntry q (· == 4) (fun e s =>
    let t := wqTenant s q
    let pa := fld (regGet s (offSERV + 0x20)) 55 0 + 64 * fld (entWord e 8) 11 0
    let now := cohNat s (pa + 0x28) 8
    let w := entWord e 0x68
    if fld w 6 1 ≠ t ∨ (bitN now 0 ∧ bitsN now 6 1 ≠ t) then (s, endEntry e rePRIV 0)
    else if fld (entWord e 0) 31 9 ≠ 0 ∨ fld w 63 7 ≠ 0 ∨ fld (entWord e 8) 63 12 ≠ 0 ∨ ¬ (slice e 0x10 0x30).all (· == 0#8) ∨
        ¬ (slice e 0x70 0x10).all (· == 0#8) then (s, endEntry e reBADFIELD 0)
    else (updClusters (cohWrite s pa (slice e 0x40 64)) (fun c => { c with masks := [] }), endEntry e 0 0)) s

/-- Every granule of a scratchpad range is owned by a tenant. -/
def scrOwned (s : State) (core base len t : Nat) : Bool :=
  base + len ≤ 2 ^ 18 &&
  (List.range 1024).all (fun g => !overlap (256 * g) 256 base len || fget 0#8 s.own (offSCROWN core g) == BitVec.ofNat 8 (0x80 + t))

/-- ZONE_ENTRY (R297, R202, R136). -/
def execZoneEntry (q : Nat) (s : State) : Outc :=
  onEntry q (· == 5) (fun e s =>
    let t := wqTenant s q
    let core := fld (entWord e 8) 11 0
    let z := fld (entWord e 8) 13 12
    let cfg := entWord e 0x10
    let base := fld (entWord e 0x18) 17 8 * 256
    let arr := fld (entWord e 0x20) 17 3 * 8
    if fld cfg 53 48 ≠ t then (s, endEntry e rePRIV 0)
    else if ¬ (coreExists core && scrOwned s core base ((fld cfg 37 32 + 1) * 2 ^ (8 + fld cfg 47 44)) t && scrOwned s core arr 512 t) then
      (s, endEntry e reBADFIELD 0)
    else
      let o := offLZ core z
      let s := if (lzCfg s core z).getLsbD 63 then zoneDisableAt s core z else s
      let s := regWrite (regWrite (regWrite s (o + 8) (entWord e 0x18)) (o + 0x10) (entWord e 0x20)) (o + 0x18) (entWord e 0x28)
      (regWrite s o cfg, endEntry e 0 0)) s

/-! ### TENANT_CTL (R299) -/

/-- Whether a value lies in the range of a setting that takes one (R62, R102, R299). -/
def settingOk (s : State) (i t v : Nat) : Bool :=
  let btw := fun (lo hi : Nat) => decide (lo ≤ v) && decide (v ≤ hi)
  match i with
  | 1 => v % 8192 == 0 && physOk v
  | 2 => v % 256 == 0 && physOk v
  | 3 => 1 ≤ v && ((List.range 64).map (fun u => if u = t then v else tset s setRQCOUNT u)).sum ≤ 2 ^ 20
  | 4 => v % 128 == 0 && physOk v
  | 5 => (List.range 11).any (fun k => v == 2 ^ (6 + k))
  | 6 => btw 1 255
  | 7 => btw 1 (2 ^ 32 - 1)
  | 8 => btw 1 255
  | 9 => btw 0 4096
  | 10 => btw 0 16384
  | 11 => btw 0 (2 ^ 24)
  | 12 => btw 1 16384
  | 13 => btw 0 1
  | 14 => btw 0 65536
  | 15 => btw 1 (2 ^ 48 - 1)
  | 18 | 19 => btw 0 (2 ^ 32 - 1)
  | 20 => v < 2 ^ 16 && bitsN v 7 3 == 0 && 1 ≤ bitsN v 15 8
  | 21 => v == 0 || btw (2 ^ 16) (2 ^ 40)
  | 22 => v ≠ 0
  | 23 => v % 65536 == 0
  | 24 => v % 65536 == 0 && inLpddr v
  | 25 => btw 0 (2 ^ 24)
  | 26 => v % 64 == 0
  | 27 => btw 1 4096
  | 28 => v % 8 == 0
  | _ => false

/-- A setting written, if the entry's value is in range: whether it was. -/
def putSetting (s : State) (i t : Nat) (e : List Byte) : State × Bool :=
  if i = setTOSEQ ∨ i = setFAILSEQ then
    let n := fld (entWord e 0x10) 4 0
    let toks := (List.range n).map (fun j => BitVec.ofNat 32 (fromBytes (slice e (0x18 + 4 * j) 4)))
    if 1 ≤ n ∧ n ≤ 16 then ({ s with tseq := fset s.tseq (64 * i + t) toks }, true)
    else (s, false)
  else if settingOk s i t (entWord e 0x10).toNat then ({ s with tset := fset s.tset (64 * i + t) (entWord e 0x10) }, true)
  else (s, false)

/-- TENANT_CTL_ENTRY (R297, R299). -/
def execTenantCtlEntry (q : Nat) (s : State) : Outc :=
  onEntry q (· == 6) (fun e s =>
    let i := fld (entWord e 8) 15 8
    if ¬ wqSys s q then (s, endEntry e rePRIV 0)
    else match putSetting s i (fld (entWord e 8) 5 0) e with
      | (s, true) => (s, endEntry e 0 0)
      | (s, false) => (s, endEntry e reBADFIELD i)) s

end Sys2Proof.Machine
end

