-- ==== Sys2Proof/Machine/Resets.lean ====
section
/-!
DEFINITION. Machine/Resets.lean: the reset of a tenant (14 R301), of a cluster (R302), power-on and bring-up (R302 to R304),
attestation (R305), power, thermal trip and I3C (R306), and the ownership maps (06 R136).
-/
namespace Sys2Proof.Machine

/-! ### Tenant reset (R301) -/

/-- Step 1: unprocessed entries of the tenant's own queues are discarded; cancellations not yet applied, and records not yet
written, go with them. -/
def resetQueues (s : State) (t : Nat) : State :=
  let mine := fun (o : Nat) => 0x100000 ≤ o && o < 0x140000 && o % 32 == 16 &&
    !(wqSys s ((o - 0x100000) / 32)) && wqTenant s ((o - 0x100000) / 32) == t
  let regs := s.regs.map (fun e => (e.1, if mine e.1 then putFld e.2 31 0 (fld e.2 63 32) else e.2))
  let deferred := s.deferred.filter (fun d => d.tenant != t || d.data.getD 0 0 == 7#8)
  let s : State := { s with regs := regs, deferred := deferred }
  s.updFront (fun f => { f with cancels := f.cancels.filter (fun c => c.tenant != t) })

/-- Step 2: every launch whose outcome is not fixed is CANCELLED (R39), its tasks are killed, saved contexts discarded; no
launch of the tenant writes a record any more. -/
def resetTasks (s : State) (t : Nat) : State :=
  let mute := fun (l : Launch) => if l.tenant = t then { l with host := none } else l
  let s : State := { s with launches := s.launches.map (fun e => (e.1, mute e.2)) }
  let s := s.launches.foldl (fun (s : State) e => if e.2.tenant = t then fixOutcome s e.1 4 else s) s
  let s := s.strands.foldl (fun (s : State) e =>
    if (e.2.task.map (fun k => k.tenant == t)).getD false then taskEnd s (e.1 / 8) (e.1 % 8) true else s) s
  s.cores.foldl (fun (s : State) c => savedEnd s c.1 (fun k => k.tenant == t) true) s

/-- Step 3: every record becomes FREE; its slot and its pages are kept for the next boundary. -/
def resetRecords (s : State) (t : Nat) : State :=
  let rs := recordsOf s t
  let s := dropMoves s (fun m => reqTenant m.req == t)
  let slots := (s.front.slots.filter (fun x => reqTenant x.2 == t)).map (·.1)
  let pages := (s.front.reqs.filter (fun x => reqTenant x.1 == t)).flatMap (fun x => x.2.pages.map (fun p => (t, p)))
  let s := rs.foldl (fun s r => rqPuts s r [(rqSLOT, 0xFFFF), (rqKVPAGES, 0), (rqFUT, 0), (rqSTATE, stFREE)]) s
  let s := slots.foldl dropRows s
  s.updFront (fun f => { f with
    leaving := f.leaving.filter (fun r => reqTenant r != t),
    slots := f.slots.filter (fun x => reqTenant x.2 != t), reqs := f.reqs.filter (fun x => reqTenant x.1 != t),
    deadSlots := f.deadSlots ++ slots, deadPages := f.deadPages ++ pages })

/-- Step 4: futures that wait become FAILED with RESULT RESET, nothing injected, until the next boundary reclaims them; those
that had resolved are reclaimed with the records of step 3 (R114); the tenant's tool queues are emptied. -/
def resetFutures (s : State) (t : Nat) : State :=
  let fail := fun (f : Future) =>
    if f.tenant ≠ t ∨ f.state = 0 then f
    else if f.live then { f with state := fuFAILED, result := 4 }
    else f.idle
  let s : State := { s with futures := s.futures.map (fun e => (e.1, fail e.2)) }
  (List.range 256).foldl (fun s q =>
    let d := tqDesc s q
    if d.valid && d.tenant == t then cohPutNat s (d.pa + 16) 4 d.tail else s) s

/-- A command that has not started and captured a handle of the tenant. -/
def CopyCmd.captured (c : CopyCmd) (t : Nat) : Bool := c.tenant == t && (c.dst.isPage || c.src.isPage)

/-- A command that its tasks have left and whose handle a BOTH shootdown of all the tenant's pages clears: it ends FAULT with
HANDLE_STALE as soon as it is served (R162). -/
def CopyCmd.resetBy (t now : Nat) (c : CopyCmd) : CopyCmd :=
  if c.captured t then
    let pa := match c.dst, c.src with
      | .page _ f _ _, _ => f.pbase.toNat
      | _, .page _ f _ _ => f.pbase.toNat
      | _, _ => 0
    { c.stale pa 0 with elig := min c.elig now }
  else c

/-- Step 5: translations and side-log entries of the tenant dropped, its landing zones disabled, its work requests disarmed. -/
def resetViews (s : State) (t : Nat) : State :=
  let s := epReset { s with epTlb := s.epTlb.filter (fun e => e.tenant != t) } t
  let s := updClusters s (fun c => { c with
    timed := c.timed.map (CopyCmd.resetBy t (ccnt s)), waiting := c.waiting.map (CopyCmd.resetBy t (ccnt s)),
    tlb := c.tlb.filter (fun e => e.tenant != t), hcache := c.hcache.filter (fun e => e.tenant != t),
    sidelog := c.sidelog.filter (fun e => e.tenant != t), slReq := c.slReq.filter (fun e => e.1 != t),
    slHeld := if c.slHeld.any (fun h => h.1 == t) then none else c.slHeld, slAt := c.slAt.filter (fun e => e.1 != t) })
  s.regs.foldl (fun (s : State) e =>
    let o := e.1 - 0x100000000
    let w := o % 0x1000000
    if 0x100000000 ≤ e.1 ∧ 0x10000 ≤ w ∧ w < 0x20000 ∧ w % 0x400 = 0 ∧ e.2.getLsbD 63 ∧ fld e.2 53 48 = t then
      zoneDisableAt s (coreOf (cluOfIndex (o / 0x1000000)) ((w - 0x10000) / 0x1000)) (w % 0x1000 / 0x400)
    else s) s

/-- Steps 6 and 7: what the tenant had gathered of shares and quotas returns, and its granules have no owner. -/
def resetShares (s : State) (t : Nat) : State :=
  let s := s.updFront (fun f => { f with deficit := fdel f.deficit t })
  { s with
    pools := s.pools.map (fun p => (p.1, { p.2 with deficit := p.2.deficit.filter (fun e => e.1 % 64 != t) })),
    own := s.own.filter (fun e => !(e.2.getLsbD 7 && e.2.toNat % 64 == t)) }

/-- Step 8: the record of KIND 0x07 goes to the ring that TRSTCQ names; the tenant's bit clears once it is out. -/
def resetRecord (s : State) (t : Nat) : State :=
  let ring := fld (regGet s offTRSTCQ) 12 0
  let cfg := regGet s (offCQ ring + 8)
  let data := recBytes (7 + 6 * 2 ^ 8) 0 t (ccnt s)
  match cqPut s ring (fld cfg 57 52) (cfg.getLsbD 61) data none with
  | (s, true) => resetRecordOut s data
  | (s, false) => s

/-- What the tenant's drop of translations waits for, as a BOTH shootdown does (R162): its copy commands in flight, those with a
handle that have not started, and the
writes of its tasks, those of tasks that have ended with them. -/
def resetDrain (s : State) (t : Nat) : List Nat :=
  s.clusters.flatMap (fun c =>
    (c.2.copies.filter (·.tenant == t) ++ (c.2.timed ++ c.2.waiting).filter (CopyCmd.captured · t)).map (·.id)) ++
  (s.posted.filter (fun p => p.kind != .bank && (p.slot == 8 || ((s.strand p.core p.slot).task.map (·.tenant)) == some t))).map (·.id)

/-- Steps 6 to 8. -/
def resetEnd (s : State) (t : Nat) : State := resetRecord (resetShares s t) t

/-- The reset of a tenant (R301), unless one is under way: steps 1 to 5, and the rest once nothing of the tenant is in
flight. -/
def tenantReset (s : State) (t : Nat) : State :=
  if inReset s t then s
  else
    let s := regFld s offTRSTBUSY t t 1
    let s := resetTasks (resetQueues s t) t
    let ids := resetDrain s t
    let s := resetViews (resetFutures (resetRecords s t) t) t
    if drained s ids then resetEnd s t else { s with trst := fset s.trst t ids }

/-- SHOOTDOWN_DONE (R162): everything that the command waits for has finished; DONE is set. So goes the reset of a tenant on
whose drop of translations has finished (R301). -/
def execShootdownDone (s : State) : Outc :=
  let s := if (regGet s offTSCMD).getLsbD 8 && drained s s.tsBusy then { regFld s offTSCMD 9 8 2 with tsBusy := [] } else s
  .next ((s.trst.filter (fun e => drained s e.2)).foldl (fun s e => resetEnd { s with trst := fdel s.trst e.1 } e.1) s)

/-- TRSTCMD_GO (R301): a write to TRSTCMD. -/
def execTrstcmdGo (v : Word) (s : State) : Outc := if v.getLsbD 6 then .next (tenantReset s (fld v 5 0)) else .next s

/-- FUNCTION_LEVEL_RESET of a tenant's VF (R301). -/
def execFunctionLevelReset (tenant : Nat) (s : State) : Outc := if tenant < 64 then .next (tenantReset s tenant) else .next s

/-! ### Cluster reset (R302) -/

/-- A memory key lies in a cluster's scratchpads or shared memory. -/
def keyInCluster (clu key : Nat) : Bool :=
  (2 ^ 60 ≤ key && key < 2 ^ 61 && cluOfCore ((key - 2 ^ 60) / 2 ^ 18) == clu) ||
  (2 ^ 61 ≤ key && key < 2 ^ 62 && (key - 2 ^ 61) / 2 ^ 22 == clu)

/-- The HC lines that a cluster's cache holds go back to their homes (R170); its CP and SC copies are dropped, a reset being no
write-back of R180. -/
def cluFlush (s : State) (clu : Nat) : State :=
  (s.clu clu).lines.foldl (fun s e =>
    match e.2.attr with
    | .hc => if tracked s (e.1 / 4) then recallLine s (e.1 / 4) else s
    | .cp | .sc => s) s

/-- A cluster in its reset state: its tasks are killed, its registers, ownership entries and local memory as at reset with
every word FULL (R137); its READYCLU bit is clear until it is ready again. -/
def clusterReset (s : State) (clu : Nat) : State :=
  let s := (coresOf clu).foldl (fun s c => (List.range 8).foldl (fun s n =>
    if (s.strand c n).task.isSome then taskEnd s c n true else s) s) s
  let s := (coresOf clu).foldl (fun s c => savedEnd s c (fun _ => true) true) s
  let s := cluFlush s clu
  let win := fun (o : Nat) => cluWin clu ≤ o && o < cluWin clu + 0x1000000
  let here := fun (w : WaitEnt) => keyInCluster clu w.word
  let away := (s.waits.flatMap (·.2)).filter (fun w => here w && cluOfCore w.core != clu)
  let s := away.foldl (fun s w => s.updStrand w.core w.slot (fun x => { x with phase := .retry })) s
  let s : State := { s with
    strands := s.strands.filter (fun e => cluOfCore (e.1 / 8) != clu),
    cores := s.cores.filter (fun e => cluOfCore e.1 != clu),
    clusters := fdel s.clusters clu,
    regs := s.regs.filter (fun e => !win e.1), own := s.own.filter (fun e => !win e.1),
    mem := s.mem.filter (fun e => !keyInCluster clu e.1), fe := s.fe.filter (fun e => !keyInCluster clu e.1),
    soft := s.soft.filter (fun e => !keyInCluster clu e.1),
    homeReqs := s.homeReqs.filter (fun r => r.who != cluIndex clu),
    waits := s.waits.map (fun b => (b.1, b.2.filter (fun w => !here w && cluOfCore w.core != clu))) }
  regFld s (offREADYCLU (dieOfClu clu)) (clu % 64) (clu % 64) 0

/-- CLURST_WRITE (R302): each bit written 1 resets its cluster. -/
def execClurstWrite (die : Nat) (v : Word) (s : State) : Outc :=
  if 4 ≤ die then .next s
  else .next ((List.range 48).foldl (fun s c => if v.getLsbD c then clusterReset s (die * 64 + c) else s) s)

/-! ### Ownership maps (R136) -/

/-- Which entry an offset names: a scratchpad granule of a core, a shared block of a cluster, or a staging granule. -/
inductive OwnEntry where
  | scr (core g : Nat)
  | shr (clu b : Nat)
  | stg
  deriving DecidableEq, Repr

def ownEntry (off : Nat) : Option OwnEntry :=
  if 0x300000 ≤ off ∧ off < 0x340000 then if off % 0x10000 < 16 * 128 then some .stg else none
  else if 0x100000000 ≤ off ∧ off < 0x100000000 + 0x1000000 * 192 then
    let clu := cluOfIndex ((off - 0x100000000) / 0x1000000)
    let o := off % 0x1000000
    if 0x1000 ≤ o ∧ o < 0x1400 then some (.shr clu (o - 0x1000))
    else if 0x2000 ≤ o ∧ o < 0x6000 then some (.scr (coreOf clu ((o - 0x2000) / 0x400)) ((o - 0x2000) % 0x400))
    else none
  else none

/-- The private windows and scratchpad allocations of a core's tasks (base, length). -/
def coreScr (s : State) (core : Nat) : List (Nat × Nat) :=
  let of_ := fun (x : Strand) => match x.task with
    | some t => [(x.privbase, x.privlen), t.scr]
    | none => []
  ((List.range 8).flatMap (fun n => of_ (s.strand core n))) ++ (s.core core).saved.tasks.flatMap (fun e => of_ e.2)

/-- A running launch owns the entry. -/
def ownRunning (s : State) : OwnEntry → Bool
  | .scr core g => (coreScr s core).any (fun r => overlap r.1 r.2 (256 * g) 256)
  | .shr clu b => ((coresOf clu).flatMap (coreTasks s)).any (fun t => overlap t.shr.1 t.shr.2 (4096 * b) 4096)
  | .stg => false

/-- OWNERSHIP_MAP_WRITE (R136): bit 6 is reserved. -/
def execOwnershipMapWrite (off : Nat) (v : Byte) (s : State) : Outc :=
  match ownEntry off with
  | none => .next s
  | some e =>
    if ownRunning s e then .next s
    else
      let v := v &&& 0xBF#8
      .next { s with own := if v = 0 then fdel s.own off else fset s.own off v }

/-! ### Power-on and bring-up (R302 to R304) -/

def imgNum (m : Image) (o n : Nat) : Nat := fromBytes (slice m.header o n)
def imgKind (m : Image) : Nat := imgNum m 4 1
def imgSvn (m : Image) : Nat := imgNum m 0x0C 2
def imgKeySlot (m : Image) : Nat := imgNum m 0x0E 1 % 4

/-- An image is accepted (R303, R304). -/
def imgAccepted (m : Image) : Bool :=
  m.header.length == 256 && imgNum m 0 4 == 0x4B574649 && 1 ≤ imgKind m && imgKind m ≤ 6 && imgNum m 0x10 8 == m.body.length &&
  !Config.keyRevoked (imgKeySlot m) && Config.shake256 m.key == Config.keyHash (imgKeySlot m) &&
  Config.verify m.key (m.header.take 0x58) (slice m.header 0x58 114) &&
  Config.shake256 m.body == slice m.header 0x18 64 && Config.minSvn (imgKind m) ≤ imgSvn m

/-- What is kept of an accepted image (R305): KIND, VERSION, SVN, digest. -/
def imgRecord (m : Image) : Nat × Nat × Nat × List Byte := (imgKind m, imgNum m 8 4, imgSvn m, slice m.header 0x18 64)

/-- The images that are run: the management controller's own first, then each further one. -/
def acceptedImages : List Image → List (Nat × Nat × Nat × List Byte)
  | [] => []
  | m :: ms => if imgKind m = 1 && imgAccepted m then (m :: ms.filter imgAccepted).map imgRecord else []

/-- POWER_ON (R302): the reset state, with the images that are accepted; the model's own counters go on. -/
def execPowerOn (imgs : List Image) (s : State) : Outc :=
  .next { State.reset with
    turns := s.turns, turnNo := s.turnNo, freeNo := s.freeNo, nextId := s.nextId, outbox := s.outbox,
    mc := { Mc.init with images := acceptedImages imgs } }

def imageRuns (s : State) (kind : Nat) : Bool := s.mc.images.any (fun m => m.1 == kind)

/-- A function of READY can come up: the firmware it runs has been accepted, the stations wait for FABID (R213), LPDDR is
there on the module only. -/
def canReady (s : State) (bit : Nat) : Bool :=
  if s.fenced.contains bit then false
  else if bit < 8 then true
  else if bit < 24 then imageRuns s 5 && fabLive s
  else match bit with
    | 24 => imageRuns s 6
    | 25 => Config.isModule
    | 26 => imageRuns s 4
    | 27 => true
    | 28 => imageRuns s 2
    | 29 => imageRuns s 3
    | 30 => imageRuns s 1
    | _ => false

/-- FUNCTION_READY (R302): a bit of READY; from 64 on, the cluster of that ID plus 64. -/
def execFunctionReady (bit : Nat) (s : State) : Outc :=
  if 64 ≤ bit then
    let clu := bit - 64
    if cluExists clu && !(s.clu clu).halted && !s.fenced.contains bit then .next (regFld s (offREADYCLU (dieOfClu clu)) (clu % 64) (clu % 64) 1) else .next s
  else if canReady s bit then .next (regFld s offREADY bit bit 1) else .next s

/-- A unit is fenced off and its bit clears (R20, R302). -/
def fenceUnit (s : State) (bit : Nat) : State :=
  let s : State := { s with fenced := insertAsc bit s.fenced }
  if 64 ≤ bit then (if cluExists (bit - 64) then regFld s (offREADYCLU (dieOfClu (bit - 64))) (bit % 64) (bit % 64) 0 else s)
  else if bit < 31 then regFld s offREADY bit bit 0
  else s

/-- A read of a function's configuration space: STEPPING at 0x410 (R293, R7); of the rest the spec gives only where the
Kwedar DVSEC stands, so it answers a free value (notes/assumptions/93.md). -/
def cfgRead (s : State) (fn off : Nat) : State :=
  if 65 ≤ fn ∨ 4096 ≤ off ∨ off % 4 ≠ 0 then s
  else if off = 0x410 ∨ off = 0x414 then s.send (.answer 4 (toBytes 4 (stepping.toNat / 2 ^ (8 * (off - 0x410)))))
  else
    let (v, s) := s.free
    s.send (.answer 4 (toBytes 4 v.toNat))

/-! ### Attestation, power, I3C (R305, R306) -/

/-- The report of R305 before its signature: the nonce, STEPPING, the digest of the fuse state, a record per image. -/
def attestReport (s : State) (nonce : List Byte) : List Byte :=
  nonce ++ toBytes 8 stepping.toNat ++ Config.fuseDigest ++
  s.mc.images.flatMap (fun m => toBytes 1 m.1 ++ toBytes 4 m.2.1 ++ toBytes 2 m.2.2.1 ++ m.2.2.2)

/-- ATTESTATION_REQUEST (R305): the report with its signature and certificate. -/
def execAttestationRequest (nonce : List Byte) (s : State) : Outc :=
  let r := attestReport s nonce
  .next (s.send (.answer 2 (r ++ Config.sign r)))

/-- PWRCAP in watts: 4,100 by default, 4,400 on the module (R306). -/
def pwrcap (s : State) : Nat := s.mc.pwrcap.getD (if Config.isModule then 4400 else 4100)

/-- The first rotation that has not begun. -/
def nextRotation (s : State) : Nat := s.cycle / 8 + 1

/-- POWER_THROTTLE (R306): the next rotation of a core is idled, unless the 7 before it were. -/
def execPowerThrottle (core : Nat) (s : State) : Outc :=
  let n := nextRotation s
  let l := (s.core core).idled.filter (fun r => n < r + 8)
  if decide (7 ≤ n) && (List.range 7).all (fun i => l.contains (n - 1 - i)) then .next s
  else .next (s.updCore core (fun x => { x with idled := insertAsc n l }))

/-- THERMAL_TRIP (R306): power is removed. -/
def execThermalTrip (s : State) : Outc := .next { s with powered := false }

/-- I3C_REQUEST (R306): temperatures and power are readings of the outside, free values. -/
def execI3cRequest (what : I3cItem) (s : State) : Outc :=
  match what with
  | .temperatures | .power =>
    let (v, s) := s.free
    .next (s.send (.answer 3 (toBytes 8 v.toNat)))
  | .ready => .next (s.send (.answer 3 (toBytes 8 (regGet s offREADY).toNat)))
  | .stepping => .next (s.send (.answer 3 (toBytes 8 stepping.toNat)))
  | .crash => .next (s.send (.answer 3 (s.mc.crash.flatMap (fun w => toBytes 8 w.toNat))))

end Sys2Proof.Machine
end

