-- ==== Sys2Proof/Machine/Registers.lean ====
section
/-!
DEFINITION. Machine/Registers.lean: REGISTER_WRITE: an 8-byte write to PF0 BAR0 (00 R3, R4; 14 R294), with the locks of
the registers (03 R73, 07 R161, 09 R202, 10 R212, 14 R295) and the registers whose writes act.
-/
namespace Sys2Proof.Machine

/-- A register set that is locked while its EN, bit 63 of the register at `cfg`, is 1: a write is ignored, except one to that
register that clears EN. -/
def lockedWrite (s : State) (cfg off : Nat) (v : Word) : State :=
  if (regGet s cfg).getLsbD 63 ∧ ¬ (off = cfg ∧ ¬ v.getLsbD 63) then s else regWrite s off v

/-- SERVECTL (R73): TENANT is written only while ACTIVE and BUSY are 0; then ERR, then GO and DRAIN. -/
def servectlWrite (v : Word) (s : State) : Outc :=
  let v' := if servActive s || servBusy s then putFld v 13 8 (servTenant s) else v
  let s := regWrite s offSERV v'
  match v.getLsbD 0, v.getLsbD 1 with
  | false, false => .next s
  | true, false => execServectlGo s
  | false, true => execServectlDrain s
  | true, true =>
    match execServectlDrain s with
    | .next s => execServectlGo s
    | o => o

/-- A register of the serving control window (R73). -/
def servingWrite (off : Nat) (v : Word) (s : State) : Outc :=
  let o := off - offSERV
  if o = 0 then servectlWrite v s
  else if 0x40 ≤ o ∧ o < 0x60 ∧ o % 8 = 0 then execServemaskWrite ((o - 0x40) / 8) v s
  else if servActive s || servBusy s then .next s
  else .next (regWrite s off v)

/-- TSCMD (R161): a command, or DONE cleared by a write of 1 with KIND 0. -/
def tscmdWrite (v : Word) (s : State) : Outc :=
  match fld v 2 0 with
  | 0 => if (regGet s offTSCMD).getLsbD 8 then .next s else .next (regWrite s offTSCMD v)
  | 1 => execTscmdHandles s
  | 2 => execTscmdTlb s
  | 3 => execTscmdBoth s
  | 4 => execTscmdKick s
  | _ => .next s

/-- A landing-zone register (R202): EN that is cleared disables the zone. -/
def zoneWrite (core z off : Nat) (v : Word) (s : State) : State :=
  let cfg := offLZ core z
  if off = cfg ∧ (regGet s cfg).getLsbD 63 ∧ ¬ v.getLsbD 63 then regWrite (zoneDisableAt s core z) off v
  else if off = cfg + 0x18 then regWrite s off v
  else lockedWrite s cfg off v

/-- A register of a cluster's control window. A level enabled, or made the current one, may give held notices room (R275). -/
def clusterWrite (off : Nat) (v : Word) (s : State) : Outc :=
  let clu := cluOfIndex ((off - 0x100000000) / 0x1000000)
  let o := off % 0x1000000
  if o < 0x80 ∧ o % 0x20 = 0x10 then execFrptrHeadWrite clu (o / 0x20) v s
  else if o < 0x90 then .next (frRoom (regWrite s off v) clu)
  else if o = 0x110 then
    match fld v 1 0 with
    | 1 => execSlactRetry clu s
    | 2 => execSlactDiscard clu s
    | _ => .next s
  else if 0x1000 ≤ o ∧ o < 0x6000 then .next s
  else if 0x10000 ≤ o ∧ o < 0x20000 then .next (zoneWrite (coreOf clu ((o - 0x10000) / 0x1000)) (o % 0x1000 / 0x400) off v s)
  else if 0x100000 ≤ o ∧ o < 0x900000 then execDebugWindowAccess (coreOf clu ((o - 0x100000) / 0x80000)) (o % 0x80000) (some v) s
  else .next (regWrite s off v)

/-- A register of the fabric control window. -/
def fabricWrite (off : Nat) (v : Word) (s : State) : Outc :=
  let o := off - 0x230000
  if o = 0 then execFabidWrite v s
  else if 0x180 ≤ o ∧ o < 0x200 then execPeerfenceWrite ((o - 0x180) / 8) v s
  else if 0x1000 ≤ o ∧ o < 0x1800 then .next (lockedWrite s (off - o % 0x20) off v)
  else if 0x2000 ≤ o ∧ o < 0x3000 then .next (lockedWrite s (off - o % 0x10) off v)
  else .next (regWrite s off v)

/-- REGISTER_WRITE: an 8-byte aligned write to PF0's control space. -/
def execRegisterWrite (off : Nat) (v : Word) (s : State) : Outc :=
  if off % 8 ≠ 0 then .next s
  else if 0x10000 ≤ off ∧ off < 0x20000 then execWqDoorbell 0 ((off - 0x10000) / 8) v s
  else if 0x20000 ≤ off ∧ off < 0x30000 then execCqHeadWrite 0 ((off - 0x20000) / 8) v s
  else if off = 0x30000 then execTrstcmdGo v s
  else if 0x40040 ≤ off ∧ off < 0x40060 then execClurstWrite ((off - 0x40040) / 8) v s
  else if 0x100000 ≤ off ∧ off < 0x180000 then .next (lockedWrite s (off - off % 32 + 8) off v)
  else if 0x200000 ≤ off ∧ off < 0x210000 then servingWrite off v s
  else if off = offTSCMD then tscmdWrite v s
  else if off = offCMOCMD then execCmocmdFlush v s
  else if 0x230000 ≤ off ∧ off < 0x240000 then fabricWrite off v s
  else if 0x100000000 ≤ off ∧ off < 0x100000000 + 0x1000000 * 192 then clusterWrite off v s
  else .next (regWrite s off v)

end Sys2Proof.Machine
end

