-- ==== Sys2Proof/Machine/RegRead.lean ====
section
/-!
DEFINITION. Machine/RegRead.lean: an application hart's accesses of PF0's control space (14 R294): what a read answers, the
registers that show other state among them (03 R73, 05 R103, 07 R157, 09 R202, 10 R213, 13 R277), and a write.
-/
namespace Sys2Proof.Machine

/-- SLSTAT (R157): DISCARDED, HELD, FULL, COUNT. -/
def slstat (s : State) (clu : Nat) : Word :=
  let n := (s.clu clu).sidelog.length
  regGet s (offSLSTAT clu) ||| w64 (n % 2 ^ 9 + b2n (256 ≤ n) * 2 ^ 9 + b2n (s.clu clu).slHeld.isSome * 2 ^ 10)

/-- LZzSTATs of a slot (R202). -/
def lzStat (s : State) (core z slot : Nat) : Word :=
  let x := lzSlot s core z slot
  w64 (x.state + x.score % 4096 * 2 ^ 18 + x.sender % 1024 * 2 ^ 30)

/-- A register of landing zone `n` of a cluster, counted through its cores, at an offset (R202). The STAT words of slots 37 to
63 lie in the next zone's range, where it has no register; those of slots 32 to 36 are hidden by its own
(notes/assumptions/49.md). -/
def zoneRead (s : State) (clu n o : Nat) : Word :=
  let core := coreOf clu (n / 4)
  let z := n % 4
  if 64 ≤ n then (if n = 64 ∧ o < 0x100 then lzStat s (coreOf clu 15) 3 (32 + o / 8) else 0)
  else if o = 0x20 then w64 (lzZpend s core z)
  else if 0x20 < o ∧ o < 0x100 then (if n = 0 then 0 else lzStat s (coreOf clu ((n - 1) / 4)) ((n - 1) % 4) (32 + o / 8))
  else if 0x100 ≤ o ∧ o < 0x300 then w64 (lzSlot s core z ((o - 0x100) / 8)).pend
  else if 0x300 ≤ o then lzStat s core z ((o - 0x300) / 8)
  else regGet s (offLZ core z + o)

/-- A register of a cluster's control window. SLHELD.VA reads 0 where no page is held (notes/assumptions/49.md). -/
def clusterRead (s : State) (off : Nat) : Word :=
  let clu := cluOfIndex ((off - 0x100000000) / 0x1000000)
  let o := off % 0x1000000
  if o = 0x100 then slstat s clu
  else if o = 0x108 then w64 (match (s.clu clu).slHeld with | some h => h.2.2 | none => 0)
  else if 0x10000 ≤ o ∧ o < 0x20100 then zoneRead s clu ((o - 0x10000) / 0x400) (o % 0x400)
  else regGet s off

/-- An 8-byte register read. -/
def regRead (s : State) (off : Nat) : Word :=
  if 0x20000 ≤ off ∧ off < 0x30000 then w64 (fld (regGet s (offCQ ((off - 0x20000) / 8) + 16)) 31 0)
  else if off = offSERV + 0x70 then w64 s.front.free.length
  else if 0x230180 ≤ off ∧ off < 0x230200 then regGet s (off - 0x80)
  else if 0x400000 ≤ off ∧ off < 0x600000 then futWord (futOf s ((off - 0x400000) / 32)) (off % 32 / 8)
  else if 0x100000000 ≤ off ∧ off < 0x100000000 + 0x1000000 * 192 then clusterRead s off
  else regGet s off

/-- An 8-byte read: what it returns, and what it leaves, as the debug window may refuse it (R277, R279); a future is read as the
table serialises it (R113). -/
def regLoad (s : State) (off : Nat) : Word × State :=
  let o := off % 0x1000000
  if 0x100000000 ≤ off ∧ off < 0x100000000 + 0x1000000 * 192 ∧ 0x100000 ≤ o ∧ o < 0x900000 then
    dbgAccess s (coreOf (cluOfIndex ((off - 0x100000000) / 0x1000000)) ((o - 0x100000) / 0x80000)) (o % 0x80000) none
  else
    let s := if 0x400000 ≤ off ∧ off < 0x600000 then futNow s ((off - 0x400000) / 32) else s
    (regRead s off, s)

/-- A read of the debug window meets its soft errors (R288). -/
def regScan (s : State) (off : Nat) : State :=
  let o := off % 0x1000000
  if 0x100000000 ≤ off ∧ off < 0x100000000 + 0x1000000 * 192 ∧ 0x100000 ≤ o ∧ o < 0x900000 then
    dbgScan s (coreOf (cluOfIndex ((off - 0x100000000) / 0x1000000)) ((o - 0x100000) / 0x80000)) (o % 0x80000)
  else s

/-- One byte of the control space: an ownership entry (06 R136), or a byte of a register, whose errors are counted once, with
its first byte. -/
def ctlByte (s : State) (off : Nat) : Byte × State :=
  match fget? s.own off with
  | some b => (b, s)
  | none =>
    let (w, s) := regLoad (if off % 8 = 0 then regScan s off else s) (off / 8 * 8)
    (BitVec.ofNat 8 (w.toNat / 256 ^ (off % 8)), s)

/-- The state that a register write leaves; the hart goes on. -/
def regStore (s : State) (off : Nat) (w : Word) : State :=
  match execRegisterWrite off w s with
  | .next t => { t with cur := s.cur }
  | _ => s

/-- A hart's write: a register for each aligned 8 bytes, or one ownership entry; any other size is ignored
(notes/assumptions/79.md). -/
def ctlStore (s : State) (off : Nat) (bs : List Byte) : State :=
  match bs with
  | [b] =>
    match execOwnershipMapWrite off b s with
    | .next t => t
    | _ => s
  | bs =>
    if off % 8 = 0 ∧ bs.length % 8 = 0 then
      (List.range (bs.length / 8)).foldl (fun s i => regStore s (off + 8 * i) (w64 (fromBytes (slice bs (8 * i) 8)))) s
    else s

end Sys2Proof.Machine
end

