-- ==== Sys2Proof/Machine/HartMem.lean ====
section
/-!
DEFINITION. Machine/HartMem.lean: the memory accesses of an application hart: sandbox capabilities (05 R118), the page
tables (07 R147; Sv39 to Sv57 and the H extension's second stage as the RISC-V privileged architecture has them,
notes/assumptions/12.md, PRESUMED), and the bytes reached: through the system cache (08 R168 to R171), or in PF0's control
space (14 R294).
-/
namespace Sys2Proof.Machine

/-- How an access ends without its data: in a trap, with the state that it leaves, or waiting for a home (R171). -/
inductive HStop where
  | trap (cause tval gpa : Word) (gv : Bool) (s : State)
  | wait
  deriving DecidableEq, Repr

abbrev HRes (α : Type) := Except HStop α

/-! ### Capabilities -/

/-- The PERM bits a kind of access needs: X for fetch, R for loads, W for stores, R and W for AMOs (R118). -/
def capNeeds : HartAccess → Nat
  | .fetch => 4 | .load => 1 | .store => 2 | .amo => 3

/-- An unsealed capability that grants a kind of access. -/
def Cap.grants (c : Cap) (k : HartAccess) : Bool := !c.sealed && (c.perm.toNat &&& capNeeds k) == capNeeds k

/-- How many bytes from `va` on a capability covers (R117). -/
def Cap.prefixLen (c : Cap) (va : Nat) : Nat :=
  if c.base.toNat ≤ va then c.base.toNat + c.length.toNat - va else 0

/-- The capability check of R118: none where one unsealed capability with the permission covers the access, otherwise the
first byte address not covered. -/
def sandboxFail (h : Hart) (k : HartAccess) (va len : Nat) : Option Nat :=
  if !h.sbx then none
  else
    let best := (List.range 16).foldl (fun b i =>
      let c := fget .null h.caps i
      if c.grants k then max b (c.prefixLen va) else b) 0
    if len ≤ best then none else some ((va + best) % 2 ^ 64)

/-! ### Page tables -/

/-- The mode in which an access is made: a privilege, V, and whether a load asks for execute permission (HLVX). -/
structure HMode where
  priv : Nat
  virt : Bool
  exec : Bool
  deriving DecidableEq, Repr

/-- The mode of a hart's own accesses: with MPRV, M-mode loads and stores as mstatus.MPP and MPV say. -/
def Hart.mode (h : Hart) (k : HartAccess) : HMode :=
  let ms := h.rCsr 0x300
  if h.priv = 3 ∧ ms.getLsbD 17 ∧ k ≠ .fetch then
    { priv := fld ms 12 11, virt := ms.getLsbD 39 && fld ms 12 11 != 3, exec := false }
  else { priv := h.priv, virt := h.virt, exec := false }

/-- The RISC-V page-fault cause of a kind of access, of a guest stage or not. -/
def pageCause (k : HartAccess) (guest : Bool) : Word :=
  match k, guest with
  | .fetch, false => 12 | .load, false => 13 | .store, false => 15 | .amo, false => 15
  | .fetch, true => 20 | .load, true => 21 | .store, true => 23 | .amo, true => 23

/-- What a failed translation raises: the cause and the guest physical address. -/
abbrev XFail := Word × Nat

/-- A PTE that is reserved, whether a leaf or not: bits 60 to 54, a PBMT that is not enabled or is 3, and on a non-leaf A, D,
U, PBMT and N. -/
def pteReserved (pte : Nat) (pbmte leaf : Bool) : Bool :=
  bitsN pte 60 54 != 0 || (bitN pte 2 && !bitN pte 1) ||
  (if leaf then bitsN pte 62 61 == 3 || (!pbmte && bitsN pte 62 61 != 0)
   else bitsN pte 63 61 != 0 || bitsN pte 7 6 != 0 || bitN pte 4)

/-- The hardware error of the RISC-V privileged architecture (R289). -/
def xHardware : Word := 19

/-- A word that a hart reads: a single-bit error is corrected and counted by the agent die, a double-bit error is counted
and answered (R288, R289). -/
def hartEcc (s : State) (word : Nat) : State × Bool :=
  match fget? s.soft word with
  | none => (s, false)
  | some false => (eccAt { s with soft := fdel s.soft word } offECCAD false, false)
  | some true => (eccAt s offECCAD true, true)

/-- A walk of one stage: the leaf's physical address, its PTE's address and the PTE. `rd` turns a PTE's address into a
physical one; `n` levels, the first index `x` bits wider (R147; Svnapot at 64 KiB only). -/
def hartWalk (rd : State → Nat → Except XFail (Nat × State)) (bad : XFail) (pbmte : Bool) (va n x : Nat) :
    State → Nat → Nat → Except XFail ((Nat × Nat × Nat) × State)
  | _, _, 0 => .error bad
  | s, page, lvl + 1 =>
    let ga := page + 8 * bitsN va (20 + 9 * lvl + (if lvl + 1 = n then x else 0)) (12 + 9 * lvl)
    match rd s ga with
    | .error e => .error e
    | .ok (a, s) =>
      match hartEcc s (homeWord s a) with
      | (_, true) => .error (xHardware, 0)
      | (s, false) =>
      let pte := cohNat s a 8
      let leaf := bitsN pte 3 1 != 0
      if !bitN pte 0 || pteReserved pte pbmte leaf then .error bad
      else if !leaf then hartWalk rd bad pbmte va n x s (bitsN pte 53 10 * 4096) lvl
      else
        let ppn := bitsN pte 53 10
        if bitN pte 63 then
          if lvl = 0 ∧ ppn % 16 = 8 then .ok (((ppn / 16 * 16) * 4096 + va % 65536, ga, pte), s) else .error bad
        else if ppn % 512 ^ lvl = 0 then .ok ((ppn * 4096 + va % (4096 * 512 ^ lvl), ga, pte), s) else .error bad

/-- The permission that an access needs in a leaf. -/
def hartPerm (pte : Nat) (k : HartAccess) (m : HMode) (user sum mxr : Bool) : Bool :=
  let u := bitN pte 4
  let uOk := if user then u else (!u || (sum && k != .fetch))
  let p := match k with
    | .fetch => bitN pte 3
    | .load => if m.exec then bitN pte 3 else bitN pte 1 || (mxr && bitN pte 3)
    | .store => bitN pte 2
    | .amo => bitN pte 1 && bitN pte 2
  uOk && p

/-- The A bit, and D for a store: set by the hart with ADUE, a page fault without (R147). `wr` turns the PTE's address into the
physical one that is written. -/
def hartAD (wr : State → Nat → Except XFail (Nat × State)) (bad : XFail) (s : State) (adue : Bool) (ga pte : Nat)
    (k : HartAccess) : Except XFail State :=
  let d := k = .store || k = .amo
  if bitN pte 6 && (!d || bitN pte 7) then .ok s
  else if adue then
    match wr s ga with
    | .error e => .error e
    | .ok (a, s) => .ok (cohPutNat s a 8 (pte ||| 0x40 ||| (if d then 0x80 else 0)))
  else .error bad

/-- The levels of a page-table mode: 8 Sv39, 9 Sv48, 10 Sv57. -/
def atpLevels (atp : Word) : Nat := fld atp 63 60 - 5

/-- The second stage of a guest (hgatp): the identity where it is bare. `k` is the access it is checked as, `orig` the access
whose guest-page fault it raises. -/
def gStage (h : Hart) (k orig : HartAccess) (m : HMode) (s : State) (ga : Nat) : Except XFail (Nat × State) :=
  let hg := h.rCsr 0x680
  let bad : XFail := (pageCause orig true, ga)
  if fld hg 63 60 = 0 then .ok (ga, s)
  else
    let n := atpLevels hg
    if 2 ^ (14 + 9 * n) ≤ ga then .error bad
    else match hartWalk (fun s a => .ok (a, s)) bad ((h.rCsr 0x30A).getLsbD 62) ga n 2 s (fld hg 43 2 * 16384) n with
    | .error e => .error e
    | .ok ((pa, a, pte), s) =>
      if hartPerm pte k m true false ((h.rCsr 0x300).getLsbD 19) then
        match hartAD (fun s a => .ok (a, s)) bad s ((h.rCsr 0x30A).getLsbD 61) a pte k with
        | .ok s => .ok (pa, s)
        | .error e => .error e
      else .error bad

/-- The address of a page-table base is canonical for its levels. -/
def canonicalVa (va n : Nat) : Bool :=
  let top := bitsN va 63 (11 + 9 * n)
  top = 0 || top = 2 ^ (53 - 9 * n) - 1

/-- A hart's translation of one VA: the physical address, or the trap's cause and guest physical address. A read of a guest's
PTE is a read of the second stage, and so is its update a write. -/
def hartXlate (s : State) (h : Hart) (m : HMode) (k : HartAccess) (va : Nat) : Except XFail (Nat × State) :=
  if m.priv = 3 then .ok (va % 2 ^ 56, s)
  else
    let atp := h.rCsr (if m.virt then 0x280 else 0x180)
    let st := h.rCsr (if m.virt then 0x200 else 0x300)
    let rd := fun (k' : HartAccess) (s : State) (ga : Nat) =>
      if m.virt then gStage h k' k { m with exec := false } s ga else .ok (ga, s)
    let bad : XFail := (pageCause k false, 0)
    let mxr := st.getLsbD 19 || (h.rCsr 0x300).getLsbD 19
    let n := atpLevels atp
    let first : Except XFail (Nat × State) :=
      if fld atp 63 60 = 0 then .ok (va, s)
      else if !canonicalVa va n then .error bad
      else match hartWalk (rd .load) bad (h.envBit m.virt 62) va n 0 s (fld atp 43 0 * 4096) n with
        | .error e => .error e
        | .ok ((pa, a, pte), s) =>
          if hartPerm pte k m (m.priv = 0) (st.getLsbD 18) mxr then
            match hartAD (rd .store) bad s (h.envBit m.virt 61) a pte k with
            | .ok s => .ok (pa, s)
            | .error e => .error e
          else .error bad
    match first with
    | .error e => .error e
    | .ok (ga, s) =>
      if m.virt then
        match gStage h k k m s ga with
        | .ok r => .ok r
        | .error (c, g) => .error (c, g)
      else .ok (ga % 2 ^ 56, s)

/-- A hart's translation of a range, page by page: the pieces of physical memory, or the first page's trap. -/
def hartPages (h : Hart) (m : HMode) (k : HartAccess) : Nat → State → Nat → Nat → Except (XFail × Nat) (List (Nat × Nat) × State)
  | 0, s, _, _ => .ok ([], s)
  | fuel + 1, s, va, len =>
    if len = 0 then .ok ([], s)
    else
      let c := min len (4096 - va % 4096)
      match hartXlate s h m k va with
      | .error e => .error (e, va)
      | .ok (pa, s) =>
        match hartPages h m k fuel s ((va + c) % 2 ^ 64) (len - c) with
        | .error e => .error e
        | .ok (l, s) => .ok ((pa, c) :: l, s)

/-- Pointer masking (Supm, Ssnpm): a data address whose upper bits the mode's PMM field ignores. -/
def hartPtr (h : Hart) (m : HMode) (k : HartAccess) (va : Nat) : Nat :=
  let pmm :=
    if k = .fetch then 0
    else if m.priv = 3 then fld (h.rCsr 0x747) 33 32
    else if (h.rCsr (if m.virt then 0x200 else 0x300)).getLsbD 19 then 0
    else if m.priv = 0 then fld (h.rCsr 0x10A) 33 32
    else fld (h.rCsr (if m.virt then 0x60A else 0x30A)) 33 32
  let n := if pmm = 2 then 7 else if pmm = 3 then 16 else 0
  if n = 0 then va
  else if m.priv = 3 || fld (h.rCsr (if m.virt then 0x280 else 0x180)) 63 60 = 0 then va % 2 ^ (64 - n)
  else (sextN (64 - n) va).toNat

/-- Where a hart's access falls: the capability check first, then the page tables (R118). -/
def hartReach (s : State) (h : Hart) (m : HMode) (k : HartAccess) (va len : Nat) : HRes (List (Nat × Nat) × State) :=
  let va := hartPtr h m k va
  match sandboxFail h k va len with
  | some a => .error (.trap xCapFault (w64 a) 0 m.virt s)
  | none =>
    match hartPages h m k (len / 4096 + 2) s va len with
    | .error ((c, ga), va) =>
      .error (.trap c (w64 va) (w64 ga) m.virt (if c = xHardware then eccAt s offECCAD true else s))
    | .ok r => .ok r

/-! ### The bytes -/

/-- The offset in PF0's control space of a physical address that reaches it (R294, R461). -/
def ctlOff (pa : Nat) : Option Nat := if 0x7F00000000 ≤ pa ∧ pa < 0x8100000000 then some (pa - 0x7F00000000) else none

/-- A hart reads one byte of its own line, as `code` or as data (R168 to R170): all ones outside the populated ranges (R461). -/
def sysByte (s : State) (n : Nat) (code : Bool) (pa : Nat) : HRes (Byte × State) :=
  match ctlOff pa with
  | some o => .ok (ctlByte s o)
  | none =>
    if !physOk pa then .ok (0xFF, s)
    else match hartEcc s (if (hcHeld s 192 (lineOf pa)).isSome then cacheKey 192 0 pa else homeWord s pa) with
      | (s, true) => .error (.trap xHardware 0 0 false s)
      | (s, false) =>
        match sysTake s (lineOf pa) false with
        | none => .error .wait
        | some s =>
          let d := ((hcHeld s 192 (lineOf pa)).map (·.2)).getD []
          .ok (d.getD (pa % 128) 0, l1Take s n (lineOf pa) code false)

def sysRead (s : State) (n : Nat) (code : Bool) (pa : Nat) : Nat → HRes (List Byte × State)
  | 0 => .ok ([], s)
  | k + 1 =>
    match sysByte s n code pa with
    | .error e => .error e
    | .ok (b, s) =>
      match sysRead s n code (pa + 1) k with
      | .error e => .error e
      | .ok (bs, s) => .ok (b :: bs, s)

/-- A hart writes one byte of a line that it owns; outside the populated ranges it is discarded (R461). -/
def sysPutByte (s : State) (n pa : Nat) (b : Byte) : HRes State :=
  if !physOk pa then .ok s
  else match sysTake s (lineOf pa) true with
    | none => .error .wait
    | some s =>
      let d := ((hcHeld s 192 (lineOf pa)).map (·.2)).getD []
      .ok (l1Take (hcPut s 192 (lineOf pa) (some (.m, d.set (pa % 128) b))) n (lineOf pa) false true)

def sysPutBytes (s : State) (n pa : Nat) : List Byte → HRes State
  | [] => .ok s
  | b :: bs =>
    match sysPutByte s n pa b with
    | .error e => .error e
    | .ok s => sysPutBytes s n (pa + 1) bs

/-- A hart's store: to a register of the control space, or to its lines, whose soft errors a word written whole ends. -/
def sysWrite (s : State) (n pa : Nat) (bs : List Byte) : HRes State :=
  match ctlOff pa with
  | some o => .ok (ctlStore s o bs)
  | none => sysPutBytes (softClear s (cacheKey 192 0 pa + pa % 8) bs.length) n pa bs

/-- The pieces of an access read in order. -/
def readPieces (s : State) (n : Nat) (code : Bool) : List (Nat × Nat) → HRes (List Byte × State)
  | [] => .ok ([], s)
  | (pa, c) :: l =>
    match sysRead s n code pa c with
    | .error e => .error e
    | .ok (bs, s) =>
      match readPieces s n code l with
      | .error e => .error e
      | .ok (bs', s) => .ok (bs ++ bs', s)

def writePieces (s : State) (n : Nat) : List (Nat × Nat) → List Byte → HRes State
  | [], _ => .ok s
  | (pa, c) :: l, bs =>
    match sysWrite s n pa (bs.take c) with
    | .error e => .error e
    | .ok s => writePieces s n l (bs.drop c)

/-- The trap value of an access that has reached a word with an error is its address. -/
def errorAt (va : Word) (gv : Bool) : HStop → HStop
  | .trap c _ g _ s => .trap c va g gv s
  | .wait => .wait

/-- A hart reads `len` bytes at a VA. -/
def hartLoadM (s : State) (h : Hart) (m : HMode) (k : HartAccess) (va : Word) (len : Nat) : HRes (List Byte × State) :=
  match hartReach s h m k va.toNat len with
  | .error e => .error e
  | .ok (l, s) => (readPieces s s.hartId (k == .fetch) l).mapError (errorAt va m.virt)

/-- A hart writes bytes at a VA. -/
def hartStoreM (s : State) (h : Hart) (m : HMode) (va : Word) (bs : List Byte) : HRes State :=
  match hartReach s h m .store va.toNat bs.length with
  | .error e => .error e
  | .ok (l, s) => writePieces s s.hartId l bs

def hartLoad (s : State) (h : Hart) (k : HartAccess) (va : Word) (len : Nat) : HRes (List Byte × State) :=
  hartLoadM s h (h.mode k) k va len
def hartStore (s : State) (h : Hart) (va : Word) (bs : List Byte) : HRes State := hartStoreM s h (h.mode .store) va bs

/-- What a stop leaves: the trap taken, or the hart as it is, which tries again (R171). -/
def hartStop (s : State) : HStop → State
  | .wait => s
  | .trap cause tval gpa gv s => s.setHart s.hartId (s.myHart.trapAt cause tval gpa gv)

end Sys2Proof.Machine
end

