-- ==== Sys2Proof/Machine/RvBase.lean ====
section
/-!
DEFINITION. Machine/RvBase.lean: what the RISC-V instructions of an application hart share (05 R116; notes/assumptions/14.md,
PRESUMED): how one ends, its immediates, the integer arithmetic, and the soft errors of the register files (01 R20, 13 R289).
-/
namespace Sys2Proof.Machine

/-- What an instruction comes to: the hart it leaves, its pc at the next instruction, and the state; or a stop. -/
abbrev Rv := HRes (Hart × State)

def Rv.next (h : Hart) (s : State) : Rv := .ok (h, s)

/-- An exception raised before the instruction has changed anything. -/
def Rv.trap (s : State) (cause tval : Word) (gv : Bool := false) : Rv := .error (.trap cause tval 0 gv s)

/-- An illegal instruction; its trap value is the word. -/
def Rv.illegal (s : State) (w : W32) : Rv := Rv.trap s xIllegal (w.zeroExtend 64)

/-- An instruction refused with a cause that depends on the mode. -/
def Rv.refused (s : State) (w : W32) (cause : Word) : Rv := Rv.trap s cause (w.zeroExtend 64)

/-! ### Integer arithmetic -/

def sx32 (n : Nat) : Word := sextN 32 n

/-- Leading zeros of an `n`-bit number. -/
def leadZeros (n v : Nat) : Nat := if v % 2 ^ n = 0 then n else n - 1 - (v % 2 ^ n).log2

/-- Trailing zeros of an `n`-bit number. -/
def trailZeros (n v : Nat) : Nat := ((List.range n).find? (bitN v)).getD n

def popCount (n v : Nat) : Nat := ((List.range n).filter (bitN v)).length

def rotLeft (n v k : Nat) : Nat := (v * 2 ^ (k % n) + v / 2 ^ (n - k % n)) % 2 ^ n

/-- Each byte all ones where it is not zero. -/
def orcB (v : Nat) : Nat := fromBytes ((toBytes 8 v).map (fun b => if b = 0 then 0#8 else 0xFF#8))

/-- A quotient or remainder; by zero, all ones or the dividend (RISC-V M). -/
def divS (a b : Word) : Word := if b = 0#64 then BitVec.allOnes 64 else BitVec.ofInt 64 (a.toInt.tdiv b.toInt)
def remS (a b : Word) : Word := if b = 0#64 then a else BitVec.ofInt 64 (a.toInt.tmod b.toInt)
def divU (a b : Word) : Word := if b = 0#64 then BitVec.allOnes 64 else a / b
def remU (a b : Word) : Word := if b = 0#64 then a else a % b

def sltW (a b : Word) : Word := if a.toInt < b.toInt then 1 else 0
def sltuW (a b : Word) : Word := if a < b then 1 else 0
def sraW (a : Word) (k : Nat) : Word := a.sshiftRight k

/-! ### Immediates -/

def immI (w : Nat) : Word := sextN 12 (bitsN w 31 20)
def immS (w : Nat) : Word := sextN 12 (bitsN w 31 25 * 32 + bitsN w 11 7)
def immB (w : Nat) : Word := sextN 13 (bitsN w 31 31 * 4096 + bitsN w 7 7 * 2048 + bitsN w 30 25 * 32 + bitsN w 11 8 * 2)
def immU (w : Nat) : Word := sx32 (bitsN w 31 12 * 4096)
def immJ (w : Nat) : Word :=
  sextN 21 (bitsN w 31 31 * 2 ^ 20 + bitsN w 19 12 * 4096 + bitsN w 20 20 * 2048 + bitsN w 30 21 * 2)
def regAt (w lo : Nat) : BitVec 5 := BitVec.ofNat 5 (w / 2 ^ lo)

/-! ### Soft errors of the register files (R20, R288, R289) -/

/-- The registers that an instruction reads, by their numbers in `hregKey`; a double-bit error in one of them is answered. -/
def hartScan (s : State) (regs : List Nat) : State × Bool :=
  regs.foldl (fun r n =>
    let (s, b) := hartEcc r.1 (hregKey s.hartId n)
    (s, r.2 || b)) (s, false)

/-- Registers written whole lose their errors. -/
def hartWrote (s : State) (regs : List Nat) : State :=
  { s with soft := regs.foldl (fun m n => fdel m (hregKey s.hartId n)) s.soft }

def xReg (r : Nat) : List Nat := if r = 0 then [] else [r]
def fReg (r : Nat) : List Nat := [32 + r]
def vRegs (r n : Nat) : List Nat := (List.range n).map (64 + r + ·)
def capReg (r : Nat) : List Nat := [96 + r]

/-- The x and f registers that an instruction reads, and those it writes. -/
def rvRegs (n : Nat) : List Nat × List Nat :=
  let rd := bitsN n 11 7
  let r1 := bitsN n 19 15
  let r2 := bitsN n 24 20
  let f3 := bitsN n 14 12
  let f7 := bitsN n 31 25
  let mem := xReg r1 ++ (if (f3 = 0 ∨ 5 ≤ f3) ∧ bitsN n 27 26 = 2 then xReg r2 else [])
  match bitsN n 6 0 with
  | 0x37 | 0x17 | 0x6F => ([], xReg rd)
  | 0x67 | 0x03 | 0x13 | 0x1B => (xReg r1, xReg rd)
  | 0x63 | 0x23 => (xReg r1 ++ xReg r2, [])
  | 0x33 | 0x3B | 0x2F => (xReg r1 ++ xReg r2, xReg rd)
  | 0x0F => (if f3 = 2 then xReg r1 else [], [])
  | 0x73 => match f3 with
    | 0 => (if [0x09, 0x0B, 0x11, 0x13, 0x31, 0x33].contains f7 then xReg r1 ++ xReg r2 else [], [])
    | 4 =>
      if 0x38 ≤ f7 then ([], xReg rd)
      else (xReg r1 ++ (if f7 % 2 = 1 then xReg r2 else []), if f7 % 2 = 1 then [] else xReg rd)
    | _ => (if f3 < 4 then xReg r1 else [], xReg rd)
  | 0x07 => (mem, if 1 ≤ f3 ∧ f3 ≤ 3 then fReg rd else [])
  | 0x27 => (mem ++ (if 1 ≤ f3 ∧ f3 ≤ 3 then fReg r2 else []), [])
  | 0x43 | 0x47 | 0x4B | 0x4F => (fReg r1 ++ fReg r2 ++ fReg (bitsN n 31 27), fReg rd)
  | 0x53 => match f7 / 4 with
    | 0x18 | 0x1C => (fReg r1, xReg rd)
    | 0x1A => (xReg r1, fReg rd)
    | 0x1E => (if r2 = 1 then [] else xReg r1, fReg rd)
    | 0x14 => (fReg r1 ++ fReg r2, xReg rd)
    | 0x0B | 0x08 => (fReg r1, fReg rd)
    | _ => (fReg r1 ++ fReg r2, fReg rd)
  | 0x57 => match f3 with
    | 4 | 6 => (xReg r1, [])
    | 5 => (fReg r1, [])
    | 7 => (if bitsN n 31 30 = 3 then [] else xReg r1 ++ (if bitsN n 31 31 = 1 then xReg r2 else []), xReg rd)
    | _ => ([], if f7 / 2 = 0x10 then (if f3 = 2 then xReg rd else if f3 = 1 then fReg rd else []) else [])
  | _ => ([], [])

end Sys2Proof.Machine
end

