-- ==== Sys2Proof/Machine/Harts.lean ====
section
/-!
DEFINITION. Machine/Harts.lean: the application harts: the Xkwedar instructions (05 R117 to R120, R112; 17 R381, R382),
sandbox accesses and traps (05 R118), SRET, and the management controller's trap banks (13 R290, R291).
-/
namespace Sys2Proof.Machine

/-- Sandbox mode (R118). -/
def Hart.sandboxed (h : Hart) : Bool := h.sbx && h.priv == 0

/-- A hart writes a register and goes on. -/
def hartSet (s : State) (h : Hart) (rd : BitVec 5) (w : Word) : State := hartNext (hartWrote s (xReg rd.toNat)) (h.wX rd w)

/-- A hart writes a capability register and goes on. -/
def hartCap (s : State) (h : Hart) (cd : BitVec 4) (c : Cap) : State := hartNext (hartWrote s (capReg cd.toNat)) (h.setCap cd c)

/-- A trap taken by the hart whose instruction this is, or its instruction left to be tried again (R171). -/
def hartFail (s : State) (e : HStop) : Outc := .next (hartStop s e)

/-- A use that its mode excludes (R119): an illegal-instruction exception, its trap value the word. -/
def hartIllegal (i : Instr) (s : State) : State := hartTrap s xIllegal (((encodeKw i).getD 0).zeroExtend 64)

/-! ### Capabilities -/

/-- A capability from the words of memory (R119): a word 3 or reserved bits that are not zero give the null capability. -/
def capOf (bs : List Byte) : Cap :=
  let w := fun i : Nat => fromBytes (slice bs (8 * i) 8)
  if w 3 = 0 ∧ w 2 < 32 then
    { base := w64 (w 0), length := w64 (w 1), sealed := bitN (w 2) 4, perm := BitVec.ofNat 4 (w 2) }
  else .null

/-- KW.CAPLD (R119, R382). -/
def execKwCapld (cd : BitVec 4) (rs1 : BitVec 5) (s : State) : Outc :=
  let h := s.myHart
  let a := h.rX rs1
  if h.priv = 0 then .next (hartIllegal (.kwCapld cd rs1) s)
  else if a.toNat % 32 ≠ 0 then .next (hartTrap s xLoadMisaligned a)
  else match hartLoad s h .load a 32 with
    | .error e => hartFail s e
    | .ok (bs, s) => .next (hartCap s h cd (capOf bs))

/-- KW.CAPNAR (R119, R382). -/
def execKwCapnar (cd ca : BitVec 4) (rs1 rs2 : BitVec 5) (s : State) : Outc :=
  let h := s.myHart
  let c := h.cap ca
  let a := h.rX rs1
  let n := fld (h.rX rs2) 59 0
  if !c.sealed && c.base.toNat ≤ a.toNat && a.toNat + n ≤ min (c.base.toNat + c.length.toNat) (2 ^ 64) then
    .next (hartCap s h cd
      { base := a, length := w64 n, sealed := false, perm := c.perm &&& BitVec.ofNat 4 (fld (h.rX rs2) 63 60) })
  else .next (hartTrap s xCapFault a)

/-- KW.CAPCLR (R119). -/
def execKwCapclr (cd : BitVec 4) (s : State) : Outc := .next (hartCap s s.myHart cd .null)

/-- kwsbxepc (R117). -/
def csrKWSBXEPC : Nat := 0x9C1

/-- KW.SBXENT (R119, R381): from HS to U, or from VS to VU. An odd rs1 becomes the pc as it is, and the fetch is made there with
no exception for it, which the spec leaves open (DESIGN CHOICE, notes/assumptions/101.md). -/
def execKwSbxent (rs1 : BitVec 5) (s : State) : Outc :=
  let h := s.myHart
  if h.priv ≠ 1 then .next (hartIllegal (.kwSbxent rs1) s)
  else
    .next (s.setHart s.hartId
      { (h.wCsr csrKWSBXEPC (h.pc + 4#64)).goes (h.rX rs1) with priv := 0, sbx := true })

/-- KW.SBXRET (R119). -/
def execKwSbxret (s : State) : Outc :=
  let h := s.myHart
  if h.sandboxed then .next (s.setHart s.hartId { h.goes (h.rCsr csrKWSBXEPC) with sbx := false, priv := 1 })
  else .next (hartIllegal .kwSbxret s)

/-! ### Tool queues and futures -/

/-- The capability check of a range, in sandbox mode only (R120, R112). -/
def capRangeFails (h : Hart) (k : HartAccess) (va len : Nat) : Bool := (sandboxFail h k va len).isSome

/-- KW.TQPOP's pop once its checks have passed, to the places that its 64 bytes have: the status, and what a pop leaves;
nothing is popped where the write must wait (R171). -/
def tqPopTo (rd : BitVec 5) (cd : BitVec 4) (q : Nat) (places : List (Nat × Nat)) (s : State) : State :=
  let h := s.myHart
  match tqPop unitRead s q with
  | (none, s) => hartSet s h rd 1
  | (some (e, _), t) =>
    match writePieces t t.hartId places e with
    | .error _ => s
    | .ok t =>
      let c : Cap := { base := w64 (fromBytes (e.take 8)), length := 0, sealed := true, perm := 8 }
      hartSet (hartWrote t (capReg cd.toNat)) (h.setCap cd c) rd 0

/-- KW.TQPOP (R120, R382). -/
def execKwTqpop (rd : BitVec 5) (cd : BitVec 4) (rs1 rs2 : BitVec 5) (s : State) : Outc :=
  let h := s.myHart
  let q := (h.rX rs1).toNat
  let a := h.rX rs2
  if capRangeFails h .store a.toNat 64 then .next (hartTrap s xCapFault a)
  else if a.toNat % 64 ≠ 0 then .next (hartTrap s xStoreMisaligned a)
  else match hartReach s h (h.mode .store) .store a.toNat 64 with
    | .error e => hartFail s e
    | .ok (places, s) =>
      let d := tqDesc s q
      if 255 < q || !d.valid || d.remote || d.tenant ≠ fld h.kwtenant 5 0 then .next (hartSet s h rd 3)
      else .next (tqPopTo rd cd q places s)

/-- A sealed future capability (R112). -/
def Cap.future (c : Cap) : Bool := c.sealed && c.perm.getLsbD 3

/-- The token of a future's arguments at an index (R119): all ones where there is none. -/
def futArg (s : State) (key : Word) (n : Nat) : Word :=
  match futMatch s key with
  | some (_, f) =>
    if f.live && n < argLen s f then
      match unitRead s f.tenant (rqGet s f.req rqHIST + 4 * (f.argpos + n)) 4 with
      | some bs => w64 (fromBytes bs)
      | none => BitVec.allOnes 64
    else BitVec.allOnes 64
  | none => BitVec.allOnes 64

/-- The table's read of that token (R288). -/
def futArgScan (s : State) (key : Word) (n : Nat) : State :=
  match futMatch s key with
  | some (_, f) => if f.live && n < argLen s f then unitScan s f.tenant (rqGet s f.req rqHIST + 4 * (f.argpos + n)) 4 else s
  | none => s

/-- KW.FUTARG (R119). -/
def execKwFutarg (rd : BitVec 5) (ca : BitVec 4) (rs1 : BitVec 5) (s : State) : Outc :=
  let h := s.myHart
  let c := h.cap ca
  if c.future then
    let s := futArgScan (futNow s (fld c.base 15 0)) c.base (h.rX rs1).toNat
    .next (hartSet s h rd (futArg s c.base (h.rX rs1).toNat))
  else .next (hartSet s h rd (BitVec.allOnes 64))

/-- The reply tokens that a completion injects: none of them is read unless the future takes the reply (R112). -/
def futTokens (s : State) (h : Hart) (key va : Word) (n : Nat) : HRes (List Nat × State) :=
  match futMatch s key with
  | some (_, f) =>
    if f.live then
      let size := rqGet s f.req rqPFQSIZE
      if size < n then .ok (List.replicate (size + 1) 0, s)
      else match hartLoad s h .load va (4 * n) with
        | .error e => .error e
        | .ok (bs, s) => .ok ((List.range n).map (fun j => fromBytes (slice bs (4 * j) 4)), s)
    else .ok ([], s)
  | none => .ok ([], s)

/-- KW.FUTCPL (R112, R382). -/
def execKwFutcpl (rd : BitVec 5) (ca : BitVec 4) (rs1 rs2 : BitVec 5) (s : State) : Outc :=
  let h := s.myHart
  let c := h.cap ca
  let a := h.rX rs1
  let n := (h.rX rs2).toNat
  if !c.future then .next (hartTrap s xCapFault 0)
  else if a.toNat % 4 ≠ 0 then .next (hartTrap s xLoadMisaligned a)
  else if n ≠ 0 && capRangeFails h .load a.toNat (4 * n) then .next (hartTrap s xCapFault a)
  else match futTokens (futNow s (fld c.base 15 0)) h c.base a n with
    | .error e => hartFail s e
    | .ok (toks, s) =>
      let (st, s) := futComplete (unitRelease s) c.base (some toks) 0
      .next (hartSet (hartWrote s (capReg ca.toNat)) (h.setCap ca .null) rd (w64 st))

/-- KW.FUTFAIL (R119). -/
def execKwFutfail (rd : BitVec 5) (ca : BitVec 4) (rs1 : BitVec 5) (s : State) : Outc :=
  let h := s.myHart
  let c := h.cap ca
  if !c.future then .next (hartTrap s xCapFault 0)
  else
    let (st, s) := futComplete (unitRelease s) c.base none (fld (h.rX rs1) 31 0)
    .next (hartSet (hartWrote s (capReg ca.toNat)) (h.setCap ca .null) rd (w64 st))

/-- KW.REL (R119, R179). -/
def execKwRel (s : State) : Outc := .next (hartNext (unitRelease s) s.myHart)

/-! ### Sandbox accesses and traps -/

/-- SANDBOX_ACCESS (R118): an access in sandbox mode is checked against the capabilities, then by the page tables; a fetch,
load or AMO then takes what it reads. -/
def execSandboxAccess (hart : Nat) (kind : HartAccess) (va : Word) (len : Nat) (s : State) : Outc :=
  let s' := { s with cur := .hart hart }
  let h := s.hart hart
  if h.sandboxed then
    match kind with
    | .store =>
      match hartReach s' h (h.mode kind) kind va.toNat len with
      | .error e => hartFail s' e
      | .ok (_, s) => .next s
    | kind =>
      match hartLoad s' h kind va len with
      | .error e => hartFail s' e
      | .ok (_, s) => .next s
  else .next s

/-- SANDBOX_TRAP (R118): a trap of another kind taken from sandbox mode. -/
def execSandboxTrap (hart : Nat) (cause tval : Word) (s : State) : Outc :=
  let h := s.hart hart
  if h.sandboxed then .next (s.setHart hart (h.trap cause tval)) else .next s

/-- XKWEDAR_ILLEGAL_INSTRUCTION (R334). -/
def execXkwedarIllegal (w : W32) (s : State) : Outc := .next (hartTrap s xIllegal (w.zeroExtend 64))

/-- SRET (R118). It is illegal in U-mode and where mstatus.TSR or hstatus.VTSR traps it. -/
def execSret (s : State) : Outc :=
  let h := s.myHart
  match h.sretTrap with
  | some c => .next (hartTrap s c (sretWord.zeroExtend 64))
  | none => .next (s.setHart s.hartId h.sret)

/-! ### The management controller (R290, R291) -/

/-- The crash record of a third trap. -/
def crashRecord (old : List Word) (b0 b1 : McBank) (pc cause : Word) : List Word :=
  let n := min (fld (old.getD 0 0) 63 32 + 1) (2 ^ 32 - 1)
  [w64 (0x4B435231 + n * 2 ^ 32), b0.mcause, b0.mepc, b0.mtval, b1.mcause, b1.mepc, cause, pc]

/-- MC_TRAP (R290): a bank is filled, or with both in use the crash record is written and the controller resets: its READY bit
clears until the firmware is back (R302). -/
def execMcTrap (pc cause tval status : Word) (s : State) : Outc :=
  let b : McBank := { mepc := pc, mcause := cause, mtval := tval, mstatus := status }
  match s.mc.banks with
  | b0 :: b1 :: _ => .next (regFld { s with mc := { s.mc with banks := [], crash := crashRecord s.mc.crash b0 b1 pc cause } } offREADY 30 30 0)
  | l => .next { s with mc := { s.mc with banks := l ++ [b] } }

/-- MRET (R290): the highest bank in use is freed. -/
def execMret (s : State) : Outc := .next { s with mc := { s.mc with banks := s.mc.banks.dropLast } }

end Sys2Proof.Machine
end

