-- ==== Sys2Proof/Machine/Dispatch.lean ====
section
/-!
DEFINITION. Machine/Dispatch.lean: one arm per operation and event of the opcode table, each one call of its meaning.
-/
namespace Sys2Proof.Machine

/-- What an instruction or event does. -/
def exec (i : Instr) (s : State) : Host.Outcome State Fault Refusal :=
  match i with
  | .add g sd sa sb => Sys2Proof.Machine.execAdd g sd sa sb s
  | .addImm g sd sa imm => Sys2Proof.Machine.execAddImm g sd sa imm s
  | .sub g sd sa sb => Sys2Proof.Machine.execSub g sd sa sb s
  | .mul g sd sa sb => Sys2Proof.Machine.execMul g sd sa sb s
  | .mulh g u sd sa sb => Sys2Proof.Machine.execMulh g u sd sa sb s
  | .div g u sd sa sb => Sys2Proof.Machine.execDiv g u sd sa sb s
  | .rem g u sd sa sb => Sys2Proof.Machine.execRem g u sd sa sb s
  | .and g sd sa sb => Sys2Proof.Machine.execAnd g sd sa sb s
  | .andImm g sd sa imm => Sys2Proof.Machine.execAndImm g sd sa imm s
  | .andn g sd sa sb => Sys2Proof.Machine.execAndn g sd sa sb s
  | .or g sd sa sb => Sys2Proof.Machine.execOr g sd sa sb s
  | .orImm g sd sa imm => Sys2Proof.Machine.execOrImm g sd sa imm s
  | .xor g sd sa sb => Sys2Proof.Machine.execXor g sd sa sb s
  | .xorImm g sd sa imm => Sys2Proof.Machine.execXorImm g sd sa imm s
  | .shl g sd sa n => Sys2Proof.Machine.execShl g sd sa n s
  | .shr g sd sa n => Sys2Proof.Machine.execShr g sd sa n s
  | .sra g sd sa n => Sys2Proof.Machine.execSra g sd sa n s
  | .clz g sd sa => Sys2Proof.Machine.execClz g sd sa s
  | .popc g sd sa => Sys2Proof.Machine.execPopc g sd sa s
  | .min g u sd sa sb => Sys2Proof.Machine.execMin g u sd sa sb s
  | .max g u sd sa sb => Sys2Proof.Machine.execMax g u sd sa sb s
  | .sel g sd pn sa sb => Sys2Proof.Machine.execSel g sd pn sa sb s
  | .cmp g c pd sa sb => Sys2Proof.Machine.execCmp g c pd sa sb s
  | .cmpImm g c pd sa imm => Sys2Proof.Machine.execCmpImm g c pd sa imm s
  | .movi g sd imm => Sys2Proof.Machine.execMovi g sd imm s
  | .movhi g sd imm => Sys2Proof.Machine.execMovhi g sd imm s
  | .bfx g u sd sa pos len1 => Sys2Proof.Machine.execBfx g u sd sa pos len1 s
  | .bfi g sd sa pos len1 => Sys2Proof.Machine.execBfi g sd sa pos len1 s
  | .plog g op pd pa pb => Sys2Proof.Machine.execPlog g op pd pa pb s
  | .bra g disp => Sys2Proof.Machine.execBra g disp s
  | .call g disp => Sys2Proof.Machine.execCall g disp s
  | .loop g sr disp => Sys2Proof.Machine.execLoop g sr disp s
  | .jmp g sa => Sys2Proof.Machine.execJmp g sa s
  | .ret g sa => Sys2Proof.Machine.execRet g sa s
  | .exit g => Sys2Proof.Machine.execExit g s
  | .yield g => Sys2Proof.Machine.execYield g s
  | .nop g => Sys2Proof.Machine.execNop g s
  | .trig g => Sys2Proof.Machine.execTrig g s
  | .bkpt g imm => Sys2Proof.Machine.execBkpt g imm s
  | .ld g u sz acq sd sa imm => Sys2Proof.Machine.execLd g u sz acq sd sa imm s
  | .ldIndexed g u sz acq sd a => Sys2Proof.Machine.execLdIndexed g u sz acq sd a s
  | .st g sz rel sd sa imm => Sys2Proof.Machine.execSt g sz rel sd sa imm s
  | .stIndexed g sz rel sd a => Sys2Proof.Machine.execStIndexed g sz rel sd a s
  | .ldfe g sd sa imm => Sys2Proof.Machine.execLdfe g sd sa imm s
  | .ldff g sd sa imm => Sys2Proof.Machine.execLdff g sd sa imm s
  | .stef g sd sa imm => Sys2Proof.Machine.execStef g sd sa imm s
  | .stff g sd sa imm => Sys2Proof.Machine.execStff g sd sa imm s
  | .feset g sd sa imm => Sys2Proof.Machine.execFeset g sd sa imm s
  | .feq g sd sa imm => Sys2Proof.Machine.execFeq g sd sa imm s
  | .amo g op d ord sd a sb => Sys2Proof.Machine.execAmo g op d ord sd a sb s
  | .cas g d ord sd sa sb sc => Sys2Proof.Machine.execCas g d ord sd sa sb sc s
  | .amof g op ord sd a sb => Sys2Proof.Machine.execAmof g op ord sd a sb s
  | .red g op d rel a sb => Sys2Proof.Machine.execRed g op d rel a sb s
  | .redf g op rel a sb => Sys2Proof.Machine.execRedf g op rel a sb s
  | .vadd g ty vd va vb km => Sys2Proof.Machine.execVadd g ty vd va vb km s
  | .vsub g ty vd va vb km => Sys2Proof.Machine.execVsub g ty vd va vb km s
  | .vmul g ty vd va vb km => Sys2Proof.Machine.execVmul g ty vd va vb km s
  | .vfma g ty vd va vb vc km => Sys2Proof.Machine.execVfma g ty vd va vb vc km s
  | .vmin g ty vd va vb km => Sys2Proof.Machine.execVmin g ty vd va vb km s
  | .vmax g ty vd va vb km => Sys2Proof.Machine.execVmax g ty vd va vb km s
  | .vabs g ty vd va km => Sys2Proof.Machine.execVabs g ty vd va km s
  | .vneg g ty vd va km => Sys2Proof.Machine.execVneg g ty vd va km s
  | .vbit g op vd va vb km => Sys2Proof.Machine.execVbit g op vd va vb km s
  | .vsh g op ty vd va n km => Sys2Proof.Machine.execVsh g op ty vd va n km s
  | .vcmp g c ty kd va vb km => Sys2Proof.Machine.execVcmp g c ty kd va vb km s
  | .vsel g vd va vb kc km => Sys2Proof.Machine.execVsel g vd va vb kc km s
  | .vcvt g dty sty ns vd va km => Sys2Proof.Machine.execVcvt g dty sty ns vd va km s
  | .vcvto g dty sty ns vd va sb km => Sys2Proof.Machine.execVcvto g dty sty ns vd va sb km s
  | .vexp2 g vd va km => Sys2Proof.Machine.execVexp2 g vd va km s
  | .vlog2 g vd va km => Sys2Proof.Machine.execVlog2 g vd va km s
  | .vrcp g vd va km => Sys2Proof.Machine.execVrcp g vd va km s
  | .vrsq g vd va km => Sys2Proof.Machine.execVrsq g vd va km s
  | .vsqrt g vd va km => Sys2Proof.Machine.execVsqrt g vd va km s
  | .vred g op ty vd va km => Sys2Proof.Machine.execVred g op ty vd va km s
  | .vperm g vd va vb km => Sys2Proof.Machine.execVperm g vd va vb km s
  | .vbcst g ty vd sa km => Sys2Proof.Machine.execVbcst g ty vd sa km s
  | .vmovs g f lane km => Sys2Proof.Machine.execVmovs g f lane km s
  | .vidx g ty vd sa km => Sys2Proof.Machine.execVidx g ty vd sa km s
  | .vtopk g vd va vb km => Sys2Proof.Machine.execVtopk g vd va vb km s
  | .klog g op kd ka kb => Sys2Proof.Machine.execKlog g op kd ka kb s
  | .kpop g sd ka => Sys2Proof.Machine.execKpop g sd ka s
  | .vld g vr a km => Sys2Proof.Machine.execVld g vr a km s
  | .vst g vr a km => Sys2Proof.Machine.execVst g vr a km s
  | .vlds g vr b sb km => Sys2Proof.Machine.execVlds g vr b sb km s
  | .vsts g vr b sb km => Sys2Proof.Machine.execVsts g vr b sb km s
  | .vgath g vr b vx scale km => Sys2Proof.Machine.execVgath g vr b vx scale km s
  | .vscat g vr b vx scale km => Sys2Proof.Machine.execVscat g vr b vx scale km s
  | .mzero g => Sys2Proof.Machine.execMzero g s
  | .mlb g ty f => Sys2Proof.Machine.execMlb g ty f s
  | .mma g rot rag kind ty sa sm => Sys2Proof.Machine.execMma g rot rag kind ty sa sm s
  | .mout g sa sn sb sr sm => Sys2Proof.Machine.execMout g sa sn sb sr sm s
  | .mdrain g f => Sys2Proof.Machine.execMdrain g f s
  | .mring g => Sys2Proof.Machine.execMring g s
  | .cpy g dst src vn => Sys2Proof.Machine.execCpy g dst src vn s
  | .seal g sd => Sys2Proof.Machine.execSeal g sd s
  | .waitb g pd sd n => Sys2Proof.Machine.execWaitb g pd sd n s
  | .lzres g pd sd sa sb => Sys2Proof.Machine.execLzres g pd sd sa sb s
  | .lzrel g pd z ss => Sys2Proof.Machine.execLzrel g pd z ss s
  | .lzclr g pd z ss => Sys2Proof.Machine.execLzclr g pd z ss s
  | .lzwait g pd sd z sm => Sys2Proof.Machine.execLzwait g pd sd z sm s
  | .lzwaitAll g pd sd z => Sys2Proof.Machine.execLzwaitAll g pd sd z s
  | .fld g q sa => Sys2Proof.Machine.execFld g q sa s
  | .qpop g pd vd q => Sys2Proof.Machine.execQpop g pd vd q s
  | .fst g rel sa data => Sys2Proof.Machine.execFst g rel sa data s
  | .famo g op ord pd sd sa sb => Sys2Proof.Machine.execFamo g op ord pd sd sa sb s
  | .mldr g bf16 pd vd sa => Sys2Proof.Machine.execMldr g bf16 pd vd sa s
  | .rqld g sd sa f => Sys2Proof.Machine.execRqld g sd sa f s
  | .rqst g sa sb f => Sys2Proof.Machine.execRqst g sa sb f s
  | .rqflt g sa sb => Sys2Proof.Machine.execRqflt g sa sb s
  | .stepdone g sa => Sys2Proof.Machine.execStepdone g sa s
  | .sample g pd sd sa sb sc => Sys2Proof.Machine.execSample g pd sd sa sb sc s
  | .rng g vd sa sb sc => Sys2Proof.Machine.execRng g vd sa sb sc s
  | .isomask g pd vd sa sb sc => Sys2Proof.Machine.execIsomask g pd vd sa sb sc s
  | .isostep g pd sd sa sb sc => Sys2Proof.Machine.execIsostep g pd sd sa sb sc s
  | .accept g pd sa sb vn => Sys2Proof.Machine.execAccept g pd sa sb vn s
  | .kvcommit g pd sa sb sc => Sys2Proof.Machine.execKvcommit g pd sa sb sc s
  | .futcall g pd sd sa sb sc => Sys2Proof.Machine.execFutcall g pd sd sa sb sc s
  | .futwait g sa => Sys2Proof.Machine.execFutwait g sa s
  | .futqry g sd sa => Sys2Proof.Machine.execFutqry g sd sa s
  | .mfs g sd n => Sys2Proof.Machine.execMfs g sd n s
  | .mts g n sa => Sys2Proof.Machine.execMts g n sa s
  | .trap g sa imm => Sys2Proof.Machine.execTrap g sa imm s
  | .fence g sc => Sys2Proof.Machine.execFence g sc s
  | .acq g sc => Sys2Proof.Machine.execAcq g sc s
  | .rel g sc => Sys2Proof.Machine.execRel g sc s
  | .icinv g sc => Sys2Proof.Machine.execIcinv g sc s
  | .xlate g hd sa => Sys2Proof.Machine.execXlate g hd sa s
  | .xlateSlot g pd hd sa ss => Sys2Proof.Machine.execXlateSlot g pd hd sa ss s
  | .hrel g hd => Sys2Proof.Machine.execHrel g hd s
  | .sptest g sd sa => Sys2Proof.Machine.execSptest g sd sa s
  | .spcast g f sd sa => Sys2Proof.Machine.execSpcast g f sd sa s
  | .bar g sa sb => Sys2Proof.Machine.execBar g sa sb s
  | .launch g pd sd sa => Sys2Proof.Machine.execLaunch g pd sd sa s
  | .kwCapld cd rs1 => Sys2Proof.Machine.execKwCapld cd rs1 s
  | .kwCapnar cd ca rs1 rs2 => Sys2Proof.Machine.execKwCapnar cd ca rs1 rs2 s
  | .kwCapclr cd => Sys2Proof.Machine.execKwCapclr cd s
  | .kwSbxent rs1 => Sys2Proof.Machine.execKwSbxent rs1 s
  | .kwSbxret => Sys2Proof.Machine.execKwSbxret s
  | .kwTqpop rd cd rs1 rs2 => Sys2Proof.Machine.execKwTqpop rd cd rs1 rs2 s
  | .kwFutarg rd ca rs1 => Sys2Proof.Machine.execKwFutarg rd ca rs1 s
  | .kwFutcpl rd ca rs1 rs2 => Sys2Proof.Machine.execKwFutcpl rd ca rs1 rs2 s
  | .kwFutfail rd ca rs1 => Sys2Proof.Machine.execKwFutfail rd ca rs1 s
  | .kwRel => Sys2Proof.Machine.execKwRel s
  | .sandboxAccess hart kind va len => Sys2Proof.Machine.execSandboxAccess hart kind va len s
  | .rotationCountSpent core slot => Sys2Proof.Machine.execRotationCountSpent core slot s
  | .accessReply core slot r => Sys2Proof.Machine.execAccessReply core slot r s
  | .postedWriteAck id r => Sys2Proof.Machine.execPostedWriteAck id r s
  | .walkComplete core slot => Sys2Proof.Machine.execWalkComplete core slot s
  | .faultedSlotArrival cluster slot => Sys2Proof.Machine.execFaultedSlotArrival cluster slot s
  | .feRetry core slot => Sys2Proof.Machine.execFeRetry core slot s
  | .feTimeout core slot => Sys2Proof.Machine.execFeTimeout core slot s
  | .scoreboardRetire core entry => Sys2Proof.Machine.execScoreboardRetire core entry s
  | .taskPlacement die => Sys2Proof.Machine.execTaskPlacement die s
  | .agingPromotion die entry => Sys2Proof.Machine.execAgingPromotion die entry s
  | .poolFill die => Sys2Proof.Machine.execPoolFill die s
  | .stepdoneReceived core => Sys2Proof.Machine.execStepdoneReceived core s
  | .stepBoundary => Sys2Proof.Machine.execStepBoundary s
  | .kvSpillCopyDone id => Sys2Proof.Machine.execKvSpillCopyDone id s
  | .kvPageFreeDone id => Sys2Proof.Machine.execKvPageFreeDone id s
  | .kvcommitCopiesDone core slot => Sys2Proof.Machine.execKvcommitCopiesDone core slot s
  | .servectlGo => Sys2Proof.Machine.execServectlGo s
  | .servingActivate => Sys2Proof.Machine.execServingActivate s
  | .servectlDrain => Sys2Proof.Machine.execServectlDrain s
  | .servingOff => Sys2Proof.Machine.execServingOff s
  | .servemaskWrite die v => Sys2Proof.Machine.execServemaskWrite die v s
  | .futureDeadline idx => Sys2Proof.Machine.execFutureDeadline idx s
  | .futureCompletionMessage m => Sys2Proof.Machine.execFutureCompletionMessage m s
  | .toolQueueForward q => Sys2Proof.Machine.execToolQueueForward q s
  | .deferredRingWrite ring => Sys2Proof.Machine.execDeferredRingWrite ring s
  | .tscmdHandles => Sys2Proof.Machine.execTscmdHandles s
  | .tscmdTlb => Sys2Proof.Machine.execTscmdTlb s
  | .tscmdBoth => Sys2Proof.Machine.execTscmdBoth s
  | .tscmdKick => Sys2Proof.Machine.execTscmdKick s
  | .shootdownDone => Sys2Proof.Machine.execShootdownDone s
  | .sidelogPeriodicReplay cluster => Sys2Proof.Machine.execSidelogPeriodicReplay cluster s
  | .slactRetry cluster => Sys2Proof.Machine.execSlactRetry cluster s
  | .slactDiscard cluster => Sys2Proof.Machine.execSlactDiscard cluster s
  | .homeCoherentRequest line src => Sys2Proof.Machine.execHomeCoherentRequest line src s
  | .snoopReceived line who r => Sys2Proof.Machine.execSnoopReceived line who r s
  | .scWriteAtHome id => Sys2Proof.Machine.execScWriteAtHome id s
  | .cmocmdFlush v => Sys2Proof.Machine.execCmocmdFlush v s
  | .cmoFlushDone => Sys2Proof.Machine.execCmoFlushDone s
  | .timedCommandStart cluster id => Sys2Proof.Machine.execTimedCommandStart cluster id s
  | .copyCommandFinish cluster id => Sys2Proof.Machine.execCopyCommandFinish cluster id s
  | .lzresRequest a => Sys2Proof.Machine.execLzresRequest a s
  | .landingWrite a => Sys2Proof.Machine.execLandingWrite a s
  | .landingSlotTimeout core zone slot => Sys2Proof.Machine.execLandingSlotTimeout core zone slot s
  | .zoneDisable core zone => Sys2Proof.Machine.execZoneDisable core zone s
  | .fabricRequestServed a => Sys2Proof.Machine.execFabricRequestServed a s
  | .fabricTimeout id => Sys2Proof.Machine.execFabricTimeout id s
  | .switchLinkDownReport sw => Sys2Proof.Machine.execSwitchLinkDownReport sw s
  | .peerfenceWrite j v => Sys2Proof.Machine.execPeerfenceWrite j v s
  | .fabidWrite v => Sys2Proof.Machine.execFabidWrite v s
  | .timeMessage off => Sys2Proof.Machine.execTimeMessage off s
  | .epdbArm tenant v => Sys2Proof.Machine.execEpdbArm tenant v s
  | .epdbDisarm tenant v => Sys2Proof.Machine.execEpdbDisarm tenant v s
  | .epMessageArrival m => Sys2Proof.Machine.execEpMessageArrival m s
  | .epTransferComplete id r => Sys2Proof.Machine.execEpTransferComplete id r s
  | .epOdpTimeout id => Sys2Proof.Machine.execEpOdpTimeout id s
  | .matrixCommandStart core => Sys2Proof.Machine.execMatrixCommandStart core s
  | .matrixCommandComplete core => Sys2Proof.Machine.execMatrixCommandComplete core s
  | .ringStepCommit core => Sys2Proof.Machine.execRingStepCommit core s
  | .pairTimeout core => Sys2Proof.Machine.execPairTimeout core s
  | .faultAckTimeout cluster => Sys2Proof.Machine.execFaultAckTimeout cluster s
  | .frptrHeadWrite cluster level v => Sys2Proof.Machine.execFrptrHeadWrite cluster level v s
  | .dbgcmdHalt core slot => Sys2Proof.Machine.execDbgcmdHalt core slot s
  | .dbgcmdResume core slot => Sys2Proof.Machine.execDbgcmdResume core slot s
  | .dbgcmdStep core slot => Sys2Proof.Machine.execDbgcmdStep core slot s
  | .dbgcmdRestart core slot => Sys2Proof.Machine.execDbgcmdRestart core slot s
  | .dbgcmdKill core slot => Sys2Proof.Machine.execDbgcmdKill core slot s
  | .rqfaultWrite core slot v => Sys2Proof.Machine.execRqfaultWrite core slot v s
  | .debugWindowAccess core off wr => Sys2Proof.Machine.execDebugWindowAccess core off wr s
  | .sqcmdSave core who => Sys2Proof.Machine.execSqcmdSave core who s
  | .squallSaveComplete core => Sys2Proof.Machine.execSquallSaveComplete core s
  | .sqcmdRestore core => Sys2Proof.Machine.execSqcmdRestore core s
  | .squallRestoreComplete core => Sys2Proof.Machine.execSquallRestoreComplete core s
  | .tenantTimeSlice core tenant => Sys2Proof.Machine.execTenantTimeSlice core tenant s
  | .mcTrap pc cause tval status => Sys2Proof.Machine.execMcTrap pc cause tval status s
  | .wqDoorbell fn q v => Sys2Proof.Machine.execWqDoorbell fn q v s
  | .launchEntry q => Sys2Proof.Machine.execLaunchEntry q s
  | .requestEntry q => Sys2Proof.Machine.execRequestEntry q s
  | .cancelEntry q => Sys2Proof.Machine.execCancelEntry q s
  | .automatonEntry q => Sys2Proof.Machine.execAutomatonEntry q s
  | .zoneEntry q => Sys2Proof.Machine.execZoneEntry q s
  | .tenantCtlEntry q => Sys2Proof.Machine.execTenantCtlEntry q s
  | .badtypeEntry q => Sys2Proof.Machine.execBadtypeEntry q s
  | .cqHeadWrite fn r v => Sys2Proof.Machine.execCqHeadWrite fn r v s
  | .trstcmdGo v => Sys2Proof.Machine.execTrstcmdGo v s
  | .functionLevelReset tenant => Sys2Proof.Machine.execFunctionLevelReset tenant s
  | .clurstWrite die v => Sys2Proof.Machine.execClurstWrite die v s
  | .ownershipMapWrite off v => Sys2Proof.Machine.execOwnershipMapWrite off v s
  | .powerOn imgs => Sys2Proof.Machine.execPowerOn imgs s
  | .functionReady bit => Sys2Proof.Machine.execFunctionReady bit s
  | .attestationRequest nonce => Sys2Proof.Machine.execAttestationRequest nonce s
  | .powerThrottle core => Sys2Proof.Machine.execPowerThrottle core s
  | .thermalTrip => Sys2Proof.Machine.execThermalTrip s
  | .i3cRequest what => Sys2Proof.Machine.execI3cRequest what s
  | .registerWrite off v => Sys2Proof.Machine.execRegisterWrite off v s
  | .undefinedOpcode w => Sys2Proof.Machine.execUndefinedOpcode w s
  | .xkwedarIllegal w => Sys2Proof.Machine.execXkwedarIllegal w s
  | .sret => Sys2Proof.Machine.execSret s
  | .sandboxTrap hart cause tval => Sys2Proof.Machine.execSandboxTrap hart cause tval s
  | .mret => Sys2Proof.Machine.execMret s

end Sys2Proof.Machine
end

