-- ==== Sys2Proof/Machine/RvFloat.lean ====
section
/-!
DEFINITION. Machine/RvFloat.lean: the binary floating-point arithmetic of RISC-V on codes of 16, 32 and 64 bits (IEEE 754;
05 R116, notes/assumptions/14.md, PRESUMED). An operation answers a code and the flags it raises: 1 NX, 2 UF, 4 OF, 8 DZ, 16 NV.
-/
namespace Sys2Proof.Machine

/-- A rounding mode of RISC-V: frm 0 to 4, and the vector narrowing's round to odd. -/
inductive RvRm where
  | rne | rtz | rdn | rup | rmm | rod
  deriving DecidableEq, Repr

def rvRm : Nat → Option RvRm
  | 0 => some .rne | 1 => some .rtz | 2 => some .rdn | 3 => some .rup | 4 => some .rmm | _ => none

/-- The binary format of a width. -/
def rvBin (w : Nat) : Bin :=
  if w = 16 then { mw := 10, ew := 5, bias := 15, maxE := 30, maxM := 2 ^ 10 - 1, infs := true }
  else if w = 32 then bFP32
  else { mw := 52, ew := 11, bias := 1023, maxE := 2046, maxM := 2 ^ 52 - 1, infs := true }

def rvSign (w : Nat) (neg : Bool) : Nat := b2n neg * 2 ^ (w - 1)
def rvInf (w : Nat) (neg : Bool) : Nat := rvSign w neg + (2 ^ (rvBin w).ew - 1) * 2 ^ (rvBin w).mw
def rvNan (w : Nat) : Nat := rvInf w false + 2 ^ ((rvBin w).mw - 1)

def rvDec (w b : Nat) : FV :=
  let f := rvBin w
  let neg := bitN b (w - 1)
  let e := bitsN b (w - 2) f.mw
  let m := b % 2 ^ f.mw
  if e = 2 ^ f.ew - 1 then (if m = 0 then .inf neg else .nan)
  else if e = 0 then .num { neg := neg, man := m, exp := 1 - (f.bias : Int) - f.mw, st := false }
  else .num { neg := neg, man := 2 ^ f.mw + m, exp := (e : Int) - f.bias - f.mw, st := false }

def rvIsNan (w b : Nat) : Bool := rvDec w b == .nan
/-- A signaling NaN: its quiet bit is clear. -/
def rvIsSig (w b : Nat) : Bool := rvIsNan w b && !bitN b ((rvBin w).mw - 1)
/-- NV of an operation with a signaling NaN among its operands. -/
def rvSigs (w : Nat) (bs : List Nat) : Nat := if bs.any (rvIsSig w) then 16 else 0

/-! ### Rounding -/

def rvUp (rm : RvRm) (neg odd : Bool) (cmp : Nat) : Bool :=
  match rm with
  | .rne => cmp = 3 || (cmp = 2 && odd)
  | .rtz => false
  | .rdn => neg && cmp ≠ 0
  | .rup => !neg && cmp ≠ 0
  | .rmm => 2 ≤ cmp
  | .rod => cmp ≠ 0 && !odd

/-- A magnitude rounded at a quantum: the integer, and whether it is inexact. -/
def rvRoundAt (rm : RvRm) (d : Dy) (qe : Int) : Nat × Bool :=
  let (q, c) := cutAt d qe
  (if rvUp rm d.neg (q % 2 == 1) c then q + 1 else q, c ≠ 0)

/-- An overflow's code: infinity, or the largest finite value where the mode rounds towards zero there. -/
def rvOver (w : Nat) (rm : RvRm) (neg : Bool) : Nat :=
  match rm with
  | .rne | .rmm => rvInf w neg
  | .rtz | .rod => rvInf w neg - 1
  | .rdn => if neg then rvInf w neg else rvInf w neg - 1
  | .rup => if neg then rvInf w neg - 1 else rvInf w neg

/-- A magnitude rounded to a format; tininess is detected after rounding. -/
def rvPack (w : Nat) (rm : RvRm) (d : Dy) : Nat × Nat :=
  let f := rvBin w
  let sg := rvSign w d.neg
  if d.man = 0 && !d.st then (sg, 0)
  else
    let emin : Int := 1 - (f.bias : Int)
    let e : Int := d.exp + bitLen d.man - 1
    let qe : Int := max e emin - f.mw
    let (q, x) := rvRoundAt rm d qe
    let ef : Int := if q < 2 ^ f.mw then 0 else qe + f.mw + f.bias
    let code := ef.toNat * 2 ^ f.mw + (if q < 2 ^ f.mw then q else q - 2 ^ f.mw)
    if (2 ^ f.ew - 1) * 2 ^ f.mw ≤ code then (rvOver w rm d.neg, 5)
    else
      let tiny := e < emin && !(e = emin - 1 && (rvRoundAt rm d (e - f.mw)).1 = 2 ^ (f.mw + 1))
      (sg + code, if x then (if tiny then 3 else 1) else 0)

/-- A value as a code. -/
def rvEnc (w : Nat) (rm : RvRm) (v : FV) : Nat × Nat :=
  match v with
  | .nan => (rvNan w, 0)
  | .inf n => (rvInf w n, 0)
  | .num d => rvPack w rm d

/-- An exact result and its NV rounded once, with the NV of its operands. -/
def rvDone (w : Nat) (rm : RvRm) (bs : List Nat) (r : FV × Flags) : Nat × Nat :=
  let (c, g) := rvEnc w rm r.1
  (c, g ||| r.2.toNat / 16 ||| rvSigs w bs)

/-- The mode that gives the sign of an exact zero sum. -/
def RvRm.zero : RvRm → Rounding
  | .rdn => .rdn
  | _ => .rne

/-! ### Arithmetic -/

def rvAdd (w : Nat) (rm : RvRm) (a b : Nat) : Nat × Nat := rvDone w rm [a, b] (addFV rm.zero (rvDec w a) (rvDec w b))
def rvSub (w : Nat) (rm : RvRm) (a b : Nat) : Nat × Nat := rvDone w rm [a, b] (addFV rm.zero (rvDec w a) (rvDec w b).negate)
def rvMul (w : Nat) (rm : RvRm) (a b : Nat) : Nat × Nat := rvDone w rm [a, b] (mulFV (rvDec w a) (rvDec w b))

/-- ±(a b) ± c. -/
def rvMulAdd (w : Nat) (rm : RvRm) (negP negC : Bool) (a b c : Nat) : Nat × Nat :=
  let neg := fun (n : Bool) (v : FV) => if n then v.negate else v
  rvDone w rm [a, b, c] (fmaFV rm.zero (neg negP (rvDec w a)) (rvDec w b) (neg negC (rvDec w c)))

/-- A quotient of exact dyadics, with more bits than any format has. -/
def quotDy (a b : Dy) : Dy :=
  let k := bitLen b.man + 70
  { neg := xor a.neg b.neg, man := a.man * 2 ^ k / b.man, exp := a.exp - b.exp - k, st := a.man * 2 ^ k % b.man ≠ 0 }

def rvDiv (w : Nat) (rm : RvRm) (a b : Nat) : Nat × Nat :=
  let r : FV × Flags := match rvDec w a, rvDec w b with
    | .nan, _ | _, .nan => (.nan, 0)
    | .inf _, .inf _ => (.nan, fNV)
    | .inf x, .num d => (.inf (xor x d.neg), 0)
    | .num d, .inf y => (.num { neg := xor d.neg y, man := 0, exp := 0, st := false }, 0)
    | .num x, .num y =>
      if y.man = 0 then (if x.man = 0 then (.nan, fNV) else (.inf (xor x.neg y.neg), fDZ))
      else (.num (quotDy x y), 0)
  rvDone w rm [a, b] r

def rvSqrt (w : Nat) (rm : RvRm) (a : Nat) : Nat × Nat :=
  let r : FV × Flags := match rvDec w a with
    | .nan => (.nan, 0)
    | .inf n => if n then (.nan, fNV) else (.inf false, 0)
    | .num d => if d.man = 0 then (.num d, 0) else if d.neg then (.nan, fNV) else (.num (sqrtDy d), 0)
  rvDone w rm [a] r

/-! ### Comparison and selection -/

/-- A comparison: quiet ones raise NV for signaling NaNs only. -/
def rvCmp (w : Nat) (quiet : Bool) (p : Ordering → Bool) (a b : Nat) : Nat × Nat :=
  match cmpFV (rvDec w a) (rvDec w b) with
  | none => (0, if quiet then rvSigs w [a, b] else 16)
  | some o => (b2n (p o), 0)

/-- The smaller or larger of two; with `nanWins` (fminm, fmaxm) a NaN operand gives the canonical NaN. -/
def rvMinMax (w : Nat) (isMax nanWins : Bool) (a b : Nat) : Nat × Nat :=
  let fl := rvSigs w [a, b]
  if rvIsNan w a || rvIsNan w b then
    (if nanWins || (rvIsNan w a && rvIsNan w b) then rvNan w else if rvIsNan w a then b else a, fl)
  else
    let less := match cmpFV (rvDec w a) (rvDec w b) with
      | some .lt => true
      | some .eq => bitN a (w - 1)
      | _ => false
    (if xor isMax less then a else b, fl)

/-- Sign injection: 0 copies, 1 negates, 2 exclusive-or. -/
def rvSgnj (w k a b : Nat) : Nat :=
  let s := match k with
    | 0 => bitN b (w - 1)
    | 1 => !bitN b (w - 1)
    | _ => xor (bitN a (w - 1)) (bitN b (w - 1))
  a % 2 ^ (w - 1) + rvSign w s

/-- The class of a code: one bit of ten. -/
def rvClass (w a : Nat) : Nat :=
  let neg := bitN a (w - 1)
  match rvDec w a with
  | .nan => if rvIsSig w a then 2 ^ 8 else 2 ^ 9
  | .inf _ => if neg then 1 else 2 ^ 7
  | .num d =>
    if d.man = 0 then (if neg then 2 ^ 3 else 2 ^ 4)
    else if d.man < 2 ^ (rvBin w).mw then (if neg then 2 ^ 2 else 2 ^ 5)
    else if neg then 2 else 2 ^ 6

/-! ### Conversion -/

/-- To an integer of `n` bits: out of range the nearest end, a NaN the largest, with NV alone. -/
def rvToInt (w : Nat) (rm : RvRm) (signed : Bool) (n a : Nat) : Nat × Nat :=
  let hi : Int := if signed then 2 ^ (n - 1) - 1 else 2 ^ n - 1
  let lo : Int := if signed then -2 ^ (n - 1) else 0
  let code := fun i : Int => (i % 2 ^ n).toNat
  match rvDec w a with
  | .nan => (code hi, 16)
  | .inf neg => (code (if neg then lo else hi), 16)
  | .num d =>
    let (q, x) := rvRoundAt rm d 0
    let i : Int := if d.neg then -(q : Int) else q
    if i < lo then (code lo, 16) else if hi < i then (code hi, 16) else (code i, b2n x)

def rvOfInt (w : Nat) (rm : RvRm) (i : Int) : Nat × Nat := rvPack w rm (dyInt i)

/-- From one format to another. -/
def rvCvt (src dst : Nat) (rm : RvRm) (a : Nat) : Nat × Nat :=
  let (c, g) := rvEnc dst rm (rvDec src a)
  (c, g ||| rvSigs src [a])

/-- Rounded to an integral value (fround), with NX where `nx`. -/
def rvRound (w : Nat) (rm : RvRm) (nx : Bool) (a : Nat) : Nat × Nat :=
  match rvDec w a with
  | .nan => (rvNan w, rvSigs w [a])
  | .inf _ => (a, 0)
  | .num d =>
    let (q, x) := rvRoundAt rm d 0
    if 0 ≤ d.exp then (a, 0) else ((rvPack w .rne { neg := d.neg, man := q, exp := 0, st := false }).1, b2n (x && nx))

/-- To a 32-bit integer modulo 2^32 (fcvtmod.w.d). -/
def rvCvtMod (a : Nat) : Nat × Nat :=
  match rvDec 64 a with
  | .num d =>
    let (q, x) := rvRoundAt .rtz d 0
    let i : Int := if d.neg then -(q : Int) else q
    ((i % 2 ^ 32).toNat, if i < -2 ^ 31 ∨ 2 ^ 31 ≤ i then 16 else b2n x)
  | _ => (0, 16)

/-- The constants of fli, as a numerator and a power of two; its other entries are −1, the least normal value, infinity and
NaN. -/
def rvFli (w r : Nat) : Nat :=
  let at' := fun (m : Nat) (e : Int) => (rvPack w .rne { neg := false, man := m, exp := e, st := false }).1
  match r with
  | 0 => rvSign w true + at' 1 0
  | 1 => 2 ^ (rvBin w).mw
  | 30 => rvInf w false
  | 31 => rvNan w
  | r =>
    let t : List (Nat × Int) :=
      [(1, -16), (1, -15), (1, -8), (1, -7), (1, -4), (1, -3), (1, -2), (5, -4), (3, -3), (7, -4), (1, -1), (5, -3), (3, -2),
       (7, -3), (1, 0), (5, -2), (3, -1), (7, -2), (1, 1), (5, -1), (3, 0), (1, 2), (1, 3), (1, 4), (1, 7), (1, 8), (1, 15),
       (1, 16)]
    let p := t.getD (r - 2) (0, 0)
    at' p.1 p.2

/-! ### The estimates of the vector extension, 7 bits -/

/-- A positive finite magnitude's exponent field, below 1 for a subnormal one, and its fraction normalized. -/
def rvNorm (w : Nat) (b : Nat) : Int × Nat :=
  let f := rvBin w
  let e := bitsN b (w - 2) f.mw
  let m := b % 2 ^ f.mw
  if e ≠ 0 then (e, m)
  else
    let z := f.mw - bitLen m
    (-(z : Int), m * 2 ^ (z + 1) % 2 ^ f.mw)

/-- The reciprocal square-root estimate. -/
def rvRsqrt7 (w a : Nat) : Nat × Nat :=
  let f := rvBin w
  match rvDec w a with
  | .nan => (rvNan w, rvSigs w [a])
  | .inf n => if n then (rvNan w, 16) else (0, 0)
  | .num d =>
    if d.man = 0 then (rvInf w d.neg, 8)
    else if d.neg then (rvNan w, 16)
    else
      let (e, m) := rvNorm w a
      let j := m / 2 ^ (f.mw - 6)
      let k := if e % 2 = 0 then 2 else 1
      let s := (isqrt 20 (4 * 65536 * 128 / (k * (129 + 2 * j))) + 1) / 2 - 128
      (((3 * (f.bias : Int) - 1 - e) / 2).toNat * 2 ^ f.mw + s * 2 ^ (f.mw - 7), 0)

/-- The reciprocal estimate. -/
def rvRec7 (w : Nat) (rm : RvRm) (a : Nat) : Nat × Nat :=
  let f := rvBin w
  match rvDec w a with
  | .nan => (rvNan w, rvSigs w [a])
  | .inf n => (rvSign w n, 0)
  | .num d =>
    if d.man = 0 then (rvInf w d.neg, 8)
    else
      let (e, m) := rvNorm w a
      if e < -1 then (rvOver w rm d.neg, 5)
      else
        let i := m / 2 ^ (f.mw - 7)
        let s := (256 * (255 - 2 * i) + (257 + 2 * i)) / (2 * (257 + 2 * i)) * 2 ^ (f.mw - 7)
        let o : Int := 2 * (f.bias : Int) - 1 - e
        let mag := if o = 0 then (2 ^ f.mw + s) / 2 else if o = -1 then (2 ^ f.mw + s) / 4 else o.toNat * 2 ^ f.mw + s
        (rvSign w d.neg + mag, 0)

end Sys2Proof.Machine
end

