-- ==== Sys2Proof/Machine/RvFp.lean ====
section
/-!
DEFINITION. Machine/RvFp.lean: the scalar floating-point instructions of an application hart: F, D, Zfhmin and Zfa (RVA23; 05
R116, notes/assumptions/14.md, PRESUMED).
-/
namespace Sys2Proof.Machine

/-! ### The registers -/

/-- The f register `r` at a width: a value that is not boxed reads as the canonical NaN. -/
def Hart.rF (h : Hart) (w r : Nat) : Nat :=
  let v := (fget 0#64 h.f r).toNat
  if w = 64 ∨ v / 2 ^ w = 2 ^ (64 - w) - 1 then v % 2 ^ w else rvNan w

/-- An f register written: a narrower value is boxed in ones. -/
def Hart.wF (h : Hart) (w r v : Nat) : Hart :=
  { h.dirtied 13 with f := fset h.f r (w64 (2 ^ 64 - 2 ^ w + v % 2 ^ w)) }

/-- Flags accrue in fcsr. -/
def Hart.accrue (h : Hart) (fl : Nat) : Hart :=
  if fl % 32 = 0 then h else (h.wCsr 3 (h.rCsr 3 ||| w64 (fl % 32))).dirtied 13

/-- The rounding mode that an instruction's field names: 7 is frm's. -/
def Hart.rmOf (h : Hart) (rm : Nat) : Option RvRm := rvRm (if rm = 7 then fld (h.rCsr 3) 7 5 else rm)

/-- The width that a format field names: S, D, H. -/
def rvFmt : Nat → Option Nat
  | 0 => some 32 | 1 => some 64 | 2 => some 16 | _ => none

/-! ### Loads and stores -/

/-- FLH, FLW, FLD. -/
def rvFLoad (s : State) (h h' : Hart) (w : W32) (va : Word) : Rv :=
  let n := 2 ^ bitsN w.toNat 14 12
  if h.unitOff 13 then Rv.illegal s w
  else match hartLoad s h .load va n with
  | .error e => .error e
  | .ok (bs, s) => Rv.next (h'.wF (8 * n) (bitsN w.toNat 11 7) (fromBytes bs)) s

/-- FSH, FSW, FSD: the register's low bits as they are. -/
def rvFStore (s : State) (h h' : Hart) (w : W32) (va : Word) : Rv :=
  if h.unitOff 13 then Rv.illegal s w
  else (hartStore s h va (toBytes (2 ^ bitsN w.toNat 14 12) (fget 0#64 h.f (bitsN w.toNat 24 20)).toNat)).map (fun s => (h', s))

/-! ### Arithmetic -/

/-- A code and its flags into an f register, or into an x register as it is. -/
def Hart.takeF (h : Hart) (w rd : Nat) (r : Nat × Nat) : Hart := (h.wF w rd r.1).accrue r.2
def Hart.takeX (h : Hart) (rd : Nat) (v : Word) (fl : Nat) : Hart := (h.wX (BitVec.ofNat 5 rd) v).accrue fl

/-- FMADD, FMSUB, FNMSUB, FNMADD. -/
def rvFma (s : State) (h h' : Hart) (w : W32) : Rv :=
  let n := w.toNat
  let k := bitsN n 3 2
  match rvFmt (bitsN n 26 25), h.rmOf (bitsN n 14 12), h.unitOff 13 with
  | some f, some rm, false =>
    if f = 16 then Rv.illegal s w
    else
      let r := fun lo => h.rF f (bitsN n (lo + 4) lo)
      Rv.next (h'.takeF f (bitsN n 11 7) (rvMulAdd f rm (2 ≤ k) (k % 2 == 1) (r 15) (r 20) (r 27))) s
  | _, _, _ => Rv.illegal s w

/-- An integer result of `n` bits, sign-extended. -/
def intWord (n v : Nat) : Word := sextN n v

/-- The instructions of OP-FP on format `f`, their names the funct5 field: the hart they leave, or none for a reserved one.
Half precision has moves and conversions alone (Zfhmin). -/
def rvFloatOp (h h' : Hart) (n f : Nat) : Option Hart :=
  let rd := bitsN n 11 7
  let r2 := bitsN n 24 20
  let f3 := bitsN n 14 12
  let a := h.rF f (bitsN n 19 15)
  let b := h.rF f r2
  let x := h.rX (regAt n 15)
  let rounded := fun (g : RvRm → Nat × Nat) => (h.rmOf f3).map (fun rm => h'.takeF f rd (g rm))
  let half := f = 16
  match bitsN n 31 27 with
  | 0x00 => if half then none else rounded (fun rm => rvAdd f rm a b)
  | 0x01 => if half then none else rounded (fun rm => rvSub f rm a b)
  | 0x02 => if half then none else rounded (fun rm => rvMul f rm a b)
  | 0x03 => if half then none else rounded (fun rm => rvDiv f rm a b)
  | 0x0B => if half || r2 ≠ 0 then none else rounded (fun rm => rvSqrt f rm a)
  | 0x04 => if half || 3 ≤ f3 then none else some (h'.wF f rd (rvSgnj f f3 a b))
  | 0x05 => if half || 4 ≤ f3 then none else some (h'.takeF f rd (rvMinMax f (f3 % 2 == 1) (2 ≤ f3) a b))
  | 0x08 =>
    match rvFmt r2 with
    | some g =>
      if g = f then none else rounded (fun rm => rvCvt g f rm (h.rF g (bitsN n 19 15)))
    | none => if half then none else if r2 = 4 ∨ r2 = 5 then rounded (fun rm => rvRound f rm (r2 == 5) a) else none
  | 0x14 =>
    let cmp := fun (quiet : Bool) (p : Ordering → Bool) =>
      let r := rvCmp f quiet p a b
      some (h'.takeX rd (w64 r.1) r.2)
    if half then none
    else match f3 with
      | 0 => cmp false (· != .gt) | 1 => cmp false (· == .lt) | 2 => cmp true (· == .eq)
      | 4 => cmp true (· != .gt) | 5 => cmp true (· == .lt) | _ => none
  | 0x18 =>
    if half then none
    else if r2 = 8 ∧ f = 64 ∧ f3 = 1 then
      let r := rvCvtMod a
      some (h'.takeX rd (intWord 32 r.1) r.2)
    else if 4 ≤ r2 then none
    else (h.rmOf f3).map (fun rm =>
      let m := if r2 < 2 then 32 else 64
      let r := rvToInt f rm (r2 % 2 == 0) m a
      h'.takeX rd (intWord m r.1) r.2)
  | 0x1A =>
    if half || 4 ≤ r2 then none
    else
      let m := if r2 < 2 then 32 else 64
      rounded (fun rm => rvOfInt f rm (if r2 % 2 = 0 then (intWord m x.toNat).toInt else ((x.toNat % 2 ^ m : Nat) : Int)))
  | 0x1C =>
    if r2 ≠ 0 then none
    else if f3 = 0 then some (h'.takeX rd (intWord f (fget 0#64 h.f (bitsN n 19 15)).toNat) 0)
    else if f3 = 1 && !half then some (h'.takeX rd (w64 (rvClass f a)) 0)
    else none
  | 0x1E =>
    if f3 ≠ 0 then none
    else if r2 = 0 then some (h'.wF f rd x.toNat)
    else if r2 = 1 && !half then some (h'.wF f rd (rvFli f (bitsN n 19 15)))
    else none
  | _ => none

/-- OP-FP. -/
def rvFloat (s : State) (h h' : Hart) (w : W32) : Rv :=
  match rvFmt (bitsN w.toNat 26 25) with
  | none => Rv.illegal s w
  | some f =>
    if h.unitOff 13 then Rv.illegal s w
    else match rvFloatOp h h' w.toNat f with
      | some h => Rv.next h s
      | none => Rv.illegal s w

end Sys2Proof.Machine
end

