-- ==== Sys2Proof/Machine/RvVec.lean ====
section
/-!
DEFINITION. Machine/RvVec.lean: the vector instructions of an application hart: V at VLEN 256 with elements up to 64 bits, Zvbb
and Zvfhmin (RVA23; 05 R116, notes/assumptions/14.md, PRESUMED). Every element access is checked by `hartReach` (05 R118).
-/
namespace Sys2Proof.Machine

/-! ### The registers and the configuration -/

/-- Element `i`, of `e` bits, of the register group at `r`; a mask's elements have 1 bit. -/
def Hart.vGet (h : Hart) (e r i : Nat) : Nat :=
  (fget 0#256 h.v (r + i * e / 256)).toNat / 2 ^ (i * e % 256) % 2 ^ e
def Hart.vPut (h : Hart) (e r i x : Nat) : Hart :=
  let k := r + i * e / 256
  let lo := i * e % 256
  { h with v := fset h.v k (BitVec.ofNat 256 (putBits (fget 0#256 h.v k).toNat (lo + e - 1) lo x)) }

/-- The configuration of a vector instruction: SEW, LMUL in eighths, vl, vstart, and whether it is unmasked. -/
structure VCfg where
  sew   : Nat
  lm    : Nat
  vl    : Nat
  start : Nat
  vm    : Bool
  deriving DecidableEq, Repr

/-- VLMAX of a vtype's fields: SEW and LMUL; none where they are reserved or together too much. -/
def vtypeOf (vt : Nat) : Option (Nat × Nat) :=
  let sew := 8 * 2 ^ bitsN vt 5 3
  let lm := match bitsN vt 2 0 with
    | 0 => 8 | 1 => 16 | 2 => 32 | 3 => 64 | 5 => 1 | 6 => 2 | 7 => 4 | _ => 0
  if vt / 256 ≠ 0 ∨ lm = 0 ∨ 64 < sew ∨ 8 * lm < sew then none else some (sew, lm)

def vlmax (sew lm : Nat) : Nat := 32 * lm / sew

/-- The configuration that vtype holds; none while vill is set. -/
def Hart.vCfg (h : Hart) (n : Nat) : Option VCfg :=
  match vtypeOf (h.rCsr 0xC21).toNat with
  | some (sew, lm) =>
    some { sew := sew, lm := lm, vl := (h.rCsr 0xC20).toNat, start := (h.rCsr 8).toNat, vm := bitN n 25 }
  | none => none

/-- The registers of a group of `e`-bit elements; a mask has one. -/
def VCfg.regs (c : VCfg) (e : Nat) : Nat := if e = 1 then 1 else max 1 (c.lm * e / c.sew / 8)

/-- A group is legal: its element width exists, its EMUL lies between 1/8 and 8, and its number is a multiple of its size. -/
def VCfg.groupOk (c : VCfg) (e r : Nat) : Bool :=
  e == 1 || (8 ≤ e && e ≤ 64 && c.sew ≤ c.lm * e && c.lm * e ≤ 64 * c.sew && r % c.regs e == 0)

/-- A destination group may overlap a source group of another element width only in its lowest or highest part. -/
def VCfg.overlapOk (c : VCfg) (de d se r : Nat) : Bool :=
  let nd := c.regs de
  let ns := c.regs se
  d + nd ≤ r || r + ns ≤ d || de == se || (de < se && d == r) || (se < de && c.sew ≤ c.lm * se / 8 && d + nd == r + ns)

def disjointRegs (a m b n : Nat) : Bool := a + m ≤ b || b + n ≤ a

/-- Element `i` is active: at or after vstart, and not masked off. -/
def VCfg.active (c : VCfg) (h : Hart) (i : Nat) : Bool := c.start ≤ i && (c.vm || h.vGet 1 0 i == 1)

/-- What a vector instruction does: the vector registers it reads and those it writes whole, the hart it leaves, and its flags
(32 for vxsat). -/
structure VPlan where
  reads : List Nat
  whole : List Nat
  hart  : Hart
  flags : Nat

/-! ### Element operations -/

/-- An element operation: the widths of the destination, of vs2 (0: none) and of vs1, whether the old destination is read,
whether vm masks it, whether the destination must be disjoint from its sources, and what an element becomes from its index, vs2's
element, the operand and the old element. -/
structure VOp where
  de   : Nat
  e2   : Nat
  e1   : Nat
  acc  : Bool := false
  mask : Bool := true
  far  : Bool := false
  f    : Nat → Nat → Nat → Nat → Nat × Nat

/-- An element operation carried out; `vv` says that the operand is vs1's element, `src` gives it otherwise. -/
def vElements (c : VCfg) (h : Hart) (n : Nat) (vv : Bool) (src : Nat) (o : VOp) : Option VPlan :=
  let vd := bitsN n 11 7
  let v2 := bitsN n 24 20
  let v1 := bitsN n 19 15
  let apart := fun (e r : Nat) => if o.far then disjointRegs vd (c.regs o.de) r (c.regs e) else c.overlapOk o.de vd e r
  if c.groupOk o.de vd && (o.e2 == 0 || (c.groupOk o.e2 v2 && apart o.e2 v2)) && (!vv || (c.groupOk o.e1 v1 && apart o.e1 v1)) &&
      (c.vm || vd != 0 || (o.de == 1 && !o.far)) then
    let c' := if o.mask then c else { c with vm := true }
    let r := (List.range c.vl).foldl (fun (g : Hart × Nat) i =>
      if c'.active h i then
        let (x, fl) := o.f i (if o.e2 = 0 then 0 else h.vGet o.e2 v2 i) (if vv then h.vGet o.e1 v1 i else src) (h.vGet o.de vd i)
        (g.1.vPut o.de vd i x, g.2 ||| fl)
      else g) (h, 0)
    some { reads := (if o.e2 = 0 then [] else vRegs v2 (c.regs o.e2)) ++ (if vv then vRegs v1 (c.regs o.e1) else []) ++
                    (if o.acc then vRegs vd (c.regs o.de) else []) ++ (if c.vm then [] else vRegs 0 1)
           whole := if c'.vm && c.start = 0 && c.vl = vlmax c.sew c.lm && 8 ≤ c.lm && o.de ≠ 1 then vRegs vd (c.regs o.de) else []
           hart := r.1, flags := r.2 }
  else none

/-- An element of `n` bits as a signed number, and a number cut to `n` bits. -/
def sInt (n v : Nat) : Int := if bitN v (n - 1) then (v % 2 ^ n : Int) - 2 ^ n else (v % 2 ^ n : Int)
def cutInt (n : Nat) (i : Int) : Nat := (i % 2 ^ n).toNat

/-- A number held to a range, vxsat where it is not in it. -/
def clip (lo hi i : Int) : Int × Nat := if i < lo then (lo, 32) else if hi < i then (hi, 32) else (i, 0)
def clipS (n : Nat) (i : Int) : Nat × Nat :=
  let r := clip (-2 ^ (n - 1)) (2 ^ (n - 1) - 1) i
  (cutInt n r.1, r.2)
def clipU (n : Nat) (i : Int) : Nat × Nat :=
  let r := clip 0 (2 ^ n - 1) i
  (cutInt n r.1, r.2)

/-- Fixed-point rounding by vxrm: rnu, rne, rdn, rod. -/
def roundOff (vxrm : Nat) (i : Int) (d : Nat) : Int :=
  let q := i / 2 ^ d
  let r := (i % 2 ^ d).toNat * 2
  let up := match vxrm with
    | 0 => d ≠ 0 && 2 ^ d ≤ r
    | 1 => d ≠ 0 && (2 ^ d < r || (2 ^ d = r && q % 2 = 1))
    | 2 => false
    | _ => r ≠ 0 && q % 2 = 0
  if up then q + 1 else q

/-- The bits of an `n`-bit number reversed. -/
def revBits (n v : Nat) : Nat := (List.range n).foldl (fun a i => 2 * a + b2n (bitN v i)) 0

/-- OPIVV, OPIVX and OPIVI: the forms that exist (1 VV, 2 VX, 4 VI), whether VI's immediate is unsigned, and the operation. -/
def vOpi (sew vxrm f6 : Nat) : Option (Nat × Bool × VOp) :=
  let m := 2 ^ sew
  let op := fun (forms : Nat) (u : Bool) (g : Nat → Nat → Nat) =>
    some (forms, u, ({ de := sew, e2 := sew, e1 := sew, f := fun _ a b _ => (g a b % m, 0) } : VOp))
  let sat := fun (forms : Nat) (u : Bool) (g : Nat → Nat → Nat × Nat) =>
    some (forms, u, ({ de := sew, e2 := sew, e1 := sew, f := fun _ a b _ => g a b } : VOp))
  let cmp := fun (forms : Nat) (g : Nat → Nat → Bool) =>
    some (forms, false, ({ de := 1, e2 := sew, e1 := sew, f := fun _ a b _ => (b2n (g a b), 0) } : VOp))
  let nar := fun (g : Nat → Nat → Nat × Nat) =>
    some (7, true, ({ de := sew, e2 := 2 * sew, e1 := sew, f := fun _ a b _ => g a (b % (2 * sew)) } : VOp))
  let sg := sInt sew
  match f6 with
  | 0x00 => op 7 false (· + ·)
  | 0x01 => op 3 false (fun a b => a &&& (m - 1 - b))
  | 0x02 => op 3 false (fun a b => a + m - b)
  | 0x03 => op 6 false (fun a b => b + m - a)
  | 0x04 => op 3 false min
  | 0x05 => op 3 false (fun a b => if sg a < sg b then a else b)
  | 0x06 => op 3 false max
  | 0x07 => op 3 false (fun a b => if sg a < sg b then b else a)
  | 0x09 => op 7 false (· &&& ·)
  | 0x0A => op 7 false (· ||| ·)
  | 0x0B => op 7 false (· ^^^ ·)
  | 0x14 => op 7 true (fun a b => rotLeft sew a (sew - b % sew))
  | 0x15 => op 3 false (fun a b => rotLeft sew a b)
  | 0x18 => cmp 7 (· == ·)
  | 0x19 => cmp 7 (· != ·)
  | 0x1A => cmp 3 (fun a b => a < b)
  | 0x1B => cmp 3 (fun a b => sg a < sg b)
  | 0x1C => cmp 7 (fun a b => a ≤ b)
  | 0x1D => cmp 7 (fun a b => sg a ≤ sg b)
  | 0x1E => cmp 6 (fun a b => b < a)
  | 0x1F => cmp 6 (fun a b => sg b < sg a)
  | 0x20 => sat 7 false (fun a b => clipU sew (a + b))
  | 0x21 => sat 7 false (fun a b => clipS sew (sg a + sg b))
  | 0x22 => sat 3 false (fun a b => clipU sew ((a : Int) - b))
  | 0x23 => sat 3 false (fun a b => clipS sew (sg a - sg b))
  | 0x25 => op 7 true (fun a b => a * 2 ^ (b % sew))
  | 0x27 => sat 3 false (fun a b => clipS sew (roundOff vxrm (sg a * sg b) (sew - 1)))
  | 0x28 => op 7 true (fun a b => a / 2 ^ (b % sew))
  | 0x29 => op 7 true (fun a b => cutInt sew (sg a / 2 ^ (b % sew)))
  | 0x2A => op 7 true (fun a b => cutInt sew (roundOff vxrm a (b % sew)))
  | 0x2B => op 7 true (fun a b => cutInt sew (roundOff vxrm (sg a) (b % sew)))
  | 0x2C => nar (fun a b => (a / 2 ^ b % m, 0))
  | 0x2D => nar (fun a b => (cutInt sew (sInt (2 * sew) a / 2 ^ b), 0))
  | 0x2E => nar (fun a b => clipU sew (roundOff vxrm a b))
  | 0x2F => nar (fun a b => clipS sew (roundOff vxrm (sInt (2 * sew) a) b))
  | 0x35 => some (7, true, { de := 2 * sew, e2 := sew, e1 := sew, f := fun _ a b _ => (a * 2 ^ (b % (2 * sew)) % (m * m), 0) })
  | _ => none

/-- The operations that take a carry or choose by v0, which vm = 0 names: VADC, VMADC, VSBC, VMSBC, VMERGE and VMV.V. -/
def vCarry (c : VCfg) (h : Hart) (n f6 : Nat) : Option (Nat × Bool × VOp) :=
  let m := 2 ^ c.sew
  let v0 := fun i => if c.vm then 0 else h.vGet 1 0 i
  let op := fun (forms de : Nat) (g : Nat → Nat → Nat → Nat) =>
    some (forms, false, ({ de := de, e2 := c.sew, e1 := c.sew, mask := false, f := fun i a b _ => (g (v0 i) a b, 0) } : VOp))
  match f6, c.vm with
  | 0x10, false => op 7 c.sew (fun k a b => (a + b + k) % m)
  | 0x11, _ => op 7 1 (fun k a b => b2n (m ≤ a + b + k))
  | 0x12, false => op 3 c.sew (fun k a b => (a + 2 * m - b - k) % m)
  | 0x13, _ => op 3 1 (fun k a b => b2n (a < b + k))
  | 0x17, false => op 7 c.sew (fun k a b => if k = 1 then b else a)
  | 0x17, true =>
    if bitsN n 24 20 = 0 then some (7, false, { de := c.sew, e2 := 0, e1 := c.sew, f := fun _ _ b _ => (b, 0) }) else none
  | _, _ => none

/-- VSLIDEUP, VSLIDEDOWN and VRGATHER: the forms, and the operation, its operand an offset or an index. -/
def vMove (c : VCfg) (h : Hart) (n f6 f3 : Nat) : Option (Nat × VOp) :=
  let v2 := bitsN n 24 20
  let at' := fun (j : Nat) => if j < vlmax c.sew c.lm then h.vGet c.sew v2 j else 0
  match f6 with
  | 0x0C => some (7, { de := c.sew, e2 := c.sew, e1 := c.sew, far := true, f := fun _ _ b _ => (at' b, 0) })
  | 0x0E =>
    if f3 = 0 then some (1, { de := c.sew, e2 := c.sew, e1 := 16, far := true, f := fun _ _ b _ => (at' b, 0) })
    else some (6, { de := c.sew, e2 := c.sew, e1 := c.sew, acc := true, far := true, f := fun i _ b d => (if i < b then d else at' (i - b), 0) })
  | 0x0F => some (6, { de := c.sew, e2 := c.sew, e1 := c.sew, f := fun i _ b _ => (at' (i + b), 0) })
  | _ => none

/-- VSLIDE1UP and VSLIDE1DOWN, of x and of f. -/
def vSlide1 (c : VCfg) (h : Hart) (n f6 : Nat) : Option VOp :=
  let v2 := bitsN n 24 20
  match f6 with
  | 0x0E => some { de := c.sew, e2 := c.sew, e1 := c.sew, far := true, f := fun i _ b _ => (if i = 0 then b else h.vGet c.sew v2 (i - 1), 0) }
  | 0x0F => some { de := c.sew, e2 := c.sew, e1 := c.sew, f := fun i _ b _ => (if i + 1 = c.vl then b else h.vGet c.sew v2 (i + 1), 0) }
  | _ => none

/-- VMV1R to VMV8R. -/
def vWhole (c : VCfg) (h : Hart) (n : Nat) : Option VPlan :=
  let k := bitsN n 19 15 + 1
  let vd := bitsN n 11 7
  let v2 := bitsN n 24 20
  if c.vm && [1, 2, 4, 8].contains k && vd % k == 0 && v2 % k == 0 then
    some { reads := vRegs v2 k, whole := if c.start = 0 then vRegs vd k else [], flags := 0
           hart := (List.range (k * 256 / c.sew)).foldl (fun g i => if c.start ≤ i then g.vPut c.sew vd i (h.vGet c.sew v2 i) else g) h }
  else none

/-- OPIVV (f3 0), OPIVI (3) and OPIVX (4). -/
def vInt (c : VCfg) (h : Hart) (n : Nat) : Option VPlan :=
  let f6 := bitsN n 31 26
  let f3 := bitsN n 14 12
  let form := if f3 = 0 then 1 else if f3 = 4 then 2 else 4
  let imm := bitsN n 19 15
  let x := (h.rX (regAt n 15)).toNat
  let go := fun (forms : Nat) (u : Bool) (o : VOp) =>
    let m := 2 ^ o.e1
    let src := if f3 = 4 then x % m else if u then imm else (sextN 5 imm).toNat % m
    if forms / form % 2 = 1 then vElements c h n (f3 == 0) src o else none
  if f3 = 3 ∧ f6 = 0x27 then vWhole c h n
  else if (f6 = 0x30 ∨ f6 = 0x31) ∧ f3 = 0 then none
  else if f3 = 3 ∧ (f6 = 0x14 ∨ f6 = 0x15) then
    match vOpi c.sew 0 0x14 with
    | some (_, _, o) => vElements c h n false (f6 % 2 * 32 + imm) o
    | none => none
  else match vMove c h n f6 f3 with
    | some (forms, o) =>
      if forms / form % 2 = 1 then vElements c h n (f3 == 0) (if f3 = 4 then x else imm) o else none
    | none =>
      match (vCarry c h n f6).or (vOpi c.sew (fld (h.rCsr 15) 2 1) f6) with
      | some (forms, u, o) => go forms u o
      | none => none

/-! ### Multiplication, division and widening -/

/-- OPMVV and OPMVX element operations: the forms (1 VV, 2 VX) and the operation. -/
def vOpm (sew vxrm f6 : Nat) : Option (Nat × VOp) :=
  let m := 2 ^ sew
  let sg := sInt sew
  let op := fun (g : Nat → Nat → Nat) =>
    some (3, ({ de := sew, e2 := sew, e1 := sew, f := fun _ a b _ => (g a b % m, 0) } : VOp))
  let avg := fun (i : Nat → Nat → Int) => op (fun a b => cutInt sew (roundOff vxrm (i a b) 1))
  let mac := fun (g : Nat → Nat → Nat → Int) =>
    some (3, ({ de := sew, e2 := sew, e1 := sew, acc := true, f := fun _ a b d => (cutInt sew (g a b d), 0) } : VOp))
  let wide := fun (forms e2 : Nat) (acc : Bool) (g : Nat → Nat → Nat → Int) =>
    some (forms, ({ de := 2 * sew, e2 := e2, e1 := sew, acc := acc, f := fun _ a b d => (cutInt (2 * sew) (g a b d), 0) } : VOp))
  let w := sInt (2 * sew)
  match f6 with
  | 0x08 => avg (fun a b => a + b)
  | 0x09 => avg (fun a b => sg a + sg b)
  | 0x0A => avg (fun a b => (a : Int) - b)
  | 0x0B => avg (fun a b => sg a - sg b)
  | 0x20 => op (fun a b => if b = 0 then m - 1 else a / b)
  | 0x21 => op (fun a b => if b = 0 then m - 1 else cutInt sew ((sg a).tdiv (sg b)))
  | 0x22 => op (fun a b => if b = 0 then a else a % b)
  | 0x23 => op (fun a b => if b = 0 then a else cutInt sew ((sg a).tmod (sg b)))
  | 0x24 => op (fun a b => a * b / m)
  | 0x25 => op (fun a b => a * b)
  | 0x26 => op (fun a b => cutInt sew (sg a * b / m))
  | 0x27 => op (fun a b => cutInt sew (sg a * sg b / m))
  | 0x29 => mac (fun a b d => b * d + a)
  | 0x2B => mac (fun a b d => (a : Int) - b * d)
  | 0x2D => mac (fun a b d => b * a + d)
  | 0x2F => mac (fun a b d => (d : Int) - b * a)
  | 0x30 => wide 3 sew false (fun a b _ => a + b)
  | 0x31 => wide 3 sew false (fun a b _ => sg a + sg b)
  | 0x32 => wide 3 sew false (fun a b _ => (a : Int) - b)
  | 0x33 => wide 3 sew false (fun a b _ => sg a - sg b)
  | 0x34 => wide 3 (2 * sew) false (fun a b _ => a + b)
  | 0x35 => wide 3 (2 * sew) false (fun a b _ => w a + sg b)
  | 0x36 => wide 3 (2 * sew) false (fun a b _ => (a : Int) - b)
  | 0x37 => wide 3 (2 * sew) false (fun a b _ => w a - sg b)
  | 0x38 => wide 3 sew false (fun a b _ => a * b)
  | 0x3A => wide 3 sew false (fun a b _ => sg a * b)
  | 0x3B => wide 3 sew false (fun a b _ => sg a * sg b)
  | 0x3C => wide 3 sew true (fun a b d => a * b + d)
  | 0x3D => wide 3 sew true (fun a b d => sg a * sg b + d)
  | 0x3E => wide 2 sew true (fun a b d => sg a * b + d)
  | 0x3F => wide 3 sew true (fun a b d => a * sg b + d)
  | _ => none

/-- VZEXT, VSEXT and Zvbb's unary operations, by their vs1 field. -/
def vUnary (sew v1 : Nat) : Option VOp :=
  let ext := fun (k : Nat) (signed : Bool) =>
    if sew / k < 8 then none
    else some ({ de := sew, e2 := sew / k, e1 := 8, f := fun _ a _ _ => (if signed then cutInt sew (sInt (sew / k) a) else a, 0) } : VOp)
  let un := fun (g : Nat → Nat) => some ({ de := sew, e2 := sew, e1 := 8, f := fun _ a _ _ => (g a, 0) } : VOp)
  match v1 with
  | 2 => ext 8 false | 3 => ext 8 true | 4 => ext 4 false | 5 => ext 4 true | 6 => ext 2 false | 7 => ext 2 true
  | 8 => un (fun a => fromBytes ((toBytes (sew / 8) a).map (fun b => BitVec.ofNat 8 (revBits 8 b.toNat))))
  | 9 => un (fun a => fromBytes (toBytes (sew / 8) a).reverse)
  | 10 => un (revBits sew)
  | 12 => un (leadZeros sew) | 13 => un (trailZeros sew) | 14 => un (popCount sew)
  | _ => none

/-! ### Reductions and masks -/

/-- A reduction of vs2's active elements from vs1's first: the widths of vs2 and of the result, and the step. -/
def vReduce (c : VCfg) (h : Hart) (n se de : Nat) (g : Nat → Nat → Nat × Nat) : Option VPlan :=
  let v2 := bitsN n 24 20
  let v1 := bitsN n 19 15
  let vd := bitsN n 11 7
  if c.start = 0 && de ≤ 64 && c.groupOk se v2 then
    let r := (List.range c.vl).foldl (fun (x : Nat × Nat) i =>
      if c.active h i then
        let y := g x.1 (h.vGet se v2 i)
        (y.1, x.2 ||| y.2)
      else x) (h.vGet de v1 0, 0)
    some { reads := vRegs v2 (c.regs se) ++ vRegs v1 1 ++ (if c.vm then [] else vRegs 0 1), whole := [], flags := r.2
           hart := if c.vl = 0 then h else h.vPut de vd 0 r.1 }
  else none

/-- The integer reductions of OPMVV. -/
def vRed (sew f6 : Nat) : Nat → Nat → Nat × Nat := fun x a =>
  let sg := sInt sew
  (match f6 with
    | 0 => (x + a) % 2 ^ sew
    | 1 => x &&& a
    | 2 => x ||| a
    | 3 => x ^^^ a
    | 4 => min x a
    | 5 => if sg a < sg x then a else x
    | 6 => max x a
    | _ => if sg x < sg a then a else x, 0)

/-- The mask operations of two sources. -/
def vMask (f6 : Nat) : VOp :=
  { de := 1, e2 := 1, e1 := 1, mask := false
    f := fun _ a b _ => (match f6 with
      | 0x18 => a * (1 - b)
      | 0x19 => a * b
      | 0x1A => max a b
      | 0x1B => (a + b) % 2
      | 0x1C => max a (1 - b)
      | 0x1D => 1 - a * b
      | 0x1E => 1 - max a b
      | _ => 1 - (a + b) % 2, 0) }

/-- The active elements of a mask that are set, in rising order. -/
def vSet (c : VCfg) (h : Hart) (v2 : Nat) : List Nat :=
  (List.range c.vl).filter (fun i => c.active h i && h.vGet 1 v2 i == 1)

/-- VMSBF, VMSOF, VMSIF, VIOTA and VID, by their vs1 field. -/
def vMaskUnary (c : VCfg) (h : Hart) (n : Nat) : Option VPlan :=
  let v2 := bitsN n 24 20
  let hit := vSet c h v2
  let first := hit.head?.getD c.vl
  let op := fun (g : Nat → Nat) => if c.start = 0 then vElements c h n false 0 { de := 1, e2 := 1, e1 := 8, far := true, f := fun i _ _ _ => (g i, 0) } else none
  match bitsN n 19 15 with
  | 1 => op (fun i => b2n (i < first))
  | 2 => op (fun i => b2n (i == first))
  | 3 => op (fun i => b2n (i ≤ first))
  | 16 =>
    if c.start = 0 then
      vElements c h n false 0 { de := c.sew, e2 := 1, e1 := 8, far := true, f := fun i _ _ _ => ((hit.filter (· < i)).length % 2 ^ c.sew, 0) }
    else none
  | 17 => if v2 = 0 then vElements c h n false 0 { de := c.sew, e2 := 0, e1 := 8, f := fun i _ _ _ => (i % 2 ^ c.sew, 0) } else none
  | _ => none

/-- VCOMPRESS. -/
def vCompress (c : VCfg) (h : Hart) (n : Nat) : Option VPlan :=
  let vd := bitsN n 11 7
  let v2 := bitsN n 24 20
  let v1 := bitsN n 19 15
  let k := c.regs c.sew
  if c.vm && c.start == 0 && c.groupOk c.sew vd && c.groupOk c.sew v2 && disjointRegs vd k v2 k && disjointRegs vd k v1 1 then
    let hit := (List.range c.vl).filter (fun i => h.vGet 1 v1 i == 1)
    some { reads := vRegs v2 k ++ vRegs v1 1, whole := [], flags := 0
           hart := (List.range hit.length).foldl (fun g j => g.vPut c.sew vd j (h.vGet c.sew v2 (hit.getD j 0))) h }
  else none

/-- OPMVV (f3 2) and OPMVX (6). -/
def vMul (c : VCfg) (h : Hart) (n : Nat) : Option VPlan :=
  let f6 := bitsN n 31 26
  let vv := bitsN n 14 12 = 2
  let rd := bitsN n 11 7
  let v2 := bitsN n 24 20
  let v1 := bitsN n 19 15
  let x := (h.rX (regAt n 15)).toNat
  let toX := fun (v : Word) (reads : List Nat) => some ({ reads := reads, whole := [], hart := h.wX (regAt n 7) v, flags := 0 } : VPlan)
  if vv && f6 < 8 then vReduce c h n c.sew c.sew (vRed c.sew f6)
  else if !vv && (f6 = 0x0E || f6 = 0x0F) then (vSlide1 c h n f6).bind (vElements c h n false (x % 2 ^ c.sew))
  else if f6 = 0x10 then
    if vv then
      match v1 with
      | 0 => if c.vm then toX (sextN c.sew (h.vGet c.sew v2 0)) (vRegs v2 1) else none
      | 16 => if c.start = 0 then toX (w64 (vSet c h v2).length) (vRegs v2 1 ++ (if c.vm then [] else vRegs 0 1)) else none
      | 17 =>
        if c.start = 0 then
          toX (match vSet c h v2 with | [] => BitVec.allOnes 64 | i :: _ => w64 i) (vRegs v2 1 ++ (if c.vm then [] else vRegs 0 1))
        else none
      | _ => none
    else if v2 = 0 && c.vm then
      some { reads := [], whole := [], hart := if c.start < c.vl then h.vPut c.sew rd 0 (x % 2 ^ c.sew) else h, flags := 0 }
    else none
  else if vv && f6 = 0x12 then (vUnary c.sew v1).bind (vElements c h n false 0)
  else if vv && f6 = 0x14 then vMaskUnary c h n
  else if vv && f6 = 0x17 then vCompress c h n
  else if vv && 0x18 ≤ f6 && f6 < 0x20 then (if c.vm then vElements c h n true 0 (vMask f6) else none)
  else match vOpm c.sew (fld (h.rCsr 15) 2 1) f6 with
    | some (forms, o) => if forms / (if vv then 1 else 2) % 2 = 1 then vElements c h n vv (x % 2 ^ c.sew) o else none
    | none => none

/-! ### Floating point -/

/-- A result of the widening operations: operands taken to twice their width first. -/
def widened (w : Nat) (rm : RvRm) (g : Nat → Nat → Nat × Nat) (a b : Nat) : Nat × Nat :=
  let x := rvCvt w (2 * w) rm a
  let y := rvCvt w (2 * w) rm b
  let r := g x.1 y.1
  (r.1, r.2 ||| x.2 ||| y.2)

/-- OPFVV and OPFVF element operations on SEW 32 or 64: the forms (1 VV, 2 VF) and the operation. -/
def vOpf (w : Nat) (rm : RvRm) (f6 : Nat) : Option (Nat × VOp) :=
  let op := fun (forms : Nat) (g : Nat → Nat → Nat × Nat) =>
    some (forms, ({ de := w, e2 := w, e1 := w, f := fun _ a b _ => g a b } : VOp))
  let cmp := fun (forms : Nat) (g : Nat → Nat → Nat × Nat) =>
    some (forms, ({ de := 1, e2 := w, e1 := w, f := fun _ a b _ => g a b } : VOp))
  let mac := fun (g : Nat → Nat → Nat → Nat × Nat) =>
    some (3, ({ de := w, e2 := w, e1 := w, acc := true, f := fun _ a b d => g a b d } : VOp))
  let wide := fun (g : Nat → Nat → Nat × Nat) =>
    if w = 32 then some (3, ({ de := 64, e2 := w, e1 := w, f := fun _ a b _ => widened w rm g a b } : VOp)) else none
  let wideW := fun (g : Nat → Nat → Nat × Nat) =>
    if w = 32 then
      some (3, ({ de := 64, e2 := 64, e1 := w, f := fun _ a b _ =>
        let y := rvCvt w 64 rm b
        let r := g a y.1
        (r.1, r.2 ||| y.2) } : VOp))
    else none
  let wmac := fun (p q : Bool) =>
    if w = 32 then
      some (3, ({ de := 64, e2 := w, e1 := w, acc := true, f := fun _ a b d => widened w rm (fun x y => rvMulAdd 64 rm p q x y d) a b } : VOp))
    else none
  match f6 with
  | 0x00 => op 3 (rvAdd w rm)
  | 0x02 => op 3 (rvSub w rm)
  | 0x04 => op 3 (rvMinMax w false false)
  | 0x06 => op 3 (rvMinMax w true false)
  | 0x08 => op 3 (fun a b => (rvSgnj w 0 a b, 0))
  | 0x09 => op 3 (fun a b => (rvSgnj w 1 a b, 0))
  | 0x0A => op 3 (fun a b => (rvSgnj w 2 a b, 0))
  | 0x18 => cmp 3 (rvCmp w true (· == .eq))
  | 0x19 => cmp 3 (rvCmp w false (· != .gt))
  | 0x1B => cmp 3 (rvCmp w false (· == .lt))
  | 0x1C => cmp 3 (fun a b => (1 - (rvCmp w true (· == .eq) a b).1, (rvCmp w true (· == .eq) a b).2))
  | 0x1D => cmp 2 (rvCmp w false (· == .gt))
  | 0x1F => cmp 2 (rvCmp w false (· != .lt))
  | 0x20 => op 3 (rvDiv w rm)
  | 0x21 => op 2 (fun a b => rvDiv w rm b a)
  | 0x24 => op 3 (rvMul w rm)
  | 0x27 => op 2 (fun a b => rvSub w rm b a)
  | 0x28 => mac (fun a b d => rvMulAdd w rm false false b d a)
  | 0x29 => mac (fun a b d => rvMulAdd w rm true true b d a)
  | 0x2A => mac (fun a b d => rvMulAdd w rm false true b d a)
  | 0x2B => mac (fun a b d => rvMulAdd w rm true false b d a)
  | 0x2C => mac (fun a b d => rvMulAdd w rm false false b a d)
  | 0x2D => mac (fun a b d => rvMulAdd w rm true true b a d)
  | 0x2E => mac (fun a b d => rvMulAdd w rm false true b a d)
  | 0x2F => mac (fun a b d => rvMulAdd w rm true false b a d)
  | 0x30 => wide (rvAdd 64 rm)
  | 0x32 => wide (rvSub 64 rm)
  | 0x34 => wideW (rvAdd 64 rm)
  | 0x36 => wideW (rvSub 64 rm)
  | 0x38 => wide (rvMul 64 rm)
  | 0x3C => wmac false false
  | 0x3D => wmac true true
  | 0x3E => wmac false true
  | 0x3F => wmac true false
  | _ => none

/-- VFUNARY0, the conversions, by their vs1 field: the source's and the destination's widths, each a supported one. -/
def vConvert (sew : Nat) (rm : RvRm) (v1 : Nat) : Option VOp :=
  let op := fun (e2 de : Nat) (ok : Bool) (g : Nat → Nat × Nat) =>
    if ok then some ({ de := de, e2 := e2, e1 := 8, f := fun _ a _ _ => g a } : VOp) else none
  let r := if v1 % 8 = 6 ∨ v1 % 8 = 7 then .rtz else rm
  let sgn := v1 % 2 == 1
  let int := fun (n a : Nat) => if sgn then sInt n a else (a : Int)
  let fp := sew = 32 || sew = 64
  match v1 with
  | 0 | 1 | 6 | 7 => op sew sew fp (rvToInt sew r sgn sew)
  | 2 | 3 => op sew sew fp (fun a => rvOfInt sew rm (int sew a))
  | 8 | 9 | 14 | 15 => op sew (2 * sew) (sew = 32) (rvToInt sew r sgn (2 * sew))
  | 10 | 11 => op sew (2 * sew) (sew = 16 || sew = 32) (fun a => rvOfInt (2 * sew) rm (int sew a))
  | 12 => op sew (2 * sew) (sew = 16 || sew = 32) (rvCvt sew (2 * sew) rm)
  | 16 | 17 | 22 | 23 => op (2 * sew) sew (sew = 16 || sew = 32) (rvToInt (2 * sew) r sgn sew)
  | 18 | 19 => op (2 * sew) sew (sew = 32) (fun a => rvOfInt sew rm (int (2 * sew) a))
  | 20 => op (2 * sew) sew (sew = 16 || sew = 32) (rvCvt (2 * sew) sew rm)
  | 21 => op (2 * sew) sew (sew = 32) (rvCvt (2 * sew) sew .rod)
  | _ => none

/-- VFUNARY1, by their vs1 field. -/
def vFUnary (w : Nat) (rm : RvRm) (v1 : Nat) : Option VOp :=
  let op := fun (g : Nat → Nat × Nat) => some ({ de := w, e2 := w, e1 := 8, f := fun _ a _ _ => g a } : VOp)
  match v1 with
  | 0 => op (rvSqrt w rm) | 4 => op (rvRsqrt7 w) | 5 => op (rvRec7 w rm) | 16 => op (fun a => (rvClass w a, 0)) | _ => none

/-- The floating-point reductions. -/
def vFReduce (c : VCfg) (h : Hart) (n : Nat) (rm : RvRm) (f6 : Nat) : Option VPlan :=
  let w := c.sew
  match f6 with
  | 0x01 | 0x03 => vReduce c h n w w (rvAdd w rm)
  | 0x05 => vReduce c h n w w (rvMinMax w false false)
  | 0x07 => vReduce c h n w w (rvMinMax w true false)
  | 0x31 | 0x33 =>
    if w = 32 then
      vReduce c h n 32 64 (fun x a =>
        let y := rvCvt 32 64 rm a
        let r := rvAdd 64 rm x y.1
        (r.1, r.2 ||| y.2))
    else none
  | _ => none

/-- OPFVV (f3 1) and OPFVF (5). -/
def vFp (c : VCfg) (h : Hart) (n : Nat) : Option VPlan :=
  let f6 := bitsN n 31 26
  let vv := bitsN n 14 12 = 1
  let v2 := bitsN n 24 20
  let v1 := bitsN n 19 15
  let w := c.sew
  match h.rmOf 7 with
  | none => none
  | some rm =>
    if vv && f6 = 0x12 then (vConvert w rm v1).bind (vElements c h n false 0)
    else if w ≠ 32 && w ≠ 64 then none
    else
      let x := h.rF w v1
      if vv && [0x01, 0x03, 0x05, 0x07, 0x31, 0x33].contains f6 then vFReduce c h n rm f6
      else if f6 = 0x10 then
        if !c.vm then none
        else if vv then
          (if v1 = 0 then some { reads := vRegs v2 1, whole := [], hart := h.wF w (bitsN n 11 7) (h.vGet w v2 0), flags := 0 } else none)
        else if v2 = 0 then some { reads := [], whole := [], hart := if c.start < c.vl then h.vPut w (bitsN n 11 7) 0 x else h, flags := 0 }
        else none
      else if vv && f6 = 0x13 then (vFUnary w rm v1).bind (vElements c h n false 0)
      else if !vv && (f6 = 0x0E || f6 = 0x0F) then (vSlide1 c h n f6).bind (vElements c h n false x)
      else if !vv && f6 = 0x17 then (vCarry c h n f6).bind (fun o => vElements c h n false x o.2.2)
      else match vOpf w rm f6 with
        | some (forms, o) => if forms / (if vv then 1 else 2) % 2 = 1 then vElements c h n vv x o else none
        | none => none

/-! ### The instructions -/

/-- A vector instruction ends: vstart is cleared, VS is dirty, and its flags accrue. -/
def Hart.vDone (h : Hart) (fl : Nat) : Hart :=
  let h := (h.wCsr 8 0).dirtied 9
  let h := if fl / 32 % 2 = 1 then h.wCsr 15 (h.rCsr 15 ||| 1#64) else h
  h.accrue fl

/-- A plan carried out, or an illegal instruction; the registers that it reads are scanned first (R289). -/
def vRun (s : State) (h : Hart) (w : W32) (p : Option VPlan) : Rv :=
  match p with
  | none => Rv.illegal s w
  | some p =>
    match hartScan s p.reads with
    | (s, true) => Rv.trap s xHardware 0
    | (s, false) => Rv.next ((p.hart.vDone p.flags).goes (h.pc + 4#64)) (hartWrote s p.whole)

/-- VSETVLI, VSETIVLI, VSETVL. A vtype that is not supported sets vill and makes vl 0; vl is otherwise the smaller of the
requested length and VLMAX. -/
def vSetCfg (s : State) (h : Hart) (w : W32) : Rv :=
  let n := w.toNat
  let rd := regAt n 7
  let r1 := bitsN n 19 15
  let imm := bitsN n 31 30 = 3
  if bitN n 31 && !imm && bitsN n 30 25 ≠ 0 then Rv.illegal s w
  else
    let vt := if imm then bitsN n 29 20 else if bitN n 31 then (h.rX (regAt n 20)).toNat else bitsN n 30 20
    let (vt', vl) := match vtypeOf vt with
      | none => (2 ^ 63, 0)
      | some (sew, lm) =>
        let top := vlmax sew lm
        let avl := if imm then r1 else if r1 ≠ 0 then (h.rX (regAt n 15)).toNat else if rd ≠ 0#5 then top else (h.rCsr 0xC20).toNat
        (vt, min avl top)
    Rv.next ((((h.wCsr 0xC21 (w64 vt')).wCsr 0xC20 (w64 vl)).vDone 0).wX rd (w64 vl) |>.goes (h.pc + 4#64)) s

/-- OP-V. -/
def rvVector (s : State) (h : Hart) (w : W32) : Rv :=
  let n := w.toNat
  let f3 := bitsN n 14 12
  if h.unitOff 9 then Rv.illegal s w
  else if f3 = 7 then vSetCfg s h w
  else match h.vCfg n with
    | none => Rv.illegal s w
    | some c => vRun s h w (match f3 with
      | 0 | 3 | 4 =>
        if f3 = 0 ∧ (bitsN n 31 26 = 0x30 ∨ bitsN n 31 26 = 0x31) then
          let sg := bitsN n 31 26 = 0x31
          vReduce c h n c.sew (2 * c.sew) (fun x a => (cutInt (2 * c.sew) (x + (if sg then sInt c.sew a else (a : Int))), 0))
        else vInt c h n
      | 2 | 6 => vMul c h n
      | _ => if h.unitOff 13 then none else vFp c h n)

/-! ### Loads and stores -/

/-- An access of a vector load or store: its element's index, the group of its field, its address. -/
abbrev VAccess := Nat × Nat × Word

/-- The elements loaded in order. At a trap vstart names the element; a fault-only-first load past element 0 shortens vl
instead. -/
def vLoads (h : Hart) (e : Nat) (ff : Bool) : List VAccess → Hart → State → Rv
  | [], g, s => .ok (g, s)
  | (i, r, a) :: l, g, s =>
    match hartLoad s h .load a (e / 8) with
    | .ok (bs, s) => vLoads h e ff l (g.vPut e r i (fromBytes bs)) s
    | .error .wait => .error .wait
    | .error (.trap c t ga gv s) =>
      if ff && i ≠ 0 then .ok (g.wCsr 0xC20 (w64 i), s)
      else .error (.trap c t ga gv (s.setHart s.hartId (g.wCsr 8 (w64 i))))

/-- The elements stored in order. -/
def vStores (h : Hart) (e : Nat) : List VAccess → State → HRes State
  | [], s => .ok s
  | (i, r, a) :: l, s =>
    match hartStore s h a (toBytes (e / 8) (h.vGet e r i)) with
    | .ok s => vStores h e l s
    | .error .wait => .error .wait
    | .error (.trap c t ga gv s) => .error (.trap c t ga gv (s.setHart s.hartId (h.wCsr 8 (w64 i))))

/-- What a vector load or store moves: the element width, its accesses, the registers read for its addresses and mask, the
data registers, whether they are written whole, and fault-only-first. -/
structure VMove where
  e     : Nat
  list  : List VAccess
  reads : List Nat
  data  : List Nat
  whole : Bool
  ff    : Bool

/-- The element width that a width field names. -/
def vWidth : Nat → Nat
  | 0 => 8 | 5 => 16 | 6 => 32 | 7 => 64 | _ => 0

/-- The accesses of elements from vstart: `at'` gives an element's address, its fields one after another. -/
def vAccesses (c : VCfg) (h : Hart) (n e k vl : Nat) (at' : Nat → Word) (nf : Nat) : List VAccess :=
  ((List.range vl).filter (c.active h)).flatMap (fun i =>
    (List.range nf).map (fun j => (i, bitsN n 11 7 + j * k, at' i + w64 (j * (e / 8)))))

/-- The plan of a vector load or store; none for a reserved one. -/
def vMoveOf (h : Hart) (n : Nat) (store : Bool) : Option VMove :=
  let nf := bitsN n 31 29 + 1
  let mop := bitsN n 27 26
  let vd := bitsN n 11 7
  let r2 := bitsN n 24 20
  let ew := vWidth (bitsN n 14 12)
  let base := h.rX (regAt n 15)
  let start := (h.rCsr 8).toNat
  if bitN n 28 then none
  else if mop = 0 ∧ r2 = 8 then
    if bitN n 25 && [1, 2, 4, 8].contains nf && vd % nf == 0 && (!store || ew == 8) then
      let c : VCfg := { sew := ew, lm := 8 * nf, vl := nf * 256 / ew, start := start, vm := true }
      some { e := ew, list := vAccesses c h n ew 1 c.vl (fun i => base + w64 (i * (ew / 8))) 1, reads := [], data := vRegs vd nf,
             whole := start = 0, ff := false }
    else none
  else match h.vCfg n with
    | none => none
    | some c =>
      let full := c.vm && start = 0 && c.vl = vlmax c.sew c.lm && 8 ≤ c.lm
      let m0 := if c.vm then [] else vRegs 0 1
      if mop = 0 ∧ r2 = 11 then
        if c.vm && nf == 1 && ew == 8 then
          let vl := (c.vl + 7) / 8
          some { e := 8, list := vAccesses c h n 8 1 vl (fun i => base + w64 i) 1, reads := [], data := vRegs vd 1, whole := false, ff := false }
        else none
      else if mop % 2 = 1 then
        let k := c.regs c.sew
        let v2 := r2
        if c.groupOk c.sew vd && c.groupOk ew v2 && c.lm * nf ≤ 64 && vd + nf * k ≤ 32 &&
            (store || ((c.vm || vd != 0) &&
              (if nf = 1 then c.overlapOk c.sew vd ew v2 else disjointRegs vd (nf * k) v2 (c.regs ew)))) then
          some { e := c.sew, list := vAccesses c h n c.sew k c.vl (fun i => base + w64 (h.vGet ew v2 i)) nf,
                 reads := vRegs v2 (c.regs ew) ++ m0, data := vRegs vd (nf * k), whole := full, ff := false }
        else none
      else
        let k := c.regs ew
        if c.groupOk ew vd && c.lm * ew * nf ≤ 64 * c.sew && vd + nf * k ≤ 32 && (store || c.vm || vd != 0) &&
            (mop == 2 || r2 == 0 || (r2 == 16 && !store)) then
          let step := if mop = 2 then h.rX (regAt n 20) else w64 (nf * (ew / 8))
          some { e := ew, list := vAccesses c h n ew k c.vl (fun i => base + w64 i * step) nf, reads := m0, data := vRegs vd (nf * k),
                 whole := full && c.sew ≤ ew, ff := mop == 0 && r2 == 16 }
        else none

/-- The vector loads. -/
def rvVLoad (s : State) (h : Hart) (w : W32) : Rv :=
  if h.unitOff 9 then Rv.illegal s w
  else match vMoveOf h w.toNat false with
  | none => Rv.illegal s w
  | some p =>
    match hartScan s p.reads with
    | (s, true) => Rv.trap s xHardware 0
    | (s, false) =>
      match vLoads h p.e p.ff p.list (h.dirtied 9) s with
      | .error e => .error e
      | .ok (g, s) => Rv.next ((g.vDone 0).goes (h.pc + 4#64)) (if p.whole then hartWrote s p.data else s)

/-- The vector stores. -/
def rvVStore (s : State) (h : Hart) (w : W32) : Rv :=
  if h.unitOff 9 then Rv.illegal s w
  else match vMoveOf h w.toNat true with
  | none => Rv.illegal s w
  | some p =>
    match hartScan s (p.reads ++ p.data) with
    | (s, true) => Rv.trap s xHardware 0
    | (s, false) => (vStores h p.e p.list s).map (fun s => ((h.vDone 0).goes (h.pc + 4#64), s))

end Sys2Proof.Machine
end

