-- ==== Sys2Proof/Machine/Riscv.lean ====
section
/-!
DEFINITION. Machine/Riscv.lean: the RISC-V instructions of an application hart that R116 names and the spec does not describe
(RVA23: I, M, A, Zba, Zbb, Zbs, Zicond, Zicsr, the cache-block and hint extensions, the compressed forms, and the privileged
instructions with the H extension; RvFp.lean and RvVec.lean have the rest; notes/assumptions/14.md, PRESUMED).
-/
namespace Sys2Proof.Machine

/-- OP: the result of a register-register instruction. -/
def rvOp (f7 f3 : Nat) (a b : Word) : Option Word :=
  let k := b.toNat % 64
  match f7, f3 with
  | 0x00, 0 => some (a + b) | 0x20, 0 => some (a - b)
  | 0x00, 1 => some (a <<< k) | 0x00, 2 => some (sltW a b) | 0x00, 3 => some (sltuW a b)
  | 0x00, 4 => some (a ^^^ b) | 0x00, 5 => some (a >>> k) | 0x20, 5 => some (sraW a k)
  | 0x00, 6 => some (a ||| b) | 0x00, 7 => some (a &&& b)
  | 0x20, 4 => some (~~~ (a ^^^ b)) | 0x20, 6 => some (a ||| ~~~ b) | 0x20, 7 => some (a &&& ~~~ b)
  | 0x01, 0 => some (a * b)
  | 0x01, 1 => some (BitVec.ofInt 64 (a.toInt * b.toInt / 2 ^ 64))
  | 0x01, 2 => some (BitVec.ofInt 64 (a.toInt * b.toNat / 2 ^ 64))
  | 0x01, 3 => some (w64 (a.toNat * b.toNat / 2 ^ 64))
  | 0x01, 4 => some (divS a b) | 0x01, 5 => some (divU a b) | 0x01, 6 => some (remS a b) | 0x01, 7 => some (remU a b)
  | 0x05, 4 => some (if a.toInt < b.toInt then a else b) | 0x05, 5 => some (if a < b then a else b)
  | 0x05, 6 => some (if a.toInt < b.toInt then b else a) | 0x05, 7 => some (if a < b then b else a)
  | 0x07, 5 => some (if b = 0#64 then 0 else a) | 0x07, 7 => some (if b = 0#64 then a else 0)
  | 0x10, 2 => some (b + a <<< 1) | 0x10, 4 => some (b + a <<< 2) | 0x10, 6 => some (b + a <<< 3)
  | 0x24, 1 => some (a &&& ~~~ (1#64 <<< k)) | 0x24, 5 => some ((a >>> k) &&& 1)
  | 0x14, 1 => some (a ||| (1#64 <<< k)) | 0x34, 1 => some (a ^^^ (1#64 <<< k))
  | 0x30, 1 => some (w64 (rotLeft 64 a.toNat k)) | 0x30, 5 => some (w64 (rotLeft 64 a.toNat (64 - k)))
  | _, _ => none

/-- OP-32. -/
def rvOp32 (f7 f3 rs2 : Nat) (a b : Word) : Option Word :=
  let x := a.toNat % 2 ^ 32
  let y := b.toNat % 2 ^ 32
  let sa := sx32 x
  let sb := sx32 y
  let k := y % 32
  match f7, f3 with
  | 0x00, 0 => some (sx32 (x + y)) | 0x20, 0 => some (sx32 (x + 2 ^ 32 - y))
  | 0x00, 1 => some (sx32 (x * 2 ^ k)) | 0x00, 5 => some (sx32 (x / 2 ^ k)) | 0x20, 5 => some (sraW sa k)
  | 0x01, 0 => some (sx32 (x * y))
  | 0x01, 4 => some (sx32 (divS sa sb).toNat) | 0x01, 6 => some (sx32 (remS sa sb).toNat)
  | 0x01, 5 => some (if y = 0 then BitVec.allOnes 64 else sx32 (x / y))
  | 0x01, 7 => some (if y = 0 then sa else sx32 (x % y))
  | 0x04, 0 => some (w64 x + b) | 0x04, 4 => if rs2 = 0 then some (w64 (x % 65536)) else none
  | 0x10, 2 => some (b + w64 (2 * x)) | 0x10, 4 => some (b + w64 (4 * x)) | 0x10, 6 => some (b + w64 (8 * x))
  | 0x30, 1 => some (sx32 (rotLeft 32 x k)) | 0x30, 5 => some (sx32 (rotLeft 32 x (32 - k)))
  | _, _ => none

/-- OP-IMM: `imm` is the 12-bit field. -/
def rvOpImm (f3 imm : Nat) (a : Word) : Option Word :=
  let i := sextN 12 imm
  let k := imm % 64
  match f3, imm / 64 with
  | 0, _ => some (a + i) | 2, _ => some (sltW a i) | 3, _ => some (sltuW a i)
  | 4, _ => some (a ^^^ i) | 6, _ => some (a ||| i) | 7, _ => some (a &&& i)
  | 1, 0x00 => some (a <<< k) | 1, 0x0A => some (a ||| (1#64 <<< k)) | 1, 0x12 => some (a &&& ~~~ (1#64 <<< k))
  | 1, 0x1A => some (a ^^^ (1#64 <<< k))
  | 1, 0x18 => match k with
    | 0 => some (w64 (leadZeros 64 a.toNat)) | 1 => some (w64 (trailZeros 64 a.toNat)) | 2 => some (w64 (popCount 64 a.toNat))
    | 4 => some (sextN 8 a.toNat) | 5 => some (sextN 16 a.toNat) | _ => none
  | 5, 0x00 => some (a >>> k) | 5, 0x10 => some (sraW a k) | 5, 0x12 => some ((a >>> k) &&& 1)
  | 5, 0x18 => some (w64 (rotLeft 64 a.toNat (64 - k)))
  | 5, 0x0A => if k = 7 then some (w64 (orcB a.toNat)) else none
  | 5, 0x1A => if k = 0x38 then some (w64 (fromBytes (toBytes 8 a.toNat).reverse)) else none
  | _, _ => none

/-- OP-IMM-32. -/
def rvOpImm32 (f3 imm : Nat) (a : Word) : Option Word :=
  let x := a.toNat % 2 ^ 32
  let k := imm % 32
  match f3, imm / 32 with
  | 0, _ => some (sx32 (a + sextN 12 imm).toNat)
  | 1, 0x00 => some (sx32 (x * 2 ^ k))
  | 1, 0x04 | 1, 0x05 => some (w64 (x * 2 ^ (imm % 64)))
  | 1, 0x30 => match k with
    | 0 => some (w64 (leadZeros 32 x)) | 1 => some (w64 (trailZeros 32 x)) | 2 => some (w64 (popCount 32 x)) | _ => none
  | 5, 0x00 => some (sx32 (x / 2 ^ k)) | 5, 0x20 => some (sraW (sx32 x) k) | 5, 0x30 => some (sx32 (rotLeft 32 x (32 - k)))
  | _, _ => none

/-- A branch's condition. -/
def rvTaken (f3 : Nat) (a b : Word) : Option Bool :=
  match f3 with
  | 0 => some (a == b) | 1 => some (a != b) | 4 => some (decide (a.toInt < b.toInt)) | 5 => some (decide (b.toInt ≤ a.toInt))
  | 6 => some (decide (a < b)) | 7 => some (decide (b ≤ a)) | _ => none

/-! ### Memory -/

/-- What a load of width and signedness `f3` writes: 0 lb, 1 lh, 2 lw, 3 ld, 4 lbu, 5 lhu, 6 lwu. -/
def loadWord (f3 : Nat) (bs : List Byte) : Word :=
  if f3 < 4 then sextN (8 * 2 ^ f3) (fromBytes bs) else w64 (fromBytes bs)

/-- A load into a register. -/
def rvLoad (s : State) (h h' : Hart) (m : HMode) (f3 : Nat) (rd : BitVec 5) (va : Word) : HRes (Hart × State) :=
  match hartLoadM s h m .load va (2 ^ (f3 % 4)) with
  | .error e => .error e
  | .ok (bs, s) => .ok (h'.wX rd (loadWord f3 bs), s)

def rvStore (s : State) (h h' : Hart) (m : HMode) (f3 : Nat) (va v : Word) : HRes (Hart × State) :=
  match hartStoreM s h m va (toBytes (2 ^ f3) v.toNat) with
  | .error e => .error e
  | .ok s => .ok (h', s)

/-- What an AMO stores. -/
def amoNew (f5 n old b : Nat) : Option Nat :=
  let sg := fun v => (sextN (8 * n) v).toInt
  match f5 with
  | 0x01 => some b | 0x00 => some (old + b) | 0x04 => some (old ^^^ b) | 0x0C => some (old &&& b) | 0x08 => some (old ||| b)
  | 0x10 => some (if sg old < sg b then old else b) | 0x14 => some (if sg old < sg b then b else old)
  | 0x18 => some (min old b) | 0x1C => some (max old b)
  | _ => none

/-- The A extension: LR, SC and the AMOs, on aligned words and doublewords. A reservation is the line's, while the system
cache's record has the hart hold it. -/
def rvAmo (s : State) (h h' : Hart) (w : W32) (n f5 : Nat) (rd : BitVec 5) (a b : Word) : Rv :=
  let sx := fun v => if n = 4 then sx32 v else w64 v
  let k : HartAccess := if f5 = 2 then .load else if f5 = 3 then .store else .amo
  let m := h.mode k
  if f5 ≠ 2 ∧ f5 ≠ 3 ∧ (amoNew f5 n 0 0).isNone ∨ f5 = 2 ∧ bitsN w.toNat 24 20 ≠ 0 then Rv.illegal s w
  else match sandboxFail h k (hartPtr h m k a.toNat) n with
  | some x => Rv.trap s xCapFault (w64 x) m.virt
  | none =>
    if a.toNat % n ≠ 0 then Rv.trap s (if f5 = 2 then xLoadMisaligned else xStoreMisaligned) a m.virt
    else match hartReach s h m k a.toNat n with
    | .error e => .error e
    | .ok (l, s) =>
      let line := l.head?.map (fun p => lineOf p.1)
      if f5 = 3 then
        let good := h.resv == line && ((line.map (fun x => (fget [] s.l2 x).contains s.hartId)).getD false)
        let h' := { h'.wX rd (if good then 0 else 1) with resv := none }
        if good then (writePieces s s.hartId l (toBytes n b.toNat)).map (fun s => (h', s)) else .ok (h', s)
      else match readPieces s s.hartId false l with
      | .error e => .error (errorAt a m.virt e)
      | .ok (bs, s) =>
        let h' := h'.wX rd (sx (fromBytes bs))
        if f5 = 2 then .ok ({ h' with resv := line }, s)
        else
          (writePieces s s.hartId l (toBytes n ((amoNew f5 n (fromBytes bs) (b.toNat % 256 ^ n)).getD 0))).map (fun s => (h', s))

/-- A cache-block instruction on the 64-byte block of an address: 0 inval, 1 clean, 2 flush, 4 zero, as menvcfg and its like
allow. The line is written back and leaves the system cache. -/
def rvCbo (s : State) (h h' : Hart) (w : W32) (op : Nat) (a : Word) : Rv :=
  let bits := fun (c : Nat) => if op = 4 then fld (h.rCsr c) 7 7 else if op = 0 then fld (h.rCsr c) 5 4 else fld (h.rCsr c) 6 6
  let va := w64 (a.toNat / 64 * 64)
  if 4 < op ∨ op = 3 then Rv.illegal s w
  else if h.priv ≠ 3 ∧ bits 0x30A = 0 then Rv.illegal s w
  else if h.virt ∧ (bits 0x60A = 0 ∨ (h.priv = 0 ∧ bits 0x10A = 0)) then Rv.refused s w xVirtual
  else if h.priv = 0 ∧ bits 0x10A = 0 then Rv.illegal s w
  else if op = 4 then
    (hartStore s h va (List.replicate 64 0#8)).map (fun s => (h', s))
  else
    let go := fun (l : List (Nat × Nat)) (s : State) =>
      (h', l.foldl (fun s p => if tracked s (lineOf p.1) then recallLine s (lineOf p.1) else s) s)
    match hartReach s h (h.mode .load) .load va.toNat 64 with
    | .ok (l, s) => .ok (go l s)
    | .error _ =>
      match hartReach s h (h.mode .store) .store va.toNat 64 with
      | .ok (l, s) => .ok (go l s)
      | .error e => .error e

/-! ### The privileged instructions -/

/-- The exception of WFI, or of a fence of translations, in a hart's mode. -/
def Hart.wfiTrap (h : Hart) : Option Word :=
  if h.priv ≠ 3 && (h.rCsr 0x300).getLsbD 21 then some xIllegal
  else if h.virt && h.priv = 1 && (h.rCsr 0x600).getLsbD 21 then some xVirtual
  else none

def Hart.fenceTrap (h : Hart) : Option Word :=
  if h.virt then (if h.priv = 0 || (h.rCsr 0x600).getLsbD 20 then some xVirtual else none)
  else if h.priv = 0 || (h.priv = 1 && (h.rCsr 0x300).getLsbD 20) then some xIllegal
  else none

/-- HFENCE and HINVAL: HS-mode and M-mode only. -/
def Hart.hfenceTrap (h : Hart) (g : Bool) : Option Word :=
  if h.virt then some xVirtual
  else if h.priv = 0 || (g && h.priv = 1 && (h.rCsr 0x300).getLsbD 20) then some xIllegal
  else none

def Rv.unless (s : State) (w : W32) (t : Option Word) (r : Rv) : Rv :=
  match t with
  | some c => Rv.refused s w c
  | none => r

/-- Zicsr: `v` is the operand, and `writes` says that there is one to write. -/
def rvCsr (s : State) (h h' : Hart) (w : W32) (op n : Nat) (rd : BitVec 5) (v : Word) (writes : Bool) : Rv :=
  Rv.unless s w (h.csrTrap n writes) (
    let r := h.csrOf n
    let old := h.readCsr s s.hartId r
    let new := match op with
      | 1 => v
      | 2 => old ||| v
      | _ => old &&& ~~~ v
    let h' := if writes then h'.writeCsr s r new else h'
    let h' := if writes then (csrUnit r).elim h' h'.dirtied else h'
    Rv.next (h'.wX rd old) s)

/-- HLV, HLVX and HSV: an access as VS- or VU-mode makes it. -/
def rvHyper (s : State) (h h' : Hart) (w : W32) (f7 rs2 : Nat) (rd : BitVec 5) (a b : Word) : Rv :=
  let m : HMode := { priv := fld (h.rCsr 0x600) 8 8, virt := true, exec := f7 % 2 = 0 && rs2 = 3 }
  let k := f7 / 2 % 4
  let t := if h.virt then some xVirtual else if h.priv = 0 && !(h.rCsr 0x600).getLsbD 9 then some xIllegal else none
  if f7 % 2 = 0 then
    if rs2 = 0 ∨ (rs2 = 1 ∧ k < 3) ∨ (rs2 = 3 ∧ (k = 1 ∨ k = 2)) then
      Rv.unless s w t (rvLoad s h h' m (if rs2 = 0 then k else 4 + k) rd a)
    else Rv.illegal s w
  else if rd = 0#5 then Rv.unless s w t (rvStore s h h' m k a b)
  else Rv.illegal s w

/-- SYSTEM. -/
def rvSystem (s : State) (h h' : Hart) (w : W32) : Rv :=
  let n := w.toNat
  let rd := regAt n 7
  let a := h.rX (regAt n 15)
  let b := h.rX (regAt n 20)
  let f7 := bitsN n 31 25
  match bitsN n 14 12 with
  | 0 =>
    if n = 0x73 then Rv.trap s (if h.priv = 3 then 11 else if h.priv = 0 then 8 else if h.virt then 10 else 9) 0
    else if n = 0x100073 then Rv.trap s 3 h.pc h.virt
    else if w = sretWord then Rv.unless s w h.sretTrap (Rv.next h.sret s)
    else if n = 0x30200073 then (if h.priv = 3 then Rv.next h.mret s else Rv.illegal s w)
    else if n = 0x10500073 then Rv.unless s w h.wfiTrap (Rv.next h' s)
    else if n = 0xD00073 ∨ n = 0x1D00073 then Rv.next h' s
    else if rd ≠ 0#5 then Rv.illegal s w
    else if f7 = 0x09 ∨ f7 = 0x0B then Rv.unless s w h.fenceTrap (Rv.next h' s)
    else if n = 0x18000073 ∨ n = 0x18100073 then
      Rv.unless s w (if h.priv = 0 then some (if h.virt then xVirtual else xIllegal) else none) (Rv.next h' s)
    else if f7 = 0x11 ∨ f7 = 0x13 then Rv.unless s w (h.hfenceTrap false) (Rv.next h' s)
    else if f7 = 0x31 ∨ f7 = 0x33 then Rv.unless s w (h.hfenceTrap true) (Rv.next h' s)
    else Rv.illegal s w
  | 4 =>
    if bitsN n 31 31 = 1 ∧ bitsN n 29 28 = 0 ∧ (bitsN n 25 25 = 1 ∨ bitsN n 25 22 = 7) then Rv.next (h'.wX rd 0) s
    else if 0x30 ≤ f7 ∧ f7 < 0x38 then rvHyper s h h' w f7 (bitsN n 24 20) rd a b
    else Rv.illegal s w
  | f3 =>
    let imm := 5 ≤ f3
    let v := if imm then w64 (bitsN n 19 15) else a
    rvCsr s h h' w (f3 % 4) (bitsN n 31 20) rd v (f3 % 4 = 1 || regAt n 15 != 0#5)

/-! ### The instruction -/

/-- An instruction of 32 bits that lies at the hart's pc and is `len` bytes long. -/
def rvExec (s : State) (h : Hart) (len : Nat) (w : W32) : Rv :=
  let n := w.toNat
  let next := h.pc + w64 len
  let h' := h.goes next
  let rd := regAt n 7
  let a := h.rX (regAt n 15)
  let b := h.rX (regAt n 20)
  let f3 := bitsN n 14 12
  let f7 := bitsN n 31 25
  let set := fun (r : Option Word) => match r with
    | some v => Rv.next (h'.wX rd v) s
    | none => Rv.illegal s w
  match bitsN n 6 0 with
  | 0x37 => set (some (immU n))
  | 0x17 => set (some (h.pc + immU n))
  | 0x6F => Rv.next { h'.wX rd next with pc := h.pc + immJ n } s
  | 0x67 => if f3 = 0 then Rv.next { h'.wX rd next with pc := (a + immI n) &&& ~~~ 1#64 } s else Rv.illegal s w
  | 0x63 => match rvTaken f3 a b with
    | some t => Rv.next (if t then { h' with pc := h.pc + immB n } else h') s
    | none => Rv.illegal s w
  | 0x03 => if f3 < 7 then rvLoad s h h' (h.mode .load) f3 rd (a + immI n) else Rv.illegal s w
  | 0x23 => if f3 < 4 then rvStore s h h' (h.mode .store) f3 (a + immS n) b else Rv.illegal s w
  | 0x13 => set (rvOpImm f3 (bitsN n 31 20) a)
  | 0x1B => set (rvOpImm32 f3 (bitsN n 31 20) a)
  | 0x33 => set (rvOp f7 f3 a b)
  | 0x3B => set (rvOp32 f7 f3 (bitsN n 24 20) a b)
  | 0x0F =>
    if f3 < 2 then Rv.next h' s
    else if f3 = 2 ∧ rd = 0#5 then rvCbo s h h' w (bitsN n 31 20) a
    else Rv.illegal s w
  | 0x2F => if f3 = 2 ∨ f3 = 3 then rvAmo s h h' w (2 ^ f3) (bitsN n 31 27) rd a b else Rv.illegal s w
  | 0x73 => rvSystem s h h' w
  | 0x07 => if 1 ≤ f3 ∧ f3 ≤ 3 then rvFLoad s h h' w (a + immI n) else rvVLoad s h w
  | 0x27 => if 1 ≤ f3 ∧ f3 ≤ 3 then rvFStore s h h' w (a + immS n) else rvVStore s h w
  | 0x43 | 0x47 | 0x4B | 0x4F => rvFma s h h' w
  | 0x53 => rvFloat s h h' w
  | 0x57 => rvVector s h w
  | _ => Rv.illegal s w

/-! ### Compressed instructions (C, Zcb, Zcmop) -/

/-- The words of the formats, from their fields. -/
def encR (op f3 f7 rd rs1 rs2 : Nat) : Nat := op + rd * 2 ^ 7 + f3 * 2 ^ 12 + rs1 * 2 ^ 15 + rs2 * 2 ^ 20 + f7 * 2 ^ 25
def encI (op f3 rd rs1 imm : Nat) : Nat := op + rd * 2 ^ 7 + f3 * 2 ^ 12 + rs1 * 2 ^ 15 + imm % 4096 * 2 ^ 20
def encS (op f3 rs1 rs2 imm : Nat) : Nat :=
  op + bitsN imm 4 0 * 2 ^ 7 + f3 * 2 ^ 12 + rs1 * 2 ^ 15 + rs2 * 2 ^ 20 + bitsN imm 11 5 * 2 ^ 25
def encB (f3 rs1 imm : Nat) : Nat :=
  0x63 + bitsN imm 11 11 * 2 ^ 7 + bitsN imm 4 1 * 2 ^ 8 + f3 * 2 ^ 12 + rs1 * 2 ^ 15 + bitsN imm 10 5 * 2 ^ 25 + bitsN imm 12 12 * 2 ^ 31
def encJ (rd imm : Nat) : Nat :=
  0x6F + rd * 2 ^ 7 + bitsN imm 19 12 * 2 ^ 12 + bitsN imm 11 11 * 2 ^ 20 + bitsN imm 10 1 * 2 ^ 21 + bitsN imm 20 20 * 2 ^ 31

/-- A field of `n` bits sign-extended to 32 bits. -/
def sxC (n v : Nat) : Nat := (sextN n v).toNat % 2 ^ 32

/-- The 32-bit word that a 16-bit one stands for; none where it is reserved. -/
def expandC (c : Nat) : Option Nat :=
  let b := fun (hi lo : Nat) => bitsN c hi lo
  let r1 := 8 + b 9 7
  let r2 := 8 + b 4 2
  let rd := b 11 7
  let rs2 := b 6 2
  let i6 := sxC 6 (b 12 12 * 32 + b 6 2)
  let sh := b 12 12 * 32 + b 6 2
  let w4 := b 12 10 * 8 + b 6 6 * 4 + b 5 5 * 64
  let w8 := b 12 10 * 8 + b 6 5 * 64
  let br := sxC 9 (b 12 12 * 256 + b 11 10 * 8 + b 6 5 * 64 + b 4 3 * 2 + b 2 2 * 32)
  let lsp4 := b 12 12 * 32 + b 6 4 * 4 + b 3 2 * 64
  let lsp8 := b 12 12 * 32 + b 6 5 * 8 + b 4 2 * 64
  let ssp4 := b 12 9 * 4 + b 8 7 * 64
  let ssp8 := b 12 10 * 8 + b 9 7 * 64
  match b 1 0, b 15 13 with
  | 0, 0 =>
    let imm := b 12 11 * 16 + b 10 7 * 64 + b 6 6 * 4 + b 5 5 * 8
    if imm = 0 then none else some (encI 0x13 0 r2 2 imm)
  | 0, 1 => some (encI 0x07 3 r2 r1 w8)
  | 0, 2 => some (encI 0x03 2 r2 r1 w4)
  | 0, 3 => some (encI 0x03 3 r2 r1 w8)
  | 0, 4 =>
    let u2 := b 5 5 * 2 + b 6 6
    let u1 := b 5 5 * 2
    match b 12 10 with
    | 0 => some (encI 0x03 4 r2 r1 u2)
    | 1 => some (encI 0x03 (if b 6 6 = 1 then 1 else 5) r2 r1 u1)
    | 2 => some (encS 0x23 0 r1 r2 u2)
    | 3 => if b 6 6 = 0 then some (encS 0x23 1 r1 r2 u1) else none
    | _ => none
  | 0, 5 => some (encS 0x27 3 r1 r2 w8)
  | 0, 6 => some (encS 0x23 2 r1 r2 w4)
  | 0, 7 => some (encS 0x23 3 r1 r2 w8)
  | 1, 0 => some (encI 0x13 0 rd rd i6)
  | 1, 1 => if rd = 0 then none else some (encI 0x1B 0 rd rd i6)
  | 1, 2 => some (encI 0x13 0 rd 0 i6)
  | 1, 3 =>
    if rd = 2 then
      let imm := sxC 10 (b 12 12 * 512 + b 6 6 * 16 + b 5 5 * 64 + b 4 3 * 128 + b 2 2 * 32)
      if imm = 0 then none else some (encI 0x13 0 2 2 imm)
    else if sh = 0 then (if rd % 2 = 1 ∧ rd < 16 then some 0x13 else none)
    else some (0x37 + rd * 2 ^ 7 + sxC 6 sh % 2 ^ 20 * 2 ^ 12)
  | 1, 4 =>
    match b 11 10, b 12 12, b 6 5 with
    | 0, _, _ => some (encI 0x13 5 r1 r1 sh)
    | 1, _, _ => some (encI 0x13 5 r1 r1 (0x400 + sh))
    | 2, _, _ => some (encI 0x13 7 r1 r1 i6)
    | _, 0, 0 => some (encR 0x33 0 0x20 r1 r1 r2)
    | _, 0, 1 => some (encR 0x33 4 0 r1 r1 r2)
    | _, 0, 2 => some (encR 0x33 6 0 r1 r1 r2)
    | _, 0, _ => some (encR 0x33 7 0 r1 r1 r2)
    | _, _, 0 => some (encR 0x3B 0 0x20 r1 r1 r2)
    | _, _, 1 => some (encR 0x3B 0 0 r1 r1 r2)
    | _, _, 2 => some (encR 0x33 0 1 r1 r1 r2)
    | _, _, _ =>
      match b 4 2 with
      | 0 => some (encI 0x13 7 r1 r1 255)
      | 1 => some (encI 0x13 1 r1 r1 0x604)
      | 2 => some (encR 0x3B 4 4 r1 r1 0)
      | 3 => some (encI 0x13 1 r1 r1 0x605)
      | 4 => some (encR 0x3B 0 4 r1 r1 0)
      | 5 => some (encI 0x13 4 r1 r1 0xFFF)
      | _ => none
  | 1, 5 =>
    some (encJ 0 (sxC 12 (b 12 12 * 2048 + b 11 11 * 16 + b 10 9 * 256 + b 8 8 * 1024 + b 7 7 * 64 + b 6 6 * 128 + b 5 3 * 2 + b 2 2 * 32)))
  | 1, 6 => some (encB 0 r1 br)
  | 1, 7 => some (encB 1 r1 br)
  | 2, 0 => some (encI 0x13 1 rd rd sh)
  | 2, 1 => some (encI 0x07 3 rd 2 lsp8)
  | 2, 2 => if rd = 0 then none else some (encI 0x03 2 rd 2 lsp4)
  | 2, 3 => if rd = 0 then none else some (encI 0x03 3 rd 2 lsp8)
  | 2, 4 =>
    if b 12 12 = 0 then
      if rs2 = 0 then (if rd = 0 then none else some (encI 0x67 0 0 rd 0)) else some (encR 0x33 0 0 rd 0 rs2)
    else if rs2 = 0 then (if rd = 0 then some 0x100073 else some (encI 0x67 0 1 rd 0))
    else some (encR 0x33 0 0 rd rd rs2)
  | 2, 5 => some (encS 0x27 3 2 rs2 ssp8)
  | 2, 6 => some (encS 0x23 2 2 rs2 ssp4)
  | 2, 7 => some (encS 0x23 3 2 rs2 ssp8)
  | _, _ => none

/-! ### The fetch -/

/-- The bytes of the instruction at a hart's pc: two, or four where the first two say so. A fault of the second half is at its
address. -/
def hartFetch (s : State) (h : Hart) : HRes (Nat × Nat × State) :=
  match hartLoad s h .fetch h.pc 2 with
  | .error e => .error e
  | .ok (bs, s) =>
    let c := fromBytes bs
    if c % 4 ≠ 3 then .ok (2, c, s)
    else if (sandboxFail h .fetch h.pc.toNat 4).isSome then
      .error (.trap xCapFault (w64 ((sandboxFail h .fetch h.pc.toNat 4).getD 0)) 0 h.virt s)
    else match hartLoadM s { h with sbx := false } (h.mode .fetch) .fetch (h.pc + 2#64) 2 with
      | .error e => .error e
      | .ok (bs', s) => .ok (4, c + 65536 * fromBytes bs', s)

end Sys2Proof.Machine
end

