-- ==== Sys2Proof/Machine/Fetch.lean ====
section
/-!
DEFINITION. Machine/Fetch.lean: whose turn it is and the instruction it executes: barrel issue (02 R25, R27), the fetch of
a tile-core word through the instruction cache and the cluster TLB (07 R166), execute comparators (13 R281), the fetch of
a hart, and the hardware's own replacements (07 R151, R159, 08 R170).
-/
namespace Sys2Proof.Machine

/-- What a turn comes to: an instruction or event to execute, a state with nothing to execute, or a stop. -/
inductive Turned where
  | run (i : Instr) (s : State)
  | idle (s : State)
  deriving DecidableEq, Repr

/-- The next issue cycle of a slot, at or after the present cycle (R25). -/
def issueCycle (cycle slot : Nat) : Nat := cycle + (slot + 8 - cycle % 8) % 8

/-- The key of an instruction word in a core's instruction cache. -/
def icKey (tenant va : Nat) : Nat := tenant * 2 ^ 64 + va

/-- The comparator that stops a fetch, if any: enabled, KIND 0, watching the slot, and not the one that halted the strand
last (R281). -/
def execMatch (s : State) (core slot : Nat) (x : Strand) : Option Nat :=
  (List.range 4).find? fun n =>
    let ctl := regGet s (offBPCTL core n)
    ctl.getLsbD 0 && fld ctl 2 1 == 0 && ctl.getLsbD (8 + slot) &&
    fld (regGet s (offBPADDR core n)) 63 3 == fld x.pc 63 3 && x.bpSkip != some n

/-- Decode and the comparators on a fetched word. -/
def issueWord (s : State) (core slot : Nat) (w : Word) : Turned :=
  let x := s.strand core slot
  match execMatch s core slot x with
  | some n => .idle (comparatorHalt s core slot n)
  | none =>
    match decodeTile w with
    | .ok i => .run i s
    | .error _ => .run (.undefinedOpcode w) s

/-- What a fetch reads is scanned for a strand: a double-bit error freezes it (R288, R289). -/
def fetchScan (s : State) (core slot : Nat) (ws : List Nat) (k : State → Turned) : Turned :=
  match eccScan s (cluOfCore core) ws with
  | (s, some info) => .idle (freeze s core slot cECC info)
  | (s, none) => k s

/-- The word at a strand's PC (R166): from the instruction cache, or through the cluster TLB. -/
def fetchWord (s : State) (core slot : Nat) : Turned :=
  let x := s.strand core slot
  let tenant := (x.task.map (·.tenant)).getD 0
  let va := x.pc.toNat
  match fget? (s.core core).icache (icKey tenant va) with
  | some w => fetchScan s core slot [icacheKey core] (fun s => issueWord s core slot w)
  | none =>
    fetchScan s core slot [tlbKey (cluOfCore core)] fun s =>
    match tlbFind (s.clu (cluOfCore core)) tenant va .fetch with
    | none =>
      .idle (park (s.updStrand core slot (fun y => { y with pva := x.pc, pacc := .fetch })) core slot 0 6 .walk)
    | some e =>
      match checkEntry e .fetch (cluOfCore core) with
      | some code => .idle (freeze s core slot code (gpfInfo false .fetch va))
      | none =>
        fetchScan s core slot [homeWord s (e.phys va)] fun s =>
          let w := w64 (cohNat s (e.phys va) 8)
          issueWord (s.updCore core (fun k => { k with icache := fset k.icache (icKey tenant va) w })) core slot w

/-- A strand goes on with the operation it had parked on (R341), the comparators tried again on one that has been withdrawn
(R281), or fetches the word at its PC. -/
def fetchTile (s : State) (core slot : Nat) : Turned :=
  let x := s.strand core slot
  if x.pinstr = 0 then fetchWord s core slot
  else if x.phase = .none then issueWord s core slot x.pinstr
  else match decodeTile x.pinstr with
    | .ok i => .run i s
    | .error _ => .run (.undefinedOpcode x.pinstr) s

/-- A core-wide fault (R273, R289): every strand of the core is frozen and one packet is sent. -/
def coreWide (s : State) (core : Nat) : State :=
  let info := eccInfo (coreKey core)
  let s := { s with
    soft := fdel s.soft (coreKey core),
    waits := s.waits.map (fun b => (b.1, b.2.filter (fun e => e.core != core))) }
  let s := (List.range 8).foldl (fun s n =>
    let x := s.strand core n
    if x.status = .empty then s
    else s.setStrand core n
      { x.clearPark with status := .frozen, cause := cECC, info := info, stepping := false, haltReq := false }) s
  sendFreeze s (cluOfCore core) { noticeOf s core 0 cECC false 0 (s.strand core 0).pc info with frozen := true, cwide := true }

/-- A strand's issue cycle has come, and its next is in the next rotation: a READY strand issues, and one that a RESTORE has left
PARKED issues its operation again (R287); an OFFROT strand counts one rotation and issues once its count is spent; nothing issues
in an idled rotation, which OFFROT counts like another (R25, R27, R306). -/
def tileTurn (s : State) (core slot : Nat) : Turned :=
  let s := ({ s with cur := .strand core slot }).updStrand core slot (fun x => { x with issueAt := s.cycle + 1 })
  let x := s.strand core slot
  if (s.core core).idled.contains (s.cycle / 8) then
    .idle (if x.status = .offrot then s.setStrand core slot { x with rot := x.rot - 1 } else s)
  else match eccScan s (cluOfCore core) [coreKey core] with
  | (s, some _) => .idle (coreWide s core)
  | (s, none) => match x.status with
    | .ready => fetchTile s core slot
    | .offrot =>
      if x.rot = 0 then
        let s := boundary s core slot
        if (s.strand core slot).status = .ready then fetchTile s core slot else .idle s
      else .idle (s.setStrand core slot { x with rot := x.rot - 1 })
    | .parked =>
      if x.phase = .reissue then fetchTile (s.setStrand core slot { x with status := .ready, phase := .none }) core slot else .idle s
    | _ => .idle s

/-- A hart executes a word of the instruction sets that R116 names; the registers that it reads are scanned first (R289). -/
def rvTurn (s : State) (h : Hart) (len : Nat) (w : W32) : Turned :=
  match hartScan s (rvRegs w.toNat).1 with
  | (s, true) => .idle (hartTrap s xHardware 0)
  | (s, false) =>
    match rvExec s h len w with
    | .ok (h', s) => .idle ((hartWrote s (rvRegs w.toNat).2).setHart s.hartId h')
    | .error e => .idle (hartStop s e)

/-- The registers that an Xkwedar instruction reads (R119). -/
def kwReads : Instr → List Nat
  | .kwCapld _ a | .kwSbxent a => xReg a.toNat
  | .kwCapnar _ c a b | .kwFutcpl _ c a b => capReg c.toNat ++ xReg a.toNat ++ xReg b.toNat
  | .kwTqpop _ _ a b => xReg a.toNat ++ xReg b.toNat
  | .kwFutarg _ c a | .kwFutfail _ c a => capReg c.toNat ++ xReg a.toNat
  | _ => []

/-- A hart's turn: an interrupt that it takes, or the instruction at its pc, the capability check first in sandbox mode
(R118), which reads every capability. -/
def hartTurn (s : State) (n : Nat) : Turned :=
  let s := { s with cur := .hart n }
  let h := s.hart n
  match h.irq s with
  | some i => .idle (s.setHart n (h.trapAt (w64 (2 ^ 63 + i)) 0 0 false))
  | none =>
    match hartScan s (if h.sbx then (List.range 16).flatMap capReg else []) with
    | (s, true) => .idle (hartTrap s xHardware 0)
    | (s, false) =>
    match hartFetch s h with
    | .error e => .idle (hartStop s e)
    | .ok (len, c, s) =>
      let w : W32 := BitVec.ofNat 32 c
      if len = 2 then
        match expandC c with
        | some c' => rvTurn s h 2 (BitVec.ofNat 32 c')
        | none => .idle (hartTrap s xIllegal (w64 c))
      else match decodeKw w with
        | .ok i =>
          match hartScan s (kwReads i) with
          | (s, true) => .idle (hartTrap s xHardware 0)
          | (s, false) => .run i s
        | .error .notXkwedar => if w = sretWord then .run .sret s else rvTurn s h 4 w
        | .error _ => .run (.xkwedarIllegal w) s

/-- The hardware drops what it chooses: a dirty line is written back first (R151, R159, R166, R170, R180). -/
def evictTurn (s : State) : Evict → State
  | .icache core key => s.updCore core (fun k => { k with icache := fdel k.icache key })
  | .tlb clu n => s.updClu clu (fun c => { c with tlb := c.tlb.eraseIdx n })
  | .hcache clu n => s.updClu clu (fun c => { c with hcache := c.hcache.eraseIdx n })
  | .line who key => dropLine s who key
  | .epTlb n => { s with epTlb := s.epTlb.eraseIdx n }
  | .mask clu pa => s.updClu clu (fun c => { c with masks := fdel c.masks pa })

/-- A word taken into a mask cache of 128 KiB (R93). -/
def maskFill (s : State) (clu pa : Nat) : State :=
  if cluExists clu && physOk pa && pa % 8 == 0 && (s.clu clu).masks.length < 16384 then
    s.updClu clu (fun c => { c with masks := fset c.masks pa (cohNat s pa 8) })
  else s

/-! ### What must happen by a cycle -/

/-- A strand's issue (R25), or a bounded event. -/
inductive Due where
  | issue (core slot : Nat)
  | event (i : Instr)
  deriving DecidableEq, Repr

/-- What is due: the cycle, and what. -/
abbrev Dues := List (Nat × Due)

/-- Whether a strand issues in its issue cycles: READY, OFFROT and counting, or PARKED and to issue again (R287), on a core
whose cluster is ready (R302); where a SAVE drains the core, only an operation that completes (R284, R343). -/
def issues (s : State) (core : Nat) (x : Strand) : Bool :=
  coreExists core && cluReady s (cluOfCore core) &&
  (if saving s core then x.status == .ready && completing x
   else x.status == .ready || x.status == .offrot || (x.status == .parked && x.phase == .reissue))

/-- The cycle of the next retry of a form that waits on a full list (R139): every 64 cycles from the beginning of its wait. -/
def retryCycle (s : State) (x : Strand) : Nat :=
  let c := max s.cycle (max x.issueAt (x.pstart + 1))
  c + (64 - (c - x.pstart) % 64) % 64

/-- What a strand must do: its issue; the retry of its full/empty form (R139); its FEMAX bound, which falls at most 64
cycles late (R140). -/
def strandDue (s : State) (core slot : Nat) (x : Strand) : Dues :=
  if issues s core x then [(issueCycle (max s.cycle x.issueAt) slot, .issue core slot)]
  else if x.status = .parked then
    (if x.phase = .retry then [(retryCycle s x, .event (.feRetry core slot))] else []) ++
    (if boundedWait s x then [(x.pstart + (x.plimit - x.pwait) + 64, .event (.feTimeout core slot))] else [])
  else []
where
  /-- A wait that FEMAX bounds. -/
  boundedWait (s : State) (x : Strand) : Bool :=
    femaxBounds x && match decodeTile x.pinstr with
      | .ok i => (timeoutInfo s i).isSome
      | .error _ => false

/-- The first cycle in which CCNT has advanced by `n` at least, one step of a slew falling in each 1,024 cycles (R225). -/
def ccntCycle (s : State) (n : Nat) : Nat :=
  let a := s.cycle - s.slewAt
  s.cycle + (if n = 0 ∨ s.slew = 0 then n
    else if 0 < s.slew then max (n + a - (n + a) / 1025 - a) (n - s.slew.natAbs)
    else min (n + a + (n + a - 1) / 1023 - a) (n + s.slew.natAbs))

/-- The last cycle to which a live future's deadline event can be put off: CCNT is DEADLINE + 256 at most (R113). -/
def futureDue (s : State) (i : Nat) (f : Future) : Dues :=
  if f.live then
    let d := w64 f.deadline + 257#64 - w64 (ccnt s)
    [(if d.msb then s.cycle else max s.cycle (ccntCycle s d.toNat - 1), .event (.futureDeadline i))]
  else []

/-- The promotion of a pool's heads, once they have waited 2^20 cycles at their level (R44). -/
def agingDue (s : State) : Dues :=
  s.pools.flatMap (fun p => (p.2.ents.mapIdx (fun n e => (n, e))).filterMap (fun e =>
    if e.2.head && poolEligible s e.2 && e.2.level < 3 then some (e.2.since + 2 ^ 20, Due.event (.agingPromotion p.1 e.1))
    else none))

/-- The start of a cluster's timed commands: each in the cycle in which it is due, or now, where it waits for nothing more
(R197). -/
def timedDue1 (s : State) (clu : Nat) (c : CopyCmd) : Dues :=
  if ccnt s < c.from then [(ccntCycle s (c.from - ccnt s), .event (.timedCommandStart clu c.id))]
  else if timedStarts s clu c then [(s.cycle, .event (.timedCommandStart clu c.id))]
  else []

/-- A faulted slot's bit reaches every cluster within 256 cycles (R76). -/
def slotDue (s : State) : Dues :=
  s.front.faulted.flatMap (fun n => (allClusters.filter (fun c => !(s.clu c).fslots.contains n)).map (fun c =>
    (fget 0 s.front.faultAt n + 256, Due.event (.faultedSlotArrival c n))))

/-- A page of a side log replays every 65,536 cycles (R155). -/
def replayDue (clu : Nat) (c : Cluster) : Dues :=
  c.slAt.map (fun x => (x.2.2 + 65536, .event (.sidelogPeriodicReplay clu)))

/-- A landing slot that waits breaks TIMEOUT cycles after its last byte (R203). -/
def landingDue (s : State) (core : Nat) (c : Core) : Dues :=
  c.lz.filterMap (fun e =>
    let lim := fld (regGet s (offLZ core (e.1 / 64) + 0x18)) 47 0
    if e.2.pending && lim ≠ 0 then some (e.2.since + lim, Due.event (.landingSlotTimeout core (e.1 / 64) (e.1 % 64))) else none)

/-- A fabric transaction without a response is tried again, or given up, after TO × 4 cycles (R214). -/
def fabricDue (s : State) : Dues :=
  s.fabTx.filterMap (fun t =>
    if t.resp.isNone then some (t.issued + fld (regGet s offFABCFG) 31 4 * 4, Due.event (.fabricTimeout t.id)) else none)

/-- A stalled work request is answered "resend later" after 320,000 cycles (R229). -/
def odpDue (s : State) : Dues :=
  s.epReqs.filterMap (fun r => match r.stall with
    | some t => if r.accessed then none else some (t + 320000, Due.event (.epOdpTimeout r.id))
    | none => none)

/-- A core's wait for its ring ends with PAIR_TIMEOUT in the first cycle past PAIRTO (R266). -/
def pairDue (s : State) (core : Nat) (c : Core) : Dues :=
  match c.arr.run, gangOwner s core with
  | some _, some t =>
    let cs := ringOf s core t
    if c.arr.done && pairNow s t.launch cs == s.cycle && !(cs.any (fun c => stillHeld s (cluOfCore c) .array c)) then
      [(c.arr.runSince + pairTo s core + 1, .event (.pairTimeout core))]
    else []
  | _, _ => []

/-- A pool with a free entry is filled at once, and launches whose dependencies have failed leave (R43). -/
def fillDue (s : State) : Dues :=
  if s.spillq.any (fun e => e.2.any (fun k => ((s.launch k).map (fun l => depState s l == 2)).getD false)) then
    [(s.cycle, .event (.poolFill 0))]
  else
    ((List.range 4).filter (fun d => 0 < poolRoom s d && s.spillq.any (fun e => (spillNext s d e.1).isSome))).map (fun d =>
      (s.cycle, .event (.poolFill d)))

/-- The time master sends its CCNT through every switch that is up, where the station of a lane to it is (R225, R302). -/
def timeMessages (s : State) : State :=
  if fabLive s && (regGet s offTSYNC).getLsbD 0 then
    ((List.range (switches s)).filter (fun w => !((regGet s offFABDOWN).getLsbD w) &&
      (List.range 64).any (fun l => l % switches s == w && stationUp s l))).foldl (fun s w => s.send (.time w (ccnt s))) s
  else s

/-- Cycles pass, with the time master's messages in every multiple of 65,536 (R225). -/
def pass (s : State) (cyc : Nat) : State :=
  passTo ((List.range (cyc / 65536 - s.cycle / 65536)).foldl (fun s' k =>
    timeMessages (passTo s' (65536 * (s.cycle / 65536 + 1 + k)))) s) cyc

/-- The first of what is due earliest. -/
def firstDue : Dues → Option (Nat × Due)
  | [] => none
  | e :: es =>
    match firstDue es with
    | some f => if f.1 < e.1 then some f else some e
    | none => some e

/-- What is due happens in its cycle, or now where that has passed. -/
def takeDue (s : State) (c : Nat) (d : Due) : Turned :=
  let s := pass s (max s.cycle c)
  match d with
  | .issue core slot => tileTurn s core slot
  | .event i => .run i s

/-! ### The turns -/

/-- The turn that comes next: the first of the list, or the one Config supplies (notes/assumptions/1.md). -/
def nextTurn (s : State) : Turn × State :=
  match s.turns with
  | t :: ts => (t, { s with turns := ts })
  | [] => (Config.turn s.turnNo, { s with turnNo := s.turnNo + 1 })

/-- The turn that comes next is the return of power (R302). -/
def powersOn (s : State) : Bool :=
  match (nextTurn s).1.act with
  | .event (.powerOn _) => true
  | _ => false

/-- An event of the opcode table: not an instruction of a tile core or a hart, which only a strand's issue or a hart's turn
executes. -/
def isEvent (i : Instr) : Bool :=
  match i with
  | .undefinedOpcode _ | .xkwedarIllegal _ | .sret => false
  | i => (encode i).isEmpty

/-- A tile core and one of its slots (R14). -/
def slotExists (core slot : Nat) : Bool := coreExists core && slot < 8

/-- A function that has not come up, or is fenced, does nothing (R302, R304): the stations take no message of a peer, and the
harts, the endpoint, the Front and the management firmware act on no event. Nothing happens to a slot that does not exist. -/
def eventReady (s : State) : Instr → Bool
  | .sandboxAccess .. | .sandboxTrap .. => fnReady s 24
  | .epdbArm .. | .epdbDisarm .. | .epMessageArrival .. | .epTransferComplete .. | .epOdpTimeout .. | .toolQueueForward .. => fnReady s 26
  | .futureCompletionMessage .. => fnReady s 26 && fnReady s 29
  | .futureDeadline .. => fnReady s 29
  | .stepdoneReceived .. | .stepBoundary | .kvSpillCopyDone .. | .kvPageFreeDone .. | .servingActivate | .servectlDrain | .servingOff => fnReady s 28
  | .attestationRequest .. | .powerThrottle .. => fnReady s 30
  | .rotationCountSpent core slot | .accessReply core slot _ | .walkComplete core slot | .feRetry core slot
  | .feTimeout core slot | .kvcommitCopiesDone core slot | .dbgcmdHalt core slot | .dbgcmdResume core slot
  | .dbgcmdStep core slot | .dbgcmdRestart core slot | .dbgcmdKill core slot | .rqfaultWrite core slot _ => slotExists core slot
  | .fabricRequestServed (.peer _) | .lzresRequest (.peer _) | .landingWrite (.peer _) | .timeMessage .. => fld (regGet s offREADY) 23 8 != 0
  | _ => true

/-- One part of a parked load is performed ahead of its reply (R183). -/
def partTurn (s : State) (core slot n : Nat) : State :=
  let x := s.strand core slot
  if x.status = .parked ∧ x.phase = .access then
    match decodeTile x.pinstr with
    | .ok i =>
      if isLoad i then
        { replyTo i core slot { code := 0, data := [] } { s with cur := .strand core slot, part := some n } with part := none }
      else s
    | .error _ => s
  else s
where
  isLoad : Instr → Bool
    | .ld .. | .ldIndexed .. | .vld .. | .vlds .. | .vgath .. => true
    | _ => false

/-- Everything that must happen by some cycle, strands first, in ascending core ID (R135); of an event whose function is not
ready nothing comes. -/
def dues (s : State) : Dues :=
  (s.strands.flatMap (fun e => strandDue s (e.1 / 8) (e.1 % 8) e.2) ++ s.futures.flatMap (fun e => futureDue s e.1 e.2) ++
  agingDue s ++ slotDue s ++ s.clusters.flatMap (fun e => e.2.timed.flatMap (timedDue1 s e.1) ++ replayDue e.1 e.2) ++
  s.cores.flatMap (fun e => landingDue s e.1 e.2 ++ pairDue s e.1 e.2) ++ fabricDue s ++ odpDue s ++ fillDue s).filter (fun d =>
    match d.2 with
    | .issue _ _ => true
    | .event i => eventReady s i)

/-- Who a turn names acts, once its cycles have passed and its function is ready (R302). There are 32 harts (R11). -/
def actOf (s : State) : Act → Turned
  | .pass => .idle s
  | .hart n => if n < 32 && fnReady s 24 then hartTurn s n else .idle s
  | .event i => if isEvent i && eventReady s i then .run i s else .idle s
  | .evict e => .idle (evictTurn s e)
  | .soft key dbl => .idle { s with soft := fset s.soft (softKey key) dbl }
  | .hostWrite line data => .idle (hostWrite s line data)
  | .maskFill clu pa => .idle (maskFill s clu pa)
  | .rmaWrite m => .idle (if fnReady s 26 then rmaWrite s m else s)
  | .rmaRead m len => .idle (if fnReady s 26 then rmaRead s m len else s)
  | .part core slot n => .idle (if slotExists core slot then partTurn s core slot n else s)
  | .fence bit => .idle (fenceUnit s bit)
  | .hdm n range => .idle (hdmSet s n range)
  | .cfgRead fn off => .idle (cfgRead s fn off)
  | .powerCap w => .idle { s with mc := { s.mc with pwrcap := some w } }

/-- The next thing that happens: what is due before the turn that comes next, which then keeps its place, or that turn. -/
def takeTurn (s : State) : Turned :=
  let (t, s1) := nextTurn s
  let at_ := s.cycle + t.wait
  match firstDue (dues s) with
  | some (c, d) =>
    if s.powered && (c < at_ || (t.late && c ≤ at_)) then
      takeDue { s1 with turns := { t with wait := at_ - max s.cycle c } :: s1.turns } c d
    else actOf (pass s1 at_) t.act
  | none => actOf (pass s1 at_) t.act

/-- A strand that has become READY in this step issues in its first issue cycle after this one (R28). -/
def readied (old new : State) : State :=
  { new with strands := new.strands.map (fun e =>
      let x := fget .init old.strands e.1
      if e.2.status = .ready && ((x.status ≠ .ready && x.status ≠ .offrot) || e.2.issueAt < x.issueAt) then
        (e.1, { e.2 with issueAt := new.cycle + 1 })
      else e) }

/-- What a step leaves, of what its instruction or event answers. -/
def afterStep (old : State) : Outc → Outc
  | .next s => .next (readied old s)
  | o => o

/-- The instruction placed where the next step fetches it, before every turn in the list. A word of at most 32 bits goes to
the pc of hart 0; a longer one is held by the instruction cache for the strand of core 0 whose issue cycle this is, which is
READY. The harts, or cluster 0, are usable (R302). -/
def placeWord (s : State) (nbits w : Nat) : State :=
  if nbits ≤ 32 then
    { regFld s offREADY 24 24 1 with
      turns := { wait := 0, late := false, act := .hart 0 } :: s.turns,
      mem := writeBytes s.mem ((s.hart 0).pc.toNat % 2 ^ 56) (toBytes 4 w) }
  else
    let slot := s.cycle % 8
    let x := s.strand 0 slot
    let tenant := (x.task.map (·.tenant)).getD 0
    let s := (regFld s (offREADYCLU 0) 0 0 1).setStrand 0 slot { x with status := .ready, issueAt := s.cycle, pinstr := 0 }
    { s.updCore 0 (fun k => { k with icache := fset k.icache (icKey tenant x.pc.toNat) (w64 w) }) with
      turns := { wait := 0, late := true, act := .pass } :: s.turns }

end Sys2Proof.Machine
end

