-- ==== Sys2Proof/Machine/Step.lean ====
section
/-!
DEFINITION. Machine/Step.lean: one step of the device: the turn that comes next is taken (Machine/Fetch.lean), and the
instruction or event it brings is executed (Machine/Dispatch.lean).
-/
namespace Sys2Proof.Machine

/-- One step. After a thermal trip nothing runs until power comes back (14 R302, R306). -/
def step (s : State) : Host.Outcome State Fault Refusal :=
  if s.powered || powersOn s then
    match takeTurn s with
    | .run i s' => afterStep s (exec i s')
    | .idle s' => afterStep s (.next s')
  else .fault .powerRemoved

/-- The state with an instruction stored where the next step fetches it. -/
def State.withFetchWord (s : State) (nbits w : Nat) : State := placeWord s nbits w

end Sys2Proof.Machine
end

