-- ==== Sys2Proof/Safety.lean ====
section
/-!
DEFINITION. Safety.lean: the terms the statements use: a sound memory, an instruction that runs, and what its completion
leaves of the issuing strand.
-/
namespace Sys2Proof.Machine

/-- Memory is in the canonical form of Machine/Sparse.lean. -/
def State.MemOk (s : State) : Prop := Memory.wf s.mem = true

/-- No HALT command waits for the issuing strand and no STEP is under way (13 R280, R282). -/
def State.quiet (s : State) : Prop := s.me.stepping = false ∧ s.me.haltReq = false

/-- The issuing strand's operation takes place: the guard is true, the vector registers that it names lie in the window and
wait for no MDRAIN, and the registers that it reads hold no soft error (15 R309, R310, 13 R289, R394). -/
def Runs (i : Instr) (g : Guard) (s : State) : Prop :=
  s.guard g = true ∧ regRange s i = none ∧ drainPending s i = false ∧
  ∀ k ∈ guardKeys s g ++ readKeys s i, fget? s.soft k = none

/-- A guard is true and the scalar registers, predicates, lane masks and handles of the issuing strand hold no soft error
(15 R309, 02 R20). -/
def State.guarded (s : State) (g : Guard) : Prop :=
  s.guard g = true ∧ (∀ r : SReg, fget? s.soft (sregKey s.coreId s.slotId r.toNat) = none) ∧
  ∀ n, n < 32 → fget? s.soft (pregKey s.coreId s.slotId n) = none

/-- The issuing strand after an instruction: READY, its PC at `pc`, what it kept for a park cleared. -/
def State.goneTo (s : State) (pc : Word) : State := s.setMe { s.me.clearPark with status := .ready, pc := pc }

/-- The same with the PC at the next word (02 R24). -/
def State.gone (s : State) : State := s.goneTo (s.me.pc + 8#64)

/-- An access of `n` bytes reaches near memory from `key` on at its issue: its checks pass or passed before its release, no
comparator and no range-scoreboard entry meets it, and the word holds no soft error (06 R124, R144, 13 R281, R289, 15 R342). -/
def NearAt (s : State) (q : Ask) (a : Addr) (n key : Nat) : Prop :=
  let p : Piece := { off := 0, len := n, place := .bank key false }
  placed none s (resolve s q a n 0) = .ok [p] ∧ p.onBoard s = false ∧ fget? s.soft (wordOf key) = none

/-- An access of `n` bytes reaches a page: the physical address, the attribute, the VA; no soft error meets its translation or
its word (07 R151, R158, 08 R168, 13 R289). -/
def PageAt (s : State) (q : Ask) (a : Addr) (n pa : Nat) (attr : BitVec 2) (va : Nat) : Prop :=
  placed none s (resolve s q a n 0) = .ok [{ off := 0, len := n, place := .page pa attr va }] ∧
  fget? s.soft (pageWord s pa attr) = none ∧ fget? s.soft (tlbKey s.cluId) = none

/-- A strand is parked on an instruction, waiting for what `ph` names (02 R24, R28). -/
def Waits (s : State) (core slot : Nat) (ph : Phase) (i : Instr) : Prop :=
  (s.strand core slot).status = .parked ∧ (s.strand core slot).phase = ph ∧ decodeTile (s.strand core slot).pinstr = .ok i

/-- The device with the strand of a slot as the issuing one. -/
def State.asStrand (s : State) (core slot : Nat) : State := { s with cur := .strand core slot }

/-- The issuing strand parked on an instruction. -/
def State.parkedOn (s : State) (i : Instr) (kind : BitVec 4) (ph : Phase) : State :=
  park s s.coreId s.slotId ((encodeTile i).getD 0) kind ph

/-- What LD writes: the bytes from `key` on, zero- or sign-extended (R385). -/
def loadedWord (s : State) (key n : Nat) (u : Bool) : Word :=
  let b := BitVec.ofNat (8 * n) (fromBytes (memGet s key n))
  if u = true then b.setWidth 64 else b.signExtend 64

/-- The value an integer atomic leaves (R349). -/
def atomicNew {w : Nat} (op : IntOp) (old b : BitVec w) : BitVec w :=
  match op with
  | .add => old + b
  | .and => old &&& b
  | .or => old ||| b
  | .xor => old ^^^ b
  | .swap => b
  | .min => if old.sle b = true then old else b
  | .max => if old.sle b = true then b else old
  | .minu => if old.ule b = true then old else b
  | .maxu => if old.ule b = true then b else old

end Sys2Proof.Machine
end

