-- ==== Sys2Proof/Certificates/Slice0/Obligations.lean ====
section
/-!
DEFINITION. Certificates/Slice0/Obligations.lean: the statements for the provers. A statement's conclusion says which next
state an instruction or event answers; a state written `.gone` is READY at the next word with every other field as it stands.
-/
open Sys2Proof Sys2Proof.Machine

/-! ### Encoding, steps, memory and reset (15; 02 R25 to R28; 07 R166) -/

/-- Every well-formed instruction that has an encoding is what its bytes decode to, with every operand at every value; and the bytes
that decode to an instruction are that instruction's encoding, so no two words of one length stand for one instruction
(R310, R322 to R334). -/
def Obligations.DecodingInvertsEncoding : Prop :=
  (∀ i : Instr, i.wf = true → encode i ≠ [] → decode (encode i) = .ok i) ∧
  ∀ (bs : List Byte) (i : Instr), decode bs = .ok i → encode i = bs

/-- Words that the spec writes out stand for the instructions it writes beside them; a word with a reserved bit set, the all-zero
word, an OPC that R334 does not list and a guard that inverts p0 are refused (R308, R310, R322 to R334). -/
def Obligations.WordsStandForTheirInstructions : Prop :=
  let g : Guard := { pred := 0#3, inv := false }
  decodeTile 0x0001461C00000000#64 = .ok (.add g 5#6 6#6 7#6) ∧
  decodeTile 0x306204000000100A#64 = .ok (.ld { pred := 2#3, inv := true } true .w none 8#6 4#6 16#32) ∧
  decodeTile 0x3122431408000000#64 = .ok (.ldIndexed g false .w none 9#6 (.hnd 3#4 5#6)) ∧
  decodeTile 0x43000C0100803000#64 = .ok (.vfma g .fp32 3#10 1#10 2#10 3#10 0#3) ∧
  decodeTile 0x200FFFFFFFFFB000#64 = .ok (.bra g 0xFFFFFFFFFB#40) ∧
  decodeTile 0x350183207E800000#64 = .ok (.amo g .add true (.rel .sys) 6#6 (.hnd 3#4 7#6) 8#6) ∧
  decodeTile 0x8261051870000300#64 = .ok (.mma g false (some 6#6) (.sp32 7#6) .e4m3 4#6 5#6) ∧
  decodeTile 0x7400244001E04000#64 = .ok (.vgath g 9#10 (.gen 4#6) 30#10 2#2 0#3) ∧
  decodeTile 0x9001050000510200#64 = .ok (.cpy g (.ptr 4#6) (.hnd 2#4 5#6) 20#10) ∧
  decodeTile 0xA200041C0000A000#64 = .ok (.fst g (some .sys) 4#6 (.scal 7#6)) ∧
  decodeTile 0xB8000A2C00A00010#64 = .ok (.accept g 1#3 10#6 11#6 40#10) ∧
  decodeTile 0xC100050000280000#64 = .ok (.mts g 0x028#12 5#6) ∧
  decodeTile 0x0001461C00008000#64 = .error .unusedField ∧
  decodeTile 0#64 = .error .allZero ∧
  decodeTile 0xFF00000000000000#64 = .error .opcUndefined ∧
  ∀ (w : Word) (i : Instr), w.extractLsb' 0 4 = 8#4 → decodeTile w ≠ .ok i

/-- What is due happens before the turn that comes next, which keeps its place: in its cycle, or now where that has passed. -/
def dueFirst (s : State) (c : Nat) : Prop :=
  s.powered = true ∧ (c < s.cycle + (nextTurn s).1.wait ∨ ((nextTurn s).1.late = true ∧ c ≤ s.cycle + (nextTurn s).1.wait))

/-- The state in which something due in a cycle happens: the cycles before it have passed. -/
def atDue (s : State) (c : Nat) : State :=
  let t := (nextTurn s).1
  let s1 := (nextTurn s).2
  pass { s1 with turns := { t with wait := s.cycle + t.wait - max s.cycle c } :: s1.turns } (max s.cycle c)

/-- The state in which a strand issues: its next issue cycle is in the next rotation (R25). -/
def atIssue (s : State) (c core slot : Nat) : State :=
  let s := atDue s c
  ({ s with cur := .strand core slot }).updStrand core slot (fun x => { x with issueAt := s.cycle + 1 })

/-- The state in which the turn that comes next acts: its cycles have passed, with nothing due before it. -/
def atTurn (s : State) : State := pass (nextTurn s).2 (s.cycle + (nextTurn s).1.wait)

/-- Nothing is due before the turn that comes next. -/
def turnFirst (s : State) : Prop := ∀ c d, firstDue (dues s) = some (c, d) → ¬ dueFirst s c

/-- A strand of a tile core issues, and the word it fetches from the core's instruction cache is `w`. -/
def TileStrandIssues (s : State) (c core slot : Nat) (w : Word) : Prop :=
  let s1 := atIssue s c core slot
  let x := s1.strand core slot
  firstDue (dues s) = some (c, .issue core slot) ∧ dueFirst s c ∧ s1.cycle / 8 ∉ (s1.core core).idled ∧
  fget? s1.soft (coreKey core) = none ∧ fget? s1.soft (icacheKey core) = none ∧ x.status = .ready ∧ x.pinstr = 0#64 ∧
  execMatch s1 core slot x = none ∧
  fget? (s1.core core).icache (icKey ((x.task.map (·.tenant)).getD 0) x.pc.toNat) = some w

/-- A step executes the instruction at the PC of the strand whose issue is due, or of the hart whose turn it is: the word that the
core's instruction cache holds, or that the page of a translation of the cluster's TLB holds, or that the strand is parked on,
where no soft error meets what the step reads; a word that decodes to nothing executes as the undefined opcode; an event is executed as it stands; without power nothing is. A
READY strand's issue is due in its issue cycle; which turn comes next is the model's choice (notes/assumptions/1.md) (R24, R25,
R27, R28, R116, R166, R281, R302, R341).
Readings of the model that it rests on: notes/assumptions/1.md, 14.md, 15.md. -/
def Obligations.StepRunsTheDecodedInstruction : Prop :=
  ∀ (s : State) (c core slot n code : Nat) (w : Word) (i : Instr) (e : TlbEntry) (v : State),
    let s1 := atIssue s c core slot
    let x := s1.strand core slot
    let tenant := (x.task.map (·.tenant)).getD 0
    let key := icKey tenant x.pc.toNat
    let ready : Prop := firstDue (dues s) = some (c, .issue core slot) ∧ dueFirst s c ∧
      s1.cycle / 8 ∉ (s1.core core).idled ∧ fget? s1.soft (coreKey core) = none ∧ x.status = .ready
    let fetches : Prop := ready ∧ x.pinstr = 0#64 ∧ execMatch s1 core slot x = none ∧ fget? s1.soft (icacheKey core) = none
    let filled := s1.updCore core (fun k => { k with icache := fset k.icache key w })
    let t := { atTurn s with cur := Issuer.hart n }
    let hart : Prop := turnFirst s ∧ (nextTurn s).1.act = .hart n ∧ n < 32 ∧ fnReady t 24 = true ∧ (t.hart n).irq t = none ∧
      ∀ r, fget? t.soft (hregKey n r) = none
    let clean : Prop := ∀ r, fget? v.soft (hregKey v.hartId r) = none
    (s.powered = false → powersOn s = false → step s = .fault .powerRemoved) ∧
    (fetches → fget? (s1.core core).icache key = some w → decodeTile w = .ok i → step s = afterStep s (exec i s1)) ∧
    (fetches → fget? (s1.core core).icache key = some w → (∀ j, decodeTile w ≠ .ok j) →
      step s = afterStep s (exec (.undefinedOpcode w) s1)) ∧
    (fetches → fget? s1.soft (tlbKey (cluOfCore core)) = none →
      fget? (s1.core core).icache key = none → tlbFind (s1.clu (cluOfCore core)) tenant x.pc.toNat .fetch = some e →
      checkEntry e .fetch (cluOfCore core) = none → fget? s1.soft (homeWord s1 (e.phys x.pc.toNat)) = none →
      w = w64 (cohNat s1 (e.phys x.pc.toNat) 8) → decodeTile w = .ok i →
      execMatch filled core slot (filled.strand core slot) = none → step s = afterStep s (exec i filled)) ∧
    (ready → x.pinstr ≠ 0#64 → (x.phase = .none → execMatch s1 core slot x = none) → decodeTile x.pinstr = .ok i →
      step s = afterStep s (exec i s1)) ∧
    (firstDue (dues s) = some (c, .event i) → dueFirst s c → step s = afterStep s (exec i (atDue s c))) ∧
    (hart → hartFetch t (t.hart n) = .ok (4, code, v) → clean → decodeKw (BitVec.ofNat 32 code) = .ok i →
      step s = afterStep s (exec i v)) ∧
    (hart → hartFetch t (t.hart n) = .ok (4, code, v) → clean → decodeKw (BitVec.ofNat 32 code) = .error .notXkwedar →
      BitVec.ofNat 32 code ≠ sretWord → ∀ h u, rvExec v (t.hart n) 4 (BitVec.ofNat 32 code) = .ok (h, u) →
      step s = afterStep s (.next ((hartWrote u (rvRegs (BitVec.ofNat 32 code).toNat).2).setHart u.hartId h))) ∧
    (hart → hartFetch t (t.hart n) = .ok (2, code, v) → clean → ∀ wide h u, expandC code = some wide →
      rvExec v (t.hart n) 2 (BitVec.ofNat 32 wide) = .ok (h, u) →
      step s = afterStep s (.next ((hartWrote u (rvRegs (BitVec.ofNat 32 wide).toNat).2).setHart u.hartId h))) ∧
    (hart → ∀ f, hartFetch t (t.hart n) = .error f → step s = afterStep s (.next (hartStop t f))) ∧
    (turnFirst s → s.powered = true → (nextTurn s).1.act = .event i → isEvent i = true → eventReady (atTurn s) i = true →
      step s = afterStep s (exec i (atTurn s)))

/-- Memory stays in its canonical form: a step from a state whose memory is in it leaves it in it.
Readings of the model that it rests on: notes/assumptions/4.md. -/
def Obligations.MemoryStaysCanonical : Prop := ∀ s t : State, s.MemOk → step s = .next t → t.MemOk

/-- After reset: the memory is canonical; every slot is EMPTY; every word of local memory is FULL and every ownership entry 0; no
queue, ring or zone is enabled; no cache holds a line, no launch, request or future is live; the registers and settings that the
spec gives a reset value hold it (R20, R24, R73, R103, R137, R203, R213, R267, R274, R288, R294, R295, R299). -/
def Obligations.ResetState : Prop :=
  let s := State.reset
  s.MemOk ∧ s.powered = true ∧
  (∀ core slot, (s.strand core slot).status = .empty ∧ (s.strand core slot).task = none) ∧
  (∀ word, feFull s word = true) ∧ (∀ off, fget 0#8 s.own off = 0#8) ∧
  (∀ q, q < 8192 → (wqCfg s q).getLsbD 63 = false ∧ wqHead s q = 0 ∧ wqTail s q = 0) ∧
  (∀ core z n, coreExists core = true → z < 4 → lzCfg s core z = 0#64 ∧ (lzSlot s core z n).state = 0) ∧
  (∀ clu n, cluExists clu = true → n < 4 → frEnabled s clu n = false ∧ frSize s clu n = 16 ∧ frHead s clu n = 0 ∧ frTail s clu n = 0) ∧
  (∀ clu, cluExists clu = true → regGet s (offFACKTO clu) = 0x04000000#64 ∧ regGet s (offPAIRTO clu) = 0x00100000#64 ∧
    regGet s (offECCTHR clu) = 0x1000#64 ∧ (s.clu clu).lines = [] ∧ (s.clu clu).tlb = [] ∧ (s.clu clu).halted = false) ∧
  (∀ core, (s.core core).arr.steps = 0 ∧ (s.core core).arr.ring = 0 ∧ (s.core core).sb = []) ∧
  regGet s offFABCFG = 0x300400000#64 ∧ regGet s offFABID = 0#64 ∧ regGet s offTSCMD = 0#64 ∧ regGet s offSERV = 0#64 ∧
  regGet s offREADY = 0#64 ∧
  (∀ t, tset s setLWEIGHT t = 1 ∧ tset s setFEMAXDEF t = 0x01000000 ∧ tset s setWEIGHT t = 1 ∧ tset s setPFCHUNK t = 16384 ∧
    tset s setFUTTO t = 1600000000 ∧ tset s setQOS t = 0x100 ∧ tset s setTROOT t = 0 ∧ tset s setSLOTQ t = 0) ∧
  (∀ f, (futOf s f).state = 0 ∧ (futOf s f).gen = 0) ∧
  (∀ n c, (s.hart n).cap c = Cap.null) ∧ s.launches = [] ∧ s.posted = [] ∧ s.dirs = []

/-! ### Scalar arithmetic and logic (15 R323; 16 to 19) -/

/-- The instructions that write one scalar register with a word function of their operands: the result, READY at the next
word, and nothing else of the device changed (R347, R351, R404, R406, R408, R425, R432, R449). -/
def ScalarResults : Prop :=
  ∀ (s : State) (g : Guard) (sd sa sb : SReg) (pn : PReg) (imm : W32), s.guarded g → s.quiet →
    exec (.add g sd sa sb) s = .next (s.wS sd (s.rS sa + s.rS sb)).gone ∧
    exec (.addImm g sd sa imm) s = .next (s.wS sd (s.rS sa + imm.signExtend 64)).gone ∧
    exec (.sub g sd sa sb) s = .next (s.wS sd (s.rS sa - s.rS sb)).gone ∧
    exec (.mul g sd sa sb) s = .next (s.wS sd (s.rS sa * s.rS sb)).gone ∧
    exec (.and g sd sa sb) s = .next (s.wS sd (s.rS sa &&& s.rS sb)).gone ∧
    exec (.andImm g sd sa imm) s = .next (s.wS sd (s.rS sa &&& imm.signExtend 64)).gone ∧
    exec (.andn g sd sa sb) s = .next (s.wS sd (s.rS sa &&& ~~~ s.rS sb)).gone ∧
    exec (.or g sd sa sb) s = .next (s.wS sd (s.rS sa ||| s.rS sb)).gone ∧
    exec (.orImm g sd sa imm) s = .next (s.wS sd (s.rS sa ||| imm.signExtend 64)).gone ∧
    exec (.xor g sd sa sb) s = .next (s.wS sd (s.rS sa ^^^ s.rS sb)).gone ∧
    exec (.xorImm g sd sa imm) s = .next (s.wS sd (s.rS sa ^^^ imm.signExtend 64)).gone ∧
    exec (.movi g sd imm) s = .next (s.wS sd (imm.signExtend 64)).gone ∧
    exec (.movhi g sd imm) s = .next (s.wS sd (imm ++ (s.rS sd).setWidth 32)).gone ∧
    exec (.sel g sd pn sa sb) s = .next (s.wS sd (if s.rP pn = true then s.rS sa else s.rS sb)).gone

/-- The three shifts, by a register's low six bits or by an immediate (R426). -/
def ShiftResults : Prop :=
  ∀ (s : State) (g : Guard) (sd sa sb : SReg) (n : BitVec 6), s.guarded g → s.quiet →
    exec (.shl g sd sa (.reg sb)) s = .next (s.wS sd (s.rS sa <<< ((s.rS sb).toNat % 64))).gone ∧
    exec (.shr g sd sa (.reg sb)) s = .next (s.wS sd (s.rS sa >>> ((s.rS sb).toNat % 64))).gone ∧
    exec (.sra g sd sa (.reg sb)) s = .next (s.wS sd ((s.rS sa).sshiftRight ((s.rS sb).toNat % 64))).gone ∧
    exec (.shl g sd sa (.imm n)) s = .next (s.wS sd (s.rS sa <<< n.toNat)).gone ∧
    exec (.shr g sd sa (.imm n)) s = .next (s.wS sd (s.rS sa >>> n.toNat)).gone ∧
    exec (.sra g sd sa (.imm n)) s = .next (s.wS sd ((s.rS sa).sshiftRight n.toNat)).gone

/-- The plain scalar instructions and the shifts write the results that the reference gives them. -/
def Obligations.ScalarAndShiftResults : Prop := ScalarResults ∧ ShiftResults

/-- MULH's high half of the exact product, MIN and MAX, and the bit field that BFX extracts, as operations on bits
(R354, R391, R406). -/
def HighProductOrderAndField : Prop :=
  ∀ (s : State) (g : Guard) (sd sa sb : SReg) (pos len1 : BitVec 6), s.guarded g → s.quiet →
    exec (.mulh g true sd sa sb) s =
      .next (s.wS sd (((s.rS sa).zeroExtend 128 * (s.rS sb).zeroExtend 128).extractLsb' 64 64)).gone ∧
    exec (.mulh g false sd sa sb) s =
      .next (s.wS sd (((s.rS sa).signExtend 128 * (s.rS sb).signExtend 128).extractLsb' 64 64)).gone ∧
    exec (.min g true sd sa sb) s = .next (s.wS sd (if (s.rS sa).ule (s.rS sb) = true then s.rS sa else s.rS sb)).gone ∧
    exec (.min g false sd sa sb) s = .next (s.wS sd (if (s.rS sa).sle (s.rS sb) = true then s.rS sa else s.rS sb)).gone ∧
    exec (.max g true sd sa sb) s = .next (s.wS sd (if (s.rS sa).ule (s.rS sb) = true then s.rS sb else s.rS sa)).gone ∧
    exec (.max g false sd sa sb) s = .next (s.wS sd (if (s.rS sa).sle (s.rS sb) = true then s.rS sb else s.rS sa)).gone ∧
    (pos.toNat + len1.toNat + 1 ≤ 64 →
      exec (.bfx g true sd sa pos len1) s =
        .next (s.wS sd (((s.rS sa).extractLsb' pos.toNat (len1.toNat + 1)).zeroExtend 64)).gone ∧
      exec (.bfx g false sd sa pos len1) s =
        .next (s.wS sd (((s.rS sa).extractLsb' pos.toNat (len1.toNat + 1)).signExtend 64)).gone)

/-- BFI: the bits from POS on are those of sa, every other bit of sd is kept (R354). -/
def BfiReplacesTheField : Prop :=
  ∀ (s : State) (g : Guard) (sd sa : SReg) (pos len1 : BitVec 6), s.guarded g → s.quiet →
    pos.toNat + len1.toNat + 1 ≤ 64 →
    ∃ v : Word, exec (.bfi g sd sa pos len1) s = .next (s.wS sd v).gone ∧
      ∀ i : Nat, i < 64 →
        v.getLsbD i = if pos.toNat ≤ i ∧ i ≤ pos.toNat + len1.toNat then (s.rS sa).getLsbD (i - pos.toNat) else (s.rS sd).getLsbD i

/-- The high product, the signed and unsigned order, and the bit-field instructions. -/
def Obligations.HighProductOrderAndFields : Prop := HighProductOrderAndField ∧ BfiReplacesTheField

/-- CLZ counts the zero bits above the first one, 64 for zero; POPC the bits that are set; both are words of the S3 format
with OPC 0x11 or 0x12 and SUB 0, such as those that the rules write out (R358, R410). -/
def Obligations.ClzAndPopcCount : Prop :=
  (∀ (s : State) (g : Guard) (sd sa : SReg), s.guarded g → s.quiet →
    (∃ n : Nat, n ≤ 64 ∧ exec (.clz g sd sa) s = .next (s.wS sd (BitVec.ofNat 64 n)).gone ∧
      (∀ i, i < n → (s.rS sa).getMsbD i = false) ∧ (n < 64 → (s.rS sa).getMsbD n = true)) ∧
    exec (.popc g sd sa) s =
      .next (s.wS sd (BitVec.ofNat 64 ((List.range 64).countP (fun i => (s.rS sa).getLsbD i)))).gone) ∧
  (∀ (g : Guard) (sd sa : SReg), (g.pred = 0#3 → g.inv = false) →
    let rest : BitVec 52 := sd ++ sa ++ 0#36 ++ BitVec.ofBool g.inv ++ g.pred
    decodeTile (0x11#8 ++ 0#4 ++ rest) = .ok (.clz g sd sa) ∧ decodeTile (0x12#8 ++ 0#4 ++ rest) = .ok (.popc g sd sa)) ∧
  decodeTile 0x1100830000000000#64 = .ok (.clz ⟨0#3, false⟩ 2#6 3#6) ∧
  decodeTile 0x1200830000000000#64 = .ok (.popc ⟨0#3, false⟩ 2#6 3#6)

/-- DIV and REM: the quotient truncated toward zero and its remainder, all ones and the dividend for a zero divisor; the
strand is OFFROT for four issue cycles; when they are counted down it is READY again, its registers as they were (R27, R361,
R415). -/
def Obligations.DivideAndRemainder : Prop :=
  ∀ (s : State) (g : Guard) (sd sa sb : SReg), s.guarded g →
    let out (v : Word) : Outc :=
      .next ((s.wS sd v).setMe { (s.me.wS sd v).clearPark with status := .offrot, rot := 4, pc := s.me.pc + 8#64 })
    exec (.div g true sd sa sb) s = out (if s.rS sb = 0#64 then BitVec.allOnes 64 else s.rS sa / s.rS sb) ∧
    exec (.div g false sd sa sb) s = out (if s.rS sb = 0#64 then BitVec.allOnes 64 else (s.rS sa).sdiv (s.rS sb)) ∧
    exec (.rem g true sd sa sb) s = out (if s.rS sb = 0#64 then s.rS sa else s.rS sa % s.rS sb) ∧
    exec (.rem g false sd sa sb) s = out (if s.rS sb = 0#64 then s.rS sa else (s.rS sa).srem (s.rS sb)) ∧
    (∀ (core slot : Nat) (x : Strand), s.strand core slot = x → x.status = .offrot → x.rot = 0 → x.stepping = false →
      x.haltReq = false → exec (.rotationCountSpent core slot) s = .next (s.setStrand core slot { x with status := .ready }))

/-! ### Predicates and lane masks (15 R321; 16 R359; 17 R378; 18 R409) -/

/-- CMP writes one predicate by the condition table, for a register and for a sign-extended immediate (R359). -/
def CompareWritesThePredicate : Prop :=
  ∀ (s : State) (g : Guard) (c : Cond) (pd : PReg) (sa sb : SReg) (imm : W32), s.guarded g → s.quiet →
    let test (b : Word) : Bool :=
      let a := s.rS sa
      match c with
      | .eq => a == b | .ne => a != b
      | .lt => a.slt b | .le => a.sle b | .gt => b.slt a | .ge => b.sle a
      | .ltu => a.ult b | .leu => a.ule b | .gtu => b.ult a | .geu => b.ule a
    exec (.cmp g c pd sa sb) s = .next (s.wP pd (test (s.rS sb))).gone ∧
    exec (.cmpImm g c pd sa imm) s = .next (s.wP pd (test (imm.signExtend 64))).gone

/-- PLOG combines two predicates, KLOG two lane masks lane by lane, and KPOP counts the lanes of a mask (R321, R378, R409). -/
def LogicOnPredicatesAndMasks : Prop :=
  ∀ (s : State) (g : Guard) (op : LogicOp), s.guarded g → s.quiet →
    let f (a b : Bool) : Bool := match op with
      | .and => a && b | .or => a || b | .xor => a != b | .andn => a && !b
      | .orn => a || !b | .nand => !(a && b) | .nor => !(a || b) | .xnor => a == b
    (∀ pd pa pb : PReg, exec (.plog g op pd pa pb) s = .next (s.wP pd (f (s.rP pa) (s.rP pb))).gone) ∧
    (∀ kd ka kb : KReg, ∃ m : BitVec 16, exec (.klog g op kd ka kb) s = .next (s.wK kd m).gone ∧
      ∀ i, i < 16 → m.getLsbD i = f ((s.rK ka).getLsbD i) ((s.rK kb).getLsbD i)) ∧
    (∀ (sd : SReg) (ka : KReg), exec (.kpop g sd ka) s =
      .next (s.wS sd (BitVec.ofNat 64 ((List.range 16).countP (fun i => (s.rK ka).getLsbD i)))).gone)

/-- Comparisons, and logic on predicates and lane masks. -/
def Obligations.ComparisonsAndLogicWritePredicates : Prop := CompareWritesThePredicate ∧ LogicOnPredicatesAndMasks

/-- s0, p0 and k0 read as zero, true and all ones whatever has been written, a write to them is discarded, and a write to
any other register is read back and leaves the rest alone (R21, R311). -/
def Obligations.HardwiredRegisters : Prop :=
  ∀ (x : Strand) (v : Word) (b : Bool) (m : BitVec 16),
    x.rS 0#6 = 0#64 ∧ x.rP 0#3 = true ∧ x.rK 0#3 = 0xFFFF#16 ∧
    x.wS 0#6 v = x ∧ x.wP 0#3 b = x ∧ x.wK 0#3 m = x ∧
    (∀ r r' : SReg, r ≠ 0#6 → (x.wS r v).rS r' = if r = r' then v else x.rS r') ∧
    (∀ r r' : PReg, r ≠ 0#3 → (x.wP r b).rP r' = if r = r' then b else x.rP r') ∧
    (∀ r r' : KReg, r ≠ 0#3 → (x.wK r m).rK r' = if r = r' then m else x.rK r')

/-! ### Guards, branches and traps (15 R309, R310, R312; 13 R272, R273) -/

/-- A VA whose bits [63:57] all equal bit 56 (R312). -/
def CanonicalVa (a : Word) : Prop := ∀ i, 56 ≤ i → i < 64 → a.getLsbD i = a.getLsbD 56

/-- An instruction whose guard is false has no effect, where the predicate that it reads holds no soft error: the strand is READY at
the next word and nothing else of the device changes (R309); a step of the strand that reaches such an instruction takes its issue cycle (`atIssue`) and no more. YIELD,
whose count in the idle-issue statistics R450 asks for whatever its guard, changes that count only. -/
def Obligations.FalseGuardHasNoEffect : Prop :=
  ∀ (i : Instr) (g : Guard), i.guard? = some g →
    (∀ s : State, s.guard g = false → (∀ k ∈ guardKeys s g, fget? s.soft k = none) → regRange s i = none → s.quiet →
      exec i s = .next (if i = .yield g then (countYield s).gone else s.gone)) ∧
    (∀ (s : State) (c core slot : Nat) (w : Word), TileStrandIssues s c core slot w →
      let s1 := atIssue s c core slot
      decodeTile w = .ok i → s1.guard g = false → (∀ k ∈ guardKeys s1 g, fget? s1.soft k = none) → regRange s1 i = none → s1.quiet →
      step s = afterStep s (.next (if i = .yield g then (countYield s1).gone else s1.gone)))

/-- The first vector register that an instruction names at or above VCOUNT freezes its strand with REGRANGE, whatever the
guard (R310 order 6).
Readings of the model that it rests on: notes/assumptions/83.md. -/
def Obligations.RegisterBeyondTheWindowFreezes : Prop :=
  ∀ (i : Instr) (g : Guard) (s : State) (n : Nat), i.guard? = some g →
    i.vregs.find? (fun r => decide (s.me.vcount ≤ r)) = some n →
    exec i s = .next (freeze s s.coreId s.slotId cREGRANGE (BitVec.ofNat 64 (n % 1024 + s.me.vcount % 2048 * 1024)))

/-- Taking a fault: with the present level of the chain enabled and room in its ring, the strand is FROZEN at its
instruction, its registers and predicates as they were, and the level's ring and hart receive one packet
(R272, R273, R275). -/
def Obligations.FaultFreezesTheStrand : Prop :=
  ∀ (s : State) (core slot : Nat) (code : BitVec 8) (info : Word),
    let clu := cluOfCore core
    let n := curLvl s clu
    let x := s.strand core slot
    frEnabled s clu n = true → frUsed s clu n < frSize s clu n →
    let t := freeze s core slot code info
    t.strand core slot =
      { x.clearPark with status := .frozen, cause := code, info := info, stepping := false, haltReq := false } ∧
    frTail t clu n = (frTail s clu n + 1) % 2 ^ 32 ∧
    t.outbox = s.outbox ++ [.imsic (fld (regGet s (offFRCFG clu n)) 52 48) (fld (regGet s (offFRCFG clu n)) 42 32)] ∧
    (∀ k, k ≠ strandKey core slot → fget Strand.init t.strands k = fget Strand.init s.strands k) ∧ t.cores = s.cores

/-- What lies in the ring after a fault is the packet of R272: code, FROZEN, level, core, strand, tenant, the PC of the
instruction, the info word and CCNT. -/
def Obligations.FaultPacketHoldsPcAndInfo : Prop :=
  ∀ (s : State) (core slot : Nat) (code : BitVec 8) (info : Word),
    let clu := cluOfCore core
    let n := curLvl s clu
    let x := s.strand core slot
    let pa := frBase s clu n + 32 * (frTail s clu n % frSize s clu n)
    frEnabled s clu n = true → frUsed s clu n < frSize s clu n → (∀ j, j < 32 → physOk (pa + j) = true) →
    cohRead (freeze s core slot code info) pa 32 =
      recBytes (code.toNat + 2 ^ 8 + n * 2 ^ 12 + core * 2 ^ 16 + slot * 2 ^ 28 + (x.task.map (·.tenant)).getD 0 * 2 ^ 32)
        x.pc.toNat info.toNat (ccnt s)

/-- Taken branches: BRA, CALL with its link in s62, LOOP while its counter is not zero, JMP and RET (R312, R324, R386). -/
def BranchesReachTheirTargets : Prop :=
  ∀ (s : State) (g : Guard) (disp : BitVec 40) (sr sa : SReg), s.guarded g → s.quiet →
    let dest := s.me.pc + 8#64 * disp.signExtend 64
    let c := s.rS sr - 1#64
    (CanonicalVa dest →
      exec (.bra g disp) s = .next (s.goneTo dest) ∧
      exec (.call g disp) s = .next ((s.wS 62#6 (s.me.pc + 8#64)).goneTo dest) ∧
      (c ≠ 0#64 → exec (.loop g sr disp) s = .next ((s.wS sr c).goneTo dest))) ∧
    (c = 0#64 → exec (.loop g sr disp) s = .next (s.wS sr c).gone) ∧
    (CanonicalVa (s.rS sa) → (s.rS sa).extractLsb' 0 3 = 0#3 →
      exec (.jmp g sa) s = .next (s.goneTo (s.rS sa)) ∧ exec (.ret g sa) s = .next (s.goneTo (s.rS sa)))

/-- A branch to a target that is not canonical freezes its strand with BOUNDS, a JMP or RET to a misaligned one with ALIGN,
which is checked first; neither has any other effect (R312). -/
def BranchesToBadTargetsFreeze : Prop :=
  ∀ (s : State) (g : Guard) (disp : BitVec 40) (sr sa : SReg), s.guarded g →
    let dest := s.me.pc + 8#64 * disp.signExtend 64
    (¬ CanonicalVa dest →
      exec (.bra g disp) s = .next (freeze s s.coreId s.slotId cBOUNDS dest) ∧
      exec (.call g disp) s = .next (freeze s s.coreId s.slotId cBOUNDS dest) ∧
      (s.rS sr ≠ 1#64 → exec (.loop g sr disp) s = .next (freeze s s.coreId s.slotId cBOUNDS dest))) ∧
    ((s.rS sa).extractLsb' 0 3 ≠ 0#3 →
      exec (.jmp g sa) s = .next (freeze s s.coreId s.slotId cALIGN (s.rS sa)) ∧
      exec (.ret g sa) s = .next (freeze s s.coreId s.slotId cALIGN (s.rS sa))) ∧
    ((s.rS sa).extractLsb' 0 3 = 0#3 → ¬ CanonicalVa (s.rS sa) →
      exec (.jmp g sa) s = .next (freeze s s.coreId s.slotId cBOUNDS (s.rS sa)) ∧
      exec (.ret g sa) s = .next (freeze s s.coreId s.slotId cBOUNDS (s.rS sa)))

/-- Branches take their targets, and freeze their strand where the target is misaligned or not canonical. -/
def Obligations.BranchesReachOrRefuseTheirTargets : Prop := BranchesReachTheirTargets ∧ BranchesToBadTargetsFreeze

/-- NOP is OPC 0x27 of the S3 format with no fields but the guard; it takes its strand's issue cycle (`atIssue`) and has no
other effect, whatever its guard, whose predicate holds no soft error (R289, R407). YIELD does the same and is counted in the
core's idle-issue statistics. TRAP and BKPT freeze their strand with their operand as info, and a word that is no instruction
with IOPC and itself (R310, R355, R433, R450). -/
def Obligations.NopYieldTrapAndBreakpoint : Prop :=
  ∀ (s : State) (g : Guard) (sa : SReg) (imm : BitVec 12) (imm32 : W32) (w : Word),
    (s.quiet → (∀ k ∈ guardKeys s g, fget? s.soft k = none) → exec (.nop g) s = .next s.gone) ∧
    ((g.pred = 0#3 → g.inv = false) → decodeTile (0x27#8 ++ 0#52 ++ BitVec.ofBool g.inv ++ g.pred) = .ok (.nop g)) ∧
    (∀ c core slot : Nat, TileStrandIssues s c core slot w → decodeTile w = .ok (.nop g) →
      (∀ k ∈ guardKeys (atIssue s c core slot) g, fget? (atIssue s c core slot).soft k = none) → (atIssue s c core slot).quiet →
      step s = afterStep s (.next (atIssue s c core slot).gone)) ∧
    (s.quiet → (∀ k ∈ guardKeys s g, fget? s.soft k = none) → exec (.yield g) s = .next (s.updCore s.coreId (fun c => { c with yields := c.yields + 1 })).gone) ∧
    (s.guarded g →
      exec (.trap g sa imm) s = .next (freeze s s.coreId s.slotId cTRAP (s.rS sa + imm.zeroExtend 64)) ∧
      exec (.bkpt g imm32) s = .next (freeze s s.coreId s.slotId cBKPT (imm32.zeroExtend 64))) ∧
    exec (.undefinedOpcode w) s = .next (freeze s s.coreId s.slotId cIOPC w)

/-- EXIT of a task that holds no scoreboard entry, its array idle: the slot is EMPTY, with nothing of the task left in its
registers, and its core's private window has no owner (R362, R363). -/
def Obligations.ExitEmptiesTheSlot : Prop :=
  ∀ (s : State) (g : Guard) (k : Task), s.guarded g → s.me.task = some k →
    (∀ e ∈ (s.core s.coreId).sb, e.slot ≠ s.slotId) →
    (k.mxa = true → (s.core s.coreId).arr.run = none ∧ (s.core s.coreId).arr.queue = []) →
    ∃ t, exec (.exit g) s = .next t ∧ t.strand s.coreId s.slotId = Strand.init ∧
      ∀ j, j < s.me.privlen / 256 → fget 0#8 t.own (offSCROWN s.coreId (s.me.privbase / 256 + j)) = 0#8

/-! ### Memory (06; 15 R325; 16 to 19) -/

/-- The checks of a generic pointer to near memory, in their order: its tag, its fields, whose scratchpad it names, its
alignment, its extent and owner (R124, R126, R128, R136).
The model's choice: these faults come before a comparator on the address is looked at, notes/assumptions/27.md; the accesses that
pass it here are those that no comparator meets.
Readings of the model that it rests on: notes/assumptions/27.md. -/
def Obligations.NearPointerIsCheckedInOrder : Prop :=
  ∀ (s : State) (q : Ask) (p : Word) (n base : Nat), q.off64 = false →
    let bad (c : BitVec 8) := resolvePtr s q p n base = .error (.bad c p)
    let ok (key : Nat) := dataMatch s q.ld q.st p.toNat n = none →
      resolvePtr s q p n base = .ok [{ off := base, len := n, place := .bank key false }]
    let owned (off : Nat → Nat) (gran o : Nat) := ∀ j, o / gran ≤ j → j ≤ (o + n - 1) / gran →
      (fget 0#8 s.own (off j)).toNat = 0x80 + s.tenantId
    (ptrTag p ≥ 8 ∨ q.tags (ptrTag p) = false → bad cSPACE) ∧
    (q.tags (ptrTag p) = true → 0 < n →
      (ptrTag p = 1 →
        (fld p 59 18 ≠ 0 → bad cBOUNDS) ∧
        (fld p 59 18 = 0 → p.toNat % n ≠ 0 → bad cALIGN) ∧
        (fld p 59 18 = 0 → p.toNat % n = 0 →
          (fld p 17 0 + n ≤ s.me.privlen → ok (scrKey s.coreId (s.me.privbase + fld p 17 0))) ∧
          (s.me.privlen < fld p 17 0 + n → bad cBOUNDS))) ∧
      (ptrTag p = 2 →
        (fld p 47 18 ≠ 0 ∨ coreExists (fld p 59 48) = false → bad cBOUNDS) ∧
        (fld p 47 18 = 0 → coreExists (fld p 59 48) = true →
          (fld p 59 48 ≠ s.coreId → resolvePtr s q p n base = .error (.bad cFOREIGN
            (w64 (fld p 59 48 + s.coreId * 2 ^ 16 + fld p 17 0 * 2 ^ 28)))) ∧
          (fld p 59 48 = s.coreId → p.toNat % n ≠ 0 → bad cALIGN) ∧
          (fld p 59 48 = s.coreId → p.toNat % n = 0 → fld p 17 0 + n ≤ 2 ^ 18 → owned (offSCROWN s.coreId) 256 (fld p 17 0) →
            ok (scrKey s.coreId (fld p 17 0))))) ∧
      (ptrTag p = 3 → fld p 51 22 = 0 → fld p 59 52 = s.cluId → cluExists s.cluId = true → p.toNat % n = 0 →
        (fld p 21 0 + n ≤ 2 ^ 22 → owned (offCSHOWN s.cluId) 4096 (fld p 21 0) → ok (shrKey s.cluId (fld p 21 0))) ∧
        ((2 ^ 22 < fld p 21 0 + n ∨ ¬ owned (offCSHOWN s.cluId) 4096 (fld p 21 0)) → bad cBOUNDS)))

/-- LD from near memory, with an immediate or an index: the register, and nothing of memory. With an acquire at .die and beyond
the strand then parks until the generation counts have been read (R177, R348, R385). -/
def Obligations.NearLoadsExtendTheBytesRead : Prop :=
  ∀ (s : State) (g : Guard) (u : Bool) (sz : Size) (acq : Option Scope) (sd sa sb : SReg) (imm : W32) (sc : BitVec 2) (key : Nat),
    s.guarded g → s.quiet →
    let n := sizeBytes sz
    let q := askLoad (if acq.isSome then n else 1)
    let after (i : Instr) : State :=
      let t := s.wS sd (loadedWord s key n u)
      if acq = none ∨ acq = some .cor ∨ acq = some .clu then t.gone else t.parkedOn i 0 .acquire
    (NearAt s q (.ptr (s.rS sa + imm.signExtend 64)) n key →
      exec (.ld g u sz acq sd sa imm) s = .next (after (.ld g u sz acq sd sa imm))) ∧
    (NearAt s q (.ptr (s.rS sa + (s.rS sb <<< sc.toNat))) n key →
      exec (.ldIndexed g u sz acq sd (.gen sa sb sc)) s = .next (after (.ldIndexed g u sz acq sd (.gen sa sb sc))))

/-- ST to near memory, a .rel form once its release is complete: the low bytes of the register from `key` on, every other byte of
memory as before (R184, R348, R429). -/
def Obligations.NearStoresWriteTheirBytes : Prop :=
  ∀ (s : State) (g : Guard) (sz : Size) (rl : Option Scope) (sd sa sb : SReg) (imm : W32) (sc : BitVec 2) (key : Nat), s.guarded g →
    s.quiet → rl = none ∨ s.me.prel = true →
    let n := sizeBytes sz
    let t := memPut s key (toBytes n (s.rS sd).toNat)
    let q := askStore (if rl.isSome then n else 1)
    (NearAt s q (.ptr (s.rS sa + imm.signExtend 64)) n key → exec (.st g sz rl sd sa imm) s = .next t.gone) ∧
    (NearAt s q (.ptr (s.rS sa + (s.rS sb <<< sc.toNat))) n key → exec (.stIndexed g sz rl sd (.gen sa sb sc)) s = .next t.gone) ∧
    fromBytes (memGet t key n) = (s.rS sd).toNat % 2 ^ (8 * n) ∧
    ∀ a, a < key ∨ key + n ≤ a → readByte t.gone.mem a = readByte s.mem a

/-- The atomics on near memory: AMO and CAS return the old value, sign-extended, AMOF the old value, zero-extended, RED and REDF
nothing; each leaves the new value in the bytes it names, a CAS whose comparison fails writing none, and no other byte changed. A .rel form does so once its release is complete;
an .acq form at .die and beyond then parks until the generation counts have been read (R184, R349, R350, R357, R413). -/
def Obligations.NearAtomicsExchange : Prop :=
  ∀ (s : State) (g : Guard) (d : Bool) (ord : MemOrd) (rl : Option Scope) (sd sa sb sc : SReg) (key : Nat), s.guarded g → s.quiet →
    let rd : Prop := ordRel ord = none ∨ s.me.prel = true
    let acq := ordAcq ord
    let after (i : Instr) (t : State) : State :=
      if acq = none ∨ acq = some .cor ∨ acq = some .clu then t.gone else t.parkedOn i 0 .acquire
    let n := if d = true then 8 else 4
    let old := BitVec.ofNat (8 * n) (fromBytes (memGet s key n))
    let low (r : SReg) := (s.rS r).setWidth (8 * n)
    let old4 := fromBytes (memGet s key 4)
    let put (v : Nat) := memPut s key (toBytes n v)
    let putF (op : FloatOp) := memPut s key (toBytes 4 (floatOp op old4 ((s.rS sb).toNat % 2 ^ 32)))
    (rd → NearAt s (askAtomic n) (.ptr (s.rS sa)) n key →
      (∀ op, exec (.amo g op d ord sd (.gen sa) sb) s = .next (after (.amo g op d ord sd (.gen sa) sb)
        ((put (atomicNew op old (low sb)).toNat).wS sd (old.signExtend 64)))) ∧
      exec (.cas g d ord sd sa sb sc) s = .next (after (.cas g d ord sd sa sb sc)
        ((if old = low sb then put (low sc).toNat else s).wS sd (old.signExtend 64)))) ∧
    (rl = none ∨ s.me.prel = true → NearAt s (askReduce n) (.ptr (s.rS sa)) n key → ∀ op,
      exec (.red g op d rl (.gen sa) sb) s = .next (put (atomicNew op old (low sb)).toNat).gone) ∧
    (rd → NearAt s (askAtomic 4) (.ptr (s.rS sa)) 4 key → ∀ op,
      exec (.amof g op ord sd (.gen sa) sb) s = .next (after (.amof g op ord sd (.gen sa) sb) ((putF op).wS sd (w64 old4)))) ∧
    (rl = none ∨ s.me.prel = true → NearAt s (askReduce 4) (.ptr (s.rS sa)) 4 key → ∀ op,
      exec (.redf g op rl (.gen sa) sb) s = .next (putF op).gone)

/-- A store to another cluster's shared memory or to staging is posted and its strand goes on; the acknowledgement finds it
performed, in the order of the strand's earlier posted writes to the bank (R130, R133, R135).
The model's choice: the write counts as visible one cycle after its performance, notes/assumptions/89.md and 35.md.
Readings of the model that it rests on: notes/assumptions/35.md, 89.md. -/
def Obligations.FarStoreIsPostedThenPerformed : Prop :=
  ∀ (s : State) (g : Guard) (sz : Size) (sd sa : SReg) (imm : W32) (key : Nat) (r : Reply), s.guarded g → s.quiet →
    let n := sizeBytes sz
    let p : Posted :=
      { id := s.nextId, core := s.coreId, slot := s.slotId, clu := s.cluId, kind := .bank, key := wordOf key, op := .st,
        data := List.replicate (key % 8) none ++ (toBytes n (s.rS sd).toNat).map some ++ List.replicate (8 - key % 8 - n) none,
        done := false, vis := 0 }
    key % 8 + n ≤ 8 →
    (placed none s (resolve s (askStore 1) (.ptr (s.rS sa + imm.signExtend 64)) n 0) = .ok [{ off := 0, len := n, place := .bank key true }] →
      (key < scrKey s.coreId 0 ∨ scrKey s.coreId 0 + 2 ^ 18 ≤ key) →
      exec (.st g sz none sd sa imm) s = .next ({ s with nextId := s.nextId + 1, posted := s.posted ++ [p] } : State).gone) ∧
    (∀ t : State, t.posted = [p] → t.fabTx = [] → ∃ t', exec (.postedWriteAck s.nextId r) t = .next t' ∧ t'.posted = [] ∧
      t'.strands = (noteVis t s.coreId s.slotId (ccnt t + 1)).strands ∧ memGet t' key n = toBytes n (s.rS sd).toNat ∧
      ∀ a, a < key ∨ key + n ≤ a → readByte t'.mem a = readByte t.mem a)

/-- A load of a page parks its strand for the place it has resolved, an HC line that its cluster does not hold being asked for at
its home. The reply gives it the bytes as its cluster caches see them: an HC line as its home has delivered it or as it is held,
an SC line that is fresh, or filled from its home under the present view, a CP line with what the cluster has written to it (R28,
R168, R171, R174, R180).
Readings of the model that it rests on: notes/assumptions/17.md, 34.md. -/
def Obligations.PageLoadParksAndTheReplyCompletesIt : Prop :=
  ∀ (s : State) (g : Guard) (u : Bool) (sz : Size) (sd sa : SReg) (imm : W32) (pa va : Nat) (attr : BitVec 2) (r : Reply),
    let i : Instr := .ld g u sz none sd sa imm
    let n := sizeBytes sz
    let line := lineOf pa
    let ps : List Piece := [{ off := 0, len := n, place := .page pa attr va }]
    let held := hcHeld s (cluIndex s.cluId) line
    let val (l : List Byte) : Word :=
      let b := BitVec.ofNat (8 * n) (fromBytes (slice l (pa % 128) n))
      if u = true then b.setWidth 64 else b.signExtend 64
    s.quiet → s.fabTx = [] → s.posted = [] →
    (s.guarded g → PageAt s (askLoad 1) (.ptr (s.rS sa + imm.signExtend 64)) n pa attr va →
      let parked (t : State) : Outc := .next ((t.setMe { t.me with pplaces := ps }).parkedOn i 0 .access)
      (attr ≠ 0#2 ∨ held ≠ none → exec i s = parked s) ∧ (attr = 0#2 → held = none → exec i s = parked (askLine s line))) ∧
    (s.cur = .strand s.coreId s.slotId → Waits s s.coreId s.slotId .access i → s.me.pplaces = ps → s.me.pparts = [] →
      s.part = none → fget? s.soft (pageWord s pa attr) = none → coreExists s.coreId = true →
      (s.clu s.cluId).lines.length < cluLines →
      let ans (v : Word) := ∃ t, exec (.accessReply s.coreId s.slotId r) s = .next t ∧ t.rS sd = (if sd = 0#6 then 0#64 else v) ∧
        t.me.status = .ready ∧ t.me.pc = s.me.pc + 8#64 ∧ t.mem = s.mem ∧ t.dirs = s.dirs
      (∀ d, attr = 0#2 → fget? s.me.plines line = some (some d) → ans (val d)) ∧
      (∀ st l, attr = 0#2 → (∀ d, fget? s.me.plines line ≠ some (some d)) → held = some (st, l) → ans (val l)) ∧
      (∀ l, attr = 1#2 → cluLine s s.cluId 1 line = some l → scFresh (s.clu s.cluId) l = true → ans (val l.data)) ∧
      (∀ l, attr = 1#2 → cluLine s s.cluId 1 line = some l → scFresh (s.clu s.cluId) l = false → ans (val (lineData s line))) ∧
      (attr = 1#2 → cluLine s s.cluId 1 line = none → ans (val (lineData s line))) ∧
      (∀ l, attr = 2#2 → cluLine s s.cluId 2 line = some l → ans (val l.data)) ∧
      (attr = 2#2 → cluLine s s.cluId 2 line = none → ans (val (lineData s line))))

/-! ### Full/empty words and barriers (06 R137 to R141; 16 R352, R353) -/

/-- The full/empty forms on a near word for which nobody waits: LDFE takes a FULL word and leaves it EMPTY, LDFF reads it, STEF
fills an EMPTY word, STFF stores and fills, FESET sets the state and FEQ reads it (R138, R367, R430). -/
def Obligations.FullEmptyFormsOnAFreeWord : Prop :=
  ∀ (s : State) (g : Guard) (sd sa : SReg) (imm : W32) (key : Nat), s.guarded g → s.quiet → key % 8 = 0 →
    waitsOf s (bankOf key) = [] →
    let a := Addr.ptr (s.rS sa + imm.signExtend 64)
    let near (f : FeForm) := NearAt s (askFe f) a 8 key
    let word := w64 (fromBytes (memGet s key 8))
    let stored := memPut s key (toBytes 8 (s.rS sd).toNat)
    (feFull s key = true →
      (near .ldfe → exec (.ldfe g sd sa imm) s = .next (feSet (s.wS sd word) key false).gone) ∧
      (near .ldff → exec (.ldff g sd sa imm) s = .next (s.wS sd word).gone)) ∧
    (feFull s key = false → near .stef → exec (.stef g sd sa imm) s = .next (feSet stored key true).gone) ∧
    (near .stff → exec (.stff g sd sa imm) s = .next (if feFull s key = true then stored else feSet stored key true).gone) ∧
    (near .feset → exec (.feset g sd sa imm) s =
      .next (if feFull s key = (s.rS sd).getLsbD 0 then s else feSet s key ((s.rS sd).getLsbD 0)).gone) ∧
    (near .feq → exec (.feq g sd sa imm) s = .next (s.wS sd (if feFull s key = true then 1#64 else 0#64)).gone)

/-- A form whose condition does not hold: with FEMAX 0, as it was at the wait's first issue, it faults FE_TIMEOUT, otherwise it takes an entry of its bank's list,
or retries every 64 cycles where that holds 16. A wait that has counted FEMAX faults FE_TIMEOUT; a retry that finds the
condition is performed (R139, R140).
Readings of the model that it rests on: notes/assumptions/63.md. -/
def Obligations.FullEmptyWaitsAreListedBoundedAndRetried : Prop :=
  ∀ (s : State) (g : Guard) (sd sa : SReg) (imm : W32) (key : Nat), key % 8 = 0 →
    let p := s.rS sa + imm.signExtend 64
    let i : Instr := .ldfe g sd sa imm
    let e : WaitEnt := { core := s.coreId, slot := s.slotId, word := key, full := true, bar := none }
    (s.guarded g → feFull s key = false → NearAt s (askFe .ldfe) (.ptr p) 8 key →
      (s.me.bound = 0 → exec i s = .next (freeze s s.coreId s.slotId cFE_TIMEOUT p)) ∧
      (s.me.bound ≠ 0 → (waitsOf s (bankOf key)).length < 16 →
        exec i s = .next ((setWaits s (bankOf key) (waitsOf s (bankOf key) ++ [e])).parkedOn i 1 .listed)) ∧
      (s.me.bound ≠ 0 → 16 ≤ (waitsOf s (bankOf key)).length → exec i s = .next (s.parkedOn i 1 .retry))) ∧
    (∀ core slot, s.cur = .strand core slot → Waits s core slot .listed i → s.me.pkind = 1 → s.me.plimit ≤ waited s s.me →
      exec (.feTimeout core slot) s = .next (freeze (dropWaits s core slot) core slot cFE_TIMEOUT p)) ∧
    (∀ core slot, s.cur = .strand core slot → Waits s core slot .retry i → s.me.pstart < s.cycle → s.me.issueAt ≤ s.cycle →
      (s.cycle - s.me.pstart) % 64 = 0 → NearAt s (askFe .ldfe) (.ptr p) 8 key →
      let t := s.setMe { s.me with issueAt := s.cycle + 1 }
      (feFull s key = false → exec (.feRetry core slot) s = .next (park t core slot s.me.pinstr 1 .retry)) ∧
      (feFull s key = true → s.quiet → waitsOf s (bankOf key) = [] →
        exec (.feRetry core slot) s = .next (feSet (t.wS sd (w64 (fromBytes (memGet s key 8)))) key false).gone))

/-- BAR, its release done: an arrival that is not the last counts itself and waits for the generation to change; the last one
sets the count to 0 and the generation one on, and the strands that wait for it go on (R352). -/
def Obligations.BarrierArrivals : Prop :=
  ∀ (s : State) (g : Guard) (sa sb : SReg) (key : Nat), s.guarded g → s.quiet → s.me.prel = true →
    key % 8 = 0 → NearAt s askBar (.ptr (s.rS sa)) 8 key → 0 < (s.rS sb).toNat → (s.rS sb).toNat ≤ 65535 →
    waitsOf s (bankOf key) = [] →
    let count := fromBytes (memGet s key 4)
    let gen := fromBytes (memGet s (key + 4) 4)
    ((s.rS sb).toNat ≤ count + 1 →
      exec (.bar g sa sb) s = .next (memPut s key (toBytes 4 0 ++ toBytes 4 ((gen + 1) % 2 ^ 32))).gone) ∧
    (count + 1 < (s.rS sb).toNat → s.me.bound ≠ 0 →
      let t := memPut s key (toBytes 4 (count + 1) ++ toBytes 4 gen)
      let e : WaitEnt := { core := s.coreId, slot := s.slotId, word := key, full := false, bar := some gen }
      exec (.bar g sa sb) s =
        .next ((setWaits (t.setMe { t.me with pcap := [gen] }) (bankOf key) [e]).parkedOn (.bar g sa sb) 1 .listed))

/-! ### The vector ALU (19 R435 to R443; 17 R378; 18 R417; 11 R246 to R251) -/

/-- The issuing strand after a lane-wise operation on elements of `w` bits: element i is what `f` gives where lane i is active
and is kept where it is not, what lies above the elements is zero, and the flags of the active lanes are ORed into FPMODE
(R435). -/
def LaneResult (s : State) (vd : VNum) (km : KReg) (w : Nat) (f : Nat → Nat × Flags) (t : State) : Prop :=
  ∃ (v : VReg) (fl : Flags), t = (s.wV vd.toNat v).raise fl ∧
    (∀ i, i < 16 → elem w v i = if (s.rK km).getLsbD i = true then (f i).1 % 2 ^ w else elem w (s.rV vd.toNat) i) ∧
    (∀ b, 16 * w ≤ b → v.getLsbD b = false) ∧
    (∀ b, b < 9 → (fl.getLsbD b = true ↔ ∃ i, i < 16 ∧ (s.rK km).getLsbD i = true ∧ (f i).2.getLsbD b = true))

/-- The instruction completes with a lane-wise result. -/
def LaneWise (i : Instr) (s : State) (vd : VNum) (km : KReg) (w : Nat) (f : Nat → Nat × Flags) : Prop :=
  ∃ t, exec i s = .next t.gone ∧ LaneResult s vd km w f t

/-- Lane i of a vector register. -/
def laneW (v : VReg) (i : Nat) : W32 := v.extractLsb' (32 * i) 32

/-- The lane-wise integer operations: arithmetic modulo 2^32, signed and unsigned order, bits, and shifts by 0 to 63
(R435 to R437). -/
def Obligations.VectorIntegerLanes : Prop :=
  ∀ (s : State) (g : Guard) (ty : Ty) (vd va vb vc : VNum) (km : KReg) (n : BitVec 6), s.quiet → ty = .int32 ∨ ty = .uint32 →
    let a := laneW (s.rV va.toNat)
    let b := laneW (s.rV vb.toNat)
    let c := laneW (s.rV vc.toNat)
    let le (x y : W32) : Bool := if ty = .int32 then x.sle y else x.ule y
    let gives (i : Instr) (f : Nat → W32) : Prop := Runs i g s → LaneWise i s vd km 32 (fun l => ((f l).toNat, 0))
    gives (.vadd g ty vd va vb km) (fun l => a l + b l) ∧
    gives (.vsub g ty vd va vb km) (fun l => a l - b l) ∧
    gives (.vmul g ty vd va vb km) (fun l => a l * b l) ∧
    gives (.vfma g ty vd va vb vc km) (fun l => a l * b l + c l) ∧
    gives (.vmin g ty vd va vb km) (fun l => if le (a l) (b l) = true then a l else b l) ∧
    gives (.vmax g ty vd va vb km) (fun l => if le (a l) (b l) = true then b l else a l) ∧
    gives (.vabs g ty vd va km) (fun l => if ty = .int32 ∧ (a l).msb = true then -(a l) else a l) ∧
    gives (.vneg g ty vd va km) (fun l => -(a l)) ∧
    gives (.vbit g .and vd va vb km) (fun l => a l &&& b l) ∧
    gives (.vbit g .or vd va vb km) (fun l => a l ||| b l) ∧
    gives (.vbit g .xor vd va vb km) (fun l => a l ^^^ b l) ∧
    gives (.vbit g .andn vd va vb km) (fun l => a l &&& ~~~ b l) ∧
    gives (.vbit g .not vd va vb km) (fun l => ~~~ a l) ∧
    gives (.vsh g .shl ty vd va (.vec vb) km) (fun l => a l <<< ((b l).toNat % 64)) ∧
    gives (.vsh g .shr ty vd va (.vec vb) km) (fun l => a l >>> ((b l).toNat % 64)) ∧
    gives (.vsh g .sra ty vd va (.vec vb) km) (fun l => (a l).sshiftRight ((b l).toNat % 64)) ∧
    gives (.vsh g .shl ty vd va (.imm n) km) (fun l => a l <<< n.toNat) ∧
    gives (.vsh g .shr ty vd va (.imm n) km) (fun l => a l >>> n.toNat) ∧
    gives (.vsh g .sra ty vd va (.imm n) km) (fun l => (a l).sshiftRight n.toNat)

/-- The lane-wise FP32 operations, rounded in FPMODE.RM with the flags of the active lanes, the sign operations, which raise
none, the conversions on packed elements, one to the source's own type keeping every value but a NaN, and the long operations, which leave the strand OFFROT for three issue cycles
(R239 to R242, R247, R435 to R440).
Readings of the model that it rests on: notes/assumptions/20.md. -/
def Obligations.VectorFloatLanes : Prop :=
  ∀ (s : State) (g : Guard) (vd va vb vc : VNum) (km : KReg), s.quiet →
    let a := lane (s.rV va.toNat)
    let b := lane (s.rV vb.toNat)
    let c := lane (s.rV vc.toNat)
    let nan (x : Nat) : Bool := decide (0x7F800000 < x % 2 ^ 31)
    let gives (i : Instr) (f : Nat → Nat × Flags) : Prop := Runs i g s → LaneWise i s vd km 32 f
    let long (i : Instr) (f : Nat → Nat × Flags) : Prop := Runs i g s → ∃ t, LaneResult s vd km 32 f t ∧
      exec i s = .next (t.setMe { t.me.clearPark with status := .offrot, rot := 3, pc := t.me.pc + 8#64 })
    gives (.vadd g .fp32 vd va vb km) (fun l => fAdd s.rm (a l) (b l)) ∧
    gives (.vsub g .fp32 vd va vb km) (fun l => fSub s.rm (a l) (b l)) ∧
    gives (.vmul g .fp32 vd va vb km) (fun l => fMul s.rm (a l) (b l)) ∧
    gives (.vfma g .fp32 vd va vb vc km) (fun l => fFma s.rm (a l) (b l) (c l)) ∧
    gives (.vmin g .fp32 vd va vb km) (fun l => fMinMax false (a l) (b l)) ∧
    gives (.vmax g .fp32 vd va vb km) (fun l => fMinMax true (a l) (b l)) ∧
    gives (.vabs g .fp32 vd va km) (fun l => (if nan (a l) = true then 0x7FC00000 else a l % 2 ^ 31, 0)) ∧
    gives (.vneg g .fp32 vd va km) (fun l => (if nan (a l) = true then 0x7FC00000 else (a l + 2 ^ 31) % 2 ^ 32, 0)) ∧
    long (.vexp2 g vd va km) (fun l => fLong .exp2 s.rm (a l)) ∧
    long (.vlog2 g vd va km) (fun l => fLong .log2 s.rm (a l)) ∧
    long (.vrcp g vd va km) (fun l => fLong .rcp s.rm (a l)) ∧
    long (.vrsq g vd va km) (fun l => fLong .rsq s.rm (a l)) ∧
    long (.vsqrt g vd va km) (fun l => fLong .sqrt s.rm (a l)) ∧
    (∀ (dty sty : Ty) (ns : Bool), dty ≠ sty → Runs (.vcvt g dty sty ns vd va km) g s → tyBits dty ≤ 32 →
      LaneWise (.vcvt g dty sty ns vd va km) s vd km (tyBits dty)
        (fun l => convert dty s.rm ns (decodeNum sty (elem (tyBits sty) (s.rV va.toNat) l)))) ∧
    (∀ (ty : Ty) (ns : Bool), Runs (.vcvt g ty ty ns vd va km) g s → tyBits ty ≤ 32 →
      LaneWise (.vcvt g ty ty ns vd va km) s vd km (tyBits ty) (fun l =>
        let x := elem (tyBits ty) (s.rV va.toNat) l
        if decodeNum ty x = .nan then (canonNaN ty, if ty = .ue8m0 then fNV else 0) else (x, 0))) ∧
    (∀ (dty sty : Ty) (ns : Bool) (sb : SReg), Runs (.vcvto g dty sty ns vd va sb km) g s → tyBits dty ≤ 32 → dty ≠ sty →
      (∀ l, l < 16 → outlier dty sty s.rm (elem (tyBits sty) (s.rV va.toNat) l) = false) →
      LaneWise (.vcvto g dty sty ns vd va sb km) s vd km (tyBits dty)
        (fun l => convert dty s.rm ns (decodeNum sty (elem (tyBits sty) (s.rV va.toNat) l))))

/-- VCVTO with outliers: their lanes get +0, the list at OLBASE takes one 8-byte entry for each in ascending lane order, and
OLCNT counts them; a list that is full freezes the strand with OUTLIER_FULL and nothing changed (R245, R246).
Readings of the model that it rests on: notes/assumptions/36.md. -/
def Obligations.ConvertWithOutliersFillsTheList : Prop :=
  ∀ (s : State) (g : Guard) (dty sty : Ty) (ns : Bool) (vd va : VNum) (sb : SReg) (km : KReg) (key : Nat), s.quiet →
    let i : Instr := .vcvto g dty sty ns vd va sb km
    let x := elem (tyBits sty) (s.rV va.toNat)
    let os := (List.range 16).filter (fun l => (s.rK km).getLsbD l && outlier dty sty s.rm (x l))
    let k := os.length
    let ptr := s.me.olbase + w64 (8 * s.me.olcnt.toNat)
    Runs i g s → tyBits dty ≤ 32 → dty ≠ sty → 0 < k → checkSpace s tagsScratch ptr = none → fld ptr 2 0 = 0 →
    localPlace s ptr (8 * k) = some (.bank key false) →
    (s.me.olcap.toNat < s.me.olcnt.toNat + k →
      exec i s = .next (freeze s s.coreId s.slotId cOUTLIER_FULL (w64 (k * 2 ^ 32 + s.me.olcap.toNat)))) ∧
    (s.me.olcnt.toNat + k ≤ s.me.olcap.toNat → dataMatch s false true ptr.toNat (8 * k) = none →
      boardHit s s.coreId (key - scrKey s.coreId 0) (8 * k) = false →
      let entries := os.flatMap (fun l => toBytes 4 ((s.rS sb).toNat % 2 ^ 32 + l) ++
        toBytes 4 (convert .fp32 .rne true (decodeNum sty (x l))).1)
      ∃ t, LaneResult (memPut s key entries) vd km (tyBits dty) (fun l =>
          if outlier dty sty s.rm (x l) = true then (0, 0) else convert dty s.rm ns (decodeNum sty (x l))) t ∧
        exec i s = .next (t.setMe { t.me with olcnt := w64 ((s.me.olcnt.toNat + k) % 2 ^ 32) }).gone)

/-- Comparison, selection, movement and reduction: VCMP and VSEL, VPERM, VBCST, VMOVS and VIDX, VRED, whose integer sum wraps,
and RNG (R248, R251, R417, R438, R441, R442).
Readings of the model that it rests on: notes/assumptions/36.md. -/
def Obligations.VectorCompareMoveAndReduce : Prop :=
  ∀ (s : State) (g : Guard) (ty : Ty) (vd va vb : VNum) (sd sa sb sc : SReg) (kd kc km : KReg) (n : BitVec 4) (c : Cond), s.quiet →
    let a := lane (s.rV va.toNat)
    let b := lane (s.rV vb.toNat)
    let on (l : Nat) : Bool := (s.rK km).getLsbD l
    (Runs (.vcmp g c ty kd va vb km) g s → ∃ (m : BitVec 16) (fl : Flags),
      exec (.vcmp g c ty kd va vb km) s = .next ((s.wK kd m).raise fl).gone ∧
      (∀ l, l < 16 → m.getLsbD l = (on l && (cmp32 c ty (a l) (b l)).1)) ∧ (ty ≠ .fp32 → fl = 0)) ∧
    (Runs (.vsel g vd va vb kc km) g s → LaneWise (.vsel g vd va vb kc km) s vd km 32
      (fun l => (if (s.rK kc).getLsbD l = true then a l else b l, 0))) ∧
    (Runs (.vperm g vd va vb km) g s → LaneWise (.vperm g vd va vb km) s vd km 32 (fun l => (a (b l % 16), 0))) ∧
    (Runs (.vbcst g ty vd sa km) g s → tyBits ty ≤ 32 →
      LaneWise (.vbcst g ty vd sa km) s vd km (tyBits ty) (fun _ => ((s.rS sa).toNat, 0))) ∧
    (Runs (.vmovs g (.toScalar sd va) n km) g s → exec (.vmovs g (.toScalar sd va) n km) s =
      .next (if on n.toNat = true then s.wS sd (w64 (a n.toNat)) else s).gone) ∧
    (Runs (.vmovs g (.toVector vd sa) n km) g s → LaneWise (.vmovs g (.toVector vd sa) n km) s vd km 32
      (fun l => (if l = n.toNat then (s.rS sa).toNat else lane (s.rV vd.toNat) l, 0))) ∧
    (Runs (.vidx g ty vd sa km) g s → LaneWise (.vidx g ty vd sa km) s vd km 32 (fun l => ((s.rS sa).toNat + l, 0))) ∧
    (∀ op, Runs (.vred g op ty vd va km) g s → ∃ (r : Nat) (fl : Flags),
      exec (.vred g op ty vd va km) s = .next ((s.wV vd.toNat (vregOf 32 [r])).raise fl).gone ∧
      (op = .add → ty = .int32 ∨ ty = .uint32 →
        r = (((List.range 16).map (fun l => if on l = true then a l else 0)).sum) % 2 ^ 32)) ∧
    (Runs (.rng g vd sa sb sc) g s → ∃ v, exec (.rng g vd sa sb sc) s = .next (s.wV vd.toNat v).gone ∧
      ∀ j w, j < 4 → w < 4 → lane v (4 * j + w) =
        philoxWord (((s.rS sa).toNat + j) % 2 ^ 32) ((s.rS sa).toNat / 2 ^ 32) ((s.rS sb).toNat % 2 ^ 32) ((s.rS sb).toNat / 2 ^ 32)
          ((s.rS sc).toNat % 2 ^ 32) ((s.rS sc).toNat / 2 ^ 32) w)

/-- VTOPK: the 64 records of its eight registers are the first of the list's records and the finite candidates of the active lanes
in the candidate order, and empty records with value 0 after them; the order is that of R83, it is stable, and no record is lost
or made (R443).
VTOPK completes at issue, whatever its operands. -/
def Obligations.TopKKeepsTheBestCandidates : Prop :=
  (∀ l : List Cand, (candSort l).Perm l ∧ (candSort l).Pairwise (fun x y => candLt y x = false) ∧
    ∀ c : Cand, let tie (x : Cand) : Bool := !candLt c x && !candLt x c
      (candSort l).filter tie = l.filter tie) ∧
  ∀ (s : State) (g : Guard) (vd va vb : VNum) (km : KReg), s.quiet → Runs (.vtopk g vd va vb km) g s →
    let old := candsOf ((List.range 8).map (fun j => s.rV (vd.toNat + j)))
    let new := ((List.range 16).filter (fun l => (s.rK km).getLsbD l)).filterMap (fun l =>
      let v := lane (s.rV va.toNat) l
      let tok := lane (s.rV vb.toNat) l
      if v % 2 ^ 31 < 0x7F800000 ∧ tok ≠ 0xFFFFFFFF then some (v, tok) else none)
    ∃ rs : List VReg, rs.length = 8 ∧ exec (.vtopk g vd va vb km) s = .next (s.wVs vd.toNat rs).gone ∧
      ∀ q, q < 64 → (lane (rs.getD (q / 8) 0#512) (2 * (q % 8)), lane (rs.getD (q / 8) 0#512) (2 * (q % 8) + 1)) =
        (candSort (old ++ new)).getD q (0, 0xFFFFFFFF)

/-! ### Vector memory (19 R444 to R446) -/

/-- The places of the active lanes: 4 bytes of near memory from `key` of the lane on. -/
def lanePieces (s : State) (km : KReg) (key : Nat → Nat) : List Piece :=
  ((List.range 16).filter (fun l => (s.rK km).getLsbD l)).map
    (fun l => { off := 4 * l, len := 4, place := .bank (key l) false })

/-- No range-scoreboard entry meets an active lane's bytes, and their words hold no soft error (06 R144, 13 R289). -/
def LanesFree (s : State) (km : KReg) (key : Nat → Nat) : Prop :=
  ∀ p ∈ lanePieces s km key, p.onBoard s = false ∧ ∀ k ∈ p.words s, fget? s.soft k = none

/-- Each active lane reaches 4 bytes of near memory from `key` of the lane on, at the access's first issue. -/
def LanesAt (s : State) (q : Ask) (f : Nat → Addr) (km : KReg) (key : Nat → Nat) : Prop :=
  LanesFree s km key ∧ s.me.prel = false ∧ ∀ l, l < 16 → (s.rK km).getLsbD l = true →
    resolve s q (f l) 4 (4 * l) = .ok [{ off := 4 * l, len := 4, place := .bank (key l) false }]

/-- The active lanes of a register stored one after another, ascending. -/
def lanesPut (s : State) (vr : VNum) (km : KReg) (key : Nat → Nat) : State :=
  ((List.range 16).filter (fun l => (s.rK km).getLsbD l)).foldl
    (fun t l => memPut t (key l) (toBytes 4 (lane (s.rV vr.toNat) l))) s

/-- The vector loads and stores on near memory: each active lane moves its 4 bytes and the others keep theirs; the strided and
indexed forms park and are performed at their reply, a register stored by ascending lanes (R444 to R446).
Readings of the model that it rests on: notes/assumptions/17.md. -/
def Obligations.VectorMemoryMovesActiveLanes : Prop :=
  ∀ (s : State) (g : Guard) (vr vx : VNum) (sa sb : SReg) (sc : BitVec 2) (km : KReg) (key : Nat → Nat) (r : Reply), s.quiet →
    myTxs s s.coreId s.slotId = [] →
    let unit (l : Nat) : Addr := .ptr (s.rS sa + (s.rS sb <<< sc.toNat) + BitVec.ofNat 64 (4 * l))
    let stride (l : Nat) : Addr := .ptr (s.rS sa + BitVec.ofNat 64 l * s.rS sb)
    let index (l : Nat) : Addr := .ptr (s.rS sa + ((laneW (s.rV vx.toNat) l).signExtend 64 <<< sc.toNat))
    let got (t : State) : Prop := ∃ v : VReg, t = (s.wV vr.toNat v).gone ∧
      ∀ l, l < 16 → lane v l = if (s.rK km).getLsbD l = true then fromBytes (memGet s (key l) 4) else lane (s.rV vr.toNat) l
    let atReply (i : Instr) (q : Ask) (f : Nat → Addr) (done : State → Prop) : Prop :=
      (LanesAt s q f km key → Runs i g s →
        exec i s = .next ((s.setMe { s.me with pplaces := lanePieces s km key }).parkedOn i 0 .access)) ∧
      (s.cur = .strand s.coreId s.slotId → Waits s s.coreId s.slotId .access i → s.me.pplaces = lanePieces s km key →
        s.me.pparts = [] → s.part = none → LanesFree s km key →
        ∃ t, exec (.accessReply s.coreId s.slotId r) s = .next t ∧ done t)
    (∃ l, l < 16 ∧ (s.rK km).getLsbD l = true) →
    (LanesAt s (askLoad 4) unit km key → Runs (.vld g vr (.gen sa sb sc none) km) g s →
      ∃ t, exec (.vld g vr (.gen sa sb sc none) km) s = .next t ∧ got t) ∧
    (LanesAt s (askStore 4) unit km key → ptrTag (s.rS sa + (s.rS sb <<< sc.toNat)) < 5 →
      Runs (.vst g vr (.gen sa sb sc none) km) g s →
      exec (.vst g vr (.gen sa sb sc none) km) s = .next (lanesPut s vr km key).gone) ∧
    atReply (.vlds g vr (.gen sa) sb km) (askLoad 4) stride got ∧
    atReply (.vsts g vr (.gen sa) sb km) (askStore 4) stride (fun t => t = (lanesPut s vr km key).gone) ∧
    atReply (.vgath g vr (.gen sa) vx sc km) (askLoad 4) index got ∧
    atReply (.vscat g vr (.gen sa) vx sc km) (askStore 4) index (fun t => t = (lanesPut s vr km key).gone)

/-! ### The matrix array (12; 18 R390 to R405) -/

/-- `n` bytes at a pointer into the issuing core's scratchpad, aligned, pass the checks of R124 and lie from `key` on. -/
def ScratchAt (s : State) (p : Word) (al n key : Nat) : Prop :=
  checkSpace s tagsScratch p = none ∧ p.toNat % al = 0 ∧ localPlace s p n = some (.bank key false) ∧ 0 < n ∧ ptrTag p < 3

/-- The state after a matrix command is queued: its place at the end of the array's queue with the captured operands, one
range-scoreboard entry for each range of scratchpad that it names, and the shadow state (R143, R390). -/
def queuedOn (s : State) (i : Instr) (caps : List Nat) (ranges : List (Nat × Nat)) (vdst : Option Nat) (sh : Shadow → Shadow) :
    State :=
  let ids := (List.range ranges.length).map (fun j => s.nextId + j)
  let m : MCmd :=
    { word := (encodeTile i).getD 0, pc := s.me.pc, slot := s.slotId, ops := cmdOps s i, caps := caps, sbIds := ids, vdst := vdst }
  let es := (List.range ranges.length).map (fun j =>
    ({ id := s.nextId + j, lo := (ranges.getD j (0, 0)).1, hi := (ranges.getD j (0, 0)).2, slot := s.slotId } : SbEntry))
  ({ s with nextId := s.nextId + ranges.length } : State).updCore s.coreId (fun c =>
    { c with sb := c.sb ++ es, arr := { c.arr with queue := c.arr.queue ++ [m], shadow := sh c.arr.shadow } })

/-- A matrix command of the array's owner, with room in the queue and the scoreboard, captures its operands, is queued and its
strand goes on; with 16 commands in the array it parks; of a task that does not own the array it freezes the strand with PRIV
(R254, R255, R270, R390, R397 to R405). -/
def Obligations.MatrixCommandsAreQueuedAtIssue : Prop :=
  ∀ (s : State) (g : Guard) (ty : Ty) (sa sn sb sr sm : SReg) (vs : VNum) (n : BitVec 8) (rm : Rounding) (ns mf z : Bool)
    (key : Nat), s.quiet →
    let arr := (s.core s.coreId).arr
    let lo := key - scrKey s.coreId 0
    let mx : Bool := (s.me.task.map (·.mxa)).getD false
    let queues (i : Instr) (caps : List Nat) (ranges : List (Nat × Nat)) (vdst : Option Nat) (sh : Shadow → Shadow) : Prop :=
      Runs i g s → mx = true →
        (arr.queue.length + arr.run.toList.length < 16 → (s.core s.coreId).sb.length + ranges.length ≤ 16 →
          exec i s = .next (queuedOn s i caps ranges vdst sh).gone) ∧
        (16 ≤ arr.queue.length + arr.run.toList.length → exec i s = .next (s.parkedOn i 7 .cond))
    let needsOwner (i : Instr) : Prop :=
      Runs i g s → mx = false → exec i s = .next (freeze s s.coreId s.slotId cPRIV s.me.pc)
    queues (.mzero g) [] [] none id ∧
    (((launchOf s).map (·.ringed)).getD false = true → queues (.mring g) [] [] none (fun sh => { sh with ring := true })) ∧
    queues (.mlb g ty (.vec vs n)) [(s.rV vs.toNat).toNat] [] none (fun sh =>
      { sh with loaded := true, lty := BitVec.ofNat 4 (tyCode ty), used := usedAfter sh.used n.toNat }) ∧
    (ScratchAt s (s.rS sa) 64 4096 key → queues (.mlb g ty (.plain sa)) [0, key, memNat s key 4096, 0] [(lo, lo + 4096)] none
      (fun sh => { sh with loaded := true, lty := BitVec.ofNat 4 (tyCode ty), used := 4096, scale := false })) ∧
    (ScratchAt s (s.rS sa) 64 4096 key → arr.shadow.loaded = true → tyClass (tyOf arr.shadow.lty.toNat) = tyClass ty →
      queues (.mma g false none .dense ty sa sm) [(s.rS sm).toNat, 0, stepId s s.me, memNat s key 4096, 0] [(lo, lo + 4096)] none id) ∧
    (ScratchAt s (s.rS sa) 8 (8 * (s.rS sn).toNat) key → arr.shadow.loaded = true →
      queues (.mout g sa sn sb sr sm)
        [(s.rS sn).toNat, (s.rS sb).toNat, (s.rS sr).toNat, (s.rS sm).toNat, memNat s key (8 * (s.rS sn).toNat)]
        [(lo, lo + 8 * (s.rS sn).toNat)] none id) ∧
    (ScratchAt s (s.rS sa) 8 (8 * tyBits ty * (s.rS sn).toNat) key → (s.rS sr).toNat + (s.rS sn).toNat ≤ 64 → 0 < (s.rS sn).toNat →
      queues (.mdrain g (.mem ty rm ns mf z sa sr sn)) [(s.rS sr).toNat, (s.rS sn).toNat, key]
        [(lo, lo + 8 * tyBits ty * (s.rS sn).toNat)] none id) ∧
    ((s.rS sr).toNat < 64 → queues (.mdrain g (.vec z vs sr)) [(s.rS sr).toNat, s.me.vbase] [] (some vs.toNat) id) ∧
    needsOwner (.mzero g) ∧ needsOwner (.mring g) ∧ needsOwner (.mlb g ty (.plain sa)) ∧
    needsOwner (.mma g false none .dense ty sa sm) ∧ needsOwner (.mout g sa sn sb sr sm) ∧
    needsOwner (.mdrain g (.mem ty rm ns mf z sa sr sn))

/-- A command in execution that waits for no ring and reads no soft error. -/
def ArrayRuns (s : State) (core : Nat) (m : MCmd) (i : Instr) : Prop :=
  (s.core core).arr.run = some m ∧ (s.core core).arr.done = false ∧ decodeTile m.word = .ok i ∧ m.rings = false ∧
  ∀ w ∈ cmdWords s core m, fget? s.soft w = none

/-- A cell of an array as its owner finds it. -/
def cellOf (a : MArray) (i j : Nat) : W32 := fget 0#32 a.freshAcc.acc (64 * i + j)

/-- What an entry of MOUT leaves of a cell of row `i` (R269): `d` its index less the base, `v` its value, `b` column j of the
latch by row. -/
def moutCell (sr d i kk : Nat) (v : FV) (b : Nat → FV) (old : W32) : W32 :=
  if sr ≠ 0 ∧ d / sr = i ∧ d % sr < kk then
    match (mulFV v (b (d % sr))).1, decodeNum .fp32 old.toNat with
    | .num p, .num o => BitVec.ofNat 32 (toFP32 .rne (addFV .rne (.num o) (.num p))).1
    | p, _ => BitVec.ofNat 32 (cellStep old.toNat [p])
  else old

/-- The oldest queued command starts when the array is idle and its owner neither FROZEN nor HALTED, a ragged step with the rows
of its step alone, and each command does at its completion what its row of chapter 12 says: MZERO clears, MLB loads the latch
and the scales in each of its forms, a step, dense, sparse or MX, adds its products to the rows of its mask, MOUT adds its
entries in order to the columns of its rows, MDRAIN writes rows converted to the type, or one row to four vector registers, and
may clear them (R255, R258 to R263, R269, R270, R393).
The model's choice: the first commands of a new owner find the accumulators zero, STEPS 0 and no latch, whatever an earlier
owner left, notes/assumptions/94.md; of the soft errors, 38.md.
Readings of the model that it rests on: notes/assumptions/38.md, 94.md. -/
def Obligations.MatrixCommandsTakeEffectAtCompletion : Prop :=
  ∀ (s : State) (core : Nat) (m : MCmd),
    let a := (s.core core).arr
    let cap (n : Nat) : Nat := m.caps.getD n 0
    let done (i : Instr) (P : State → Prop) : Prop := ArrayRuns s core m i →
      ∃ t, exec (.matrixCommandComplete core) s = .next t ∧ (t.core core).arr.run = none ∧
        (t.core core).arr.queue = a.queue ∧ t.strands = s.strands ∧ t.regs = s.regs ∧ P t
    let cell (t : State) (i j : Nat) : W32 := cellOf (t.core core).arr i j
    let was := a.freshLatch.latch
    let latch (t : State) : LatchImg := (t.core core).arr.freshLatch.latch
    let lty := tyOf was.lty.toNat
    let started (rest : List MCmd) (m : MCmd) : State :=
      s.updCore core (fun c => { c with arr := { c.arr with queue := rest, run := some m, done := false } })
    (∀ rest i, a.run = none → a.queue = m :: rest → ownerRuns s core = true → arrayMayStart s core = true →
      decodeTile m.word = .ok i →
      ((∀ g rot rag k ty sa sm, i ≠ .mma g rot rag k ty sa sm) → exec (.matrixCommandStart core) s = .next (started rest m)) ∧
      (∀ g rot rag kind ty sa sm, i = .mma g rot rag kind ty sa sm →
        (rot = true → latchFails a.freshLatch.loaded was.lty was.used was.scaleOk kind ty = none) →
        exec (.matrixCommandStart core) s = .next (started rest (if rag = none then m else
          { m with caps := m.caps.set 0 (Nat.land (cap 0) (ragMask s (cluOfCore core) (cap 2) (cap 1))) })))) ∧
    (∀ g, done (.mzero g) (fun t => t.mem = s.mem ∧ (t.core core).arr.steps = 0 ∧ ∀ i j, cell t i j = 0#32)) ∧
    (∀ g ty vs n, done (.mlb g ty (.vec vs n)) (fun t => t.mem = s.mem ∧ (t.core core).arr.acc = a.acc ∧
      (latch t).lty = BitVec.ofNat 4 (tyCode ty) ∧ (latch t).used = max was.used (4096 * ((n.toNat + 1 + 63) / 64)) ∧
      (∀ r, fget 0#512 (latch t).rows r = if r = n.toNat then BitVec.ofNat 512 (cap 0) else fget 0#512 was.rows r))) ∧
    (∀ g ty f sa sb n, f = .plain sa ∧ n = 4096 ∨ f = .x2 sa ∧ n = 8192 ∨ f = .x4 sa ∧ n = 16384 ∨ f = .mx sa sb ∧ n = 4096 →
      done (.mlb g ty f) (fun t => t.mem = s.mem ∧ (t.core core).arr.acc = a.acc ∧
        (latch t).lty = BitVec.ofNat 4 (tyCode ty) ∧ (latch t).used = n ∧ (latch t).scaleOk = decide (f = .mx sa sb) ∧
        (∀ r, r < n / 64 → fget 0#512 (latch t).rows r =
          BitVec.ofNat 512 ((if cap 0 = 1 then memNat s (cap 1) n else cap 2) / 2 ^ (512 * r))) ∧
        (f = .mx sa sb → ∀ b, b < classK (tyClass ty) / 32 →
          fget 0#512 (latch t).scales b = BitVec.ofNat 512 (cap 3 / 2 ^ (512 * b))))) ∧
    (∀ g rag kind ty sa sm, done (.mma g false rag kind ty sa sm) (fun t =>
      let w := tyBits ty
      let kk := classK w
      let x (n : Nat) : Nat := bitsN (cap 4) (8 * n + 7) (8 * n)
      let el (i v : Nat) : FV := decodeNum ty (bitsN (cap 3) (512 * i + w * v + w - 1) (512 * i + w * v))
      let b (k j : Nat) : FV := decodeNum lty (latchElem was lty k j)
      let prod (i j v : Nat) : FV :=
        match kind with
        | .dense => (mulFV (el i v) (b v j)).1
        | .sp64 _ => (mulFV (el i v) (b (128 * (v / 64) + x (i * kk + v) % 128) j)).1
        | .sp32 _ => (mulFV (el i v) (b (128 * (v / 32) + x (i * kk + v) % 128) j)).1
        | .mx _ => (mulFV (mxScale ty (x (i * (kk / 32) + v / 32)) (el i v)) (mxScale lty (latchScale was (v / 32) j) (b v j))).1
      t.mem = s.mem ∧ (t.core core).arr.steps = (a.freshAcc.steps + 1) % 2 ^ 32 ∧ (t.core core).arr.latch = a.latch ∧
      ∀ i j, i < 64 → j < 64 → cell t i j = if bitN (cap 0) i = true
        then BitVec.ofNat 32 (cellStep (cell s i j).toNat ((List.range kk).map (prod i j))) else cell s i j)) ∧
    (∀ g sa sn sb sr sm, done (.mout g sa sn sb sr sm) (fun t => t.mem = s.mem ∧ (t.core core).arr.latch = a.latch ∧
      ∀ i j, i < 64 → j < 64 → cell t i j = if bitN (cap 3) i = true then
        (List.range (cap 0)).foldl (fun old e =>
          moutCell (cap 2) ((bitsN (cap 4) (64 * e + 31) (64 * e) + 2 ^ 32 - cap 1 % 2 ^ 32) % 2 ^ 32) i (classK (tyClass lty))
            (decodeNum .fp32 (bitsN (cap 4) (64 * e + 63) (64 * e + 32))) (fun k => decodeNum lty (latchElem was lty k j)) old)
          (cell s i j)
        else cell s i j)) ∧
    (∀ g ty rm ns z sa sr sn, cap 0 + cap 1 ≤ 64 → done (.mdrain g (.mem ty rm ns false z sa sr sn)) (fun t =>
      (∀ k, k < cap 1 → memGet t (cap 2 + 8 * tyBits ty * k) (8 * tyBits ty) = toBytes (8 * tyBits ty) (packW (tyBits ty)
        ((List.range 64).map (fun j => (convert ty rm ns (decodeNum .fp32 (cell s (cap 0 + k) j).toNat)).1)))) ∧
      (∀ x, x < cap 2 ∨ cap 2 + 8 * tyBits ty * cap 1 ≤ x → readByte t.mem x = readByte s.mem x) ∧
      ∀ i j, i < 64 → j < 64 → cell t i j = if z = true ∧ cap 0 ≤ i ∧ i < cap 0 + cap 1 then 0#32 else cell s i j)) ∧
    (∀ g z vd sr, cap 0 < 64 → done (.mdrain g (.vec z vd sr)) (fun t => t.mem = s.mem ∧
      (∀ q l, q < 4 → l < 16 → lane (fget 0#512 (t.core core).v (cap 1 + vd.toNat + q)) l = (cell s (cap 0) (16 * q + l)).toNat) ∧
      (∀ r, r < cap 1 + vd.toNat ∨ cap 1 + vd.toNat + 4 ≤ r → fget 0#512 (t.core core).v r = fget 0#512 (s.core core).v r) ∧
      ∀ i j, i < 64 → j < 64 → cell t i j = if z = true ∧ i = cap 0 then 0#32 else cell s i j))

/-- Rings and pairs: the last core to finish its MRING establishes the ring for all; the last to finish its rotating step
commits the step of every core, and each takes the latch of the core before it, so long as no core has waited longer than
PAIRTO; a longer wait drops the gang's commands. A scoreboard entry whose operation has finished leaves the list and the strands
that wait for entries go on (R143, R144, R264 to R266).
The model's choice: what an earlier owner left of an array reads as nothing, notes/assumptions/94.md.
Readings of the model that it rests on: notes/assumptions/94.md. -/
def Obligations.RingsCommitTogetherAndScoreboardEntriesRetire : Prop :=
  ∀ (s : State) (core : Nat),
    (∀ k, gangOwner s core = some k →
      let cs := ringOf s core k
      let opc (c : Nat) (n : Nat) : Prop :=
        (s.core c).arr.done = true ∧ (∃ j, gangOwner s c = some j ∧ j.launch = k.launch) ∧
        ∃ m, (s.core c).arr.run = some m ∧ fld m.word 63 56 = n
      ((∀ c ∈ cs, opc c 0x85 ∧ s.cycle - (s.core c).arr.runSince ≤ pairTo s c) →
        ∃ t, exec (.ringStepCommit core) s = .next t ∧ t.mem = s.mem ∧ t.strands = s.strands ∧
          ∀ c ∈ cs, (t.core c).arr.run = none ∧ (t.core c).arr.done = false ∧
            (t.core c).arr.ring = (if cs.length = 16 then 2 else 1) ∧ (t.core c).arr.latch = (s.core c).arr.latch) ∧
      ((∀ c ∈ cs, opc c 0x82 ∧ s.cycle - (s.core c).arr.runSince ≤ pairTo s c ∧
          ∃ m g rag kind ty sa sm, (s.core c).arr.run = some m ∧ decodeTile m.word = .ok (.mma g true rag kind ty sa sm)) →
        ∃ t, exec (.ringStepCommit core) s = .next t ∧ t.mem = s.mem ∧ t.strands = s.strands ∧
          ∀ c ∈ cs, (t.core c).arr.run = none ∧ (t.core c).arr.latch = (s.core (ringPred cs c)).arr.freshLatch.latch ∧
            (t.core c).arr.loaded = (s.core (ringPred cs c)).arr.freshLatch.loaded ∧
            (t.core c).arr.steps = ((s.core c).arr.freshAcc.steps + 1) % 2 ^ 32 ∧
            ∀ m g rag kind ty sa sm, (s.core c).arr.run = some m → decodeTile m.word = .ok (.mma g true rag kind ty sa sm) →
              (t.core c).arr.acc =
                stepAcc (s.core c).arr.fresh kind ty (m.caps.getD 0 0) (m.caps.getD 3 0) (m.caps.getD 4 0)) ∧
      ((s.core core).arr.done = true → (∃ m, (s.core core).arr.run = some m ∧ m.rings = true) →
        pairTo s core < s.cycle - (s.core core).arr.runSince →
        (∀ c ∈ cs, underSquall s k.launch c = false ∧ stillHeld s (cluOfCore c) .array c = false) →
        exec (.ringStepCommit core) s = .next s ∧
        ∃ t, exec (.pairTimeout core) s = .next t ∧ (t.core core).arr.run = none ∧ (t.core core).arr.ring = 0 ∧
          ∀ c ∈ cs, (∃ n j, n < 8 ∧ (s.strand c n).task = some j ∧ j.launch = k.launch ∧ j.ring = true) →
            (t.core c).arr.queue = [])) ∧
    (∀ e ∈ (s.core core).sb,
      (∀ m ∈ (s.core core).arr.queue ++ (s.core core).arr.run.toList, e.id ∉ m.sbIds) →
      (∀ c ∈ s.clusters, ∀ m ∈ c.2.copies ++ c.2.timed ++ c.2.waiting, e.id ∉ m.sbIds) →
      (s.clu (cluOfCore core)).halted = false →
      ∃ t, exec (.scoreboardRetire core e.id) s = .next t ∧ t.mem = s.mem ∧
        (t.core core).sb = (s.core core).sb.filter (fun x => x.id != e.id) ∧
        ∀ n, n < 8 → t.strand core n = if (s.strand core n).status = .parked ∧ (s.strand core n).phase = .board
          then { s.strand core n with status := .ready } else s.strand core n)

/-! ### Copies and landing zones (09; 16 R360; 17 R387 to R389; 19 R424, R447) -/

/-- An untimed CPY of one row from scratchpad to scratchpad, types equal, with a place in flight: the strand goes on with the
command in its open batch, the source read at issue; at its finish the destination holds the row, nothing else of memory has
changed and the batch has lost one command. A timed command starts when its TIME has come (R190 to R200, R360).
Readings of the model that it rests on: notes/assumptions/19.md. -/
def Obligations.CopyMovesARow : Prop :=
  ∀ (s : State) (g : Guard) (rd rs : SReg) (vn : VNum) (dkey skey : Nat), s.quiet →
    let i : Instr := .cpy g (.ptr rd) (.ptr rs) vn
    let v := s.rV vn.toNat
    let sh := shapeOf v
    let n := rowBytes sh.sty sh.n0
    (Runs i g s → shapeBad v (some (s.rS rd)) = none → sh.n1 = 1 → sh.n2 = 1 → sh.sty = sh.dty → sh.timed = false →
      ScratchAt s (s.rS rd) 1 n dkey → ScratchAt s (s.rS rs) 1 n skey →
      dkey < 2 ^ 61 → skey < 2 ^ 61 → copyAlign sh true (s.rS rd) = none → copyAlign sh false (s.rS rs) = none →
      fld (s.rS rd) 17 0 + n ≤ 2 ^ 18 → fld (s.rS rs) 17 0 + n ≤ 2 ^ 18 →
      (s.clu s.cluId).waiting = [] → (s.clu s.cluId).timed = [] → (s.clu s.cluId).copies.length < 64 →
      (s.core s.coreId).sb.length + 2 ≤ 16 → copySoft s sh (.bank skey) = [] →
      ∃ t c, exec i s = .next t ∧ (t.clu s.cluId).copies = (s.clu s.cluId).copies ++ [c] ∧ c.dst = .bank dkey ∧ c.shape = v ∧
        c.data = some (memGet s skey n) ∧ c.batch = some s.me.nextb ∧ t.me.openb.left = s.me.openb.left + 1 ∧
        t.me.status = .ready ∧ t.me.pc = s.me.pc + 8#64 ∧ t.mem = s.mem ∧ t.me.s = s.me.s ∧
        (t.core s.coreId).sb.length = (s.core s.coreId).sb.length + 2) ∧
    (∀ (t : State) (clu : Nat) (c : CopyCmd) (bs : List Byte) (b : Nat), clu = cluOfCore c.core → (t.clu clu).copies = [c] →
      t.fabTx = [] → c.bad = none → c.shape = v → sh.n1 = 1 → sh.n2 = 1 → sh.sty = sh.dty → sh.mf = false → c.dst = .bank dkey →
      c.data = some bs → bs.length = n → c.batch = some b →
      let x := t.strand c.core c.slot
      x.openb.left ≠ 0 → x.openb.num = b →
      ∃ t', exec (.copyCommandFinish clu c.id) t = .next t' ∧ memGet t' dkey n = bs ∧
        (∀ a, a < dkey ∨ dkey + n ≤ a → readByte t'.mem a = readByte t.mem a) ∧ (t'.clu clu).copies = [] ∧
        t'.strand c.core c.slot = { x with openb := { x.openb with left := x.openb.left - 1 } }) ∧
    (∀ (t : State) (clu : Nat) (c : CopyCmd), clu = cluOfCore c.core → (t.clu clu).timed = [c] → (t.clu clu).waiting = [] →
      (t.clu clu).copies.length < 64 → (shapeOf c.shape).time ≤ ccnt t → c.elig ≤ ccnt t → saving t c.core = false →
      c.bad = none → c.dst = .bank dkey → c.src = .bank skey →
      ∃ t', exec (.timedCommandStart clu c.id) t = .next t' ∧ (t'.clu clu).timed = [] ∧
        (t'.clu clu).copies = (t.clu clu).copies ++ [c] ∧ t'.mem = t.mem ∧ t'.strands = t.strands)

/-- SEAL closes the open batch, returns its number and opens the next, and parks while 16 sealed batches are incomplete. WAITB
parks while more than n are incomplete; then it reports the worst status of the complete ones with the lowest batch that
has it, and forgets them (R199 to R201, R424, R447). -/
def Obligations.BatchesAreSealedAndWaitedFor : Prop :=
  ∀ (s : State) (g : Guard) (pd : PReg) (sd : SReg) (n : BitVec 4), s.guarded g → s.quiet →
    let x := s.me
    let left := x.batches.countP (fun b => b.left != 0)
    let done := x.batches.filter (fun b => b.left == 0)
    (16 ≤ left → exec (.seal g sd) s = .next (s.parkedOn (.seal g sd) 9 .cond)) ∧
    (left < 16 → ∃ t b, exec (.seal g sd) s = .next t ∧ t.me.batches = x.batches ++ [b] ∧ b.num = x.nextb ∧
      b.left = (if x.openb.num = x.nextb then x.openb.left else 0) ∧ t.me.openb.left = 0 ∧ t.me.nextb = (x.nextb + 1) % 2 ^ 32 ∧
      t.rS sd = (if sd = 0#6 then 0#64 else w64 x.nextb) ∧ t.me.status = .ready ∧ t.me.pc = x.pc + 8#64 ∧ t.mem = s.mem) ∧
    (n.toNat < left → exec (.waitb g pd sd n) s = .next (s.parkedOn (.waitb g pd sd n) 4 .cond)) ∧
    (left ≤ n.toNat → ∃ t w num, exec (.waitb g pd sd n) s = .next t ∧ t.me.batches = x.batches.filter (fun b => b.left != 0) ∧
      t.rS sd = (if sd = 0#6 then 0#64 else w64 (num * 2 ^ 32 + w)) ∧ t.rP pd = (if pd = 0#3 then true else decide (w = 0)) ∧
      (∀ b ∈ done, b.status.toNat ≤ w) ∧
      (done ≠ [] → (∃ b ∈ done, b.status.toNat = w ∧ b.num = num) ∧ ∀ b ∈ done, b.status.toNat = w → num ≤ b.num) ∧
      (done = [] → w = 0 ∧ num = 0) ∧ t.me.status = .ready ∧ t.me.pc = x.pc + 8#64 ∧ t.mem = s.mem)

/-- A landing zone that is enabled for a tenant. -/
def ZoneFor (s : State) (core z tenant : Nat) : Prop :=
  (lzCfg s core z).getLsbD 63 = true ∧ fld (lzCfg s core z) 47 44 ≤ 8 ∧ fld (lzCfg s core z) 53 48 = tenant

/-- The receiver's side: a reservation takes the lowest FREE slot; a write of a reserved slot's sender puts its bytes in the
slot and the last of them fills the arrival word with the total length; a wrong key is answered NOZONE; a slot that waits too
long breaks; a zone that is disabled has no slot left (R202 to R206).
Readings of the model that it rests on: notes/assumptions/21.md. -/
def Obligations.LandingZonesReceive : Prop :=
  ∀ (s : State) (q : FabReq) (rel : Bool) (key : W32) (len score n : Nat) (data : List Byte),
    let core := landCore q.addr
    let z := bitsN q.addr 37 36
    let lo := fld (regGet s (offLZ core z + 8)) 17 8 * 256 + n * 2 ^ (8 + fld (lzCfg s core z) 47 44) + bitsN q.addr 15 0
    let word := scrKey core (fld (regGet s (offLZ core z + 0x10)) 17 3 * 8 + 8 * n)
    let x := lzSlot s core z n
    let keyOk : Prop := fld (lzCfg s core z) 31 0 = key.toNat
    1 ≤ data.length → data.length ≤ 256 → fabLive s = true → coreExists core = true → ZoneFor s core z (fld (lzCfg s core z) 53 48) →
    (q.op = .reserve key len score → keyOk → (lzCfg s core z).getLsbD 57 = false → 0 < len →
      len ≤ 2 ^ (8 + fld (lzCfg s core z) 47 44) → n ≤ fld (lzCfg s core z) 37 32 → x.state = 0 →
      (∀ m, m < n → (lzSlot s core z m).state ≠ 0) →
      let y : LzSlot :=
        { state := 1, pend := len, total := len, sender := q.peer, score := score, since := s.cycle, cause := 0 }
      exec (.lzresRequest (.peer q)) s =
        .next ((setLzSlot s core z n y).send (.fabResp q.peer q.tag { code := 0, data := [0#8, BitVec.ofNat 8 n], time := ccnt s }))) ∧
    (q.op = .land rel key len score data → ¬ keyOk →
      exec (.landingWrite (.peer q)) s = .next (s.send (.fabResp q.peer q.tag { code := fsNOZONE, data := [], time := ccnt s }))) ∧
    (q.op = .land rel key len score data → keyOk → (lzCfg s core z).getLsbD 57 = false → n = bitsN q.addr 35 30 →
      n ≤ fld (lzCfg s core z) 37 32 → bitsN q.addr 15 0 + data.length ≤ 2 ^ (8 + fld (lzCfg s core z) 47 44) →
      x.state = 1 ∨ x.state = 2 → x.sender = q.peer → x.score = score → data.length ≤ x.pend → lo + data.length ≤ 2 ^ 18 →
      (data.length < x.pend → ∃ t, exec (.landingWrite (.peer q)) s = .next t ∧ memGet t (scrKey core lo) data.length = data ∧
        lzSlot t core z n = { x with state := 2, pend := x.pend - data.length, since := s.cycle } ∧
        (∀ a, a < scrKey core lo ∨ scrKey core lo + data.length ≤ a → readByte t.mem a = readByte s.mem a) ∧
        t.outbox = s.outbox ++ [.fabResp q.peer q.tag { code := 0, data := [], time := ccnt s }] ∧
        t.scopes = if rel = true then (unitRelease s).scopes else s.scopes) ∧
      (data.length = x.pend → fld (regGet s (offLZ core z + 0x10)) 17 3 * 8 + 8 * n + 8 ≤ 2 ^ 18 → waitsOf s (bankOf word) = [] →
        (scrKey core lo + data.length ≤ word ∨ word + 8 ≤ scrKey core lo) →
        ∃ t, exec (.landingWrite (.peer q)) s = .next t ∧ memGet t (scrKey core lo) data.length = data ∧
          (lzSlot t core z n).state = 3 ∧ fromBytes (memGet t word 8) = x.total % 2 ^ 64 ∧ feFull t word = true)) ∧
    (fld (regGet s (offLZ core z + 0x18)) 47 0 ≠ 0 → x.state = 1 ∨ x.state = 2 →
      fld (regGet s (offLZ core z + 0x18)) 47 0 ≤ s.cycle - x.since →
      exec (.landingSlotTimeout core z n) s = .next (setLzSlot s core z n { x with state := 5, cause := 1 })) ∧
    (z < 4 → s.waits = [] → ∃ t, exec (.zoneDisable core z) s = .next t ∧ (lzCfg t core z).getLsbD 63 = false ∧ t.mem = s.mem ∧
      ∀ m, m < 64 → lzSlot t core z m = LzSlot.init)

/-- A peer that is reached through a switch: FABID is written, the peer is another device and not down, and the switch is the
one that R211 chooses for the offset, whose lane's station is up (R302); the next transaction's number is not in use. -/
def PeerUp (s : State) (peer o sw : Nat) : Prop :=
  fabLive s = true ∧ peer ≠ fabId s ∧ peerDown s peer = false ∧ pickSwitch s peer o = some sw ∧
  stationUp s (laneOf s s.coreId sw) = true ∧ ∀ t ∈ s.fabTx, t.id ≠ s.nextId

/-- The state after the issuing strand's transaction has been sent (R211, R214). -/
def sentTx (s : State) (peer o sw : Nat) (op : FabOp) (kind : FabKind) : State :=
  let t : FabTx :=
    { id := s.nextId, peer := peer, op := op, addr := o, owner := (s.coreId, s.slotId), kind := kind, tries := 0,
      issued := s.cycle, sw := sw, tenant := s.tenantId, resp := none, sent := true }
  ({ s with nextId := s.nextId + 1, fabTx := s.fabTx ++ [t] } : State).send (.fabReq sw (laneOf s s.coreId sw) peer
    { peer := fabId s, tag := s.nextId, tenant := s.tenantId, cls := tset s setQOS s.tenantId % 8, addr := o, op := op })

/-- The zone instructions on the strand's own core: LZWAIT takes the lowest arrived or broken slot of its mask and waits for
one otherwise, LZWAIT.all waits while a slot is still to be filled and counts the arrived ones, LZREL and LZCLR free a slot of the
right state; on a zone that is disabled or of another tenant they fault; LZRES sends its reservation request, parks, and
returns the pointer of the slot that the reply names, or the reason (R202, R206, R207, R387 to R389).
LZWAIT, LZWAIT.all, LZREL and LZCLR complete at issue where their slots answer, LZRES at its reply.
Readings of the model that it rests on: notes/assumptions/41.md. -/
def Obligations.LandingInstructions : Prop :=
  ∀ (s : State) (g : Guard) (pd : PReg) (sd sa sb : SReg) (zone : BitVec 2) (n sw : Nat), s.guarded g → s.quiet →
    let z := zone.toNat
    let core := s.coreId
    let m := s.rS sa
    let x := lzSlot s core z n
    let ready (k : Nat) : Prop := m.getLsbD k = true ∧ ((lzSlot s core z k).state = 3 ∨ (lzSlot s core z k).state = 5)
    let count (k : Nat) : Nat := (List.range 64).countP (fun j => (lzSlot s core z j).state == k)
    (ZoneFor s core z s.tenantId →
      (m = 0#64 → exec (.lzwait g pd sd zone sa) s = .next ((s.wS sd 0x300#64).wP pd false).gone) ∧
      (n ≤ fld (lzCfg s core z) 37 32 → ready n → (∀ k, k < n → ¬ ready k) → exec (.lzwait g pd sd zone sa) s = .next
        (if x.state = 3 then ((setLzSlot s core z n { x with state := 4 }).wS sd (w64 (x.total % 2 ^ 32 * 2 ^ 32 + n))).wP pd true
          else (s.wS sd (w64 (x.cause * 2 ^ 8 + n))).wP pd false).gone) ∧
      (m ≠ 0#64 → (∀ k, k ≤ fld (lzCfg s core z) 37 32 → ¬ ready k) →
        exec (.lzwait g pd sd zone sa) s = .next (if s.me.bound = 0 then freezeAux s core s.slotId cFE_TIMEOUT m (BitVec.ofNat 8 z)
          else s.parkedOn (.lzwait g pd sd zone sa) 3 .cond)) ∧
      (lzZpend s core z = 0 → exec (.lzwaitAll g pd sd zone) s =
        .next ((s.wS sd (w64 (count 3))).wP pd (decide (count 5 = 0))).gone) ∧
      (lzZpend s core z ≠ 0 → exec (.lzwaitAll g pd sd zone) s =
        .next (if s.me.bound = 0 then freezeAux s core s.slotId cFE_TIMEOUT (BitVec.allOnes 64) (BitVec.ofNat 8 z)
          else s.parkedOn (.lzwaitAll g pd sd zone) 3 .cond)) ∧
      (n = m.toNat → n ≤ fld (lzCfg s core z) 37 32 → s.waits = [] →
        (x.state = 3 ∨ x.state = 4 → ∃ t, exec (.lzrel g pd zone sa) s = .next t ∧ lzSlot t core z n = LzSlot.init ∧
          t.rP pd = true ∧ t.mem = s.mem ∧ t.me.pc = s.me.pc + 8#64) ∧
        (x.state ≠ 3 → x.state ≠ 4 → exec (.lzrel g pd zone sa) s = .next (s.wP pd false).gone) ∧
        (x.state = 5 → ∃ t, exec (.lzclr g pd zone sa) s = .next t ∧ lzSlot t core z n = LzSlot.init ∧
          t.rP pd = true ∧ t.mem = s.mem ∧ t.me.pc = s.me.pc + 8#64) ∧
        (x.state ≠ 5 → exec (.lzclr g pd zone sa) s = .next (s.wP pd false).gone))) ∧
    (∀ i : Instr, i = .lzwait g pd sd zone sa ∨ i = .lzwaitAll g pd sd zone ∨ i = .lzrel g pd zone sa ∨ i = .lzclr g pd zone sa →
      ((lzCfg s core z).getLsbD 63 = false → exec i s = .next (freeze s core s.slotId cBOUNDS (w64 z))) ∧
      (ZoneFor s core z (fld (lzCfg s core z) 53 48) → fld (lzCfg s core z) 53 48 ≠ s.tenantId →
        exec i s = .next (freeze s core s.slotId cPRIV (w64 z)))) ∧
    (ptrTag m = 7 → fld m 29 16 = 0 → coreExists (fld m 49 38) = true → fld m 35 30 = 0 → fld m 15 0 = 0 →
      PeerUp s (fld m 59 50) m.toNat sw → myTxs s core s.slotId = [] →
      exec (.lzres g pd sd sa sb) s = .next ((sentTx s (fld m 59 50) m.toNat sw
        (.reserve (landKey s s.tenantId) (s.rS sb).toNat core) .strand).parkedOn (.lzres g pd sd sa sb) 0 .access)) ∧
    (∀ (t : FabTx) (r : Reply), s.cur = .strand core s.slotId → Waits s core s.slotId .access (.lzres g pd sd sa sb) →
      s.fabTx = [t] → t.kind = .strand → t.owner = (core, s.slotId) → t.peer ≠ fabId s → t.resp = none → t.sent = true →
      r.tag = none ∨ r.tag = some t.id →
      (r.code = 0 → r.data.getD 0 0 = 0#8 → exec (.accessReply core s.slotId r) s =
        .next ((({ s with fabTx := [] } : State).wS sd (putFld m 35 30 (r.data.getD 1 0).toNat)).wP pd true).gone) ∧
      (r.code = 0 → r.data.getD 0 0 ≠ 0#8 → exec (.accessReply core s.slotId r) s =
        .next ((({ s with fabTx := [] } : State).wS sd ((r.data.getD 0 0).setWidth 64)).wP pd false).gone) ∧
      (r.code ≠ 0 → exec (.accessReply core s.slotId r) s =
        .next ((({ s with fabTx := [] } : State).wS sd 4#64).wP pd false).gone))

/-! ### The fabric (10; 17 R365, R368, R369; 18 R399, R411) -/

/-- FLD sends one read and takes an entry of its queue, QPOP hands over the oldest entry once it has arrived, FST posts a write
to a peer's window or to a landing zone, a .rel form once its release is complete, FAMO and MLDR send their requests and park;
FAMO completes at the reply with the old value, MLDR at the last of its members' replies with the sums of their elements in index
order; a request that has failed clears the predicate and is recorded in FSTAT (R215 to R218, R222, R365, R368, R369, R399,
R411).
FLD, QPOP and FST complete at issue, FAMO and MLDR at their last reply. -/
def Obligations.FabricInstructions : Prop :=
  ∀ (s : State) (g : Guard) (q : BitVec 2) (rl : Option Scope) (bf16 : Bool) (pd : PReg) (vd : VNum) (sd sa sb sc : SReg) (sw : Nat),
    s.quiet →
    let p := s.rS sa
    let peer := fld p 59 50
    let o := fld p 49 0
    let core := s.coreId
    let n := q.toNat
    let s' : State := { s with fabTx := [] }
    let mine (t : FabTx) (r : Reply) : Prop := t.kind = .strand ∧ t.owner = (core, s.slotId) ∧ t.peer ≠ fabId s ∧ t.resp = none ∧
      t.sent = true ∧ (r.tag = none ∨ r.tag = some t.id)
    let posts (i : Instr) (o : Nat) (op : FabOp) : Prop := PeerUp s peer o sw → rl = none ∨ s.me.prel = true →
      ∀ t', t' = sentTx s peer o sw op .post → exec i s = .next ({ t' with posted := t'.posted ++
        [{ id := s.nextId, core := core, slot := s.slotId, clu := s.cluId, kind := .fab, key := s.nextId, op := .st, data := [],
           done := false, vis := 0 }] } : State).gone
    let bytes := toBytes 8 (s.rS sb).toNat
    let wide := toBytes 64 (s.rV vd.toNat).toNat
    (s.guarded g → ptrTag p = 5 → p.toNat % 64 = 0 → PeerUp s peer o sw → (raqOf s core n).length < 32 → exec (.fld g q sa) s =
        .next (setRaq (sentTx s peer o sw (.read 64) (.fld n)) core n (raqOf s core n ++
          [{ tx := s.nextId, arrived := false, code := 0#8, peer := peer, tenant := s.tenantId, data := 0#512 }])).gone) ∧
    (∀ e rest, Runs (.qpop g pd vd q) g s → qpopBehind s q = false → raqOf s core n = e :: rest → e.tenant = s.tenantId → e.arrived = true →
      exec (.qpop g pd vd q) s = .next (if e.code = 0#8 then ((setRaq s core n rest).wV vd.toNat e.data).wP pd true
        else ((setRaq s core n rest).setMe (s.me.setFstat e.code.toNat e.peer 0)).wP pd false).gone) ∧
    (ptrTag p = 5 → (s.guarded g → p.toNat % 8 = 0 → posts (.fst g rl sa (.scal sb)) o (.write rl.isSome (bytes.map some))) ∧
      (Runs (.fst g rl sa (.vec vd)) g s → p.toNat % 64 = 0 → posts (.fst g rl sa (.vec vd)) o (.write rl.isSome (wide.map some)))) ∧
    (ptrTag p = 7 → fld p 29 16 = 0 → coreExists (fld p 49 38) = true →
      (s.guarded g → p.toNat % 8 = 0 →
        posts (.fst g rl sa (.scal sb)) p.toNat (.land rl.isSome (landKey s s.tenantId) 8 core bytes)) ∧
      (Runs (.fst g rl sa (.vec vd)) g s → p.toNat % 64 = 0 →
        posts (.fst g rl sa (.vec vd)) p.toNat (.land rl.isSome (landKey s s.tenantId) 64 core wide))) ∧
    (s.guarded g → ptrTag p = 5 → p.toNat % 8 = 0 → PeerUp s peer o sw → myTxs s core s.slotId = [] →
      dataMatch s true true p.toNat 8 = none →
      (∀ op, exec (.famo g (.int op) .plain pd sd sa sb) s = .next
        ((sentTx s peer o sw (.atom false (some op) (s.rS sb) 0#64) .strand).parkedOn (.famo g (.int op) .plain pd sd sa sb) 0 .access)) ∧
      exec (.famo g (.cas sc) .plain pd sd sa sb) s = .next
        ((sentTx s peer o sw (.atom false none (s.rS sb) (s.rS sc)) .strand).parkedOn (.famo g (.cas sc) .plain pd sd sa sb) 0 .access)) ∧
    (∀ (t : FabTx) (r : Reply) (op : FamoOp), s.cur = .strand core s.slotId →
      Waits s core s.slotId .access (.famo g op .plain pd sd sa sb) → s.fabTx = [t] → mine t r →
      exec (.accessReply core s.slotId r) s = .next (if r.code = 0
        then ((noteVisSys s' core s.slotId (fabVis s t r)).wS sd (w64 (fromBytes (r.data.take 8)))).wP pd true
        else (s'.setMe (s.me.setFstat r.code t.peer 0)).wP pd false).gone) ∧
    (∀ m, Runs (.mldr g bf16 pd vd sa) g s → ptrTag p = 6 → groupOk s s.tenantId (fld p 59 52) = true → fld p 51 50 = 0 →
      p.toNat % 64 = 0 → groupMembers s (fld p 59 52) = [m] → PeerUp s m o sw → myTxs s core s.slotId = [] →
      dataMatch s true false p.toNat 64 = none →
      exec (.mldr g bf16 pd vd sa) s =
        .next ((sentTx s m o sw (.reduceRead 64) .strand).parkedOn (.mldr g bf16 pd vd sa) 0 .access)) ∧
    (∀ (t : FabTx) (a b : List FabTx) (r : Reply), s.cur = .strand core s.slotId →
      Waits s core s.slotId .access (.mldr g bf16 pd vd sa) → s.fabTx = a ++ t :: b → mine t r → r.code = 0 →
      (∀ u ∈ a ++ b, u.kind = .strand ∧ u.owner = (core, s.slotId) ∧ u.id ≠ t.id ∧ ∃ w, u.resp = some w ∧ w.code = 0) →
      let xs := (a.map (fun u => (u.resp.map (·.data)).getD []) ++ r.data :: b.map (fun u => (u.resp.map (·.data)).getD [])).map
        (fun d => fromBytes (d.take 64))
      (bf16 = false → ∃ v, exec (.accessReply core s.slotId r) s = .next ((s'.wV vd.toNat v).wP pd true).gone ∧
        ∀ l, l < 16 → lane v l = mldrLane (xs.map (fun x => bitsN x (32 * l + 31) (32 * l)))) ∧
      (bf16 = true → ∃ v w, exec (.accessReply core s.slotId r) s = .next ((s'.wVs vd.toNat [v, w]).wP pd true).gone ∧
        ∀ l, l < 32 → lane (if l < 16 then v else w) (l % 16) = mldrLane (xs.map (fun x => bitsN x (16 * l + 15) (16 * l) * 2 ^ 16)))) ∧
    (∀ (t : FabTx) (r : Reply), s.cur = .strand core s.slotId → Waits s core s.slotId .access (.mldr g bf16 pd vd sa) →
      s.fabTx = [t] → mine t r → r.code ≠ 0 → exec (.accessReply core s.slotId r) s =
        .next ((s'.setMe (s.me.setFstat fsMEMBER_ABSENT t.peer 0)).wP pd false).gone) ∧
    (∀ x y : Nat, mldrLane [x, y] = (fAdd .rne (mldrLane [x]) y).1)

/-- The interface: a request that no descriptor of the window serves is REFUSED; a read of local memory answers its bytes and one
of a page those of its home, a write puts its bytes where the descriptor says, an atomic answers the old value and leaves the new
one, and a .rel form is then a release of the device;
a request without a response in time goes to the next switch, and after the last retry its peer is declared down; a switch's
report, a fence, an identity and a time message do what chapter 10 says (R211 to R214, R225, R231).
Readings of the model that it rests on: notes/assumptions/22.md, 29.md. -/
def Obligations.FabricServesRetriesAndEscalates : Prop :=
  ∀ (s : State) (q : FabReq) (n key j sw : Nat) (v : Word) (t : FabTx) (off : Int),
    let cfg := regGet s offFABCFG
    let sends (t : State) (code : Nat) (data : List Byte) : State :=
      t.send (.fabResp q.peer q.tag { code := code, data := data, time := ccnt s })
    (fabLive s = true → s.soft = [] →
      (fabLegal q.op = true → (∀ r k l c d, q.op ≠ .land r k l c d) → (∀ k l c, q.op ≠ .reserve k l c) →
        fabPlace s q.tenant q.addr (fabSize q.op) (fabPerm q.op) = none →
        exec (.fabricRequestServed (.peer q)) s = .next (sends s fsREFUSED [])) ∧
      (q.op = .read n → n = 64 ∨ n = 256 →
        (fabPlace s q.tenant q.addr n 1 = some (.bank key true) →
          exec (.fabricRequestServed (.peer q)) s = .next (sends s 0 (memGet s key n))) ∧
        (∀ attr va, fabPlace s q.tenant q.addr n 1 = some (.page key attr va) →
          exec (.fabricRequestServed (.peer q)) s = .next (sends s 0 (cohRead s key n)))) ∧
      (∀ rel d, q.op = .write rel d → 1 ≤ d.length → d.length ≤ 256 →
        fabPlace s q.tenant q.addr d.length 2 = some (.bank key true) →
        ∃ t, exec (.fabricRequestServed (.peer q)) s = .next (sends t 0 []) ∧
          (∀ i, i < d.length → readByte t.mem (key + i) = ((d[i]?).join).getD (readByte s.mem (key + i))) ∧
          (∀ a, a < key ∨ key + d.length ≤ a → readByte t.mem a = readByte s.mem a) ∧
          t.scopes = (if rel = true then (unitRelease s).scopes else s.scopes) ∧ t.strands = s.strands ∧ t.outbox = s.outbox) ∧
      (∀ rel o x y, q.op = .atom rel o x y → fabPlace s q.tenant q.addr 8 3 = some (.bank key true) →
        let old := w64 (fromBytes (memGet s key 8))
        let new := match o with
          | some op => atomicNew op old x
          | none => if old = x then y else old
        ∃ t, exec (.fabricRequestServed (.peer q)) s = .next (sends t 0 (memGet s key 8)) ∧ memGet t key 8 = toBytes 8 new.toNat ∧
          (∀ a, a < key ∨ key + 8 ≤ a → readByte t.mem a = readByte s.mem a) ∧
          t.scopes = (if rel = true then (unitRelease s).scopes else s.scopes) ∧ t.strands = s.strands ∧ t.outbox = s.outbox)) ∧
    (s.fabTx = [t] → t.resp = none → fld cfg 31 4 * 4 ≤ s.cycle - t.issued →
      (t.tries < min 15 (fld cfg 39 32) → fabLive s = true → t.peer ≠ fabId s → switchFrom s ((t.sw + 1) % switches s) = some sw →
        stationUp s (laneOf s t.owner.1 sw) = true →
        let r : FabReq :=
          { peer := fabId s, tag := t.id, tenant := t.tenant, cls := tset s setQOS t.tenant % 8, addr := t.addr, op := t.op }
        ∃ t', exec (.fabricTimeout t.id) s = .next t' ∧ t'.fabTx = [{ t with tries := t.tries + 1, issued := s.cycle, sw := sw, sent := true }] ∧
          t'.outbox = s.outbox ++ [.fabReq sw (laneOf s t.owner.1 sw) t.peer r] ∧ t'.mem = s.mem) ∧
      (min 15 (fld cfg 39 32) ≤ t.tries → t.kind = .strand → t.peer ≠ fabId s →
        ∃ t', exec (.fabricTimeout t.id) s = .next t' ∧ peerDown t' t.peer = true ∧
          t'.fabTx = [{ t with resp := some { code := fsLINK_DOWN, data := [] } }] ∧ t'.outbox = s.outbox ++ [.irq irqPeer])) ∧
    exec (.switchLinkDownReport j) s = .next (s.send (.irq (irqSwitch + j))) ∧
    (j < 16 → s.fabTx = [] → ∃ t', exec (.peerfenceWrite j v) s = .next t' ∧ t'.mem = s.mem ∧
      ∀ i, i < 64 → peerDown t' (64 * j + i) = (peerDown s (64 * j + i) || v.getLsbD i)) ∧
    (∃ t', exec (.fabidWrite v) s = .next t' ∧ fabLive t' = true ∧ fabId t' = fld v 9 0 ∧ t'.mem = s.mem ∧ t'.strands = s.strands) ∧
    ((regGet s offTSYNC).getLsbD 0 = false → ∃ t', exec (.timeMessage off) s = .next t' ∧ t'.slew = -off ∧
      t'.timeRun = (if off.natAbs ≤ 24 then s.timeRun + 1 else 0) ∧ t'.mem = s.mem ∧
      (regGet t' offTSYNC).getLsbD 32 = (if 32 < off.natAbs then false
        else (regGet s offTSYNC).getLsbD 32 || decide (16 ≤ t'.timeRun)) ∧
      fld (regGet t' offTSYNC) 31 16 = (off % 2 ^ 16).toNat)

/-! ### Releases and acquires (08 R173 to R180; 16 R346, R366; 18 R414; 19 R434) -/

/-- A release of the issuing strand may form its timestamp: none has begun, its earlier writes are acknowledged, and its
cluster holds no dirty CP line that the scope flushes (R176, R180). -/
def ReleaseReady (s : State) (sc : Scope) : Prop :=
  s.me.prel = false ∧ s.me.ptime = 0 ∧ releaseReady s s.coreId s.slotId sc = true ∧
  (sc = .dev ∨ sc = .sys → ∀ e ∈ (s.clu s.cluId).lines, e.2.attr = .cp → e.2.dirty = 0)

/-- Until when a release of the issuing strand parks: its timestamp, at .sys not less than 128 cycles after the last
acknowledgement (R176, R414). -/
def holdUntil (s : State) (sc : Scope) : Nat :=
  releaseHold s s.coreId s.slotId sc (releaseTime s s.coreId s.slotId sc 0)

/-- It can be completed now: its timestamp has come (R176). -/
def ReleaseDue (s : State) (sc : Scope) : Prop := ReleaseReady s sc ∧ holdUntil s sc ≤ ccnt s

/-- What a completed release leaves of the shared state: the timestamp in the instances that the scope covers, and their
counts risen (R176). -/
def releasedState (s : State) (sc : Scope) : State :=
  publish s (releaseTime s s.coreId s.slotId sc 0) (scopeInsts sc s.dieId)

/-- A release publishes its timestamp and raises the count of every instance of its scope; it parks while an earlier write is
unacknowledged or its timestamp has not come, at .sys also until 128 cycles after the last acknowledgement, and goes on then. An acquire awaits the strand's FLDs and reads the counts
into the cluster's view, and SC lines go when a field is 8 ahead of its base. FENCE does both, TRIG releases at .dev and counts its
task in its launch once (R176, R177, R346, R366, R414, R434).
REL, TRIG and, within a cluster, FENCE and ACQ complete at issue; beyond it FENCE and ACQ complete at their reply.
Readings of the model that it rests on: notes/assumptions/35.md, 89.md. -/
def Obligations.ReleasesPublishAndAcquiresRead : Prop :=
  ∀ (s : State) (g : Guard) (sc : Scope) (r : Reply) (i : Instr), s.guarded g → s.quiet → coreExists s.coreId = true →
    let core := s.coreId
    let inner : Prop := sc = .cor ∨ sc = .clu
    let t := releasedState s sc
    let c := s.clu s.cluId
    let c' := (acquireAt s s.cluId sc).clu s.cluId
    let far : Prop := viewFar c'.vd c.bd = true ∨ viewFar c'.vv c.bv = true ∨ viewFar c'.vs c.bs = true
    (ReleaseDue s sc →
      exec (.rel g sc) s = .next t.gone ∧
      (inner → exec (.fence g sc) s = .next t.gone) ∧
      (¬ inner → exec (.fence g sc) s = .next ((t.setMe { s.me with prel := true }).parkedOn (.fence g sc) 0 .acquire)) ∧
      ∀ n, t.scope n = if n ∈ scopeInsts sc s.dieId
        then { ts := max (s.scope n).ts (releaseTime s core s.slotId sc 0), gen := ((s.scope n).gen + 1) % 2 ^ 32 } else s.scope n) ∧
    (s.me.prel = false → s.me.ptime = 0 → releaseReady s core s.slotId sc = false →
      exec (.rel g sc) s = .next (s.parkedOn (.rel g sc) 0 .release) ∧
      exec (.fence g sc) s = .next (s.parkedOn (.fence g sc) 0 .release)) ∧
    (ReleaseReady s sc → ccnt s < holdUntil s sc → exec (.rel g sc) s =
      .next ((s.setMe { s.me with ptime := releaseTime s core s.slotId sc 0 + 1 }).parkedOn (.rel g sc) 0 .release)) ∧
    (s.cur = .strand core s.slotId → Waits s core s.slotId .release i → relScope i = some sc → ReleaseDue s sc →
      exec (.accessReply core s.slotId r) s = .next (t.setMe { s.me with prel := true, status := .ready })) ∧
    (inner → fldsOut s core s.slotId = false → exec (.acq g sc) s = .next s.gone) ∧
    (¬ inner ∨ fldsOut s core s.slotId = true → exec (.acq g sc) s = .next (s.parkedOn (.acq g sc) 0 .acquire)) ∧
    (s.cur = .strand core s.slotId → Waits s core s.slotId .acquire i → acqScope i = some sc →
      isAcq i = false ∨ fldsOut s core s.slotId = false →
      exec (.accessReply core s.slotId r) s = .next (acquireAt s s.cluId sc).gone) ∧
    c'.vd = (if inner then c.vd else viewMax c.vd (s.scope s.dieId).gen) ∧
    c'.vv = (if sc = .dev ∨ sc = .sys then viewMax c.vv (s.scope 4).gen else c.vv) ∧
    c'.vs = (if sc = .sys then viewMax c.vs (s.scope 5).gen else c.vs) ∧
    (far → ∀ e ∈ c'.lines, e.2.attr ≠ .sc) ∧
    (¬ far → sc ≠ .dev → sc ≠ .sys → c'.lines = c.lines) ∧
    (ReleaseDue s .dev → exec (.trig g) s = .next (countTrig (releasedState s .dev)).gone) ∧
    (∀ k l, s.me.task = some k → k.trig = false → s.launch k.launch = some l →
      ∃ l', (countTrig s).launch k.launch = some l' ∧ l'.trigd = l.trigd + 1 ∧ l'.outcome = l.outcome ∧
        (countTrig s).me.task = some { k with trig := true }) ∧
    (∀ k, s.me.task = some k → k.trig = true → countTrig s = s)

/-! ### Requests (03 R52 to R54, R76, R96; 04 R82 to R98; 16 R344; 17 R375, R379; 18 R418 to R420; 19 R422, R431) -/

/-- Bytes lie in populated memory whose lines nobody holds. -/
def AtHome (s : State) (pa n : Nat) : Prop := ∀ o, o < n → physOk (pa + o) = true ∧ tracked s (lineOf (pa + o)) = false

/-- Two ranges of bytes share none. -/
def Apart (a n b m : Nat) : Prop := a + n ≤ b ∨ b + m ≤ a

/-- A record lies in populated memory whose lines no cluster holds. -/
def RecordQuiet (s : State) (r : Nat) : Prop := recordAt s r % 256 = 0 ∧ AtHome s (recordAt s r) 256

/-- The fields of a request record do not overlap: a field that is written reads as the value modulo its width, every other
field and every byte outside the record as before (R52, R53). -/
def Obligations.RecordFieldsAreSeparate : Prop :=
  ∀ (s : State) (r f h v : Nat), f ≤ 43 → h ≤ 43 → RecordQuiet s r →
    rqGet (rqPut s r f v) r f = v % 2 ^ (rqPlace f).2.2 ∧
    (h ≠ f → rqGet (rqPut s r f v) r h = rqGet s r h) ∧
    ∀ a, a < recordAt s r ∨ recordAt s r + 256 ≤ a → readByte (rqPut s r f v).mem a = readByte s.mem a

/-- The issuing strand may act on a batch slot: a request of its tenant holds it (R419). -/
def SlotHeld (s : State) (slot r : Nat) : Prop := slotReq s slot = some r ∧ rqGet s r rqTENANT = s.tenantId

/-- The issuing strand waits for the reply of an instruction. -/
def Replied (s : State) (i : Instr) : Prop := s.cur = .strand s.coreId s.slotId ∧ Waits s s.coreId s.slotId .access i

/-- RQLD reads a field of the slot's request, RQST writes one of the fields that a program may write, RQFLT raises a fault on
the request; each parks and acts at the reply, and stops where the slot is empty, another tenant's, or the field is not there
(R54, R76, R418 to R420). -/
def RequestFieldsAreReadAndWritten : Prop :=
  ∀ (s : State) (g : Guard) (sd sa sb : SReg) (f : BitVec 6) (r : Nat) (rp : Reply), s.guarded g → s.quiet →
    let slot := (s.rS sa).toNat
    let n := f.toNat
    let v := (s.rS sb).toNat
    let frz (c : BitVec 8) (w : Word) : Outc := .next (freeze s s.coreId s.slotId c w)
    (slotReq s slot = none → exec (.rqld g sd sa f) s = frz cRQ_STATE (s.rS sa) ∧ exec (.rqst g sa sb f) s = frz cRQ_STATE (s.rS sa) ∧
      exec (.rqflt g sa sb) s = frz cRQ_STATE (s.rS sa)) ∧
    (slotReq s slot = some r → rqGet s r rqTENANT ≠ s.tenantId → exec (.rqld g sd sa f) s = frz cPRIV (s.rS sa) ∧
      exec (.rqst g sa sb f) s = frz cPRIV (s.rS sa) ∧ exec (.rqflt g sa sb) s = frz cPRIV (s.rS sa)) ∧
    (SlotHeld s slot r →
      (n ≤ 43 → exec (.rqld g sd sa f) s = .next (s.parkedOn (.rqld g sd sa f) 0 .access)) ∧
      (43 < n → exec (.rqld g sd sa f) s = frz cBOUNDS (w64 n) ∧ exec (.rqst g sa sb f) s = frz cBOUNDS (w64 n)) ∧
      (n ≤ 43 → rqstField n = false → exec (.rqst g sa sb f) s = frz cPRIV (w64 n)) ∧
      (rqstField n = true → rqstFits n v = false → exec (.rqst g sa sb f) s = frz cBOUNDS (s.rS sb)) ∧
      (rqstField n = true → rqstFits n v = true → exec (.rqst g sa sb f) s = .next (s.parkedOn (.rqst g sa sb f) 0 .access)) ∧
      exec (.rqflt g sa sb) s = .next (s.parkedOn (.rqflt g sa sb) 0 .access) ∧
      (n ≤ 43 → Replied s (.rqld g sd sa f) → fget? s.soft (rqWord s r n) = none →
        exec (.accessReply s.coreId s.slotId rp) s = .next (s.wS sd (w64 (rqGet s r n))).gone) ∧
      (rqstField n = true → rqstFits n v = true → Replied s (.rqst g sa sb f) → fget? s.soft (rqWord s r n) = none → exec (.accessReply s.coreId s.slotId rp) s =
        .next (rqPut s r n (if n = 1 then putBits (putBits (rqGet s r n) 1 1 (bitsN v 1 1)) 4 3 (bitsN v 4 3)
          else if n = 24 then putBits (rqGet s r n) 4 0 v else v)).gone) ∧
      (Replied s (.rqflt g sa sb) → (∀ h ∈ [rqFLAGS, rqFCODE], fget? s.soft (rqWord s r h) = none) → ∃ t : State, exec (.accessReply s.coreId s.slotId rp) s = .next t.gone ∧ slot ∈ t.front.faulted ∧
        t.strands = s.strands ∧ (RecordQuiet s r → rqGet t r rqFCODE = (if rqGet s r rqFCODE = 0 then fcRQ_PROG else rqGet s r rqFCODE) ∧
          rqGet t r rqFINFO = (if rqGet s r rqFCODE = 0 then v else rqGet s r rqFINFO) ∧
          rqFlag t r flCommit = false)))

/-- STEPDONE of the step program releases at .dev and parks until the Front has received it; the Front marks the core if the
number is that of the step being ended (R50, R431). -/
def StepdoneIsReleasedAndReceived : Prop :=
  ∀ (s : State) (g : Guard) (sa : SReg) (k : Task), s.guarded g → s.me.task = some k →
    (k.resident = false → exec (.stepdone g sa) s = .next (freeze s s.coreId s.slotId cPRIV (s.rS sa))) ∧
    (k.resident = true → ReleaseDue s .dev → exec (.stepdone g sa) s =
      .next (((releasedState s .dev).setMe { s.me with prel := true }).parkedOn (.stepdone g sa) 0 .sent)) ∧
    ∀ (core n : Nat), n < 8 → Waits s core n .sent (.stepdone g sa) → (∀ m, m < n → (s.strand core m).phase ≠ .sent) →
      (s.strand core n).stepping = false → (s.strand core n).haltReq = false →
      let x := s.strand core n
      ∃ t, exec (.stepdoneReceived core) s = .next t ∧ t.strand core n = { x.clearPark with status := .ready, pc := x.pc + 8#64 } ∧
        t.mem = s.mem ∧ (core ∈ t.front.doneCores ↔
          core ∈ s.front.doneCores ∨ (s.front.ending = true ∧ x.rS sa = w64 s.front.step))

/-- RQLD, RQST and RQFLT act on the request of a slot, and STEPDONE ends a core's part of a step.
RQLD, RQST and RQFLT complete at their reply, STEPDONE when the Front has received it.
Readings of the model that it rests on: notes/assumptions/33.md. -/
def Obligations.RequestInstructionsActOnTheirSlot : Prop := RequestFieldsAreReadAndWritten ∧ StepdoneIsReleasedAndReceived

/-- SAMPLE parks with its candidate list in near memory and answers at its reply: BADLIST for a list that is out of order or
holds a value that is not finite, EMPTY for one without a record, else the token of R85 (R85, R422, R423).
SAMPLE completes at its reply with every list.
Readings of the model that it rests on: notes/assumptions/17.md. -/
def Obligations.SampleAnswersAToken : Prop :=
  ∀ (s : State) (g : Guard) (pd : PReg) (sd sa sb sc : SReg) (r key : Nat) (rp : Reply), s.guarded g → s.quiet →
    let i : Instr := .sample g pd sd sa sb sc
    let p := s.rS sb
    let recs := candRecords 64 (memGet s key 512)
    let ps := listPieces (.bank key false)
    let bad := recs.any (fun x => !fFinite x.1) || !candSorted recs
    let rq (f : Nat) := rqGet s r f
    let ans (st tok : Nat) := (s.wS sd (w64 (st * 2 ^ 32 + tok % 2 ^ 32))).wP pd (st == 0)
    SlotHeld s (s.rS sa).toNat r → checkSpace s (fun t => t == 1 || t == 2 || t == 3) p = none → p.toNat % 8 = 0 →
    boundsStop s p 512 p = none → localPlace s p 512 = some (.bank key false) → fld (s.rS sc) 63 24 = 0 →
    dataMatch s true false p.toNat 512 = none → myTxs s s.coreId s.slotId = [] → s.me.prel = false →
    fget? s.soft (maskKey s.cluId) = none →
    ((∀ p ∈ ps, p.onBoard s = false) → exec i s = .next ((s.setMe { s.me with pplaces := ps }).parkedOn i 0 .access)) ∧
    ((∀ a, key ≤ a → a < key + 512 → fget? s.soft (wordOf a) = none) → Replied s i → s.me.pparts = [] → s.part = none →
      (bad = true → exec (.accessReply s.coreId s.slotId rp) s = .next (ans 2 0xFFFFFFFF).gone) ∧
      (recs = [] → exec (.accessReply s.coreId s.slotId rp) s = .next (ans 1 0xFFFFFFFF).gone) ∧
      (bad = false → recs ≠ [] → sampleFieldsOk (rq rqTEMP) (rq rqTOPK) (rq rqTOPP) = true →
        (∀ f ∈ [rqTEMP, rqTOPP, rqTOPK, rqSEED, rqID], fget? s.soft (rqWord s r f) = none) →
        exec (.accessReply s.coreId s.slotId rp) s = .next (ans 0 (sampleToken recs (rq rqTEMP) (rq rqTOPK) (rq rqTOPP) (rq rqSEED)
          (rq rqID) (fld (s.rS sc) 23 0))).gone))

/-- The Isobar engine: ISOMASK turns the lanes of tokens that the state does not allow to minus infinity, and every lane for an
automaton or state that is not there; ISOSTEP answers the next state and its flags (R91, R92, R375, R376).
ISOMASK and ISOSTEP complete at their reply.
The model's choices: what a mask gives whose ranges are not sorted, and ISOSTEP to a state at or past NSTATES, which R90 and R91
leave open, notes/assumptions/48.md; the mask cache, 9.md.
Readings of the model that it rests on: notes/assumptions/9.md, 48.md. -/
def Obligations.AutomatonEnginesMaskAndStep : Prop :=
  ∀ (s : State) (g : Guard) (pd : PReg) (vd : VNum) (sd sa sb sc : SReg) (rp : Reply), s.quiet →
    let im : Instr := .isomask g pd vd sa sb sc
    let is : Instr := .isostep g pd sd sa sb sc
    let a := (s.rS sa).toNat
    let x := fld (s.rS sb) 31 0
    let t0 := fld (s.rS sc) 31 0
    let v := s.rV vd.toNat
    let none' : VReg := vregOf 32 (List.replicate 16 0xFF800000)
    let maskAns (w : VReg) (b : Bool) : Prop := (Runs im g s → exec im s = .next (s.parkedOn im 0 .access)) ∧
      (Replied s im → exec (.accessReply s.coreId s.slotId rp) s = .next ((s.wV vd.toNat w).wP pd b).gone)
    let stepAns (st nx fl : Nat) : Prop := (Runs is g s → exec is s = .next (s.parkedOn is 0 .access)) ∧
      (Replied s is → exec (.accessReply s.coreId s.slotId rp) s =
        .next ((s.wS sd (w64 (st * 2 ^ 40 + fl * 2 ^ 32 + nx))).wP pd (st == 0)).gone)
    isoDir s a = .ok () →
    (automaton s a = none → maskAns none' false ∧ stepAns 3 x 0) ∧
    (∀ e, automaton s a = some e →
      (e.nstates ≤ x → maskAns none' false ∧ stepAns 2 x 0) ∧
      (x < e.nstates → ∀ lo hi, isoState s e x = .ok (lo, hi) →
        (∀ ok : Nat → Bool, (∀ i, i < 16 → isoAllowed s e (e.masks + 8 * bitsN lo 63 32) (bitsN hi 57 56) (t0 + i) = .ok (ok i)) →
          ∃ w, maskAns w true ∧ ∀ i, i < 16 → lane w i = if ok i = true then lane v i else 0xFF800000) ∧
        (∀ f, isoFind s (e.trans + 8 * bitsN hi 31 0) t0 25 0 (bitsN hi 55 32) = .ok f →
          let nx := f.getD (bitsN lo 31 0)
          (nx = 0xFFFFFFFF → stepAns 1 x 0) ∧
          (∀ l h, nx ≠ 0xFFFFFFFF → isoState s e nx = .ok (l, h) →
            stepAns 0 nx (b2n (t0 == e.opn) + 2 * b2n (t0 == e.cls) + 4 * bitsN h 58 58)))))

/-- A VA of a tenant translates through a cluster's TLB to `n` bytes of an HC page at their home (R148, R149). -/
def Sees (s : State) (clu tenant va : Nat) (acc : AccKind) (pa n : Nat) : Prop :=
  va < 2 ^ 57 ∧ AtHome s pa n ∧
  ∃ e, tlbFind (s.clu clu) tenant va acc = some e ∧ checkEntry e acc clu = none ∧ e.phys va = pa ∧ e.attr = 0#2

/-- KVCOMMIT of one token for a slot with one decode row: the row's KV entry is copied from the spare pool into the page that the
page table names, the history takes the token at the next position, and one update of the record advances RQ_POS and RQ_GEN by
one, takes the new automaton state and clears COMMIT_PENDING; nothing else of memory changes (R98, R379, R380). -/
def KvcommitCopiesADecodeRow : Prop :=
  ∀ (s : State) (g : Guard) (pd : PReg) (sa sb sc : SReg) (r i pte src dst hist : Nat) (x : Row),
    let c := s.rS sc
    let t := reqTenant r
    let nb := 65536 / kvTok s
    let from' := (regGet s (offSERV + 0x18)).toNat + i * nb
    let into := fromBytes (readBytes s.mem pte 8) + x.pos % kvTok s * nb
    let pos := rqGet s r rqPOS
    let rec' := recordAt s r
    SlotHeld s (s.rS sa).toNat r → s.quiet → s.soft = [] → RecordQuiet s r → slotMasked s s.cluId (s.rS sa).toNat = false →
    s.cur = .strand s.coreId s.slotId → s.slotId < 8 → Waits s s.coreId s.slotId .copies (.kvcommit g pd sa sb sc) →
    (s.clu s.cluId).copies.length < 64 → fld c 35 32 = 1 →
    kvWhich s r (s.rS sb).toNat (s.rS sa).toNat 1 = [(i, x)] → x.kind = 1 →
    Sees s s.cluId t (rqGet s r rqKVPT + 8 * (x.pos / kvTok s)) .load pte 8 → Sees s s.cluId (servTenant s) from' .load src nb →
    Sees s s.cluId t into .store dst nb → Sees s s.cluId t (rqGet s r rqHIST + 4 * (pos + 1)) .store hist 4 →
    from' % 65536 + nb ≤ 65536 → into % 65536 + nb ≤ 65536 →
    Apart dst nb rec' 256 → Apart hist 4 rec' 256 → Apart dst nb hist 4 →
    ∃ u, exec (.kvcommitCopiesDone s.coreId s.slotId) s = .next u ∧
      readBytes u.mem dst nb = readBytes s.mem src nb ∧ readBytes u.mem hist 4 = toBytes 4 (rqGet s r (rqPTOK 0)) ∧
      rqGet u r rqPOS = (pos + 1) % 2 ^ 24 ∧ rqGet u r rqGEN = (rqGet s r rqGEN + 1) % 2 ^ 24 ∧
      rqGet u r rqASTATE = fld c 31 0 ∧ rqGet u r rqPFQHEAD = rqGet s r rqPFQHEAD ∧ rqFlag u r flCommit = false ∧
      (∀ a, Apart a 1 dst nb → Apart a 1 hist 4 → Apart a 1 rec' 256 → readByte u.mem a = readByte s.mem a) ∧
      u.me.status = .ready ∧ u.me.pc = s.me.pc + 8#64 ∧ u.rP pd = true ∧ u.me.s = s.me.s

/-- ACCEPT writes the decision of its slot for the step into the record, once; KVCOMMIT refuses what has not been decided or
more tokens than were accepted, and after its copies one update advances the request by what was committed, with the KV entry
and the history of a decode row (R76, R95, R98, R344, R345, R379, R380).
ACCEPT completes at its reply, KVCOMMIT at its reply or when its copies are done.
Readings of the model that it rests on: notes/assumptions/25.md, 80.md. -/
def Obligations.AcceptDecidesAndKvcommitAdvances : Prop := KvcommitCopiesADecodeRow ∧
  ∀ (s : State) (g : Guard) (pd : PReg) (sa sb sc : SReg) (vn : VNum) (r : Nat) (rp : Reply), s.quiet →
    let slot := (s.rS sa).toNat
    let step := s.rS sb
    let c := s.rS sc
    let ia : Instr := .accept g pd sa sb vn
    let ik : Instr := .kvcommit g pd sa sb sc
    let masked := slotMasked s s.cluId slot
    let ans (t : State) : Prop := exec (.accessReply s.coreId s.slotId rp) s = .next t.gone
    SlotHeld s slot r →
    (descWord s step.toNat 0 8 = step.toNat →
      (Runs ia g s → exec ia s = .next (s.parkedOn ia 0 .access)) ∧
      (Replied s ia → (∀ k ∈ acceptWords s r slot step.toNat, fget? s.soft k = none) →
        (descActive s step.toNat slot = false ∨ masked = true → ans (s.wP pd false)) ∧
        (descActive s step.toNat slot = true → masked = false →
          (rqFlag s r flCancel = true → ans ((rqPuts s r [(rqPSTEP, step.toNat), (rqPLEN, 0)]).wP pd false)) ∧
          (rqFlag s r flCancel = false → rqFlag s r flCommit = true → ans (s.wP pd (rqGet s r rqPSTEP == step.toNat))) ∧
          (rqFlag s r flCancel = false → rqFlag s r flCommit = false →
            let sigma (n : Nat) := if n < 16 then lane (s.rV vn.toNat) n else lane (s.rV (vn.toNat + 1)) (n - 16)
            let w := acceptWhat s r slot (slotRows s step.toNat slot) sigma
            ans ((rqSetFlag (rqPuts s r ([(rqPSTEP, step.toNat), (rqPLEN, w.2.length),
              (rqPPATH, (w.1.mapIdx (fun j n => n * 2 ^ (5 * j))).sum)] ++ (List.range 9).map (fun j => (rqPTOK j, w.2.getD j 0))))
              r flCommit true).wP pd true))))) ∧
    (descWord s step.toNat 0 8 ≠ step.toNat → Runs ia g s → exec ia s = .next (freeze s s.coreId s.slotId cBOUNDS step)) ∧
    (fld c 63 36 = 0 →
      (s.guarded g → exec ik s = .next (s.parkedOn ik 0 .access)) ∧
      (Replied s ik → (∀ f ∈ [rqFLAGS, rqPSTEP, rqPLEN], fget? s.soft (rqWord s r f) = none) →
        (masked = true → ans (s.wP pd false)) ∧
        (masked = false →
          (rqFlag s r flCommit = false → ans (s.wP pd (rqGet s r rqPSTEP == step.toNat))) ∧
          (rqFlag s r flCommit = true → rqGet s r rqPSTEP ≠ step.toNat → ans (s.wP pd false)) ∧
          (rqFlag s r flCommit = true → rqGet s r rqPSTEP = step.toNat →
            (rqGet s r rqPLEN < fld c 35 32 → exec (.accessReply s.coreId s.slotId rp) s =
              .next (freeze s s.coreId s.slotId cBOUNDS (w64 (fld c 35 32)))) ∧
            (fld c 35 32 ≤ rqGet s r rqPLEN → rqFlag s r flCancel = true → ans ((rqSetFlag s r flCommit false).wP pd true)) ∧
            (fld c 35 32 ≤ rqGet s r rqPLEN → rqFlag s r flCancel = false →
              exec (.accessReply s.coreId s.slotId rp) s = .next (park s s.coreId s.slotId s.me.pinstr 0 .copies)))))) ∧
    (s.cur = .strand s.coreId s.slotId → Waits s s.coreId s.slotId .copies ik → (s.clu s.cluId).copies.length < 64 →
      masked = false → fld c 35 32 = 0 → kvWhich s r step.toNat slot 0 = [] →
      (∀ k ∈ kvWords s r step.toNat 0, fget? s.soft k = none) →
      exec (.kvcommitCopiesDone s.coreId s.slotId) s = .next ((rqSetFlag (rqPuts s r [(rqPFQHEAD, rqGet s r rqPFQHEAD % 2 ^ 32),
        (rqPOS, rqGet s r rqPOS), (rqGEN, rqGet s r rqGEN), (rqPROG, ccnt s)]) r flCommit false).wP pd true).gone)

/-! ### The Forecast table (05 R102 to R115; 17 R370 to R372) -/

/-- No deadline of a future has passed by more than the bound of R113. -/
def OnTime (s : State) (i : Nat) : Prop := ∀ d, pastDeadline s (futOf s i) = some d → d ≤ 256

/-- FUTCALL arms the lowest IDLE future for its request, or answers the one it has; FUTQRY reads a future's first word; FUTWAIT
parks while the future is live; a deadline that has come resolves a live future with the tokens it was armed with (R106, R111, R113, R115, R370 to R372). The
nonce in a new future's key is a free value.
FUTCALL and FUTQRY complete at their reply, FUTWAIT at issue once its future is resolved.
Readings of the model that it rests on: notes/assumptions/45.md, 46.md. -/
def Obligations.FuturesAreArmedReadAndExpire : Prop :=
  ∀ (s : State) (g : Guard) (pd : PReg) (sd sa sb sc : SReg) (r i : Nat) (rp : Reply), s.guarded g → s.quiet →
    let slot := (s.rS sa).toNat
    let q := (s.rS sb).toNat
    let ic : Instr := .futcall g pd sd sa sb sc
    let t := s.tenantId
    let ans (u : State) : Prop := exec (.accessReply s.coreId s.slotId rp) s = .next u.gone
    (SlotHeld s slot r → q ≤ 255 → (tqDesc s q).valid = true → (tqDesc s q).tenant = t →
      exec ic s = .next (s.parkedOn ic 0 .access) ∧
      (Replied s ic → (∀ k ∈ futcallWords s r, fget? s.soft k = none) →
        (slotMasked s s.cluId slot = true ∨ rqFlag s r flCancel = true → ans ((s.wS sd 0xFFFFFFFF#64).wP pd false)) ∧
        (slotMasked s s.cluId slot = false → rqFlag s r flCancel = false →
          (bitN (rqGet s r rqFUT) 16 = true → ans ((s.wS sd (w64 (bitsN (rqGet s r rqFUT) 15 0))).wP pd true)) ∧
          (bitN (rqGet s r rqFUT) 16 = false →
            (tset s setFUTQUOTA t ≤ futCount s t → exec (.accessReply s.coreId s.slotId rp) s =
              .next (freeze s s.coreId s.slotId cFUT_EXHAUSTED (w64 (2 ^ 16 + slot)))) ∧
            (futCount s t < tset s setFUTQUOTA t → i < 65536 → (futOf s i).state = 0 → (∀ j, j < i → (futOf s j).state ≠ 0) →
              ∃ nonce : BitVec 32,
                let f : Future :=
                  { record := r % 2 ^ 20, gen := (futOf s i).gen, tenant := t, result := 0, queued := false, state := fuARMED,
                    deadline := (ccnt s + tset s setFUTTO t) % 2 ^ 64,
                    key := nonce.toNat * 2 ^ 32 + (futOf s i).gen * 2 ^ 16 + i, fcode := 0, queue := q,
                    argpos := fld (s.rS sc) 23 0, step := s.front.step,
                    toSeq := seqOf s setTOSEQ t, failSeq := seqOf s setFAILSEQ t, trunc := tset s setTRUNCTOK t }
                let u := rqPut (putFut { s with freeNo := s.freeNo + 1 } i f) r rqFUT (2 ^ 16 + i)
                ans (((if rqGet u r rqSTATE = stRUNNING then rqPut u r rqSTATE stBLOCKED else u).wS sd (w64 i)).wP pd true)))))) ∧
    (i = fld (s.rS sa) 15 0 → OnTime s i → fget? s.soft (futKey i) = none → s.me.prel = false → (futOf s i).state = 0 ∨ (futOf s i).tenant = t →
      exec (.futqry g sd sa) s = .next (s.parkedOn (.futqry g sd sa) 0 .access) ∧
      (Replied s (.futqry g sd sa) → ans (s.wS sd (futWord0 (futOf s i)))) ∧
      (s.me.pkind ≠ 2 ∨ s.me.pcap = [] →
        ((futOf s i).live = true → exec (.futwait g sa) s =
          .next ((s.setMe { s.me with pcap := [(futOf s i).gen] }).parkedOn (.futwait g sa) 2 .cond)) ∧
        ((futOf s i).live = false → exec (.futwait g sa) s = .next s.gone))) ∧
    (i < 65536 → (futOf s i).live = true → ∀ d, pastDeadline s (futOf s i) = some d → exec (.futureDeadline i) s =
      .next (putFut (inject s (futOf s i).req (seqToks (futOf s i).toSeq)) i
        { futOf s i with state := fuTIMEDOUT, result := 0 })) ∧
    (pastDeadline s (futOf s i) = none → exec (.futureDeadline i) s = .next s)

/-! ### System registers, pointers and translations (07; 15 R333; 17 R373, R374; 18 R395, R396; 19 R427, R448) -/

/-- MFS reads a system register at once, a scope instance at its reply; MTS writes the fields that a program may write and
leaves every other register as it is; ICINV empties the instruction caches of its scope (R3, R178, R333, R374, R395, R396).
MFS and MTS complete at issue, MFS of a scope instance and ICINV at their reply.
Readings of the model that it rests on: notes/assumptions/58.md. -/
def Obligations.SystemRegistersReadAndWrite : Prop :=
  ∀ (s : State) (g : Guard) (n : BitVec 12) (sd sa : SReg) (sc : Scope) (r : Reply), s.guarded g → s.quiet →
    let k := n.toNat
    let v := s.rS sa
    let x := s.me
    let y := sysPut x k v
    let inst : Prop := 0x040 ≤ k ∧ k ≤ 0x045
    let which (j : Nat) := s.scope (if j = 0 then s.dieId else j + 3)
    (¬ inst → exec (.mfs g sd n) s = .next (s.wS sd (sysGet s k)).gone) ∧
    (inst → exec (.mfs g sd n) s = .next (s.parkedOn (.mfs g sd n) 0 .access)) ∧
    (inst → Replied s (.mfs g sd n) → exec (.accessReply s.coreId s.slotId r) s =
      .next (s.wS sd (w64 (if k < 0x043 then (which (k - 0x040)).ts else (which (k - 0x043)).gen % 2 ^ 32))).gone) ∧
    sysGet s 0x000 = w64 (ccnt s) ∧ sysGet s 0x028 = x.femax.zeroExtend 64 ∧ sysGet s 0x030 = x.fstat ∧ sysGet s 0x050 = x.fpmode ∧
    sysGet s 0x051 = x.olbase ∧ sysGet s 0x052 = x.olcap ∧ sysGet s 0x053 = x.olcnt ∧
    (∀ m, (0x010 ≤ m ∧ m ≤ 0x01E) ∨ (0x020 ≤ m ∧ m ≤ 0x027) → sysGet s m = fget 0#64 x.ids m) ∧
    exec (.mts g n sa) s = .next (s.setMe y).gone ∧
    (k = 0x028 → y = { x with femax := v.setWidth 32 }) ∧
    (k = 0x030 → ∃ w, y = { x with fstat := w } ∧ ∀ i, i < 64 → w.getLsbD i =
      (if i ≤ 7 ∨ (16 ≤ i ∧ i ≤ 41) then v.getLsbD i else if i = 8 then x.fstat.getLsbD i && !v.getLsbD i else x.fstat.getLsbD i)) ∧
    (k = 0x050 → ∃ w, y = { x with fpmode := w } ∧ ∀ i, i < 64 → w.getLsbD i =
      (if i ≤ 1 then v.getLsbD i else if 4 ≤ i ∧ i ≤ 8 then x.fpmode.getLsbD i && !v.getLsbD i else x.fpmode.getLsbD i)) ∧
    (k = 0x051 → y = { x with olbase := v }) ∧
    (k = 0x052 → y = { x with olcap := w64 (v.toNat % 2 ^ 32) }) ∧
    (k = 0x053 → y = { x with olcnt := w64 (v.toNat % 2 ^ 32) }) ∧
    (k ≠ 0x028 → k ≠ 0x030 → k ≠ 0x050 → k ≠ 0x051 → k ≠ 0x052 → k ≠ 0x053 → y = x) ∧
    (∃ t, exec (.icinv g sc) s = .next t ∧ t.me.status = .parked ∧ t.mem = s.mem ∧ ∀ core,
      (coreInScope sc s.coreId core = true → (t.core core).icache = []) ∧
      (coreInScope sc s.coreId core = false → t.core core = s.core core)) ∧
    (Replied s (.icinv g sc) → exec (.accessReply s.coreId s.slotId r) s = .next s.gone)

/-- SPTEST reads a pointer's tag; SPCAST turns a private pointer into an absolute one of its core and back, and stops on what
lies beyond the private window (R126, R427). -/
def PointerTagsAndCasts : Prop :=
  ∀ (s : State) (g : Guard) (sd sa : SReg) (t : BitVec 4), s.guarded g → s.quiet →
    let p := s.rS sa
    let tag := p.toNat / 2 ^ 60
    let o := p.toNat % 2 ^ 18
    let lo := s.me.privbase
    let ans (f : CastForm) (w : Word) : Prop := exec (.spcast g f sd sa) s = .next (s.wS sd w).gone
    let frz (f : CastForm) (c : BitVec 8) (w : Word) : Prop := exec (.spcast g f sd sa) s = .next (freeze s s.coreId s.slotId c w)
    exec (.sptest g sd sa) s = .next (s.wS sd (w64 tag)).gone ∧
    (tag = 1 → fld p 59 18 = 0 → o < s.me.privlen → ans .abs (w64 (2 * 2 ^ 60 + s.coreId * 2 ^ 48 + (lo + o)))) ∧
    (tag = 1 → fld p 59 18 ≠ 0 ∨ s.me.privlen ≤ o → frz .abs cBOUNDS p) ∧
    (tag ≠ 1 → ans .abs p) ∧ (tag = 1 → ans .priv p) ∧
    (tag = 2 → fld p 59 48 = s.coreId → fld p 47 18 = 0 → lo ≤ o → o < lo + s.me.privlen → ans .priv (w64 (2 ^ 60 + (o - lo)))) ∧
    (tag = 2 → fld p 59 48 ≠ s.coreId → frz .priv cFOREIGN (w64 (fld p 59 48 + s.coreId * 2 ^ 16 + o * 2 ^ 28))) ∧
    (tag = 2 → fld p 59 48 = s.coreId → fld p 47 18 ≠ 0 ∨ o < lo ∨ lo + s.me.privlen ≤ o → frz .priv cBOUNDS p) ∧
    (tag ≠ 1 → tag ≠ 2 → frz .priv cSPACE p) ∧
    (tag = t.toNat → ans (.chk t) p) ∧ (tag ≠ t.toNat → frz (.chk t) cSPACE p)

/-- XLATE writes a handle from the handle cache, parks for a walk where it misses, and stops on a page that may not be pinned;
the slot form raises RQ_PAGE on its request and goes on; HREL makes handles invalid (R158, R159, R373, R448). -/
def HandlesAreMadeAndReleased : Prop :=
  ∀ (s : State) (g : Guard) (pd : PReg) (h : HReg) (sa ss : SReg) (r : Nat) (e : TlbEntry), s.guarded g → s.quiet →
    let p := s.rS sa
    let va := fld p 56 0
    let ix : Instr := .xlate g h sa
    let iy : Instr := .xlateSlot g pd h sa ss
    let frz (i : Instr) (c : BitVec 8) (w : Word) : Prop := exec i s = .next (freeze s s.coreId s.slotId c w)
    let walks (i : Instr) : Prop := exec i s = .next ((s.setMe { s.me with pva := w64 va, pacc := .xlate }).parkedOn i 6 .walk)
    let found := hcacheFind (s.clu s.cluId) s.tenantId va
    let clean : Prop := fget? s.soft (tlbKey s.cluId) = none
    (clean → ptrTag p ≠ 0 → frz ix cSPACE p ∧ frz iy cSPACE p) ∧
    (clean → ptrTag p = 0 → fld p 59 57 ≠ 0 → frz ix cBOUNDS p ∧ frz iy cBOUNDS p) ∧
    (clean → ptrTag p = 0 → fld p 59 57 = 0 →
      (found = none → walks ix) ∧
      (found = some e → e.pin = true → exec ix s = .next (s.setMe (s.me.wH h e.handle)).gone) ∧
      (found = some e → e.pin = false → frz ix cGPF_PERM (gpfInfo false .xlate p.toNat)) ∧
      (slotReq s (s.rS ss).toNat = none → frz iy cRQ_STATE (s.rS ss)) ∧
      (SlotHeld s (s.rS ss).toNat r →
        (found = none → walks iy) ∧
        (found = some e → e.pin = true → exec iy s = .next ((s.setMe (s.me.wH h e.handle)).wP pd true).gone) ∧
        (found = some e → e.pin = false → ∃ t : State, exec iy s = .next t.gone ∧ (s.rS ss).toNat ∈ t.front.faulted ∧
          (t.me.rH h).valid = false ∧ t.rP pd = decide (pd = 0#3)))) ∧
    exec (.hrel g (some h)) s = .next (s.setMe (s.me.wH h { s.me.rH h with valid := false })).gone ∧
    ∃ t : State, exec (.hrel g none) s = .next t.gone ∧ t.mem = s.mem ∧ ∀ j, (t.me.rH j).valid = false

/-- A walk that has ended, and whose words hold no soft error: its leaf is checked in the order of R149; a page found fills the cluster's TLB and the strand issues
again, a store to a page that is not there goes to the side log, any other failure freezes the strand (R148 to R153). -/
def WalksCheckAndFill : Prop :=
  (∀ (s : State) (tenant va clu a pte comp lvl : Nat) (acc : AccKind), cluExists clu = true → walk s tenant va = .leaf a pte comp lvl →
    let bad (c : BitVec 8) : Prop := (xlateWalk s tenant va acc clu).1 = .bad c
    let perm : Prop := acc = .xlate ∨ bitN pte (1 + acc.perm) = true
    (acc = .fetch → bitN pte 3 = false → bad cIFETCH_NX) ∧
    ((acc = .fetch → bitN pte 3 = true) → leafPage pte lvl = none → bad cGPF_PERM) ∧
    ((acc = .fetch → bitN pte 3 = true) → ∀ size pa, leafPage pte lvl = some (size, pa) →
      (bitN pte 4 = false → bad cGPF_PERM) ∧
      (bitN pte 4 = true → ¬ perm → bad cGPF_PERM) ∧
      (bitN pte 4 = true → perm → bitN comp (cluGroup clu) = false → bad cGROUPMASK) ∧
      (bitN pte 4 = true → perm → bitN comp (cluGroup clu) = true →
        (bitsN comp 49 48 = 3 ∨ bitsN comp 63 51 ≠ 0 ∨ physOk pa = false → bad cATTR) ∧
        (bitsN comp 49 48 ≠ 3 → bitsN comp 63 51 = 0 → physOk pa = true →
          ∃ e, (xlateWalk s tenant va acc clu).1 = .ok e ∧ e.pa = pa ∧ e.va = va % 2 ^ 57 / pageBytes size * pageBytes size ∧
            e.tenant = tenant)))) ∧
  ∀ (s u : State) (e : TlbEntry) (c : BitVec 8), s.cur = .strand s.coreId s.slotId → s.me.status = .parked → s.me.phase = .walk →
    let core := s.coreId
    let slot := s.slotId
    let va := s.me.pva.toNat
    let acc := s.me.pacc
    let ends (t : State) : Prop := exec (.walkComplete core slot) s = .next t
    let toLog (t : State) : State :=
      t.updStrand core slot (fun x => { x with plog := va / 65536 :: x.plog, status := .ready })
    acc ≠ .xlate → (∀ k ∈ walkKeys s s.tenantId (va % 2 ^ 57), fget? s.soft k = none) →
    (walkAD s s.tenantId va acc s.cluId = (.ok e, u) →
      ends ((u.updClu s.cluId (fun k => tlbFill k e)).updStrand core slot (fun x => { x with status := .ready }))) ∧
    (walkAD s s.tenantId va acc s.cluId = (.migrating, u) →
      ends (if acc = .store then toLog u else u.updStrand core slot (fun x => { x with phase := .migrate }))) ∧
    (walkAD s s.tenantId va acc s.cluId = (.bad c, u) →
      ends (if acc = .store ∧ c = cGPF_NP then toLog u else freeze u core slot c (gpfInfo false acc va)))

/-- Pointers, handles and walks.
SPTEST, SPCAST and HREL complete at issue, XLATE at issue where the handle cache holds its page.
Readings of the model that it rests on: notes/assumptions/23.md, 40.md. -/
def Obligations.PointersHandlesAndWalks : Prop := PointerTagsAndCasts ∧ HandlesAreMadeAndReleased ∧ WalksCheckAndFill

/-! ### Launches and tasks (02 R29 to R47; 17 R383) -/

/-- The launch that a descriptor makes. -/
def describedLaunch (s : State) (tenant : Nat) (ws : List Word) (host : Option (Nat × Bool × Word)) : Launch :=
  { id := nextLaunchId s tenant, tenant := tenant, words := ws, resident := decide (fld (ws.getD 1 0) 52 52 = 1), placed := 0,
    live := 0, trigd := 0, outcome := 0, met := false, pend := none, holds := [], host := host, spill := none }

/-- A descriptor is checked field by field, then for its size; one that passes gets the tenant's next launch ID and enters its
die's pool, or where it may not enter directly the tenant's spill queue, its record written to an entry of its own at SPILLBASE;
a full queue is reported (R30 to R32, R40 to R42). -/
def LaunchesAreCheckedAndQueued : Prop :=
  ∀ (s : State) (tenant : Nat) (ws : List Word) (sysctl : Bool) (host : Option (Nat × Bool × Word)),
    let l := describedLaunch s tenant ws host
    let k := launchKey tenant l.id
    let ok := w64 (l.id * 2 ^ 32)
    let sub := submitLaunch s tenant ws sysctl host
    let direct := depState s l == 0 && (spillFor s l.home tenant).isEmpty && owedOthers s l.home tenant < poolRoom s l.home
    let n := (spillOf s tenant).length
    let cap := tset s setSPILLSZ tenant
    (fld (ws.getD 0 0) 2 0 ≠ 0 → sub = (w64 0x103, s)) ∧
    (fld (ws.getD 0 0) 2 0 = 0 → l.gx = 0 ∨ l.gy = 0 ∨ l.gz = 0 → sub = (w64 0x203, s)) ∧
    (∀ d, badField s tenant sysctl l = some d → sub = (w64 (d * 256 + 3), s)) ∧
    (badField s tenant sysctl l = none →
      (∀ d, oversize s l = some d → sub = (w64 (d * 256 + 2), s)) ∧
      (oversize s l = none → l.resident = false →
        (direct = true → sub.1 = ok ∧ sub.2.launch k = some l ∧ fget 0 sub.2.newest tenant = l.id ∧ sub.2.mem = s.mem ∧
          (sub.2.pool l.home).ents.map (·.launch) = (s.pool l.home).ents.map (·.launch) ++ [k]) ∧
        (direct = false → (if l.flag 3 = true then n < cap else n + 32 < cap) → ∃ e, sub.1 = ok ∧
          sub.2.launch k = some { l with spill := some e } ∧ fget 0 sub.2.newest tenant = l.id ∧
          spillOf sub.2 tenant = spillOf s tenant ++ [k] ∧ sub.2.pools = s.pools ∧
          (∀ j ∈ spillOf s tenant, j ≠ k → (s.launch j).bind (·.spill) ≠ some e) ∧
          let pa := tset s setSPILLBASE tenant + 128 * e
          ws.length = 8 → (∀ o, o < 128 → physOk (pa + o) = true ∧ tracked s (lineOf (pa + o)) = false) →
            (∀ j, j < 8 → cohNat sub.2 (pa + 8 * j) 8 = (ws.getD j 0).toNat) ∧
            ∀ a, a < pa ∨ pa + 128 ≤ a → readByte sub.2.mem a = readByte s.mem a) ∧
        (direct = false → (if l.flag 3 = true then cap ≤ n else cap ≤ n + 32) → sub = (w64 1, s))))

/-- LAUNCH checks its pointer, releases at .dev, reads its descriptor and answers the status word at its reply (R31, R46,
R383). -/
def LaunchReadsItsDescriptor : Prop :=
  ∀ (s : State) (g : Guard) (pd : PReg) (sd sa : SReg) (ps : List Piece) (rp : Reply),
    let i : Instr := .launch g pd sd sa
    let p := s.rS sa
    let va := fld p 56 0
    let parts := (List.range 8).map (fun j => (va + 8 * j, 8 * j, 8))
    let frz (c : BitVec 8) : Prop := exec i s = .next (freeze s s.coreId s.slotId c p)
    (s.guarded g →
      (ptrTag p ≠ 0 → frz cSPACE) ∧
      (ptrTag p = 0 → fld p 59 57 ≠ 0 → frz cBOUNDS) ∧
      (ptrTag p = 0 → fld p 59 57 = 0 → p.toNat % 64 ≠ 0 → frz cALIGN)) ∧
    (ptrTag p = 0 → fld p 59 57 = 0 → p.toNat % 64 = 0 →
      (s.guarded g → dataMatch s true false va 64 = none → ReleaseDue s .dev → ∀ u : State,
        u = (releasedState s .dev).setMe { s.me with prel := true } → myTxs u u.coreId u.slotId = [] →
        placeAll (fun a m => globalPlace u .load a m) 0 parts = .ok ps →
        (∀ q ∈ ps, ∃ pa attr a, q.place = .page pa attr a ∧ attr ≠ 0#2) →
        exec i s = .next ((u.setMe { u.me with pplaces := ps }).parkedOn i 0 .access)) ∧
      (Replied s i → s.me.prel = true → s.part = none → placeAll (fun a m => globalPlace s .load a m) 0 parts = .ok ps →
        myTxs s s.coreId s.slotId = [] → ∀ (u t : State) (l : List (Nat × List Byte)) (w : Word),
        piecesRead s 0 ps = (u, some l) → u.soft = [] → u.cur = s.cur → myTxs u u.coreId u.slotId = [] →
        submitLaunch u u.tenantId (l.map (fun x => w64 (fromBytes x.2))) false none = (w, t) → t.cur = s.cur → t.quiet →
        exec (.accessReply s.coreId s.slotId rp) s = .next ((t.wS sd w).wP pd (fld w 7 0 == 0)).gone))

/-- A task that is placed: its strand is READY at the entry with its argument, its private stack pointer and its identity; its
vector registers are zero; its launch counts it; its window is zero and EMPTY, where no full/empty form waits on what the
placement clears (R33, R34). -/
def TasksStartClean : Prop :=
  ∀ (s : State) (k : Nat) (l : Launch) (idx : Nat) (f : Fit), s.launch k = some l →
    let t := taskPlace s k l idx f
    let x := t.strand f.core f.slot
    let unlisted (lo n : Nat) : Prop := ∀ b ∈ s.waits, ∀ e ∈ b.2, ¬ (lo ≤ e.word ∧ e.word < lo + n)
    x.status = .ready ∧ x.pc = l.words.getD 0 0 ∧ x.rS 1#6 = l.words.getD 6 0 ∧ x.rS 61#6 = w64 (2 ^ 60 + l.priv) ∧
    (∀ r : SReg, r ≠ 1#6 → r ≠ 61#6 → x.rS r = 0#64) ∧ x.id 0x010 = idx % l.gx % 2 ^ 64 ∧ x.id 0x01D = l.id % 2 ^ 64 ∧
    x.id 0x01E = l.tenant % 2 ^ 64 ∧ x.task.map (·.idx) = some idx ∧
    (∀ i, i < l.vregs → fget 0#512 (t.core f.core).v (8 * f.v + i) = 0#512) ∧
    (unlisted (scrKey f.core (256 * f.p)) l.priv → unlisted (scrKey f.core (256 * f.g)) l.scratch →
      unlisted (shrKey (cluOfCore f.core) (4096 * f.c)) l.shared →
      t.launch k = some { l with placed := l.placed + 1, live := l.live + 1 } ∧
      ∀ o, o < l.priv → readByte t.mem (scrKey f.core (256 * f.p + o)) = 0#8 ∧
      feFull t (scrKey f.core (256 * f.p + o / 8 * 8)) = false)

/-- The arbiter places the head of the one launch in a pool and charges its tenant; a head that has waited moves up one level; a
spilled launch whose dependencies are met enters its pool (R43, R44). -/
def PoolsPlacePromoteAndFill : Prop :=
  ∀ (s : State) (die : Nat) (e : PoolEnt) (l : Launch), die < 4 →
    (placeResident s die = none → (s.pool die).ents = [e] → (s.pool die).res = [] → e.level ≤ 3 → s.launch e.launch = some l →
      poolEligible s e = true → ∀ t (u v : State) cost,
      drrTurn s die e.level [l.tenant] = some (t, u) → placeNext u die e.launch l = some (v, cost) →
      exec (.taskPlacement die) s = .next (chargePlaced v die e.level t e.launch cost)) ∧
    ((s.pool die).ents = [e] → e.head = true → poolEligible s e = true → e.level < 3 → e.since + 2 ^ 20 ≤ s.cycle →
      ∃ t, exec (.agingPromotion die 0) s = .next t ∧ (t.pool die).ents = [{ e with level := e.level + 1, since := s.cycle }] ∧
        t.mem = s.mem ∧ t.strands = s.strands) ∧
    (∀ (tenant k : Nat), s.spillq = [(tenant, [k])] → s.launch k = some l → l.home = die → depState s l = 0 →
      (s.pool die).ents.length < 256 →
      ∃ t, exec (.poolFill die) s = .next t ∧ (t.pool die).ents.map (·.launch) = (s.pool die).ents.map (·.launch) ++ [k] ∧
        spillOf t tenant = [] ∧ t.mem = s.mem ∧ t.strands = s.strands)

/-- Launches from their descriptors to their tasks.
LAUNCH completes at its reply; the events of the pools answer the next state given here.
What counts as owed to other launches where one enters its pool directly, and that a LAUNCH's pointer is checked before the
comparators, are the model's choices (notes/assumptions/86.md, 27.md).
Readings of the model that it rests on: notes/assumptions/16.md, 27.md, 30.md, 53.md, 86.md. -/
def Obligations.LaunchesAreQueuedAndPlaced : Prop :=
  LaunchesAreCheckedAndQueued ∧ LaunchReadsItsDescriptor ∧ TasksStartClean ∧ PoolsPlacePromoteAndFill

/-! ### The application harts and the management controller (05 R112, R116 to R120; 13 R290; 17 R381, R382) -/

/-- Capabilities are loaded, narrowed and cleared; a narrowing beyond its source is a CAPFAULT; the sandbox is entered from S-mode
and left from sandbox mode (R117, R119, R381, R382). -/
def CapabilitiesAndSandbox : Prop :=
  ∀ (s : State) (cd ca : BitVec 4) (rs1 rs2 : BitVec 5),
    let h := s.myHart
    let a := h.rX rs1
    let c := h.cap ca
    let n := fld (h.rX rs2) 59 0
    let within : Prop := c.sealed = false ∧ c.base.toNat ≤ a.toNat ∧ a.toNat + n ≤ min (c.base.toNat + c.length.toNat) (2 ^ 64)
    (h.priv = 0 → exec (.kwCapld cd rs1) s = .next (hartIllegal (.kwCapld cd rs1) s)) ∧
    (h.priv ≠ 0 → a.toNat % 32 ≠ 0 → exec (.kwCapld cd rs1) s = .next (hartTrap s xLoadMisaligned a)) ∧
    (h.priv ≠ 0 → a.toNat % 32 = 0 →
      (∀ bs u, hartLoad s h .load a 32 = .ok (bs, u) →
        exec (.kwCapld cd rs1) s = .next (hartCap u h cd (capOf bs))) ∧
      ∀ e, hartLoad s h .load a 32 = .error e → exec (.kwCapld cd rs1) s = .next (hartStop s e)) ∧
    (within → exec (.kwCapnar cd ca rs1 rs2) s = .next (hartCap s h cd (
      { base := a, length := w64 n, sealed := false, perm := c.perm &&& BitVec.ofNat 4 ((h.rX rs2).toNat / 2 ^ 60) }))) ∧
    (¬ within → exec (.kwCapnar cd ca rs1 rs2) s = .next (hartTrap s xCapFault a)) ∧
    exec (.kwCapclr cd) s = .next (hartCap s h cd .null) ∧
    (h.priv = 1 → exec (.kwSbxent rs1) s = .next (s.setHart s.hartId
      { (h.wCsr csrKWSBXEPC (h.pc + 4#64)).goes a with priv := 0, sbx := true })) ∧
    (h.priv ≠ 1 → exec (.kwSbxent rs1) s = .next (hartIllegal (.kwSbxent rs1) s)) ∧
    (h.priv = 0 → h.sbx = true → exec .kwSbxret s = .next (s.setHart s.hartId
      { h.goes (h.rCsr csrKWSBXEPC) with sbx := false, priv := 1 })) ∧
    (h.priv ≠ 0 ∨ h.sbx = false → exec .kwSbxret s = .next (hartIllegal .kwSbxret s))

/-- KW.TQPOP pops an entry to memory and gives its sealed capability; KW.FUTARG reads an argument token; KW.FUTCPL and KW.FUTFAIL
resolve the future of a sealed capability after a release; KW.REL is that release (R112, R119, R120, R179, R382). -/
def ToolInstructions : Prop :=
  ∀ (s : State) (rd rs1 rs2 : BitVec 5) (cd ca : BitVec 4),
    let h := s.myHart
    let q := (h.rX rs1).toNat
    let a := h.rX rs2
    let b := h.rX rs1
    let n := a.toNat
    let c := h.cap ca
    let key := c.base
    (capRangeFails h .store a.toNat 64 = false → a.toNat % 64 ≠ 0 →
      exec (.kwTqpop rd cd rs1 rs2) s = .next (hartTrap s xStoreMisaligned a)) ∧
    (capRangeFails h .store a.toNat 64 = false → a.toNat % 64 = 0 → ∀ e, hartReach s h (h.mode .store) .store a.toNat 64 = .error e →
      exec (.kwTqpop rd cd rs1 rs2) s = .next (hartStop s e)) ∧
    (capRangeFails h .store a.toNat 64 = false → a.toNat % 64 = 0 → ∀ places u,
      hartReach s h (h.mode .store) .store a.toNat 64 = .ok (places, u) →
      let d := tqDesc u q
      (255 < q ∨ d.valid = false ∨ d.remote = true ∨ d.tenant ≠ fld h.kwtenant 5 0 →
        exec (.kwTqpop rd cd rs1 rs2) s = .next (hartSet u h rd 3#64)) ∧
      (q ≤ 255 → d.valid = true → d.remote = false → d.tenant = fld h.kwtenant 5 0 → u.myHart = h →
        (∀ v, tqPop unitRead u q = (none, v) → exec (.kwTqpop rd cd rs1 rs2) s = .next (hartSet v h rd 1#64)) ∧
        (∀ v e j t, tqPop unitRead u q = (some (e, j), v) → writePieces v v.hartId places e = .ok t →
          exec (.kwTqpop rd cd rs1 rs2) s = .next (hartSet (hartWrote t (capReg cd.toNat)) (h.setCap cd { base := w64 (fromBytes (e.take 8)), length := 0, sealed := true, perm := 8#4 }) rd 0#64)))) ∧
    (capRangeFails h .store a.toNat 64 = true → exec (.kwTqpop rd cd rs1 rs2) s = .next (hartTrap s xCapFault a)) ∧
    (c.future = false → exec (.kwFutarg rd ca rs1) s = .next (hartSet s h rd (BitVec.allOnes 64)) ∧
      exec (.kwFutcpl rd ca rs1 rs2) s = .next (hartTrap s xCapFault 0) ∧
      exec (.kwFutfail rd ca rs1) s = .next (hartTrap s xCapFault 0)) ∧
    (c.future = true → OnTime s (fld key 15 0) → fget? s.soft (futKey (fld key 15 0)) = none →
      (futMatch s key = none → exec (.kwFutarg rd ca rs1) s = .next (hartSet s h rd (BitVec.allOnes 64))) ∧
      (∀ i f, futMatch s key = some (i, f) →
        (f.live = true → b.toNat < argLen s f → s.soft = [] → ∀ bs, unitRead s f.tenant (rqGet s f.req rqHIST + 4 * (f.argpos + b.toNat)) 4 = some bs →
          exec (.kwFutarg rd ca rs1) s = .next (hartSet s h rd (w64 (fromBytes bs)))) ∧
        (f.live = false ∨ argLen s f ≤ b.toNat → exec (.kwFutarg rd ca rs1) s = .next (hartSet s h rd (BitVec.allOnes 64))) ∧
        (b.toNat % 4 = 0 → n = 0 ∨ capRangeFails h .load b.toNat (4 * n) = false → f.live = true → n ≤ rqGet s f.req rqPFQSIZE →
          ∀ bs u v st, hartLoad s h .load b (4 * n) = .ok (bs, u) →
            futComplete (unitRelease u) key (some ((List.range n).map (fun j => fromBytes (slice bs (4 * j) 4)))) 0 = (st, v) →
            exec (.kwFutcpl rd ca rs1 rs2) s = .next (hartSet (hartWrote v (capReg ca.toNat)) (h.setCap ca .null) rd (w64 st)))) ∧
      (∀ v st, futComplete (unitRelease s) key none (fld b 31 0) = (st, v) →
        exec (.kwFutfail rd ca rs1) s = .next (hartSet (hartWrote v (capReg ca.toNat)) (h.setCap ca .null) rd (w64 st)))) ∧
    exec .kwRel s = .next (hartNext (unitRelease s) h)

/-- A sandbox access is allowed by one unsealed capability that covers it, and is then made under the page tables; where no
capability has the permission it is a CAPFAULT at its first byte. Every trap copies SBX to PSBX and clears it, and SRET to U-mode restores it; the registers that a trap fills in M-mode
are those of the RISC-V privileged architecture, which also says where SRET traps (R116, R118, R334; notes/assumptions/12.md, PRESUMED). The management
controller fills its trap banks, and a third trap leaves a crash record and resets the controller (R290, R302). -/
def SandboxChecksAndTraps : Prop :=
  ∀ (s : State) (hart len : Nat) (k : HartAccess) (va cause tval pc st : Word) (w : W32),
    let h := s.hart hart
    let me := s.myHart
    let s' : State := { s with cur := .hart hart }
    let a := hartPtr h (h.mode k) k va.toNat
    let ends (t : State) : Prop := exec (.sandboxAccess hart k va len) s = .next t
    let traps (c tval gpa : Word) : Prop := ends (s'.setHart hart (h.trapAt c tval gpa h.virt))
    let bank : McBank := { mepc := pc, mcause := cause, mtval := tval, mstatus := st }
    (h.priv = 0 → h.sbx = true →
      (0 < len → (∀ i, i < 16 → (fget Cap.null h.caps i).grants k = false) →
        traps xCapFault (w64 (a % 2 ^ 64)) 0#64) ∧
      (∀ i c, i < 16 → c = fget Cap.null h.caps i → c.grants k = true → c.base.toNat ≤ a → a + len ≤ c.base.toNat + c.length.toNat →
        (∀ x ga b, hartPages h (h.mode k) k (len / 4096 + 2) s' a len = .error ((x, ga), b) →
          x ≠ xHardware → traps x (w64 b) (w64 ga)) ∧
        (k = .store → ∀ l u, hartPages h (h.mode k) k (len / 4096 + 2) s' a len = .ok (l, u) → ends u) ∧
        (k ≠ .store → ∀ bs u, hartLoad s' h k va len = .ok (bs, u) → ends u)) ∧
      exec (.sandboxTrap hart cause tval) s = .next (s.setHart hart (h.trap cause tval))) ∧
    ((h.trap cause tval).psbx = h.sbx ∧ (h.trap cause tval).sbx = false ∧
      (h.priv = 3 → let t := h.trap cause tval
        t.rCsr 0x341 = h.pc ∧ t.rCsr 0x342 = cause ∧ t.rCsr 0x343 = tval ∧ t.priv = 3 ∧
        (cause.getLsbD 63 = false → t.pc = (h.rCsr 0x305) &&& ~~~3#64) ∧ t.x = h.x ∧ t.caps = h.caps)) ∧
    exec (.xkwedarIllegal w) s = .next (hartTrap s xIllegal (w.zeroExtend 64)) ∧
    (me.sretTrap = none → exec .sret s = .next (s.setHart s.hartId me.sret)) ∧
    (me.sret.sbx = if me.sret.priv = 0 then me.psbx else me.sbx) ∧
    (∀ c, me.sretTrap = some c → exec .sret s = .next (hartTrap s c (sretWord.zeroExtend 64))) ∧
    (me.priv = 0 → me.sretTrap = some (if me.virt = true then xVirtual else xIllegal)) ∧ (me.priv = 3 → me.virt = false → me.sretTrap = none) ∧
    (s.mc.banks.length < 2 → exec (.mcTrap pc cause tval st) s = .next { s with mc := { s.mc with banks := s.mc.banks ++ [bank] } }) ∧
    (∀ b0 b1, s.mc.banks = [b0, b1] → ∃ t, exec (.mcTrap pc cause tval st) s = .next t ∧ t.mc.banks = [] ∧
      (regGet t offREADY).getLsbD 30 = false ∧ t.mc.crash.drop 1 = [b0.mcause, b0.mepc, b0.mtval, b1.mcause, b1.mepc, cause, pc] ∧
      fld (t.mc.crash.getD 0 0) 31 0 = 0x4B435231 ∧ t.mem = s.mem) ∧
    exec .mret s = .next { s with mc := { s.mc with banks := s.mc.banks.dropLast } }

/-- The harts and the management controller.
Every Xkwedar instruction, SRET and the traps answer the next state given here.
Readings of the model that it rests on: notes/assumptions/12.md, 61.md, 62.md. -/
def Obligations.HartsCapabilitiesToolsAndTraps : Prop := CapabilitiesAndSandbox ∧ ToolInstructions ∧ SandboxChecksAndTraps

/-! ### The Front (03) -/

/-- A boundary with nothing to end publishes the next step; one after a published DRAIN ends serving; pages moved or freed take
their new places; a faulted slot's bit reaches a cluster and clears what an ACCEPT has set since (R50, R67,
R70, R75, R76, R96). -/
def StepsAndPages : Prop :=
  ∀ (s : State) (m : PageMove) (x : PageFree) (p : KvPage) (clu slot : Nat),
    let f := s.front
    let quietFront : Prop := f.slots = [] ∧ f.cancels = [] ∧ f.deadSlots = [] ∧ f.deadPages = [] ∧ s.futures = [] ∧ f.held = [] ∧
      f.leaving = [] ∧ s.soft = []
    (f.ending = true → servActive s = true → f.plan = none → allDone s = true → quietFront →
      (∀ i, i < 64 → tset s setRQCOUNT i = 0) →
      (f.drainPub = true → ∃ t, exec .stepBoundary s = .next t ∧ t.front.drained = true ∧ t.front.ending = false ∧
        servBusy t = true ∧ t.mem = s.mem) ∧
      (f.drainPub = false → f.moves = [] →
        ∃ t, exec .stepBoundary s = .next t ∧ t.front.step = f.step + 1 ∧ t.front.ending = true ∧ t.front.doneCores = [] ∧
          t.front.active = [] ∧ t.front.faulted = [] ∧ t.front.plan = none)) ∧
    (f.ending = false ∨ allDone s = false → exec .stepBoundary s = .next s) ∧
    (f.moves = [m] → f.plan = none → drained s m.ids = true → (frontReq s m.req).pages[m.idx]? = some p →
      ∃ t, exec (.kvSpillCopyDone m.id) s = .next t ∧ t.front.moves = [] ∧
        (frontReq t m.req).pages[m.idx]? = some { p with pa := m.dst, spill := m.spill }) ∧
    (f.frees = [x] → f.plan = none → drained s x.ids = true → servActive s = true →
      ∃ t, exec (.kvPageFreeDone x.id) s = .next t ∧ t.front.frees = [] ∧ t.mem = s.mem ∧
        t.front.free = if x.page.spill = true then f.free else x.page.pa :: f.free) ∧
    (slot ∈ f.faulted → ∃ t, exec (.faultedSlotArrival clu slot) s = .next t ∧ slotMasked t clu slot = true ∧ t.strands = s.strands ∧
      (slotReq s slot = none → t.mem = s.mem) ∧
      ∀ r, slotReq s slot = some r → RecordQuiet s r → rqFlag t r flCommit = false) ∧
    (slot ∉ f.faulted → exec (.faultedSlotArrival clu slot) s = .next s)

/-- GO is refused with ERR, or reads the free pool, empties the step words, submits the step program's launch and stays BUSY;
serving turns ACTIVE once every task is placed, DRAIN asks it to end, and after the last step it goes off; while it is on, bits
of the core mask can only be cleared (R73, R74). -/
def ServingTurnsOnAndOff : Prop :=
  ∀ (s : State) (die : Nat) (v : Word) (k : Nat) (l : Launch),
    let pool := (List.range (kvFreeCnt s)).map (fun i => bitsN (cohNat s (kvFreeBase s + 8 * i) 8) 55 16 * 65536)
    let s1 := (servFld s 3 3 1).updFront (fun f => { f with free := pool.reverse })
    let off := regGet s1 (offSERV + 0x30)
    let words := fld off 21 0 :: (List.range 16).map (fun c => fld off 53 32 + 8 * c)
    let s2 := (servClusters s1).foldl (fun s c => words.foldl (emptyWord c) s) s1
    let t := servTenant s2
    let s3 := unitScan s2 t (tset s2 setRESIDENT t) 64
    (fnReady s 28 = false → exec .servectlGo s = .next s) ∧
    (fnReady s 28 = true → goRefused s = true → ∃ u, exec .servectlGo s = .next u ∧ (servCtl u).getLsbD 4 = true ∧ u.mem = s.mem ∧ u.front = s.front) ∧
    (fnReady s 28 = true → goRefused s = false → ∀ bs w u, unitRead s3 t (tset s3 setRESIDENT t) 64 = some bs →
      submitLaunch s3 t ((List.range 8).map (fun i => w64 (fromBytes (slice bs (8 * i) 8)))) true none = (w, u) →
      (fld w 7 0 = 0 → exec .servectlGo s = .next (u.updFront (fun f => { f with launch := some (launchKey t (fld w 63 32)) }))) ∧
      (fld w 7 0 ≠ 0 → exec .servectlGo s = .next (goFailed u))) ∧
    (fnReady s 28 = true → goRefused s = false → unitRead s3 t (tset s3 setRESIDENT t) 64 = none →
      exec .servectlGo s = .next (goFailed s3)) ∧
    (s.front.launch = some k → s.launch k = some l → servBusy s = true → servActive s = false →
      (l.outcome ≠ 0 → l.placed < l.tasks → exec .servingActivate s = .next (goFailed s)) ∧
      (l.outcome = 0 → l.placed < l.tasks → exec .servingActivate s = .next s) ∧
      (l.tasks ≤ l.placed → exec .servingActivate s =
        .next (planStep (returns (applyCancels (freeDead (boundaryReads (servFld s 3 2 1)))).1)))) ∧
    (servActive s = true → ∃ u, exec .servectlDrain s = .next u ∧ servDrain u = true ∧ u.mem = s.mem ∧ u.front = s.front) ∧
    (servActive s = true → s.front.drained = true → s.front.launch = some k → s.launch k = some l → l.live = 0 →
      ∃ u, exec .servingOff s = .next u ∧ servActive u = false ∧ servDrain u = false ∧ u.front.drained = false ∧ u.front.free = [] ∧
        kvFreeCnt u = s.front.free.length % 2 ^ 25) ∧
    (die < 4 → ∃ u, exec (.servemaskWrite die v) s = .next u ∧ u.mem = s.mem ∧ u.strands = s.strands ∧ ∀ i, i < 48 →
      (regGet u (offSERV + 0x40 + 8 * die)).getLsbD i =
        (v.getLsbD i && (!servActive s || (regGet s (offSERV + 0x40 + 8 * die)).getLsbD i)))

/-- A deferred completion record is written once its ring has room, and discarded where the ring has another owner (R110,
R296). -/
def DeferredRecordsAreRetried : Prop :=
  ∀ (s u : State) (d : Deferred), s.deferred = [d] → d.ring < 2 ^ 16 → d.req = none → d.data.getD 0 0 ≠ 7#8 →
    (cqOwned s d.ring d.tenant d.sys = false → exec (.deferredRingWrite d.ring) s = .next { s with deferred := [] }) ∧
    (cqOwned s d.ring d.tenant d.sys = true → cqStore s d.ring d.data = some u → u.deferred = [d] →
      exec (.deferredRingWrite d.ring) s = .next { u with deferred := [] }) ∧
    (cqOwned s d.ring d.tenant d.sys = true → cqStore s d.ring d.data = none → exec (.deferredRingWrite d.ring) s = .next s)

/-- A boundary fixes the outcome of a slot's request by the tests of R56 in their order: a lost commit, a fault, a cancellation, a
stop, and an ADMITTED one that has had rows goes on BLOCKED or RUNNING. A request that ends becomes FREE, out of its slot, once
its completion record is written (R56, R61). -/
def OutcomesComeInOrder : Prop :=
  ∀ (s : State) (fresh : List Nat) (slot r : Nat),
    let t := slotOutcome fresh s (slot, r)
    let st := rqGet s r rqSTATE
    let code := rqGet s r rqFCODE
    let stop := bitsN (rqGet s r rqFLAGS) 4 3
    let lost : Prop := rqFlag s r flCommit = true ∧ ¬ (slot ∈ s.front.faulted ∧ code ≠ 0)
    let cancelled : Prop := rqFlag s r flCancel = true ∧ r ∉ fresh
    let first : Prop := st = stADMITTED ∧ slot ∈ s.front.active
    (st < stRETIRED →
      (lost → ∃ u, t = endRequest u r stFAULTED 5 ∧ (RecordQuiet s r → rqGet u r rqFCODE = fcCOMMIT_LOST)) ∧
      (¬ lost → code ≠ 0 → t = endRequest s r stFAULTED 5) ∧
      (¬ lost → code = 0 → cancelled → t = endRequest s r stCANCELLED 4) ∧
      (¬ lost → code = 0 → ¬ cancelled → stop ≠ 0 → t = endRequest s r stRETIRED stop) ∧
      (¬ lost → code = 0 → ¬ cancelled → stop = 0 →
        (first → RecordQuiet s r → rqGet t r rqSTATE = if (rqFuture s r).isSome = true then stBLOCKED else stRUNNING) ∧
        (¬ first → t = s))) ∧
    ∀ (state reason : Nat) (u : State) (b : Bool), rqFuture s r = none →
      let s1 := unitRelease (rqPut s r rqSTATE state)
      let cq := rqGet s1 r rqCQ
      let e := endRequest s r state reason
      cqPut s1 (bitsN cq 12 0) (reqTenant r) (bitN cq 13) (endRecord s1 r state reason) (some r) = (u, b) →
      (b = false → e = u) ∧
      (b = true → rqFuture u r = none → u.front.moves = [] → (frontReq u r).pages = [] → RecordQuiet u r →
        rqGet e r rqSTATE = stFREE ∧ rqGet e r rqSLOT = 0xFFFF ∧ ∀ x ∈ e.front.slots, x.2 ≠ r)

/-- Admission serves the tenant with the largest deficit, of it the oldest candidate; the one candidate of a class gets a slot
where its tenant's slots and pages and the device's pages cover it; a tenant that is short passes, a device that is short ends
admission (R64). -/
def AdmissionTakesTheOldest : Prop :=
  (∀ (d : Nat → Int) (l : List Nat) (t : Nat), largest d l = some t →
    t ∈ l ∧ ∀ u ∈ l, d u ≤ d t ∧ (l.Pairwise (· < ·) → d u = d t → t ≤ u)) ∧
  (∀ (s : State) (l : List Nat) (r : Nat), oldestReq s l = some r →
    r ∈ l ∧ ∀ q ∈ l, rqGet s r rqAGE ≤ rqGet s q rqAGE ∧ (l.Pairwise (· < ·) → rqGet s q rqAGE = rqGet s r rqAGE → r ≤ q)) ∧
  ∀ (s : State) (a : Admit) (r slot cls : Nat),
    let t := reqTenant r
    let out := admitClass isCandidate (s, a) cls
    let room : Prop := slotsHeld s t < tset s setSLOTQ t ∧ (tenantPages s t).length + wantPages s r ≤ tset s setPAGEQ t
    let d := min (fget 0 s.front.deficit t + (tset s setWEIGHT t : Int)) 65535
    (allRequests s).filter (fun q => isCandidate s q && rqGet s q rqPRIO == cls) = [r] → rqGet s r rqSTATE = stQUEUED →
    freeSlot s = some slot → s.front.frees = [] → spilledPages s r = 0 → a.kept = [] → a.full = false →
    (room → wantPages s r ≤ s.front.free.length → out.2.fresh = a.fresh ++ [slot] ∧ out.2.full = false ∧
      out.1.front.slots = fset s.front.slots slot r ∧ fget 0 out.1.front.deficit t = d - 256 ∧
      (RecordQuiet s r → rqGet out.1 r rqSTATE = stADMITTED ∧ rqGet out.1 r rqSLOT = slot ∧
        rqGet out.1 r rqPROG = ccnt s % 2 ^ 64)) ∧
    (room → s.front.free.length < wantPages s r → out.2.full = true ∧ out.2.fresh = a.fresh ∧
      out.1.front.slots = s.front.slots ∧ out.1.mem = s.mem) ∧
    (¬ room → out.2.full = false ∧ out.2.fresh = a.fresh ∧ out.1.front.slots = s.front.slots ∧ out.1.mem = s.mem)

/-- The rows of a step: a decode row for a request that has generated and has no pending prefill, else prefill rows from the first
position pending, as many as PFCHUNK, ROWQ and the 16,384 rows of a step leave (R68). -/
def RowsAreChosen : Prop :=
  (∀ (s : State), ∀ y ∈ chooseRows s, ∃ r, (y.slot, r) ∈ rowReqs s ∧
    (y.kind = 1 → pendingRows s r = 0 ∧ 1 ≤ rqGet s r rqGEN ∧ y.pos = rqGet s r rqPOS) ∧
    (y.kind = 0 → pendingRows s r ≠ 0)) ∧
  ∀ (s : State) (slot r : Nat), rowReqs s = [(slot, r)] →
    let t := reqTenant r
    let quota := min 16384 (tset s setROWQ t)
    (pendingRows s r = 0 → rqGet s r rqGEN = 0 → chooseRows s = []) ∧
    (pendingRows s r = 0 → 1 ≤ rqGet s r rqGEN → draftRows s slot r = [] → chooseRows s =
      if quota = 0 then [] else [{ slot := slot, pos := rqGet s r rqPOS, node := 0, kind := 1, parent := 0 }]) ∧
    (pendingRows s r ≠ 0 → chooseRows s = (List.range (min (min (pendingRows s r) (tset s setPFCHUNK t)) quota)).map
      (fun i => { slot := slot, pos := (pending s r).1 + i, node := 0, kind := 0, parent := 0 }))

/-- Pages that run short: which requests may be evicted, in which order, and what one keeps; with none left the request in need is
faulted KV_EXHAUSTED and its pages are freed; where they suffice they are mapped (R65 to R67). -/
def PagesAreFoundByEviction : Prop :=
  (∀ (s : State) (x : Nat × Nat), evictable s x = true ↔
    (rqGet s x.2 rqSTATE = stADMITTED ∨ rqGet s x.2 rqSTATE = stRUNNING ∨ rqGet s x.2 rqSTATE = stBLOCKED) ∧
    rqGet s x.2 rqEVCLASS ≠ 0 ∧ rqFlag s x.2 flCommit = false ∧ rqFlag s x.2 flCancel = false) ∧
  (∀ (s : State) (l : List (Nat × Nat)) (x : Nat × Nat), firstEvicted s l = some x → x ∈ l ∧ ∀ y ∈ l,
    let v (f : Nat) := rqGet s x.2 f
    let w (f : Nat) := rqGet s y.2 f
    w rqEVCLASS < v rqEVCLASS ∨ (w rqEVCLASS = v rqEVCLASS ∧ (v rqPRIO < w rqPRIO ∨ (v rqPRIO = w rqPRIO ∧
      (v rqPROG < w rqPROG ∨ (v rqPROG = w rqPROG ∧ x.1 ≤ y.1)))))) ∧
  ∀ (s : State) (slot r n : Nat) (p : Plan) (v : Nat × Nat),
    let t := reqTenant r
    let need := needPages s p.rows slot r
    let short := decide (tset s setPAGEQ t < (tenantPages s t).length + need)
    let cands := (s.front.slots.filter (evictable s)).filter (fun x => !short || reqTenant x.2 == t)
    let out := getPages slot r (n + 1) s
    let e := evict s slot r
    (e.front.slots = fdel s.front.slots slot ∧ (tset s setEVPOL t ≠ 0 → (frontReq e r).pages = []) ∧
      (s.front.moves = [] → (frontReq s r).pages = [] → RecordQuiet s r →
        rqGet e r rqSTATE = stSUSPENDED ∧ rqGet e r rqSLOT = 0xFFFF)) ∧
    (s.front.plan = some p → slotReq s slot = some r → s.front.frees = [] → s.front.moves = [] → need ≠ 0 →
      (short = false → need ≤ s.front.free.length → out = (mapPages slot r need s, false)) ∧
      (short = true ∨ s.front.free.length < need →
        (firstEvicted s cands = some v → out = getPages slot r n (evict s v.1 v.2)) ∧
        (firstEvicted s cands = none → out.2 = false ∧ (frontReq out.1 r).pages = [] ∧ slot ∈ out.1.front.faulted)))

/-- The Front's steps, pages, serving control, deferred records, outcomes, admission, rows and evictions. That serving fails to
turn on where its resident descriptor cannot be read is the model's choice (notes/assumptions/25.md).
Readings of the model that it rests on: notes/assumptions/25.md, 50.md, 55.md, 60.md. -/
def Obligations.TheFrontRunsSteps : Prop :=
  StepsAndPages ∧ ServingTurnsOnAndOff ∧ DeferredRecordsAreRetried ∧ OutcomesComeInOrder ∧ AdmissionTakesTheOldest ∧
  RowsAreChosen ∧ PagesAreFoundByEviction

/-! ### Shootdowns, side logs and homes (07 R153 to R163; 08 R169 to R173, R182) -/

/-- A shootdown makes every handle of the page and every TLB entry of the granule invalid, and DONE is set once nothing that
captured one is in flight; KICK lets walks that met a migrating mapping walk afresh; a command is ignored while one is busy;
a tenant's reset goes on once what its own shootdown waits for has ended (R161, R162, R301). -/
def ShootdownsInvalidate : Prop :=
  ∀ (s : State),
    let pa := tsPa s
    let size := tsSize s
    let busy (t : State) : Prop := (regGet t offTSCMD).getLsbD 8 = true ∧ (regGet t offTSCMD).getLsbD 9 = false
    let handlesGone (t : State) : Prop := (∀ core slot (h : HReg), ((t.strand core slot).rH h).valid =
        (((s.strand core slot).rH h).valid && !inPage pa size ((s.strand core slot).rH h).pbase.toNat)) ∧
      ∀ clu, ∀ e ∈ (t.clu clu).hcache, inPage pa size e.pa = false
    let tlbGone (t : State) : Prop := ∀ clu e, e ∈ (t.clu clu).tlb ↔ e ∈ (s.clu clu).tlb ∧
      ¬ (e.tenant = tsTenant s ∧ overlap e.va (pageBytes e.size) (tsVa s / 65536 * 65536) 65536 = true)
    let idle : Prop := (regGet s offTSCMD).getLsbD 8 = false
    (idle → size ≠ 3 → ∃ t, exec .tscmdHandles s = .next t ∧ busy t ∧ t.tsBusy = drainIds s true false pa size ∧ handlesGone t ∧
      t.mem = s.mem) ∧
    (idle → ∃ t, exec .tscmdTlb s = .next t ∧ busy t ∧ t.tsBusy = drainIds s false true 0 0 ∧ tlbGone t ∧ t.mem = s.mem ∧
      t.strands = s.strands) ∧
    (idle → size ≠ 3 → ∃ t, exec .tscmdBoth s = .next t ∧ busy t ∧ t.tsBusy = drainIds s true true pa size ∧ handlesGone t ∧
      tlbGone t ∧ t.mem = s.mem) ∧
    (idle → size ≠ 3 → (∀ c ∈ s.clusters, c.2.sidelog = []) → ∃ t, exec .tscmdKick s = .next t ∧ busy t ∧ t.mem = s.mem ∧
      ∀ core slot, let x := s.strand core slot
        (t.strand core slot).phase = if x.phase = .migrate ∧ tsTenant s ∈ walksOf s x ∧
          x.pva.toNat % 2 ^ 57 / pageBytes size = tsVa s / pageBytes size then x.kicked.phase else x.phase) ∧
    (¬ idle → exec .tscmdHandles s = .next s ∧ exec .tscmdTlb s = .next s ∧ exec .tscmdBoth s = .next s ∧
      exec .tscmdKick s = .next s) ∧
    (¬ idle → drained s s.tsBusy = true → s.trst = [] → ∃ t, exec .shootdownDone s = .next t ∧
      (regGet t offTSCMD).getLsbD 8 = false ∧ (regGet t offTSCMD).getLsbD 9 = true ∧ t.tsBusy = [] ∧ t.mem = s.mem) ∧
    (¬ idle → drained s s.tsBusy = false → s.trst = [] → exec .shootdownDone s = .next s) ∧
    ∀ tenant ids, idle → s.trst = [(tenant, ids)] → exec .shootdownDone s =
      .next (if drained s ids = true then resetEnd { s with trst := [] } tenant else s)

/-- A page's side-log entries are performed and leave the log once a replay finds the page, 65,536 cycles after the last or on a
RETRY; a DISCARD drops the held page's entries and counts them (R155 to R157). -/
def SideLogsReplay : Prop :=
  ∀ (s : State) (clu tenant g c0 pte : Nat) (va : Nat) (e : SlEntry) (te : TlbEntry),
    let k := s.clu clu
    let u1 := s.updClu clu (fun c => { c with slAt := [(tenant, g, s.cycle)] })
    let u2 := s.updClu clu (fun c => { c with slHeld := none })
    let log (t : State) := slOf (t.clu clu) tenant g
    let clean (u : State) : Prop := ∀ w ∈ walkKeys u tenant e.va, fget? u.soft w = none
    let done (t : State) : Prop := log t = [] ∧ (te.attr = 0#2 → e.op = .st →
      (∀ j, j < e.data.length → physOk (te.phys e.va + j) = true) → readBytes t.mem (te.phys e.va) e.data.length = e.data)
    (k.slAt = [(tenant, g, c0)] → 65536 ≤ s.cycle - c0 → k.slHeld = none → log s = [e] → clean u1 →
      xlateWalk u1 tenant e.va .store clu = (.ok te, some pte) →
      ∃ t, exec (.sidelogPeriodicReplay clu) s = .next t ∧ done t) ∧
    (k.slHeld = some (tenant, g, va) → log s = [e] → clean u2 → xlateWalk u2 tenant e.va .store clu = (.ok te, some pte) →
      ∃ t, exec (.slactRetry clu) s = .next t ∧ done t ∧ (t.clu clu).slHeld = none) ∧
    (k.slHeld = some (tenant, g, va) → ∃ t, exec (.slactDiscard clu) s = .next t ∧ log t = [] ∧ (t.clu clu).slHeld = none ∧
      fld (regGet t (offSLSTAT clu)) 63 32 = min (fld (regGet s (offSLSTAT clu)) 63 32 + (log s).length) (2 ^ 32 - 1) ∧
      t.mem = s.mem) ∧
    (k.slHeld = none → exec (.slactRetry clu) s = .next s ∧ exec (.slactDiscard clu) s = .next s)

/-- A participant's cache has room for one more line (R15). -/
def HasRoom (s : State) (who : Nat) : Prop :=
  if who < 192 then (s.clu (cluOfIndex who)).lines.length < cluLines else s.hcx.length < sysLines

/-- A home gives a line that nobody holds to its requester; a holder that is snooped hands its data over and keeps the line, or
gives it up to a writer; an SC write is performed at the home; a flush leaves no line of its page in any cluster (R169 to R173,
R182). -/
def HomesServeAndSnoop : Prop :=
  ∀ (s : State) (line who w born id : Nat) (kind : HomeReqKind) (data : List Byte) (r : Reply) (p : Posted) (bs : List Byte)
    (v : Word) (st : Moesi),
    let q : HomeReq := { line := line, who := who, kind := kind }
    (physOk (128 * line) = true → s.homeReqs = [q] → s.homeTxns = [] → fget? s.dirs line = none → (setLines s line).length < 16 →
      HasRoom s who → hcHeld s who line = none → ∃ t, exec (.homeCoherentRequest line none) s = .next t ∧ t.homeReqs = [] ∧ t.homeTxns = [] ∧
        hcHeld t who line = some (if kind = .read then .e else .m, readBytes s.mem (128 * line) 128) ∧
        (dirOf t line).holders = [who] ∧ (dirOf t line).owner = some who ∧ t.mem = s.mem) ∧
    (s.homeTxns = [{ req := q, snoops := [w], data := none }] → w < 192 → who < 192 → w ≠ who → HasRoom s who →
      dirOf s line = { holders := [w], owner := some w, born := born } → hcHeld s w line = some (st, data) →
      st = .m ∨ st = .o → hcHeld s who line = none → ∃ t, exec (.snoopReceived line w r) s = .next t ∧ t.homeTxns = [] ∧
        t.mem = s.mem ∧ (if kind = .read
          then hcHeld t who line = some (.s, data) ∧ hcHeld t w line = some (.o, data) ∧ (dirOf t line).owner = some w
          else hcHeld t who line = some (.m, data) ∧ hcHeld t w line = none ∧ (dirOf t line).owner = some who)) ∧
    (s.posted = [p] → postedFirst s p = true → p.id = id → p.kind = .sc → p.op = .st → p.done = false → lineBusy s (lineOf p.key) = false →
      tracked s (lineOf p.key) = false → physOk p.key = true → p.data = bs.map some →
      ∃ t, exec (.scWriteAtHome id) s = .next t ∧ t.posted = [{ p with done := true, vis := ccnt s + 1 }] ∧
        readBytes t.mem p.key bs.length = bs ∧
        ∀ a, a < p.key ∨ p.key + bs.length ≤ a → readByte t.mem a = readByte s.mem a) ∧
    ((regGet s offCMOCMD).getLsbD 8 = false → v.getLsbD 0 = true → fld (regGet s offCMOPA) 1 0 ≠ 3 →
      ∃ t, exec (.cmocmdFlush v) s = .next t ∧ (regGet t offCMOCMD).getLsbD 8 = true ∧ t.mem = s.mem ∧
        t.cmo = some (fld (regGet s offCMOPA) 55 16 * 65536, fld (regGet s offCMOPA) 1 0)) ∧
    ((regGet s offCMOCMD).getLsbD 8 = true → exec (.cmocmdFlush v) s = .next s) ∧
    (∀ pa size, s.cmo = some (pa, size) → ∃ t, exec .cmoFlushDone s = .next t ∧ t.cmo = none ∧
      (regGet t offCMOCMD).getLsbD 8 = false ∧ (regGet t offCMOCMD).getLsbD 9 = true ∧
      ∀ clu, ∀ e ∈ (t.clu clu).lines, inPage pa size (128 * (e.1 / 4)) = false)

/-- Shootdowns, side logs and homes.
Readings of the model that it rests on: notes/assumptions/32.md, 34.md, 35.md, 43.md, 44.md, 58.md. -/
def Obligations.ShootdownsSideLogsAndHomes : Prop := ShootdownsInvalidate ∧ SideLogsReplay ∧ HomesServeAndSnoop

/-! ### The endpoint and remote completions (05 R111, R112, R121, R122; 10 R226 to R230) -/

/-- EPDB arms the work request of a table entry, which fires at once, at a matching arrival or at a counter, or disarms it; a
request that ends releases, raises its event counter and leaves; one that meets a translation fault stalls, and a stall ends as
R229 says; a REMOTE tool queue is drained entry by entry (R121, R226 to R229). -/
def EndpointRequestsFireAndComplete : Prop :=
  ∀ (s : State) (tenant : Nat) (v : Word) (q : EpReq) (m : EpMsg) (r : Reply),
    let i := fld v 11 0
    let n := tset s setEPWRCNT tenant
    let s1 := epDisarm (unitRelease s) tenant i
    let words (bs : List Byte) := (List.range 8).map (fun j => w64 (fromBytes (slice bs (8 * j) 8)))
    let ctr := epXlate s q.tenant (ctrVa s q.tenant q.ctr) .store
    let answer : EpMsg := { tenant := q.tenant, peer := q.peer, tag := 0, data := r.data }
    (v.getLsbD 12 = true ∨ n ≤ i → exec (.epdbArm tenant v) s = .next s) ∧
    (v.getLsbD 12 = false → i < n → ∀ bs s2, epRead s1 tenant (tset s1 setEPWRBASE tenant + 64 * i) 64 = (some bs, s2) →
      (epEntryOk ((words bs).getD 0 0) = false → exec (.epdbArm tenant v) s = .next s2) ∧
      (epEntryOk ((words bs).getD 0 0) = true →
        let x : EpReq :=
          { id := s2.nextId, tenant := tenant, index := i, words := words bs, armed := true, fired := false, spent := false,
            stall := none, msg := none }
        let t : State := { s2 with nextId := s2.nextId + 1, epReqs := epInsert x s2.epReqs }
        exec (.epdbArm tenant v) s = .next (if x.trig = 0 then epFire t x else if x.trig = 1 then t else epWatch t x))) ∧
    (v.getLsbD 12 = true → i < n → s.epReqs = [q] → q.tenant = tenant → q.index = i →
      ∃ t, exec (.epdbDisarm tenant v) s = .next t ∧ t.mem = s.mem ∧
        t.epReqs = (if q.fired = false ∨ 3 ≤ q.kind then [] else [{ q with armed := false }])) ∧
    (v.getLsbD 12 = false ∨ n ≤ i → exec (.epdbDisarm tenant v) s = .next s) ∧
    (q.kind ≤ 1 → ∀ pa u1 bs u, ctr = (some pa, u1) → epRead u1 q.tenant q.laddr q.len = (some bs, u) → epFire s q =
      (epUpd u q.id (fun x => { x with fired := true, spent := true, stall := none })).send (.epSend q.kind q.peer (q.word 6) bs)) ∧
    (q.kind = 2 → ∀ pa u, ctr = (some pa, u) → epFire s q =
      (epUpd u q.id (fun x => { x with fired := true, spent := true, stall := none })).send (.epRead q.peer (q.word 6) q.len)) ∧
    (q.kind ≤ 2 → ∀ u, ctr = (none, u) → epFire s q = epStall (epUpd u q.id (fun x => { x with spent := true })) q none) ∧
    (s.epReqs = [q] → q.armed = true → q.fired = true → q.stall = none →
      (q.kind = 3 → q.matches m = true → ∀ pa u1 u, ctr = (some pa, u1) →
        epWrite u1 q.tenant q.laddr (m.data.take q.len) = some u →
        exec (.epMessageArrival m) s = .next (epTrigger true (epCount (epLeave u q) q pa) m)) ∧
      (q.kind = 3 → q.matches m = true → q.odp = false → ∀ u1, ctr = (none, u1) →
        exec (.epMessageArrival m) s = .next (epTrigger true (epStall u1 q (some m)) m)) ∧
      (q.kind = 3 → q.matches m = false → exec (.epMessageArrival m) s = .next (epTrigger true s m)) ∧
      (q.kind ≤ 1 → r.code = 0 → ∀ pa u, ctr = (some pa, u) →
        exec (.epTransferComplete q.id r) s = .next (epCount (epLeave u q) q pa)) ∧
      (q.kind = 2 → r.code = 0 → ∀ pa u1 u, ctr = (some pa, u1) → epWrite u1 q.tenant q.laddr (r.data.take q.len) = some u →
        exec (.epTransferComplete q.id r) s = .next (epCount (epLeave u q) q pa)) ∧
      (q.kind ≤ 2 → r.code = 0 → q.odp = false → ∀ u, ctr = (none, u) →
        exec (.epTransferComplete q.id r) s = .next (epStall u q (some answer))) ∧
      (r.code ≠ 0 → exec (.epTransferComplete q.id r) s = .next s)) ∧
    (∀ t0, s.epReqs = [q] → q.stall = some t0 →
      (((epFind (epRetry s q) q.id).bind (·.stall)).isNone = true → exec (.epOdpTimeout q.id) s = .next (epRetry s q)) ∧
      (((epFind (epRetry s q) q.id).bind (·.stall)).isNone = false →
        (s.cycle < t0 + 320000 → exec (.epOdpTimeout q.id) s = .next s) ∧
        (t0 + 320000 ≤ s.cycle → q.accessed = false → ∃ t, exec (.epOdpTimeout q.id) s = .next t ∧ t.mem = s.mem ∧
          t.outbox = s.outbox ++ [.epResend ((q.msg.map (·.peer)).getD q.peer)]))) ∧
    (∀ n, s.epReqs = [q] → q.armed = true → q.fired = true → q.stall = none → q.kind = 4 → q.laddr = n → n ≤ 255 →
      let d := tqDesc s n
      d.valid = true → d.remote = true → q.tenant = d.tenant →
      (d.head = d.tail → exec (.toolQueueForward n) s = .next s) ∧
      (d.head ≠ d.tail → ∀ pa u, ctr = (some pa, u) →
        (tqFaults u d = true → exec (.toolQueueForward n) s = .next (epStall u q none)) ∧
        (tqFaults u d = false → ∀ e f t,
          (tqPop (fun s t a n => (epRead s t a n).1) u n = (some (e, f), t) →
            exec (.toolQueueForward n) s = .next (epCount ((epLeave t q).send (.epSend 4 q.peer (q.word 6) e)) q pa)) ∧
          (tqPop (fun s t a n => (epRead s t a n).1) u n = (none, t) → exec (.toolQueueForward n) s = .next t))) ∧
      (d.head ≠ d.tail → ∀ u, ctr = (none, u) → exec (.toolQueueForward n) s = .next (epStall u q none)))

/-- A completion message: one that names a live future of its tenant resolves it COMPLETED with its tokens injected, or FAILED,
with status 0; one too short or malformed gets status 4, one for a future that has resolved 2 or 3 (R111, R112, R122, R230). -/
def CompletionMessagesResolveFutures : Prop :=
  ∀ (s : State) (m : EpMsg) (i : Nat) (f : Future) (toks : List (BitVec 32)),
    let key := w64 (fromBytes (slice m.data 0 8))
    let kind := fromBytes (slice m.data 8 1)
    (m.data.length < 16 ∨ m.data.length % 4 ≠ 0 ∨ 1 < kind → applyCompletion s m = (4, s)) ∧
    (m.data.drop 16 = toks.flatMap (fun t => toBytes 4 t.toNat) → 16 ≤ m.data.length → toks.length ≤ 2 ^ 20 → kind ≤ 1 →
      OnTime s (fld key 15 0) → fget? s.soft (futKey (fld key 15 0)) = none →
      (futMatch s key = none → applyCompletion s m = (2, s)) ∧
      (futMatch s key = some (i, f) → f.tenant ≠ m.tenant → applyCompletion s m = (4, s)) ∧
      (futMatch s key = some (i, f) → f.tenant = m.tenant →
        (f.state = fuCOMPLETED ∨ f.state = fuTIMEDOUT → applyCompletion s m = (2, s)) ∧
        (f.state = fuFAILED ∨ f.state = fuCANCELLED → applyCompletion s m = (3, s)) ∧
        (f.live = true → kind = 0 → toks.length ≤ rqGet s f.req rqPFQSIZE → applyCompletion s m =
          (0, putFut (inject s f.req (toks.map (·.toNat))) i { f with state := fuCOMPLETED, result := 1 })) ∧
        (f.live = true → kind = 1 → ∃ t, applyCompletion s m = (0, t) ∧ (futOf t i).state = fuFAILED ∧ (futOf t i).result = 3 ∧
          (futOf t i).fcode = fromBytes (slice m.data 12 4)))) ∧
    (∀ (q : EpReq), s.epReqs = [q] → q.armed = true → q.fired = true → q.kind = 5 → q.stall = none → q.matches m = true →
      ∀ pa u1 u t st, epXlate s q.tenant (ctrVa s q.tenant q.ctr) .store = (some pa, u1) →
        epWrite u1 q.tenant q.laddr (m.data.take q.len) = some u → applyCompletion (epCount (epLeave u q) q pa) m = (st, t) →
        exec (.futureCompletionMessage m) s = .next (epTrigger true (t.send (.epStatus m.peer st)) m))

/-- The endpoint's requests and the completions that arrive through it.
Readings of the model that it rests on: notes/assumptions/64.md. -/
def Obligations.EndpointRequestsAndCompletions : Prop := EndpointRequestsFireAndComplete ∧ CompletionMessagesResolveFutures

/-! ### Debug and the fault chain (13 R275 to R282) -/

/-- The debug commands: HALT stops a strand at a boundary and withdraws the waits that it may withdraw, RESUME and STEP let it go
on, RESTART begins its task afresh, KILL ends it; a command that its state does not allow sets ERR. RQFAULT raises a fault on a
request, a HEAD write consumes packets, and a level that does not acknowledge in time declines (R275, R276, R280, R282). -/
def DebugCommandsAct : Prop :=
  ∀ (s : State) (core slot clu level : Nat) (v : Word) (k : Task),
    let x := s.strand core slot
    let err (t : State) : Prop := (regGet t (offDBGSTAT core slot)).getLsbD 1 = true ∧ t.mem = s.mem ∧ t.strands = s.strands
    let refused (i : Instr) : Prop := ∃ t, exec i s = .next t ∧ err t
    let stop : Prop := x.status = .frozen ∨ x.status = .halted
    let halted (y : Strand) : Strand := { y with status := .halted, cause := cBKPT, stepping := false, haltReq := false }
    (x.status = .ready → ∃ t, exec (.dbgcmdHalt core slot) s = .next t ∧ t.strand core slot = halted x) ∧
    (x.status = .offrot ∨ (x.status = .parked ∧ withdrawable x = false) →
      exec (.dbgcmdHalt core slot) s = .next (s.setStrand core slot { x with haltReq := true })) ∧
    (x.status = .parked → x.phase = .cond ∨ x.phase = .board ∨ x.phase = .migrate ∨ x.phase = .walk ∨ x.phase = .reissue →
      ∃ t, exec (.dbgcmdHalt core slot) s = .next t ∧ t.strand core slot =
        halted { x with phase := .none, pwait := if femaxBounds x = true then waited s x else x.pwait, pcap := [],
                        pplaces := [], prel := false, ptime := 0 }) ∧
    (x.status = .empty ∨ stop → refused (.dbgcmdHalt core slot)) ∧
    (stop → exec (.dbgcmdResume core slot) s = .next (s.setStrand core slot { x with status := .ready, cause := 0, phase := .none })) ∧
    (¬ stop → refused (.dbgcmdResume core slot)) ∧
    (x.status = .halted → exec (.dbgcmdStep core slot) s =
      .next (s.setStrand core slot { x with status := .ready, cause := 0, phase := .none, stepping := true })) ∧
    (x.status ≠ .halted → refused (.dbgcmdStep core slot)) ∧
    (stop → x.task = some k → (s.core core).sb = [] → (∀ b ∈ s.waits, b.2 = []) →
      ∃ t, exec (.dbgcmdRestart core slot) s = .next t ∧
      t.strand core slot = { restartStrand x k with status := .ready, phase := .none } ∧
      ∀ o, o < x.privlen → readByte t.mem (scrKey core (x.privbase + o)) = 0#8) ∧
    (stop → x.task = some k → exec (.dbgcmdKill core slot) s = .next (taskEnd s core slot true)) ∧
    (¬ stop ∨ x.task = none → refused (.dbgcmdRestart core slot) ∧ refused (.dbgcmdKill core slot)) ∧
    (fld v 7 0 = 0 ∨ 0x1D < fld v 7 0 ∨ slotReq s (fld v 27 16) = none → refused (.rqfaultWrite core slot v)) ∧
    (fld v 7 0 ≠ 0 → fld v 7 0 ≤ 0x1D → slotReq s (fld v 27 16) ≠ none → exec (.rqfaultWrite core slot v) s =
      .next (slotFault s (fld v 27 16) (fld v 7 0) (if x.status = .frozen then x.info else 0))) ∧
    (cluExists clu = true → level < 4 → (s.clu clu).held = [] → ∃ t, exec (.frptrHeadWrite clu level v) s = .next t ∧
      frHead t clu level = fld v 31 0 ∧ frTail t clu level = frTail s clu level ∧ t.mem = s.mem) ∧
    (ackLate s clu = false → exec (.faultAckTimeout clu) s = .next s) ∧
    (ackLate s clu = true →
      let u := s.updClu clu (fun c => { c with freezes := c.freezes.filter (fun f => f.1 != curLvl s clu) })
      ∀ t, (frMove u clu [] ((frLevels s clu).drop 1) (frPending s clu (curLvl s clu)) = (t, false) →
        exec (.faultAckTimeout clu) s = .next (frRoom t clu)) ∧
      (frMove u clu [] ((frLevels s clu).drop 1) (frPending s clu (curLvl s clu)) = (t, true) →
        exec (.faultAckTimeout clu) s = .next (cluHalt t clu)))

/-- The debug window shows and changes a stopped strand's registers and the core's scratchpad; the registers of a strand that is
not stopped read all ones with ERR set (R277 to R279). -/
def DebugWindowShowsState : Prop :=
  ∀ (s : State) (core slot : Nat) (off : Nat) (w : Word) (r : SReg), coreExists core = true →
    let x := s.strand core slot
    let stop : Prop := x.status = .frozen ∨ x.status = .halted
    let answers (o : Nat) (v : Word) (t : State) : Prop :=
      exec (.debugWindowAccess core o none) s = .next (t.send (.answer 1 (toBytes 8 v.toNat)))
    let rOff := 0x1000 * slot + 0x100 + 8 * r.toNat
    (slot < 8 →
      (stop → (fget? s.soft (sregKey core slot r.toNat) = none → answers rOff (x.rS r) s) ∧ answers (0x1000 * slot) x.pc s ∧
        exec (.debugWindowAccess core rOff (some w)) s = .next (s.putReg core slot r w) ∧
        exec (.debugWindowAccess core (0x1000 * slot) (some w)) s =
          .next (s.setStrand core slot { x.clearPark with pc := w64 (w.toNat / 8 * 8), bpSkip := x.bpSkip })) ∧
      (¬ stop → answers rOff (BitVec.allOnes 64) (dbgErr s core slot) ∧
        exec (.debugWindowAccess core rOff (some w)) s = .next (dbgErr s core slot))) ∧
    (0x20000 ≤ off → off < 0x60000 → off % 8 = 0 →
      (fget? s.soft (scrKey core (off - 0x20000)) = none →
        answers off (w64 (fromBytes (memGet s (scrKey core (off - 0x20000)) 8))) s) ∧
      exec (.debugWindowAccess core off (some w)) s = .next (memPut s (scrKey core (off - 0x20000)) (toBytes 8 w.toNat)))

/-- Debug commands and the debug window.
Readings of the model that it rests on: notes/assumptions/65.md, 66.md. -/
def Obligations.DebugCommandsAndWindow : Prop := DebugCommandsAct ∧ DebugWindowShowsState

/-- A saved task's block in a save area that lies in memory nobody holds: the word at an offset (R286). -/
def savedWord (t : State) (core n o : Nat) : Nat := cohNat t (saveBase t core + 0x11000 + 0x1000 * n + o) 8

/-- A SAVE that completes keeps each task, with the PC, the registers and the status of its strand as the withdrawal of its wait
leaves them written in the task's block of the save area (R284 to R286). -/
def SavedTasksAreWritten (s t : State) (core : Nat) : Prop :=
  let u := (List.range 8).foldl (fun s n => saveStrand s core n) s
  AtHome u (saveBase u core) saveBytes → (u.clu (cluOfCore core)).lines = [] → ∀ (n : Nat) (k : Task), n < 8 →
    (u.strand core n).task = some k →
    let y := u.strand core n
    (n, { y with task := some { k with started := u.cycle - k.started } }) ∈ (t.core core).saved.tasks ∧
    savedWord t core n 0 = y.pc.toNat ∧ (∀ r : SReg, savedWord t core n (0x100 + 8 * r.toNat) = (y.rS r).toNat) ∧
    bitsN (savedWord t core n 8) 2 0 = y.status.code

/-- A RESTORE that completes puts a saved task back in its slot: its PC, registers and status are read from its block of the save
area, its vector registers from theirs (R286, R287). -/
def SavedTasksAreReadBack (s t : State) (core : Nat) : Prop :=
  let v := (s.core core).saved
  ∀ (n : Nat) (y : Strand), n < 8 → v.tasks = [(n, y)] →
    let z := t.strand core n
    let w (o : Nat) := savedWord s core n o
    let base := 8 * ((v.holds.find? (fun h => h.slot == n)).map (·.v.1)).getD 0
    z.pc = w64 (w 0 / 8 * 8) ∧ (∀ r : SReg, r ≠ 0#6 → z.rS r = w64 (w (0x100 + 8 * r.toNat))) ∧
    (∀ st : Status, st ≠ .empty → bitsN (w 8) 2 0 = st.code → z.status = st) ∧
    z.task = y.task.map (fun k => { k with started := s.cycle - k.started }) ∧
    ∀ j, j < y.vcount → fget 0#512 (t.core core).v (base + j) =
      BitVec.ofNat 512 (cohNat s (saveBase s core + 0x19000 + 64 * (y.vbase + j)) 64)

/-- A SAVE stops a core unless it is busy or saved, waits while a strand is FROZEN, and completes once the core's work has drained:
every slot is EMPTY, SAVED and DONE are set, and its tasks are in the save area. A RESTORE waits for the units it needs and puts the
tasks back from there. A tenant whose task
has run for its time slice while another tenant's launch waits is saved (R283 to R287, R300).
Readings of the model that it rests on: notes/assumptions/39.md, 67.md, 68.md. -/
def Obligations.SquallsSaveAndRestore : Prop :=
  ∀ (s : State) (core who tenant : Nat),
    let x := s.core core
    let frozen : Prop := ∃ n, n < 8 ∧ (s.strand core n).status = .frozen
    let free : Prop := x.sqBusy = false ∧ x.sqSaved = false
    let begun (t : State) (n : Nat) : Prop := t.core core = { x with
      sqBusy := true, sqCmd := 1, sqWho := n % 4, sqDone := false, sqDefer := hasFrozen s core, sqSince := s.cycle }
    coreExists core = true → squallCores s core = [core] →
    (free → ∃ t, exec (.sqcmdSave core who) s = .next t ∧ begun t who ∧ t.mem = s.mem ∧ t.strands = s.strands) ∧
    (hasFrozen s core = true ↔ frozen) ∧
    (¬ free → exec (.sqcmdSave core who) s = .next s) ∧
    (x.sqBusy = true → x.sqCmd = 1 →
      (x.sqDefer = true → frozen → exec (.squallSaveComplete core) s = .next s) ∧
      (x.sqDefer = true → ¬ frozen → ∃ t, exec (.squallSaveComplete core) s = .next t ∧
        t.core core = { x with sqDefer := false } ∧ t.strands = s.strands) ∧
      (x.sqDefer = false → coreDrained s core = false → exec (.squallSaveComplete core) s = .next s) ∧
      (x.sqDefer = false → coreDrained s core = true → ∃ t, exec (.squallSaveComplete core) s = .next t ∧
        (∀ n, n < 8 → t.strand core n = Strand.init) ∧ (t.core core).sqSaved = true ∧ (t.core core).sqDone = true ∧
        (t.core core).sqBusy = false ∧ (t.core core).raq = [] ∧ SavedTasksAreWritten s t core)) ∧
    (x.sqSaved = true → x.sqBusy = false → ∃ t, exec (.sqcmdRestore core) s = .next t ∧ (t.core core).sqBusy = true ∧
      (t.core core).sqCmd = 2 ∧ (t.core core).sqDone = false ∧ t.mem = s.mem ∧ t.strands = s.strands) ∧
    (x.sqSaved = false ∨ x.sqBusy = true → exec (.sqcmdRestore core) s = .next s) ∧
    (x.sqBusy = true → x.sqCmd = 2 →
      (restoreReady s core = false → exec (.squallRestoreComplete core) s = .next s) ∧
      (restoreReady s core = true → ∃ t, exec (.squallRestoreComplete core) s = .next t ∧ (t.core core).sqSaved = false ∧
        (t.core core).sqDone = true ∧ (t.core core).sqBusy = false ∧ ((t.core core).saved.tasks = []) ∧
        (x.saved.tasks = [] → t.strands = s.strands) ∧ SavedTasksAreReadBack s t core)) ∧
    (∀ (n : Nat) (k : Task) (e : PoolEnt), n < 8 → (s.strand core n).task = some k → k.tenant = tenant → tset s setTSLICE tenant ≠ 0 →
      tset s setTSLICE tenant ≤ s.cycle - k.started → (s.pool (dieOfCore core)).ents = [e] → waitsFor s core e = true →
      entTenant s e ≠ tenant → free →
      ∃ t, exec (.tenantTimeSlice core tenant) s = .next t ∧ begun t 1 ∧ t.mem = s.mem ∧ t.strands = s.strands) ∧
    (tset s setTSLICE tenant = 0 → exec (.tenantTimeSlice core tenant) s = .next s)

/-! ### The host port (03 R58, R59; 14 R295 to R299) -/

/-- The doorbell moves TAIL of an enabled queue of the function that writes it, after a release; a TAIL that overruns the queue or
goes back sets ERR; HEAD of a completion ring is written by its owner (R295, R296). -/
def DoorbellsMoveTail : Prop :=
  ∀ (s : State) (fn q : Nat) (v : Word), q < 8192 →
    let cfg := wqCfg s q
    let tail := v.toNat % 2 ^ 32
    let ahead (n : Nat) := (n + 2 ^ 32 - wqHead s q) % 2 ^ 32
    let owner := if cfg.getLsbD 62 then 0 else wqTenant s q + 1
    let open' : Prop := cfg.getLsbD 63 = true ∧ fn = owner ∧ (cfg.getLsbD 62 = true ∨ inReset s (wqTenant s q) = false)
    let ccfg := regGet s (offCQ q + 8)
    let cowner := if ccfg.getLsbD 61 then 0 else fld ccfg 57 52 + 1
    (open' → ahead tail ≤ cqSize cfg → ahead (wqTail s q) ≤ ahead tail →
      ∃ t, exec (.wqDoorbell fn q v) s = .next t ∧ wqTail t q = tail ∧ wqHead t q = wqHead s q ∧ t.mem = s.mem ∧
        (t.scope 4).gen = ((s.scope 4).gen + 1) % 2 ^ 32 ∧ (t.scope 5).gen = ((s.scope 5).gen + 1) % 2 ^ 32) ∧
    (open' → cqSize cfg < ahead tail ∨ ahead tail < ahead (wqTail s q) →
      ∃ t, exec (.wqDoorbell fn q v) s = .next t ∧ (wqCfg t q).getLsbD 47 = true ∧ wqTail t q = wqTail s q ∧ t.mem = s.mem) ∧
    (¬ open' → exec (.wqDoorbell fn q v) s = .next s) ∧
    (fn = cowner → ∃ t, exec (.cqHeadWrite fn q v) s = .next t ∧ fld (regGet t (offCQ q + 16)) 31 0 = v.toNat % 2 ^ 32 ∧
      fld (regGet t (offCQ q + 16)) 63 32 = fld (regGet s (offCQ q + 16)) 63 32 ∧ t.mem = s.mem) ∧
    (fn ≠ cowner → exec (.cqHeadWrite fn q v) s = .next s)

/-- The entry at HEAD of a queue, of a type; no soft error lies where its reader meets one. -/
def EntryAt (s : State) (q : Nat) (e : List Byte) (ty : Nat) : Prop :=
  wqEntry s q = some e ∧ fld (entWord e 0) 7 0 = ty ∧ wqScan s q = s

/-- The queue moves past its entry over a state, then the entry's records go to its ring (R296). -/
def entryDone (s : State) (q : Nat) (u : State) (recs : List (List Byte)) : State :=
  recs.foldl (fun t r => cqWrite t (wqRing s q) (wqTenant s q) (wqSys s q) r)
    (regFld u (offWQ q + 16) 31 0 ((wqHead s q + 1) % 2 ^ 32))

/-- Entries are processed by their type: LAUNCH submits and answers its status, REQUEST fills a free record or is rejected with the
first check it fails, CANCEL is kept for the boundary, another type is answered BADTYPE (R58, R59, R297, R298). That the fields of a
new request record which the spec gives no value begin at 0, RQ_POS, RQ_GEN and RQ_FAULT.CODE among them, is the model's choice
(notes/assumptions/52.md). -/
def EntriesAreProcessed : Prop :=
  ∀ (s u : State) (q : Nat) (e : List Byte) (w : Word) (r d : Nat),
    let t := wqTenant s q
    let rejected (code detail n : Nat) : Prop := ∃ x : List Byte, exec (.requestEntry q) s =
      .next (entryDone s q { s with freeNo := s.freeNo + n } [x]) ∧ x.getD 0 0 = 2#8 ∧ x.getD 1 0 = BitVec.ofNat 8 code ∧
      x.getD 7 0 = BitVec.ofNat 8 detail ∧ slice x 8 8 = toBytes 8 (entWord e 0x10).toNat
    (EntryAt s q e 1 → submitLaunch s t ((List.range 8).map (fun i => entWord e (0x40 + 8 * i))) false
        (some (wqRing s q, wqSys s q, entWord e 0)) = (w, u) →
      exec (.launchEntry q) s = .next (entryDone s q u [entRecord e 4 0 0 w.toNat])) ∧
    (EntryAt s q e 3 → exec (.cancelEntry q) s = .next (entryDone s q (s.updFront (fun f => { f with cancels := f.cancels ++
      [{ tenant := t, id := entWord e 8, tag := entWord e 16, ring := wqRing s q, sys := wqSys s q }] })) [])) ∧
    (EntryAt s q e d → d = 0 ∨ 7 ≤ d → ∃ x : List Byte, exec (.badtypeEntry q) s =
      .next (entryDone s q { s with freeNo := s.freeNo + 4 } [x]) ∧ x.getD 0 0 = 2#8 ∧ x.getD 1 0 = 0x24#8) ∧
    (EntryAt s q e 2 →
      (tset s setRQCOUNT t = 0 → rejected 0x21 0 2) ∧
      (tset s setRQCOUNT t ≠ 0 → ∀ n, requestBad s t e = some n → n < 256 → rejected 0x20 n 2) ∧
      (tset s setRQCOUNT t ≠ 0 → requestBad s t e = none → freeRecord s t = none → rejected 0x21 0 2) ∧
      (tset s setRQCOUNT t ≠ 0 → requestBad s t e = none → freeRecord s t = some r → ∃ v, exec (.requestEntry q) s = .next (entryDone s q v []) ∧
        (RecordQuiet s r → rqGet v r rqSTATE = stQUEUED ∧ rqGet v r rqTENANT = t ∧ rqGet v r rqID = (entWord e 8).toNat ∧
          rqGet v r rqTAG = (entWord e 0x10).toNat ∧ rqGet v r rqPFQTAIL = fld (entWord e 0x20) 63 32 ∧ rqGet v r rqPOS = 0 ∧
          rqGet v r rqGEN = 0 ∧ rqGet v r rqFCODE = 0 ∧ rqGet v r rqSLOT = 0xFFFF))) ∧
    (wqEntry s q = none → exec (.launchEntry q) s = .next s ∧ exec (.requestEntry q) s = .next s ∧
      exec (.cancelEntry q) s = .next s ∧ exec (.badtypeEntry q) s = .next s)

/-- AUTOMATON, ZONE and TENANT_CTL entries of another tenant, or of a queue without SYS, are answered PRIV, bad ones BADFIELD; a good
one writes its directory entry, with every mask cache emptied, its zone's registers, its setting (R88, R93, R202, R297, R299). -/
def ControlEntriesWriteTheirTarget : Prop :=
  ∀ (s : State) (q : Nat) (e : List Byte),
    let t := wqTenant s q
    let w (o : Nat) := entWord e o
    let pa := fld (regGet s (offSERV + 0x20)) 55 0 + 64 * fld (w 8) 11 0
    let now := cohNat s (pa + 0x28) 8
    let ends (i : Instr) (u : State) (code detail : Nat) : Prop := exec i s = .next (entryDone s q u (endEntry e code detail))
    let aPriv : Prop := fld (w 0x68) 6 1 ≠ t ∨ (bitN now 0 = true ∧ bitsN now 6 1 ≠ t)
    let aOk : Prop := fld (w 0) 31 9 = 0 ∧ fld (w 0x68) 63 7 = 0 ∧ fld (w 8) 63 12 = 0 ∧ (∀ b ∈ slice e 0x10 0x30, b = 0#8) ∧ ∀ b ∈ slice e 0x70 0x10, b = 0#8
    let core := fld (w 8) 11 0
    let z := fld (w 8) 13 12
    let cfg := w 0x10
    let zOk : Prop := coreExists core = true ∧ scrOwned s core (fld (w 0x18) 17 8 * 256) ((fld cfg 37 32 + 1) * 2 ^ (8 + fld cfg 47 44)) t = true ∧
      scrOwned s core (fld (w 0x20) 17 3 * 8) 512 t = true
    let i := fld (w 8) 15 8
    let tn := fld (w 8) 5 0
    (EntryAt s q e 4 →
      (aPriv → ends (.automatonEntry q) s rePRIV 0) ∧
      (¬ aPriv → ¬ aOk → ends (.automatonEntry q) s reBADFIELD 0) ∧
      (¬ aPriv → aOk → ends (.automatonEntry q)
        (updClusters (cohWrite s pa (slice e 0x40 64)) (fun c => { c with masks := [] })) 0 0)) ∧
    (EntryAt s q e 5 →
      (fld cfg 53 48 ≠ t → ends (.zoneEntry q) s rePRIV 0) ∧
      (fld cfg 53 48 = t → ¬ zOk → ends (.zoneEntry q) s reBADFIELD 0) ∧
      (fld cfg 53 48 = t → zOk → (lzCfg s core z).getLsbD 63 = false → ∃ u, ends (.zoneEntry q) u 0 0 ∧ u.mem = s.mem ∧
        u.strands = s.strands ∧ (ZoneFor u core z t ↔ cfg.getLsbD 63 = true ∧ fld cfg 47 44 ≤ 8))) ∧
    (EntryAt s q e 6 →
      (wqSys s q = false → ends (.tenantCtlEntry q) s rePRIV 0) ∧
      (wqSys s q = true → i ≠ setTOSEQ → i ≠ setFAILSEQ →
        (settingOk s i tn (w 0x10).toNat = true → ∃ u, ends (.tenantCtlEntry q) u 0 0 ∧ tset u i tn = (w 0x10).toNat ∧ u.mem = s.mem) ∧
        (settingOk s i tn (w 0x10).toNat = false → ends (.tenantCtlEntry q) s reBADFIELD i)) ∧
      (wqSys s q = true → i = setTOSEQ ∨ i = setFAILSEQ → 1 ≤ fld (w 0x10) 4 0 → fld (w 0x10) 4 0 ≤ 16 →
        ∃ u, ends (.tenantCtlEntry q) u 0 0 ∧ u.mem = s.mem ∧ seqOf u i tn = (List.range (fld (w 0x10) 4 0)).map
          (fun j => BitVec.ofNat 32 (fromBytes (slice e (0x18 + 4 * j) 4))))) ∧
    (wqEntry s q = none → exec (.automatonEntry q) s = .next s ∧ exec (.zoneEntry q) s = .next s ∧ exec (.tenantCtlEntry q) s = .next s)

/-- Doorbells, and the entries of work queues.
Readings of the model that it rests on: notes/assumptions/25.md, 51.md, 52.md, 69.md, 70.md, 72.md. -/
def Obligations.TheHostPortProcessesEntries : Prop := DoorbellsMoveTail ∧ EntriesAreProcessed ∧ ControlEntriesWriteTheirTarget

/-! ### Registers, resets, power (00 R3, R4; 06 R136; 14 R294, R301 to R306) -/

/-- A control register takes the bits of its RW fields, clears W1C bits that are written 1 and keeps the rest; the registers of an
enabled queue are locked; an ownership entry is written unless a running launch owns it (R3, R4, R136, R294, R295). -/
def RegistersTakeTheirFields : Prop :=
  ∀ (s : State) (off n : Nat) (v : Word) (b : Byte) (o : OwnEntry),
    (∀ i, i < 64 → (regGet (regWrite s off v) off).getLsbD i =
      (if (regInfo off).rw.testBit i then v.getLsbD i
       else (regGet s off).getLsbD i && !((regInfo off).w1c.testBit i && v.getLsbD i))) ∧
    (∀ p, p ≠ off → regGet (regWrite s off v) p = regGet s p) ∧
    exec (.registerWrite offTSVA v) s = .next (regWrite s offTSVA v) ∧
    exec (.registerWrite offECCAD v) s = .next (regWrite s offECCAD v) ∧
    (off % 8 ≠ 0 → exec (.registerWrite off v) s = .next s) ∧
    (n < 8192 → (wqCfg s n).getLsbD 63 = true → exec (.registerWrite (offWQ n) v) s = .next s) ∧
    (n < 8192 → (wqCfg s n).getLsbD 63 = false → exec (.registerWrite (offWQ n) v) s = .next (regWrite s (offWQ n) v)) ∧
    (ownEntry off = none → exec (.ownershipMapWrite off b) s = .next s) ∧
    (ownEntry off = some o → ownRunning s o = true → exec (.ownershipMapWrite off b) s = .next s) ∧
    (ownEntry off = some o → ownRunning s o = false → ∃ t, exec (.ownershipMapWrite off b) s = .next t ∧ t.mem = s.mem ∧
      fget 0#8 t.own off = b &&& 0xBF#8 ∧ ∀ p, p ≠ off → fget 0#8 t.own p = fget 0#8 s.own p)

/-- An offset from the first cluster's window is that of a landing zone's configuration register. -/
def isZoneCfg (o : Nat) : Prop := 0x10000 ≤ o % 0x1000000 ∧ o % 0x1000000 < 0x20000 ∧ o % 0x1000000 % 0x400 = 0

/-- A tenant's reset takes its unprocessed entries, its granules and, where none of its landing zones is enabled, its translations away; a cluster's reset empties its cores and
zeroes its local memory with every word FULL (R301, R302). -/
def ResetsClear : Prop :=
  ∀ (s : State) (die c tn : Nat) (v : Word),
    let clu := die * 64 + c
    let t := clusterReset s clu
    (v.getLsbD 6 = true → exec (.trstcmdGo v) s = .next (tenantReset s (fld v 5 0))) ∧
    (v.getLsbD 6 = false → exec (.trstcmdGo v) s = .next s) ∧
    (tn < 64 → exec (.functionLevelReset tn) s = .next (tenantReset s tn)) ∧
    (inReset s tn = true → tenantReset s tn = s) ∧
    (∀ q, q < 8192 → wqSys s q = false → wqTenant s q = tn → wqHead (resetQueues s tn) q = wqTail s q) ∧
    ((∀ e ∈ s.regs, 0x100000000 ≤ e.1 → isZoneCfg (e.1 - 0x100000000) → e.2.getLsbD 63 = true → fld e.2 53 48 ≠ tn) → ∀ k, (∀ e ∈ ((resetViews s tn).clu k).tlb, e.tenant ≠ tn) ∧
      ∀ e ∈ ((resetViews s tn).clu k).sidelog, e.tenant ≠ tn) ∧
    (tn < 64 → ∀ off, fget 0#8 (resetShares s tn).own off ≠ BitVec.ofNat 8 (0x80 + tn)) ∧
    (die < 4 → c < 48 → (∀ i, i < 48 → (v.getLsbD i = true ↔ i = c)) → exec (.clurstWrite die v) s = .next t) ∧
    (die < 4 → c < 48 →
      (∀ core slot, cluOfCore core = clu → slot < 8 → t.strand core slot = Strand.init ∧ t.core core = Core.init) ∧
      t.clu clu = Cluster.init ∧ (∀ key, keyInCluster clu key = true → readByte t.mem key = 0#8 ∧ feFull t key = true) ∧
      (regGet t (offREADYCLU die)).getLsbD c = false)

/-- Power-on gives the reset state with the images that are accepted, and none without an accepted management image; functions come
up; a report answers its nonce; a throttle idles the next rotation unless the seven before it were; a thermal trip stops the device;
the I3C target answers (R302 to R306). The layout of the answers is the model's choice (notes/assumptions/77.md), and so are the
rotation that a throttle idles, what a function waits for before its bit is set, and what fencing it does (notes/assumptions/78.md). -/
def PowerAndManagement : Prop :=
  ∀ (s : State) (imgs : List Image) (m : Image) (bit core : Nat) (nonce : List Byte),
    let p : State := { State.reset with
      turns := s.turns, turnNo := s.turnNo, freeNo := s.freeNo, nextId := s.nextId, outbox := s.outbox,
      mc := { Mc.init with images := acceptedImages imgs } }
    let n := s.cycle / 8 + 1
    let answers (i : I3cItem) (bs : List Byte) : Prop := exec (.i3cRequest i) s = .next (s.send (.answer 3 bs))
    exec (.powerOn imgs) s = .next p ∧ p.MemOk ∧ p.powered = true ∧
    acceptedImages [] = [] ∧
    acceptedImages (m :: imgs) =
      (if imgKind m = 1 ∧ imgAccepted m = true then imgRecord m :: (imgs.filter imgAccepted).map imgRecord else []) ∧
    (bit < 64 → canReady s bit = true → ∃ t, exec (.functionReady bit) s = .next t ∧ (regGet t offREADY).getLsbD bit = true ∧ t.mem = s.mem) ∧
    (bit < 64 → canReady s bit = false → exec (.functionReady bit) s = .next s) ∧
    (cluExists bit = true → (s.clu bit).halted = false → 64 + bit ∉ s.fenced → ∃ t, exec (.functionReady (64 + bit)) s = .next t ∧
      (regGet t (offREADYCLU (bit / 64))).getLsbD (bit % 64) = true ∧ t.mem = s.mem) ∧
    (∃ r, exec (.attestationRequest nonce) s = .next (s.send (.answer 2 (nonce ++ r)))) ∧
    (∃ t, exec (.powerThrottle core) s = .next t ∧ t.mem = s.mem ∧ t.strands = s.strands ∧
      ((∀ i, i < 7 → n - 1 - i ∈ (s.core core).idled) → 7 ≤ n → t = s) ∧
      (n < 7 ∨ (∃ i, i < 7 ∧ n - 1 - i ∉ (s.core core).idled) → n ∈ (t.core core).idled)) ∧
    exec .thermalTrip s = .next { s with powered := false } ∧
    answers .ready (toBytes 8 (regGet s offREADY).toNat) ∧ answers .stepping (toBytes 8 stepping.toNat) ∧
    answers .crash (s.mc.crash.flatMap (fun w => toBytes 8 w.toNat)) ∧
    (∃ x : Word, exec (.i3cRequest .temperatures) s =
      .next (({ s with freeNo := s.freeNo + 1 } : State).send (.answer 3 (toBytes 8 x.toNat)))) ∧
    (∃ x : Word, exec (.i3cRequest .power) s =
      .next (({ s with freeNo := s.freeNo + 1 } : State).send (.answer 3 (toBytes 8 x.toNat))))

/-- Control registers, resets, power and management.
Readings of the model that it rests on: notes/assumptions/71.md, 73.md, 74.md, 75.md, 76.md, 77.md, 78.md. -/
def Obligations.RegistersResetsAndPower : Prop := RegistersTakeTheirFields ∧ ResetsClear ∧ PowerAndManagement
end

