-- ==== Sys2Proof/Laws/Bits.lean ====
section
/-!
SUPPORT. Laws/Bits.lean: what the byte and sign-extension helpers compute (Machine/Bits.lean).
-/
namespace Sys2Proof.Machine

/-- The sign extension of the low n bits of a number. -/
theorem sextN_eq (n v : Nat) (h0 : 0 < n) (h : n ≤ 64) : sextN n v = (BitVec.ofNat n v).signExtend 64 := by
  have hx : v % 2 ^ n < 2 ^ n := Nat.mod_lt _ (Nat.two_pow_pos _)
  have hp : (2:Nat) ^ n = 2 ^ (n - 1) * 2 := by rw [← Nat.pow_succ]; congr 1; omega
  have hle : (2:Nat) ^ n ≤ 2 ^ 64 := Nat.pow_le_pow_right (by omega) h
  have hmsb : (BitVec.ofNat n v).msb = bitN (v % 2 ^ n) (n - 1) := by
    rw [BitVec.msb_eq_decide, BitVec.toNat_ofNat, bitN]
    generalize v % 2 ^ n = x at hx
    have hdiv : x / 2 ^ (n - 1) < 2 := by rw [Nat.div_lt_iff_lt_mul (Nat.two_pow_pos _)]; omega
    by_cases hc : 2 ^ (n - 1) ≤ x
    · have : 1 ≤ x / 2 ^ (n - 1) := (Nat.one_le_div_iff (Nat.two_pow_pos _)).mpr hc
      have : x / 2 ^ (n - 1) = 1 := by omega
      simp [hc, this]
    · have : x / 2 ^ (n - 1) = 0 := Nat.div_eq_of_lt (by omega)
      simp [hc, this]
  unfold sextN
  simp only [h0.ne', ne_eq, not_false_eq_true, decide_true, Bool.true_and]
  apply BitVec.eq_of_toNat_eq
  rw [BitVec.toNat_signExtend, hmsb]
  cases hb : bitN (v % 2 ^ n) (n - 1)
  · simp [w64, BitVec.toNat_setWidth]
  · simp [w64, BitVec.toNat_setWidth]
    generalize v % 2 ^ n = x at hx
    rw [Nat.mod_eq_of_lt (by omega : x < 18446744073709551616), Nat.mod_eq_of_lt (by omega)]
    omega

@[simp] theorem toBytes_length (n v : Nat) : (toBytes n v).length = n := by
  induction n generalizing v with
  | zero => rfl
  | succ n ih => simp [toBytes, ih]

/-- A number is read back from its low n bytes. -/
theorem fromBytes_toBytes (n v : Nat) : fromBytes (toBytes n v) = v % 2 ^ (8 * n) := by
  induction n generalizing v with
  | zero => simp [toBytes, fromBytes, Nat.mod_one]
  | succ n ih =>
    rw [toBytes, fromBytes, ih, BitVec.toNat_ofNat, Nat.mul_succ, Nat.add_comm (8 * n) 8, Nat.pow_add, Nat.mod_mul]

theorem fromBytes_lt (l : List Byte) : fromBytes l < 2 ^ (8 * l.length) := by
  induction l with
  | nil => simp [fromBytes]
  | cons b l ih =>
    rw [fromBytes, List.length_cons, Nat.mul_succ, Nat.add_comm (8 * l.length) 8, Nat.pow_add]
    have := b.isLt
    omega

end Sys2Proof.Machine
end

