-- ==== Sys2Proof/Laws/SparseLaws.lean ====
section
/-!
SUPPORT. Laws/SparseLaws.lean: reading after writing, for sparse tables and for memory, and the canonical form of memory.
-/
namespace Sys2Proof.Machine

theorem fget?_fset {α : Type} (m : FMap α) (k k' : Nat) (v : α) :
    fget? (fset m k v) k' = if k = k' then some v else fget? m k' := by
  induction m with
  | nil => simp [fset, fget?]
  | cons e t ih =>
    obtain ⟨a, x⟩ := e
    by_cases h1 : k < a
    · simp [fset, h1, fget?]
    · by_cases h2 : k = a
      · subst h2
        by_cases h3 : k = k' <;> simp [fset, fget?, h3]
      · by_cases h3 : a = k'
        · subst h3
          simp [fset, h1, h2, fget?]
        · simp [fset, h1, h2, fget?, h3, ih]

@[simp] theorem fget?_fset_self {α : Type} (m : FMap α) (k : Nat) (v : α) : fget? (fset m k v) k = some v := by
  simp [fget?_fset]

theorem fget?_fset_ne {α : Type} (m : FMap α) {k k' : Nat} (v : α) (h : k ≠ k') :
    fget? (fset m k v) k' = fget? m k' := by
  simp [fget?_fset, h]

theorem fget_fset {α : Type} (d : α) (m : FMap α) (k k' : Nat) (v : α) :
    fget d (fset m k v) k' = if k = k' then v else fget d m k' := by
  unfold fget; rw [fget?_fset]; split <;> rfl

@[simp] theorem fget_fset_self {α : Type} (d : α) (m : FMap α) (k : Nat) (v : α) : fget d (fset m k v) k = v := by
  simp [fget_fset]

theorem fget_fset_ne {α : Type} (d : α) (m : FMap α) {k k' : Nat} (v : α) (h : k ≠ k') :
    fget d (fset m k v) k' = fget d m k' := by
  simp [fget_fset, h]

theorem fget?_fdel {α : Type} (m : FMap α) (k k' : Nat) :
    fget? (fdel m k) k' = if k = k' then none else fget? m k' := by
  induction m with
  | nil => simp [fdel, fget?]
  | cons e t ih =>
    obtain ⟨a, x⟩ := e
    simp only [fdel] at ih
    by_cases h : a = k
    · subst h
      by_cases h2 : a = k' <;> simp_all [fdel, fget?]
    · by_cases h2 : a = k'
      · subst h2
        have : ¬ k = a := fun e => h e.symm
        simp [fdel, fget?, h, this]
      · simp [fdel, fget?, h, h2, ih]

theorem fget_fdel {α : Type} (d : α) (m : FMap α) (k k' : Nat) :
    fget d (fdel m k) k' = if k = k' then d else fget d m k' := by
  unfold fget; rw [fget?_fdel]; split <;> rfl

/-- A read after a write of one byte. -/
theorem readByte_writeByte (m : Memory) (a a' : Nat) (b : Byte) :
    readByte (writeByte m a b) a' = if a = a' then b else readByte m a' := by
  unfold readByte writeByte
  split
  · rename_i h
    rw [fget_fdel, h]
  · rw [fget_fset]

/-- A write of bytes leaves every address outside them alone. -/
theorem readByte_writeBytes_outside (m : Memory) (a : Nat) (bs : List Byte) (x : Nat)
    (h : x < a ∨ a + bs.length ≤ x) : readByte (writeBytes m a bs) x = readByte m x := by
  induction bs generalizing m a with
  | nil => rfl
  | cons b t ih =>
    simp only [List.length_cons] at h
    rw [writeBytes, ih _ _ (by omega), readByte_writeByte, if_neg (by omega)]

/-- A write of bytes leaves its own bytes there. -/
theorem readBytes_writeBytes (m : Memory) (a : Nat) (bs : List Byte) :
    readBytes (writeBytes m a bs) a bs.length = bs := by
  induction bs generalizing m a with
  | nil => rfl
  | cons b t ih =>
    rw [List.length_cons, writeBytes, readBytes, ih]
    rw [readByte_writeBytes_outside _ _ _ _ (by omega), readByte_writeByte, if_pos rfl]

theorem fsorted_cons {α : Type} (e : Nat × α) (t : FMap α) :
    fsorted (e :: t) = true ↔ (∀ f ∈ t, e.1 < f.1) ∧ fsorted t = true := by
  induction t generalizing e with
  | nil => simp [fsorted]
  | cons f t ih =>
    have hf := ih f
    simp only [fsorted, Bool.and_eq_true, decide_eq_true_eq, List.mem_cons, forall_eq_or_imp] at *
    constructor
    · rintro ⟨h1, h2⟩
      refine ⟨⟨h1, fun g hg => ?_⟩, h2⟩
      have := (hf.mp h2).1 g hg
      omega
    · rintro ⟨⟨h1, _⟩, h3⟩
      exact ⟨h1, h3⟩

theorem fset_mem {α : Type} (m : FMap α) (k : Nat) (v : α) (e : Nat × α) (h : e ∈ fset m k v) :
    e = (k, v) ∨ e ∈ m := by
  induction m with
  | nil => simp_all [fset]
  | cons f t ih =>
    obtain ⟨a, x⟩ := f
    simp only [fset] at h
    split at h
    · simp_all
    · split at h
      · simp_all; rcases h with h | h <;> simp [h]
      · simp only [List.mem_cons] at h
        rcases h with h | h
        · simp [h]
        · rcases ih h with h | h <;> simp [h]

theorem fsorted_fset {α : Type} (m : FMap α) (k : Nat) (v : α) (h : fsorted m = true) :
    fsorted (fset m k v) = true := by
  induction m with
  | nil => simp [fset, fsorted]
  | cons e t ih =>
    obtain ⟨a, x⟩ := e
    rw [fsorted_cons] at h
    simp only [fset]
    split
    · rename_i h1
      rw [fsorted_cons, fsorted_cons]
      refine ⟨fun f hf => ?_, h⟩
      rcases List.mem_cons.mp hf with rfl | hf
      · exact h1
      · have := h.1 f hf; simp at this ⊢; omega
    · split
      · rename_i h2
        rw [fsorted_cons]
        exact ⟨fun f hf => by have := h.1 f hf; simp at this ⊢; omega, h.2⟩
      · rw [fsorted_cons]
        refine ⟨fun f hf => ?_, ih h.2⟩
        rcases fset_mem t k v f hf with rfl | hf
        · simp; omega
        · exact h.1 f hf

theorem fsorted_fdel {α : Type} (m : FMap α) (k : Nat) (h : fsorted m = true) : fsorted (fdel m k) = true := by
  induction m with
  | nil => rfl
  | cons e t ih =>
    rw [fsorted_cons] at h
    unfold fdel at *
    rw [List.filter_cons]
    split
    · rw [fsorted_cons]
      exact ⟨fun f hf => h.1 f ((List.mem_filter.mp hf).1), ih h.2⟩
    · exact ih h.2

/-- Writing a byte keeps the canonical form. -/
theorem wf_writeByte (m : Memory) (a : Nat) (b : Byte) (h : Memory.wf m = true) : Memory.wf (writeByte m a b) = true := by
  unfold Memory.wf at *
  simp only [Bool.and_eq_true, List.all_eq_true] at *
  unfold writeByte
  split
  · exact ⟨fsorted_fdel _ _ h.1, fun c hc => h.2 c ((List.mem_filter.mp hc).1)⟩
  · rename_i hb
    refine ⟨fsorted_fset _ _ _ h.1, fun c hc => ?_⟩
    rcases fset_mem _ _ _ _ hc with rfl | hc
    · simpa using hb
    · exact h.2 c hc

/-- Writing bytes keeps the canonical form. -/
theorem wf_writeBytes (m : Memory) (a : Nat) (bs : List Byte) (h : Memory.wf m = true) :
    Memory.wf (writeBytes m a bs) = true := by
  induction bs generalizing m a with
  | nil => exact h
  | cons b t ih => exact ih _ _ (wf_writeByte _ _ _ h)

end Sys2Proof.Machine
end

