-- ==== Sys2Proof/Laws/State.lean ====
section
/-!
SUPPORT. Laws/State.lean: what each update of the state and of a strand leaves of every field, and what the reads of
Machine/Mem.lean and Machine/Ops.lean give after the writes.
-/
namespace Sys2Proof.Machine

/-! ### State.setStrand -/

@[simp] theorem State.setStrand_cycle (s : State) (c n : Nat) (x : Strand) : (s.setStrand c n x).cycle = s.cycle := rfl
@[simp] theorem State.setStrand_ccntAdj (s : State) (c n : Nat) (x : Strand) : (s.setStrand c n x).ccntAdj = s.ccntAdj := rfl
@[simp] theorem State.setStrand_slew (s : State) (c n : Nat) (x : Strand) : (s.setStrand c n x).slew = s.slew := rfl
@[simp] theorem State.setStrand_slewAt (s : State) (c n : Nat) (x : Strand) : (s.setStrand c n x).slewAt = s.slewAt := rfl
@[simp] theorem State.setStrand_timeRun (s : State) (c n : Nat) (x : Strand) : (s.setStrand c n x).timeRun = s.timeRun := rfl
@[simp] theorem State.setStrand_turns (s : State) (c n : Nat) (x : Strand) : (s.setStrand c n x).turns = s.turns := rfl
@[simp] theorem State.setStrand_turnNo (s : State) (c n : Nat) (x : Strand) : (s.setStrand c n x).turnNo = s.turnNo := rfl
@[simp] theorem State.setStrand_freeNo (s : State) (c n : Nat) (x : Strand) : (s.setStrand c n x).freeNo = s.freeNo := rfl
@[simp] theorem State.setStrand_nextId (s : State) (c n : Nat) (x : Strand) : (s.setStrand c n x).nextId = s.nextId := rfl
@[simp] theorem State.setStrand_cur (s : State) (c n : Nat) (x : Strand) : (s.setStrand c n x).cur = s.cur := rfl
@[simp] theorem State.setStrand_part (s : State) (c n : Nat) (x : Strand) : (s.setStrand c n x).part = s.part := rfl
@[simp] theorem State.setStrand_mem (s : State) (c n : Nat) (x : Strand) : (s.setStrand c n x).mem = s.mem := rfl
@[simp] theorem State.setStrand_fe (s : State) (c n : Nat) (x : Strand) : (s.setStrand c n x).fe = s.fe := rfl
@[simp] theorem State.setStrand_soft (s : State) (c n : Nat) (x : Strand) : (s.setStrand c n x).soft = s.soft := rfl
@[simp] theorem State.setStrand_strands (s : State) (c n : Nat) (x : Strand) : (s.setStrand c n x).strands = fset s.strands (strandKey c n) x := rfl
@[simp] theorem State.setStrand_cores (s : State) (c n : Nat) (x : Strand) : (s.setStrand c n x).cores = s.cores := rfl
@[simp] theorem State.setStrand_clusters (s : State) (c n : Nat) (x : Strand) : (s.setStrand c n x).clusters = s.clusters := rfl
@[simp] theorem State.setStrand_waits (s : State) (c n : Nat) (x : Strand) : (s.setStrand c n x).waits = s.waits := rfl
@[simp] theorem State.setStrand_posted (s : State) (c n : Nat) (x : Strand) : (s.setStrand c n x).posted = s.posted := rfl
@[simp] theorem State.setStrand_dirs (s : State) (c n : Nat) (x : Strand) : (s.setStrand c n x).dirs = s.dirs := rfl
@[simp] theorem State.setStrand_hcx (s : State) (c n : Nat) (x : Strand) : (s.setStrand c n x).hcx = s.hcx := rfl
@[simp] theorem State.setStrand_l2 (s : State) (c n : Nat) (x : Strand) : (s.setStrand c n x).l2 = s.l2 := rfl
@[simp] theorem State.setStrand_l1 (s : State) (c n : Nat) (x : Strand) : (s.setStrand c n x).l1 = s.l1 := rfl
@[simp] theorem State.setStrand_homeReqs (s : State) (c n : Nat) (x : Strand) : (s.setStrand c n x).homeReqs = s.homeReqs := rfl
@[simp] theorem State.setStrand_homeTxns (s : State) (c n : Nat) (x : Strand) : (s.setStrand c n x).homeTxns = s.homeTxns := rfl
@[simp] theorem State.setStrand_scopes (s : State) (c n : Nat) (x : Strand) : (s.setStrand c n x).scopes = s.scopes := rfl
@[simp] theorem State.setStrand_launches (s : State) (c n : Nat) (x : Strand) : (s.setStrand c n x).launches = s.launches := rfl
@[simp] theorem State.setStrand_newest (s : State) (c n : Nat) (x : Strand) : (s.setStrand c n x).newest = s.newest := rfl
@[simp] theorem State.setStrand_pools (s : State) (c n : Nat) (x : Strand) : (s.setStrand c n x).pools = s.pools := rfl
@[simp] theorem State.setStrand_spillq (s : State) (c n : Nat) (x : Strand) : (s.setStrand c n x).spillq = s.spillq := rfl
@[simp] theorem State.setStrand_front (s : State) (c n : Nat) (x : Strand) : (s.setStrand c n x).front = s.front := rfl
@[simp] theorem State.setStrand_futures (s : State) (c n : Nat) (x : Strand) : (s.setStrand c n x).futures = s.futures := rfl
@[simp] theorem State.setStrand_regs (s : State) (c n : Nat) (x : Strand) : (s.setStrand c n x).regs = s.regs := rfl
@[simp] theorem State.setStrand_tset (s : State) (c n : Nat) (x : Strand) : (s.setStrand c n x).tset = s.tset := rfl
@[simp] theorem State.setStrand_tseq (s : State) (c n : Nat) (x : Strand) : (s.setStrand c n x).tseq = s.tseq := rfl
@[simp] theorem State.setStrand_own (s : State) (c n : Nat) (x : Strand) : (s.setStrand c n x).own = s.own := rfl
@[simp] theorem State.setStrand_deferred (s : State) (c n : Nat) (x : Strand) : (s.setStrand c n x).deferred = s.deferred := rfl
@[simp] theorem State.setStrand_trst (s : State) (c n : Nat) (x : Strand) : (s.setStrand c n x).trst = s.trst := rfl
@[simp] theorem State.setStrand_fenced (s : State) (c n : Nat) (x : Strand) : (s.setStrand c n x).fenced = s.fenced := rfl
@[simp] theorem State.setStrand_hdm (s : State) (c n : Nat) (x : Strand) : (s.setStrand c n x).hdm = s.hdm := rfl
@[simp] theorem State.setStrand_tsBusy (s : State) (c n : Nat) (x : Strand) : (s.setStrand c n x).tsBusy = s.tsBusy := rfl
@[simp] theorem State.setStrand_cmo (s : State) (c n : Nat) (x : Strand) : (s.setStrand c n x).cmo = s.cmo := rfl
@[simp] theorem State.setStrand_fabTx (s : State) (c n : Nat) (x : Strand) : (s.setStrand c n x).fabTx = s.fabTx := rfl
@[simp] theorem State.setStrand_epReqs (s : State) (c n : Nat) (x : Strand) : (s.setStrand c n x).epReqs = s.epReqs := rfl
@[simp] theorem State.setStrand_epTlb (s : State) (c n : Nat) (x : Strand) : (s.setStrand c n x).epTlb = s.epTlb := rfl
@[simp] theorem State.setStrand_harts (s : State) (c n : Nat) (x : Strand) : (s.setStrand c n x).harts = s.harts := rfl
@[simp] theorem State.setStrand_mc (s : State) (c n : Nat) (x : Strand) : (s.setStrand c n x).mc = s.mc := rfl
@[simp] theorem State.setStrand_powered (s : State) (c n : Nat) (x : Strand) : (s.setStrand c n x).powered = s.powered := rfl
@[simp] theorem State.setStrand_outbox (s : State) (c n : Nat) (x : Strand) : (s.setStrand c n x).outbox = s.outbox := rfl

/-! ### State.setMe -/

@[simp] theorem State.setMe_cycle (s : State) (x : Strand) : (s.setMe x).cycle = s.cycle := rfl
@[simp] theorem State.setMe_ccntAdj (s : State) (x : Strand) : (s.setMe x).ccntAdj = s.ccntAdj := rfl
@[simp] theorem State.setMe_slew (s : State) (x : Strand) : (s.setMe x).slew = s.slew := rfl
@[simp] theorem State.setMe_slewAt (s : State) (x : Strand) : (s.setMe x).slewAt = s.slewAt := rfl
@[simp] theorem State.setMe_timeRun (s : State) (x : Strand) : (s.setMe x).timeRun = s.timeRun := rfl
@[simp] theorem State.setMe_turns (s : State) (x : Strand) : (s.setMe x).turns = s.turns := rfl
@[simp] theorem State.setMe_turnNo (s : State) (x : Strand) : (s.setMe x).turnNo = s.turnNo := rfl
@[simp] theorem State.setMe_freeNo (s : State) (x : Strand) : (s.setMe x).freeNo = s.freeNo := rfl
@[simp] theorem State.setMe_nextId (s : State) (x : Strand) : (s.setMe x).nextId = s.nextId := rfl
@[simp] theorem State.setMe_cur (s : State) (x : Strand) : (s.setMe x).cur = s.cur := rfl
@[simp] theorem State.setMe_part (s : State) (x : Strand) : (s.setMe x).part = s.part := rfl
@[simp] theorem State.setMe_mem (s : State) (x : Strand) : (s.setMe x).mem = s.mem := rfl
@[simp] theorem State.setMe_fe (s : State) (x : Strand) : (s.setMe x).fe = s.fe := rfl
@[simp] theorem State.setMe_soft (s : State) (x : Strand) : (s.setMe x).soft = s.soft := rfl
@[simp] theorem State.setMe_strands (s : State) (x : Strand) : (s.setMe x).strands = fset s.strands s.meKey x := rfl
@[simp] theorem State.setMe_cores (s : State) (x : Strand) : (s.setMe x).cores = s.cores := rfl
@[simp] theorem State.setMe_clusters (s : State) (x : Strand) : (s.setMe x).clusters = s.clusters := rfl
@[simp] theorem State.setMe_waits (s : State) (x : Strand) : (s.setMe x).waits = s.waits := rfl
@[simp] theorem State.setMe_posted (s : State) (x : Strand) : (s.setMe x).posted = s.posted := rfl
@[simp] theorem State.setMe_dirs (s : State) (x : Strand) : (s.setMe x).dirs = s.dirs := rfl
@[simp] theorem State.setMe_hcx (s : State) (x : Strand) : (s.setMe x).hcx = s.hcx := rfl
@[simp] theorem State.setMe_l2 (s : State) (x : Strand) : (s.setMe x).l2 = s.l2 := rfl
@[simp] theorem State.setMe_l1 (s : State) (x : Strand) : (s.setMe x).l1 = s.l1 := rfl
@[simp] theorem State.setMe_homeReqs (s : State) (x : Strand) : (s.setMe x).homeReqs = s.homeReqs := rfl
@[simp] theorem State.setMe_homeTxns (s : State) (x : Strand) : (s.setMe x).homeTxns = s.homeTxns := rfl
@[simp] theorem State.setMe_scopes (s : State) (x : Strand) : (s.setMe x).scopes = s.scopes := rfl
@[simp] theorem State.setMe_launches (s : State) (x : Strand) : (s.setMe x).launches = s.launches := rfl
@[simp] theorem State.setMe_newest (s : State) (x : Strand) : (s.setMe x).newest = s.newest := rfl
@[simp] theorem State.setMe_pools (s : State) (x : Strand) : (s.setMe x).pools = s.pools := rfl
@[simp] theorem State.setMe_spillq (s : State) (x : Strand) : (s.setMe x).spillq = s.spillq := rfl
@[simp] theorem State.setMe_front (s : State) (x : Strand) : (s.setMe x).front = s.front := rfl
@[simp] theorem State.setMe_futures (s : State) (x : Strand) : (s.setMe x).futures = s.futures := rfl
@[simp] theorem State.setMe_regs (s : State) (x : Strand) : (s.setMe x).regs = s.regs := rfl
@[simp] theorem State.setMe_tset (s : State) (x : Strand) : (s.setMe x).tset = s.tset := rfl
@[simp] theorem State.setMe_tseq (s : State) (x : Strand) : (s.setMe x).tseq = s.tseq := rfl
@[simp] theorem State.setMe_own (s : State) (x : Strand) : (s.setMe x).own = s.own := rfl
@[simp] theorem State.setMe_deferred (s : State) (x : Strand) : (s.setMe x).deferred = s.deferred := rfl
@[simp] theorem State.setMe_trst (s : State) (x : Strand) : (s.setMe x).trst = s.trst := rfl
@[simp] theorem State.setMe_fenced (s : State) (x : Strand) : (s.setMe x).fenced = s.fenced := rfl
@[simp] theorem State.setMe_hdm (s : State) (x : Strand) : (s.setMe x).hdm = s.hdm := rfl
@[simp] theorem State.setMe_tsBusy (s : State) (x : Strand) : (s.setMe x).tsBusy = s.tsBusy := rfl
@[simp] theorem State.setMe_cmo (s : State) (x : Strand) : (s.setMe x).cmo = s.cmo := rfl
@[simp] theorem State.setMe_fabTx (s : State) (x : Strand) : (s.setMe x).fabTx = s.fabTx := rfl
@[simp] theorem State.setMe_epReqs (s : State) (x : Strand) : (s.setMe x).epReqs = s.epReqs := rfl
@[simp] theorem State.setMe_epTlb (s : State) (x : Strand) : (s.setMe x).epTlb = s.epTlb := rfl
@[simp] theorem State.setMe_harts (s : State) (x : Strand) : (s.setMe x).harts = s.harts := rfl
@[simp] theorem State.setMe_mc (s : State) (x : Strand) : (s.setMe x).mc = s.mc := rfl
@[simp] theorem State.setMe_powered (s : State) (x : Strand) : (s.setMe x).powered = s.powered := rfl
@[simp] theorem State.setMe_outbox (s : State) (x : Strand) : (s.setMe x).outbox = s.outbox := rfl

/-! ### State.setCore -/

@[simp] theorem State.setCore_cycle (s : State) (c : Nat) (x : Core) : (s.setCore c x).cycle = s.cycle := rfl
@[simp] theorem State.setCore_ccntAdj (s : State) (c : Nat) (x : Core) : (s.setCore c x).ccntAdj = s.ccntAdj := rfl
@[simp] theorem State.setCore_slew (s : State) (c : Nat) (x : Core) : (s.setCore c x).slew = s.slew := rfl
@[simp] theorem State.setCore_slewAt (s : State) (c : Nat) (x : Core) : (s.setCore c x).slewAt = s.slewAt := rfl
@[simp] theorem State.setCore_timeRun (s : State) (c : Nat) (x : Core) : (s.setCore c x).timeRun = s.timeRun := rfl
@[simp] theorem State.setCore_turns (s : State) (c : Nat) (x : Core) : (s.setCore c x).turns = s.turns := rfl
@[simp] theorem State.setCore_turnNo (s : State) (c : Nat) (x : Core) : (s.setCore c x).turnNo = s.turnNo := rfl
@[simp] theorem State.setCore_freeNo (s : State) (c : Nat) (x : Core) : (s.setCore c x).freeNo = s.freeNo := rfl
@[simp] theorem State.setCore_nextId (s : State) (c : Nat) (x : Core) : (s.setCore c x).nextId = s.nextId := rfl
@[simp] theorem State.setCore_cur (s : State) (c : Nat) (x : Core) : (s.setCore c x).cur = s.cur := rfl
@[simp] theorem State.setCore_part (s : State) (c : Nat) (x : Core) : (s.setCore c x).part = s.part := rfl
@[simp] theorem State.setCore_mem (s : State) (c : Nat) (x : Core) : (s.setCore c x).mem = s.mem := rfl
@[simp] theorem State.setCore_fe (s : State) (c : Nat) (x : Core) : (s.setCore c x).fe = s.fe := rfl
@[simp] theorem State.setCore_soft (s : State) (c : Nat) (x : Core) : (s.setCore c x).soft = s.soft := rfl
@[simp] theorem State.setCore_strands (s : State) (c : Nat) (x : Core) : (s.setCore c x).strands = s.strands := rfl
@[simp] theorem State.setCore_cores (s : State) (c : Nat) (x : Core) : (s.setCore c x).cores = fset s.cores c x := rfl
@[simp] theorem State.setCore_clusters (s : State) (c : Nat) (x : Core) : (s.setCore c x).clusters = s.clusters := rfl
@[simp] theorem State.setCore_waits (s : State) (c : Nat) (x : Core) : (s.setCore c x).waits = s.waits := rfl
@[simp] theorem State.setCore_posted (s : State) (c : Nat) (x : Core) : (s.setCore c x).posted = s.posted := rfl
@[simp] theorem State.setCore_dirs (s : State) (c : Nat) (x : Core) : (s.setCore c x).dirs = s.dirs := rfl
@[simp] theorem State.setCore_hcx (s : State) (c : Nat) (x : Core) : (s.setCore c x).hcx = s.hcx := rfl
@[simp] theorem State.setCore_l2 (s : State) (c : Nat) (x : Core) : (s.setCore c x).l2 = s.l2 := rfl
@[simp] theorem State.setCore_l1 (s : State) (c : Nat) (x : Core) : (s.setCore c x).l1 = s.l1 := rfl
@[simp] theorem State.setCore_homeReqs (s : State) (c : Nat) (x : Core) : (s.setCore c x).homeReqs = s.homeReqs := rfl
@[simp] theorem State.setCore_homeTxns (s : State) (c : Nat) (x : Core) : (s.setCore c x).homeTxns = s.homeTxns := rfl
@[simp] theorem State.setCore_scopes (s : State) (c : Nat) (x : Core) : (s.setCore c x).scopes = s.scopes := rfl
@[simp] theorem State.setCore_launches (s : State) (c : Nat) (x : Core) : (s.setCore c x).launches = s.launches := rfl
@[simp] theorem State.setCore_newest (s : State) (c : Nat) (x : Core) : (s.setCore c x).newest = s.newest := rfl
@[simp] theorem State.setCore_pools (s : State) (c : Nat) (x : Core) : (s.setCore c x).pools = s.pools := rfl
@[simp] theorem State.setCore_spillq (s : State) (c : Nat) (x : Core) : (s.setCore c x).spillq = s.spillq := rfl
@[simp] theorem State.setCore_front (s : State) (c : Nat) (x : Core) : (s.setCore c x).front = s.front := rfl
@[simp] theorem State.setCore_futures (s : State) (c : Nat) (x : Core) : (s.setCore c x).futures = s.futures := rfl
@[simp] theorem State.setCore_regs (s : State) (c : Nat) (x : Core) : (s.setCore c x).regs = s.regs := rfl
@[simp] theorem State.setCore_tset (s : State) (c : Nat) (x : Core) : (s.setCore c x).tset = s.tset := rfl
@[simp] theorem State.setCore_tseq (s : State) (c : Nat) (x : Core) : (s.setCore c x).tseq = s.tseq := rfl
@[simp] theorem State.setCore_own (s : State) (c : Nat) (x : Core) : (s.setCore c x).own = s.own := rfl
@[simp] theorem State.setCore_deferred (s : State) (c : Nat) (x : Core) : (s.setCore c x).deferred = s.deferred := rfl
@[simp] theorem State.setCore_trst (s : State) (c : Nat) (x : Core) : (s.setCore c x).trst = s.trst := rfl
@[simp] theorem State.setCore_fenced (s : State) (c : Nat) (x : Core) : (s.setCore c x).fenced = s.fenced := rfl
@[simp] theorem State.setCore_hdm (s : State) (c : Nat) (x : Core) : (s.setCore c x).hdm = s.hdm := rfl
@[simp] theorem State.setCore_tsBusy (s : State) (c : Nat) (x : Core) : (s.setCore c x).tsBusy = s.tsBusy := rfl
@[simp] theorem State.setCore_cmo (s : State) (c : Nat) (x : Core) : (s.setCore c x).cmo = s.cmo := rfl
@[simp] theorem State.setCore_fabTx (s : State) (c : Nat) (x : Core) : (s.setCore c x).fabTx = s.fabTx := rfl
@[simp] theorem State.setCore_epReqs (s : State) (c : Nat) (x : Core) : (s.setCore c x).epReqs = s.epReqs := rfl
@[simp] theorem State.setCore_epTlb (s : State) (c : Nat) (x : Core) : (s.setCore c x).epTlb = s.epTlb := rfl
@[simp] theorem State.setCore_harts (s : State) (c : Nat) (x : Core) : (s.setCore c x).harts = s.harts := rfl
@[simp] theorem State.setCore_mc (s : State) (c : Nat) (x : Core) : (s.setCore c x).mc = s.mc := rfl
@[simp] theorem State.setCore_powered (s : State) (c : Nat) (x : Core) : (s.setCore c x).powered = s.powered := rfl
@[simp] theorem State.setCore_outbox (s : State) (c : Nat) (x : Core) : (s.setCore c x).outbox = s.outbox := rfl

/-! ### State.setClu -/

@[simp] theorem State.setClu_cycle (s : State) (c : Nat) (x : Cluster) : (s.setClu c x).cycle = s.cycle := rfl
@[simp] theorem State.setClu_ccntAdj (s : State) (c : Nat) (x : Cluster) : (s.setClu c x).ccntAdj = s.ccntAdj := rfl
@[simp] theorem State.setClu_slew (s : State) (c : Nat) (x : Cluster) : (s.setClu c x).slew = s.slew := rfl
@[simp] theorem State.setClu_slewAt (s : State) (c : Nat) (x : Cluster) : (s.setClu c x).slewAt = s.slewAt := rfl
@[simp] theorem State.setClu_timeRun (s : State) (c : Nat) (x : Cluster) : (s.setClu c x).timeRun = s.timeRun := rfl
@[simp] theorem State.setClu_turns (s : State) (c : Nat) (x : Cluster) : (s.setClu c x).turns = s.turns := rfl
@[simp] theorem State.setClu_turnNo (s : State) (c : Nat) (x : Cluster) : (s.setClu c x).turnNo = s.turnNo := rfl
@[simp] theorem State.setClu_freeNo (s : State) (c : Nat) (x : Cluster) : (s.setClu c x).freeNo = s.freeNo := rfl
@[simp] theorem State.setClu_nextId (s : State) (c : Nat) (x : Cluster) : (s.setClu c x).nextId = s.nextId := rfl
@[simp] theorem State.setClu_cur (s : State) (c : Nat) (x : Cluster) : (s.setClu c x).cur = s.cur := rfl
@[simp] theorem State.setClu_part (s : State) (c : Nat) (x : Cluster) : (s.setClu c x).part = s.part := rfl
@[simp] theorem State.setClu_mem (s : State) (c : Nat) (x : Cluster) : (s.setClu c x).mem = s.mem := rfl
@[simp] theorem State.setClu_fe (s : State) (c : Nat) (x : Cluster) : (s.setClu c x).fe = s.fe := rfl
@[simp] theorem State.setClu_soft (s : State) (c : Nat) (x : Cluster) : (s.setClu c x).soft = s.soft := rfl
@[simp] theorem State.setClu_strands (s : State) (c : Nat) (x : Cluster) : (s.setClu c x).strands = s.strands := rfl
@[simp] theorem State.setClu_cores (s : State) (c : Nat) (x : Cluster) : (s.setClu c x).cores = s.cores := rfl
@[simp] theorem State.setClu_clusters (s : State) (c : Nat) (x : Cluster) : (s.setClu c x).clusters = fset s.clusters c x := rfl
@[simp] theorem State.setClu_waits (s : State) (c : Nat) (x : Cluster) : (s.setClu c x).waits = s.waits := rfl
@[simp] theorem State.setClu_posted (s : State) (c : Nat) (x : Cluster) : (s.setClu c x).posted = s.posted := rfl
@[simp] theorem State.setClu_dirs (s : State) (c : Nat) (x : Cluster) : (s.setClu c x).dirs = s.dirs := rfl
@[simp] theorem State.setClu_hcx (s : State) (c : Nat) (x : Cluster) : (s.setClu c x).hcx = s.hcx := rfl
@[simp] theorem State.setClu_l2 (s : State) (c : Nat) (x : Cluster) : (s.setClu c x).l2 = s.l2 := rfl
@[simp] theorem State.setClu_l1 (s : State) (c : Nat) (x : Cluster) : (s.setClu c x).l1 = s.l1 := rfl
@[simp] theorem State.setClu_homeReqs (s : State) (c : Nat) (x : Cluster) : (s.setClu c x).homeReqs = s.homeReqs := rfl
@[simp] theorem State.setClu_homeTxns (s : State) (c : Nat) (x : Cluster) : (s.setClu c x).homeTxns = s.homeTxns := rfl
@[simp] theorem State.setClu_scopes (s : State) (c : Nat) (x : Cluster) : (s.setClu c x).scopes = s.scopes := rfl
@[simp] theorem State.setClu_launches (s : State) (c : Nat) (x : Cluster) : (s.setClu c x).launches = s.launches := rfl
@[simp] theorem State.setClu_newest (s : State) (c : Nat) (x : Cluster) : (s.setClu c x).newest = s.newest := rfl
@[simp] theorem State.setClu_pools (s : State) (c : Nat) (x : Cluster) : (s.setClu c x).pools = s.pools := rfl
@[simp] theorem State.setClu_spillq (s : State) (c : Nat) (x : Cluster) : (s.setClu c x).spillq = s.spillq := rfl
@[simp] theorem State.setClu_front (s : State) (c : Nat) (x : Cluster) : (s.setClu c x).front = s.front := rfl
@[simp] theorem State.setClu_futures (s : State) (c : Nat) (x : Cluster) : (s.setClu c x).futures = s.futures := rfl
@[simp] theorem State.setClu_regs (s : State) (c : Nat) (x : Cluster) : (s.setClu c x).regs = s.regs := rfl
@[simp] theorem State.setClu_tset (s : State) (c : Nat) (x : Cluster) : (s.setClu c x).tset = s.tset := rfl
@[simp] theorem State.setClu_tseq (s : State) (c : Nat) (x : Cluster) : (s.setClu c x).tseq = s.tseq := rfl
@[simp] theorem State.setClu_own (s : State) (c : Nat) (x : Cluster) : (s.setClu c x).own = s.own := rfl
@[simp] theorem State.setClu_deferred (s : State) (c : Nat) (x : Cluster) : (s.setClu c x).deferred = s.deferred := rfl
@[simp] theorem State.setClu_trst (s : State) (c : Nat) (x : Cluster) : (s.setClu c x).trst = s.trst := rfl
@[simp] theorem State.setClu_fenced (s : State) (c : Nat) (x : Cluster) : (s.setClu c x).fenced = s.fenced := rfl
@[simp] theorem State.setClu_hdm (s : State) (c : Nat) (x : Cluster) : (s.setClu c x).hdm = s.hdm := rfl
@[simp] theorem State.setClu_tsBusy (s : State) (c : Nat) (x : Cluster) : (s.setClu c x).tsBusy = s.tsBusy := rfl
@[simp] theorem State.setClu_cmo (s : State) (c : Nat) (x : Cluster) : (s.setClu c x).cmo = s.cmo := rfl
@[simp] theorem State.setClu_fabTx (s : State) (c : Nat) (x : Cluster) : (s.setClu c x).fabTx = s.fabTx := rfl
@[simp] theorem State.setClu_epReqs (s : State) (c : Nat) (x : Cluster) : (s.setClu c x).epReqs = s.epReqs := rfl
@[simp] theorem State.setClu_epTlb (s : State) (c : Nat) (x : Cluster) : (s.setClu c x).epTlb = s.epTlb := rfl
@[simp] theorem State.setClu_harts (s : State) (c : Nat) (x : Cluster) : (s.setClu c x).harts = s.harts := rfl
@[simp] theorem State.setClu_mc (s : State) (c : Nat) (x : Cluster) : (s.setClu c x).mc = s.mc := rfl
@[simp] theorem State.setClu_powered (s : State) (c : Nat) (x : Cluster) : (s.setClu c x).powered = s.powered := rfl
@[simp] theorem State.setClu_outbox (s : State) (c : Nat) (x : Cluster) : (s.setClu c x).outbox = s.outbox := rfl

/-! ### State.setHart -/

@[simp] theorem State.setHart_cycle (s : State) (n : Nat) (x : Hart) : (s.setHart n x).cycle = s.cycle := rfl
@[simp] theorem State.setHart_ccntAdj (s : State) (n : Nat) (x : Hart) : (s.setHart n x).ccntAdj = s.ccntAdj := rfl
@[simp] theorem State.setHart_slew (s : State) (n : Nat) (x : Hart) : (s.setHart n x).slew = s.slew := rfl
@[simp] theorem State.setHart_slewAt (s : State) (n : Nat) (x : Hart) : (s.setHart n x).slewAt = s.slewAt := rfl
@[simp] theorem State.setHart_timeRun (s : State) (n : Nat) (x : Hart) : (s.setHart n x).timeRun = s.timeRun := rfl
@[simp] theorem State.setHart_turns (s : State) (n : Nat) (x : Hart) : (s.setHart n x).turns = s.turns := rfl
@[simp] theorem State.setHart_turnNo (s : State) (n : Nat) (x : Hart) : (s.setHart n x).turnNo = s.turnNo := rfl
@[simp] theorem State.setHart_freeNo (s : State) (n : Nat) (x : Hart) : (s.setHart n x).freeNo = s.freeNo := rfl
@[simp] theorem State.setHart_nextId (s : State) (n : Nat) (x : Hart) : (s.setHart n x).nextId = s.nextId := rfl
@[simp] theorem State.setHart_cur (s : State) (n : Nat) (x : Hart) : (s.setHart n x).cur = s.cur := rfl
@[simp] theorem State.setHart_part (s : State) (n : Nat) (x : Hart) : (s.setHart n x).part = s.part := rfl
@[simp] theorem State.setHart_mem (s : State) (n : Nat) (x : Hart) : (s.setHart n x).mem = s.mem := rfl
@[simp] theorem State.setHart_fe (s : State) (n : Nat) (x : Hart) : (s.setHart n x).fe = s.fe := rfl
@[simp] theorem State.setHart_soft (s : State) (n : Nat) (x : Hart) : (s.setHart n x).soft = s.soft := rfl
@[simp] theorem State.setHart_strands (s : State) (n : Nat) (x : Hart) : (s.setHart n x).strands = s.strands := rfl
@[simp] theorem State.setHart_cores (s : State) (n : Nat) (x : Hart) : (s.setHart n x).cores = s.cores := rfl
@[simp] theorem State.setHart_clusters (s : State) (n : Nat) (x : Hart) : (s.setHart n x).clusters = s.clusters := rfl
@[simp] theorem State.setHart_waits (s : State) (n : Nat) (x : Hart) : (s.setHart n x).waits = s.waits := rfl
@[simp] theorem State.setHart_posted (s : State) (n : Nat) (x : Hart) : (s.setHart n x).posted = s.posted := rfl
@[simp] theorem State.setHart_dirs (s : State) (n : Nat) (x : Hart) : (s.setHart n x).dirs = s.dirs := rfl
@[simp] theorem State.setHart_hcx (s : State) (n : Nat) (x : Hart) : (s.setHart n x).hcx = s.hcx := rfl
@[simp] theorem State.setHart_l2 (s : State) (n : Nat) (x : Hart) : (s.setHart n x).l2 = s.l2 := rfl
@[simp] theorem State.setHart_l1 (s : State) (n : Nat) (x : Hart) : (s.setHart n x).l1 = s.l1 := rfl
@[simp] theorem State.setHart_homeReqs (s : State) (n : Nat) (x : Hart) : (s.setHart n x).homeReqs = s.homeReqs := rfl
@[simp] theorem State.setHart_homeTxns (s : State) (n : Nat) (x : Hart) : (s.setHart n x).homeTxns = s.homeTxns := rfl
@[simp] theorem State.setHart_scopes (s : State) (n : Nat) (x : Hart) : (s.setHart n x).scopes = s.scopes := rfl
@[simp] theorem State.setHart_launches (s : State) (n : Nat) (x : Hart) : (s.setHart n x).launches = s.launches := rfl
@[simp] theorem State.setHart_newest (s : State) (n : Nat) (x : Hart) : (s.setHart n x).newest = s.newest := rfl
@[simp] theorem State.setHart_pools (s : State) (n : Nat) (x : Hart) : (s.setHart n x).pools = s.pools := rfl
@[simp] theorem State.setHart_spillq (s : State) (n : Nat) (x : Hart) : (s.setHart n x).spillq = s.spillq := rfl
@[simp] theorem State.setHart_front (s : State) (n : Nat) (x : Hart) : (s.setHart n x).front = s.front := rfl
@[simp] theorem State.setHart_futures (s : State) (n : Nat) (x : Hart) : (s.setHart n x).futures = s.futures := rfl
@[simp] theorem State.setHart_regs (s : State) (n : Nat) (x : Hart) : (s.setHart n x).regs = s.regs := rfl
@[simp] theorem State.setHart_tset (s : State) (n : Nat) (x : Hart) : (s.setHart n x).tset = s.tset := rfl
@[simp] theorem State.setHart_tseq (s : State) (n : Nat) (x : Hart) : (s.setHart n x).tseq = s.tseq := rfl
@[simp] theorem State.setHart_own (s : State) (n : Nat) (x : Hart) : (s.setHart n x).own = s.own := rfl
@[simp] theorem State.setHart_deferred (s : State) (n : Nat) (x : Hart) : (s.setHart n x).deferred = s.deferred := rfl
@[simp] theorem State.setHart_trst (s : State) (n : Nat) (x : Hart) : (s.setHart n x).trst = s.trst := rfl
@[simp] theorem State.setHart_fenced (s : State) (n : Nat) (x : Hart) : (s.setHart n x).fenced = s.fenced := rfl
@[simp] theorem State.setHart_hdm (s : State) (n : Nat) (x : Hart) : (s.setHart n x).hdm = s.hdm := rfl
@[simp] theorem State.setHart_tsBusy (s : State) (n : Nat) (x : Hart) : (s.setHart n x).tsBusy = s.tsBusy := rfl
@[simp] theorem State.setHart_cmo (s : State) (n : Nat) (x : Hart) : (s.setHart n x).cmo = s.cmo := rfl
@[simp] theorem State.setHart_fabTx (s : State) (n : Nat) (x : Hart) : (s.setHart n x).fabTx = s.fabTx := rfl
@[simp] theorem State.setHart_epReqs (s : State) (n : Nat) (x : Hart) : (s.setHart n x).epReqs = s.epReqs := rfl
@[simp] theorem State.setHart_epTlb (s : State) (n : Nat) (x : Hart) : (s.setHart n x).epTlb = s.epTlb := rfl
@[simp] theorem State.setHart_harts (s : State) (n : Nat) (x : Hart) : (s.setHart n x).harts = fset s.harts n x := rfl
@[simp] theorem State.setHart_mc (s : State) (n : Nat) (x : Hart) : (s.setHart n x).mc = s.mc := rfl
@[simp] theorem State.setHart_powered (s : State) (n : Nat) (x : Hart) : (s.setHart n x).powered = s.powered := rfl
@[simp] theorem State.setHart_outbox (s : State) (n : Nat) (x : Hart) : (s.setHart n x).outbox = s.outbox := rfl

/-! ### State.setPool -/

@[simp] theorem State.setPool_cycle (s : State) (d : Nat) (x : Pool) : (s.setPool d x).cycle = s.cycle := rfl
@[simp] theorem State.setPool_ccntAdj (s : State) (d : Nat) (x : Pool) : (s.setPool d x).ccntAdj = s.ccntAdj := rfl
@[simp] theorem State.setPool_slew (s : State) (d : Nat) (x : Pool) : (s.setPool d x).slew = s.slew := rfl
@[simp] theorem State.setPool_slewAt (s : State) (d : Nat) (x : Pool) : (s.setPool d x).slewAt = s.slewAt := rfl
@[simp] theorem State.setPool_timeRun (s : State) (d : Nat) (x : Pool) : (s.setPool d x).timeRun = s.timeRun := rfl
@[simp] theorem State.setPool_turns (s : State) (d : Nat) (x : Pool) : (s.setPool d x).turns = s.turns := rfl
@[simp] theorem State.setPool_turnNo (s : State) (d : Nat) (x : Pool) : (s.setPool d x).turnNo = s.turnNo := rfl
@[simp] theorem State.setPool_freeNo (s : State) (d : Nat) (x : Pool) : (s.setPool d x).freeNo = s.freeNo := rfl
@[simp] theorem State.setPool_nextId (s : State) (d : Nat) (x : Pool) : (s.setPool d x).nextId = s.nextId := rfl
@[simp] theorem State.setPool_cur (s : State) (d : Nat) (x : Pool) : (s.setPool d x).cur = s.cur := rfl
@[simp] theorem State.setPool_part (s : State) (d : Nat) (x : Pool) : (s.setPool d x).part = s.part := rfl
@[simp] theorem State.setPool_mem (s : State) (d : Nat) (x : Pool) : (s.setPool d x).mem = s.mem := rfl
@[simp] theorem State.setPool_fe (s : State) (d : Nat) (x : Pool) : (s.setPool d x).fe = s.fe := rfl
@[simp] theorem State.setPool_soft (s : State) (d : Nat) (x : Pool) : (s.setPool d x).soft = s.soft := rfl
@[simp] theorem State.setPool_strands (s : State) (d : Nat) (x : Pool) : (s.setPool d x).strands = s.strands := rfl
@[simp] theorem State.setPool_cores (s : State) (d : Nat) (x : Pool) : (s.setPool d x).cores = s.cores := rfl
@[simp] theorem State.setPool_clusters (s : State) (d : Nat) (x : Pool) : (s.setPool d x).clusters = s.clusters := rfl
@[simp] theorem State.setPool_waits (s : State) (d : Nat) (x : Pool) : (s.setPool d x).waits = s.waits := rfl
@[simp] theorem State.setPool_posted (s : State) (d : Nat) (x : Pool) : (s.setPool d x).posted = s.posted := rfl
@[simp] theorem State.setPool_dirs (s : State) (d : Nat) (x : Pool) : (s.setPool d x).dirs = s.dirs := rfl
@[simp] theorem State.setPool_hcx (s : State) (d : Nat) (x : Pool) : (s.setPool d x).hcx = s.hcx := rfl
@[simp] theorem State.setPool_l2 (s : State) (d : Nat) (x : Pool) : (s.setPool d x).l2 = s.l2 := rfl
@[simp] theorem State.setPool_l1 (s : State) (d : Nat) (x : Pool) : (s.setPool d x).l1 = s.l1 := rfl
@[simp] theorem State.setPool_homeReqs (s : State) (d : Nat) (x : Pool) : (s.setPool d x).homeReqs = s.homeReqs := rfl
@[simp] theorem State.setPool_homeTxns (s : State) (d : Nat) (x : Pool) : (s.setPool d x).homeTxns = s.homeTxns := rfl
@[simp] theorem State.setPool_scopes (s : State) (d : Nat) (x : Pool) : (s.setPool d x).scopes = s.scopes := rfl
@[simp] theorem State.setPool_launches (s : State) (d : Nat) (x : Pool) : (s.setPool d x).launches = s.launches := rfl
@[simp] theorem State.setPool_newest (s : State) (d : Nat) (x : Pool) : (s.setPool d x).newest = s.newest := rfl
@[simp] theorem State.setPool_pools (s : State) (d : Nat) (x : Pool) : (s.setPool d x).pools = fset s.pools d x := rfl
@[simp] theorem State.setPool_spillq (s : State) (d : Nat) (x : Pool) : (s.setPool d x).spillq = s.spillq := rfl
@[simp] theorem State.setPool_front (s : State) (d : Nat) (x : Pool) : (s.setPool d x).front = s.front := rfl
@[simp] theorem State.setPool_futures (s : State) (d : Nat) (x : Pool) : (s.setPool d x).futures = s.futures := rfl
@[simp] theorem State.setPool_regs (s : State) (d : Nat) (x : Pool) : (s.setPool d x).regs = s.regs := rfl
@[simp] theorem State.setPool_tset (s : State) (d : Nat) (x : Pool) : (s.setPool d x).tset = s.tset := rfl
@[simp] theorem State.setPool_tseq (s : State) (d : Nat) (x : Pool) : (s.setPool d x).tseq = s.tseq := rfl
@[simp] theorem State.setPool_own (s : State) (d : Nat) (x : Pool) : (s.setPool d x).own = s.own := rfl
@[simp] theorem State.setPool_deferred (s : State) (d : Nat) (x : Pool) : (s.setPool d x).deferred = s.deferred := rfl
@[simp] theorem State.setPool_trst (s : State) (d : Nat) (x : Pool) : (s.setPool d x).trst = s.trst := rfl
@[simp] theorem State.setPool_fenced (s : State) (d : Nat) (x : Pool) : (s.setPool d x).fenced = s.fenced := rfl
@[simp] theorem State.setPool_hdm (s : State) (d : Nat) (x : Pool) : (s.setPool d x).hdm = s.hdm := rfl
@[simp] theorem State.setPool_tsBusy (s : State) (d : Nat) (x : Pool) : (s.setPool d x).tsBusy = s.tsBusy := rfl
@[simp] theorem State.setPool_cmo (s : State) (d : Nat) (x : Pool) : (s.setPool d x).cmo = s.cmo := rfl
@[simp] theorem State.setPool_fabTx (s : State) (d : Nat) (x : Pool) : (s.setPool d x).fabTx = s.fabTx := rfl
@[simp] theorem State.setPool_epReqs (s : State) (d : Nat) (x : Pool) : (s.setPool d x).epReqs = s.epReqs := rfl
@[simp] theorem State.setPool_epTlb (s : State) (d : Nat) (x : Pool) : (s.setPool d x).epTlb = s.epTlb := rfl
@[simp] theorem State.setPool_harts (s : State) (d : Nat) (x : Pool) : (s.setPool d x).harts = s.harts := rfl
@[simp] theorem State.setPool_mc (s : State) (d : Nat) (x : Pool) : (s.setPool d x).mc = s.mc := rfl
@[simp] theorem State.setPool_powered (s : State) (d : Nat) (x : Pool) : (s.setPool d x).powered = s.powered := rfl
@[simp] theorem State.setPool_outbox (s : State) (d : Nat) (x : Pool) : (s.setPool d x).outbox = s.outbox := rfl

/-! ### State.setLaunch -/

@[simp] theorem State.setLaunch_cycle (s : State) (k : Nat) (l : Launch) : (s.setLaunch k l).cycle = s.cycle := rfl
@[simp] theorem State.setLaunch_ccntAdj (s : State) (k : Nat) (l : Launch) : (s.setLaunch k l).ccntAdj = s.ccntAdj := rfl
@[simp] theorem State.setLaunch_slew (s : State) (k : Nat) (l : Launch) : (s.setLaunch k l).slew = s.slew := rfl
@[simp] theorem State.setLaunch_slewAt (s : State) (k : Nat) (l : Launch) : (s.setLaunch k l).slewAt = s.slewAt := rfl
@[simp] theorem State.setLaunch_timeRun (s : State) (k : Nat) (l : Launch) : (s.setLaunch k l).timeRun = s.timeRun := rfl
@[simp] theorem State.setLaunch_turns (s : State) (k : Nat) (l : Launch) : (s.setLaunch k l).turns = s.turns := rfl
@[simp] theorem State.setLaunch_turnNo (s : State) (k : Nat) (l : Launch) : (s.setLaunch k l).turnNo = s.turnNo := rfl
@[simp] theorem State.setLaunch_freeNo (s : State) (k : Nat) (l : Launch) : (s.setLaunch k l).freeNo = s.freeNo := rfl
@[simp] theorem State.setLaunch_nextId (s : State) (k : Nat) (l : Launch) : (s.setLaunch k l).nextId = s.nextId := rfl
@[simp] theorem State.setLaunch_cur (s : State) (k : Nat) (l : Launch) : (s.setLaunch k l).cur = s.cur := rfl
@[simp] theorem State.setLaunch_part (s : State) (k : Nat) (l : Launch) : (s.setLaunch k l).part = s.part := rfl
@[simp] theorem State.setLaunch_mem (s : State) (k : Nat) (l : Launch) : (s.setLaunch k l).mem = s.mem := rfl
@[simp] theorem State.setLaunch_fe (s : State) (k : Nat) (l : Launch) : (s.setLaunch k l).fe = s.fe := rfl
@[simp] theorem State.setLaunch_soft (s : State) (k : Nat) (l : Launch) : (s.setLaunch k l).soft = s.soft := rfl
@[simp] theorem State.setLaunch_strands (s : State) (k : Nat) (l : Launch) : (s.setLaunch k l).strands = s.strands := rfl
@[simp] theorem State.setLaunch_cores (s : State) (k : Nat) (l : Launch) : (s.setLaunch k l).cores = s.cores := rfl
@[simp] theorem State.setLaunch_clusters (s : State) (k : Nat) (l : Launch) : (s.setLaunch k l).clusters = s.clusters := rfl
@[simp] theorem State.setLaunch_waits (s : State) (k : Nat) (l : Launch) : (s.setLaunch k l).waits = s.waits := rfl
@[simp] theorem State.setLaunch_posted (s : State) (k : Nat) (l : Launch) : (s.setLaunch k l).posted = s.posted := rfl
@[simp] theorem State.setLaunch_dirs (s : State) (k : Nat) (l : Launch) : (s.setLaunch k l).dirs = s.dirs := rfl
@[simp] theorem State.setLaunch_hcx (s : State) (k : Nat) (l : Launch) : (s.setLaunch k l).hcx = s.hcx := rfl
@[simp] theorem State.setLaunch_l2 (s : State) (k : Nat) (l : Launch) : (s.setLaunch k l).l2 = s.l2 := rfl
@[simp] theorem State.setLaunch_l1 (s : State) (k : Nat) (l : Launch) : (s.setLaunch k l).l1 = s.l1 := rfl
@[simp] theorem State.setLaunch_homeReqs (s : State) (k : Nat) (l : Launch) : (s.setLaunch k l).homeReqs = s.homeReqs := rfl
@[simp] theorem State.setLaunch_homeTxns (s : State) (k : Nat) (l : Launch) : (s.setLaunch k l).homeTxns = s.homeTxns := rfl
@[simp] theorem State.setLaunch_scopes (s : State) (k : Nat) (l : Launch) : (s.setLaunch k l).scopes = s.scopes := rfl
@[simp] theorem State.setLaunch_launches (s : State) (k : Nat) (l : Launch) : (s.setLaunch k l).launches = fset s.launches k l := rfl
@[simp] theorem State.setLaunch_newest (s : State) (k : Nat) (l : Launch) : (s.setLaunch k l).newest = s.newest := rfl
@[simp] theorem State.setLaunch_pools (s : State) (k : Nat) (l : Launch) : (s.setLaunch k l).pools = s.pools := rfl
@[simp] theorem State.setLaunch_spillq (s : State) (k : Nat) (l : Launch) : (s.setLaunch k l).spillq = s.spillq := rfl
@[simp] theorem State.setLaunch_front (s : State) (k : Nat) (l : Launch) : (s.setLaunch k l).front = s.front := rfl
@[simp] theorem State.setLaunch_futures (s : State) (k : Nat) (l : Launch) : (s.setLaunch k l).futures = s.futures := rfl
@[simp] theorem State.setLaunch_regs (s : State) (k : Nat) (l : Launch) : (s.setLaunch k l).regs = s.regs := rfl
@[simp] theorem State.setLaunch_tset (s : State) (k : Nat) (l : Launch) : (s.setLaunch k l).tset = s.tset := rfl
@[simp] theorem State.setLaunch_tseq (s : State) (k : Nat) (l : Launch) : (s.setLaunch k l).tseq = s.tseq := rfl
@[simp] theorem State.setLaunch_own (s : State) (k : Nat) (l : Launch) : (s.setLaunch k l).own = s.own := rfl
@[simp] theorem State.setLaunch_deferred (s : State) (k : Nat) (l : Launch) : (s.setLaunch k l).deferred = s.deferred := rfl
@[simp] theorem State.setLaunch_trst (s : State) (k : Nat) (l : Launch) : (s.setLaunch k l).trst = s.trst := rfl
@[simp] theorem State.setLaunch_fenced (s : State) (k : Nat) (l : Launch) : (s.setLaunch k l).fenced = s.fenced := rfl
@[simp] theorem State.setLaunch_hdm (s : State) (k : Nat) (l : Launch) : (s.setLaunch k l).hdm = s.hdm := rfl
@[simp] theorem State.setLaunch_tsBusy (s : State) (k : Nat) (l : Launch) : (s.setLaunch k l).tsBusy = s.tsBusy := rfl
@[simp] theorem State.setLaunch_cmo (s : State) (k : Nat) (l : Launch) : (s.setLaunch k l).cmo = s.cmo := rfl
@[simp] theorem State.setLaunch_fabTx (s : State) (k : Nat) (l : Launch) : (s.setLaunch k l).fabTx = s.fabTx := rfl
@[simp] theorem State.setLaunch_epReqs (s : State) (k : Nat) (l : Launch) : (s.setLaunch k l).epReqs = s.epReqs := rfl
@[simp] theorem State.setLaunch_epTlb (s : State) (k : Nat) (l : Launch) : (s.setLaunch k l).epTlb = s.epTlb := rfl
@[simp] theorem State.setLaunch_harts (s : State) (k : Nat) (l : Launch) : (s.setLaunch k l).harts = s.harts := rfl
@[simp] theorem State.setLaunch_mc (s : State) (k : Nat) (l : Launch) : (s.setLaunch k l).mc = s.mc := rfl
@[simp] theorem State.setLaunch_powered (s : State) (k : Nat) (l : Launch) : (s.setLaunch k l).powered = s.powered := rfl
@[simp] theorem State.setLaunch_outbox (s : State) (k : Nat) (l : Launch) : (s.setLaunch k l).outbox = s.outbox := rfl

/-! ### State.withMem -/

@[simp] theorem State.withMem_cycle (s : State) (m : Memory) : (s.withMem m).cycle = s.cycle := rfl
@[simp] theorem State.withMem_ccntAdj (s : State) (m : Memory) : (s.withMem m).ccntAdj = s.ccntAdj := rfl
@[simp] theorem State.withMem_slew (s : State) (m : Memory) : (s.withMem m).slew = s.slew := rfl
@[simp] theorem State.withMem_slewAt (s : State) (m : Memory) : (s.withMem m).slewAt = s.slewAt := rfl
@[simp] theorem State.withMem_timeRun (s : State) (m : Memory) : (s.withMem m).timeRun = s.timeRun := rfl
@[simp] theorem State.withMem_turns (s : State) (m : Memory) : (s.withMem m).turns = s.turns := rfl
@[simp] theorem State.withMem_turnNo (s : State) (m : Memory) : (s.withMem m).turnNo = s.turnNo := rfl
@[simp] theorem State.withMem_freeNo (s : State) (m : Memory) : (s.withMem m).freeNo = s.freeNo := rfl
@[simp] theorem State.withMem_nextId (s : State) (m : Memory) : (s.withMem m).nextId = s.nextId := rfl
@[simp] theorem State.withMem_cur (s : State) (m : Memory) : (s.withMem m).cur = s.cur := rfl
@[simp] theorem State.withMem_part (s : State) (m : Memory) : (s.withMem m).part = s.part := rfl
@[simp] theorem State.withMem_mem (s : State) (m : Memory) : (s.withMem m).mem = m := rfl
@[simp] theorem State.withMem_fe (s : State) (m : Memory) : (s.withMem m).fe = s.fe := rfl
@[simp] theorem State.withMem_soft (s : State) (m : Memory) : (s.withMem m).soft = s.soft := rfl
@[simp] theorem State.withMem_strands (s : State) (m : Memory) : (s.withMem m).strands = s.strands := rfl
@[simp] theorem State.withMem_cores (s : State) (m : Memory) : (s.withMem m).cores = s.cores := rfl
@[simp] theorem State.withMem_clusters (s : State) (m : Memory) : (s.withMem m).clusters = s.clusters := rfl
@[simp] theorem State.withMem_waits (s : State) (m : Memory) : (s.withMem m).waits = s.waits := rfl
@[simp] theorem State.withMem_posted (s : State) (m : Memory) : (s.withMem m).posted = s.posted := rfl
@[simp] theorem State.withMem_dirs (s : State) (m : Memory) : (s.withMem m).dirs = s.dirs := rfl
@[simp] theorem State.withMem_hcx (s : State) (m : Memory) : (s.withMem m).hcx = s.hcx := rfl
@[simp] theorem State.withMem_l2 (s : State) (m : Memory) : (s.withMem m).l2 = s.l2 := rfl
@[simp] theorem State.withMem_l1 (s : State) (m : Memory) : (s.withMem m).l1 = s.l1 := rfl
@[simp] theorem State.withMem_homeReqs (s : State) (m : Memory) : (s.withMem m).homeReqs = s.homeReqs := rfl
@[simp] theorem State.withMem_homeTxns (s : State) (m : Memory) : (s.withMem m).homeTxns = s.homeTxns := rfl
@[simp] theorem State.withMem_scopes (s : State) (m : Memory) : (s.withMem m).scopes = s.scopes := rfl
@[simp] theorem State.withMem_launches (s : State) (m : Memory) : (s.withMem m).launches = s.launches := rfl
@[simp] theorem State.withMem_newest (s : State) (m : Memory) : (s.withMem m).newest = s.newest := rfl
@[simp] theorem State.withMem_pools (s : State) (m : Memory) : (s.withMem m).pools = s.pools := rfl
@[simp] theorem State.withMem_spillq (s : State) (m : Memory) : (s.withMem m).spillq = s.spillq := rfl
@[simp] theorem State.withMem_front (s : State) (m : Memory) : (s.withMem m).front = s.front := rfl
@[simp] theorem State.withMem_futures (s : State) (m : Memory) : (s.withMem m).futures = s.futures := rfl
@[simp] theorem State.withMem_regs (s : State) (m : Memory) : (s.withMem m).regs = s.regs := rfl
@[simp] theorem State.withMem_tset (s : State) (m : Memory) : (s.withMem m).tset = s.tset := rfl
@[simp] theorem State.withMem_tseq (s : State) (m : Memory) : (s.withMem m).tseq = s.tseq := rfl
@[simp] theorem State.withMem_own (s : State) (m : Memory) : (s.withMem m).own = s.own := rfl
@[simp] theorem State.withMem_deferred (s : State) (m : Memory) : (s.withMem m).deferred = s.deferred := rfl
@[simp] theorem State.withMem_trst (s : State) (m : Memory) : (s.withMem m).trst = s.trst := rfl
@[simp] theorem State.withMem_fenced (s : State) (m : Memory) : (s.withMem m).fenced = s.fenced := rfl
@[simp] theorem State.withMem_hdm (s : State) (m : Memory) : (s.withMem m).hdm = s.hdm := rfl
@[simp] theorem State.withMem_tsBusy (s : State) (m : Memory) : (s.withMem m).tsBusy = s.tsBusy := rfl
@[simp] theorem State.withMem_cmo (s : State) (m : Memory) : (s.withMem m).cmo = s.cmo := rfl
@[simp] theorem State.withMem_fabTx (s : State) (m : Memory) : (s.withMem m).fabTx = s.fabTx := rfl
@[simp] theorem State.withMem_epReqs (s : State) (m : Memory) : (s.withMem m).epReqs = s.epReqs := rfl
@[simp] theorem State.withMem_epTlb (s : State) (m : Memory) : (s.withMem m).epTlb = s.epTlb := rfl
@[simp] theorem State.withMem_harts (s : State) (m : Memory) : (s.withMem m).harts = s.harts := rfl
@[simp] theorem State.withMem_mc (s : State) (m : Memory) : (s.withMem m).mc = s.mc := rfl
@[simp] theorem State.withMem_powered (s : State) (m : Memory) : (s.withMem m).powered = s.powered := rfl
@[simp] theorem State.withMem_outbox (s : State) (m : Memory) : (s.withMem m).outbox = s.outbox := rfl

/-! ### State.send -/

@[simp] theorem State.send_cycle (s : State) (e : Out) : (s.send e).cycle = s.cycle := rfl
@[simp] theorem State.send_ccntAdj (s : State) (e : Out) : (s.send e).ccntAdj = s.ccntAdj := rfl
@[simp] theorem State.send_slew (s : State) (e : Out) : (s.send e).slew = s.slew := rfl
@[simp] theorem State.send_slewAt (s : State) (e : Out) : (s.send e).slewAt = s.slewAt := rfl
@[simp] theorem State.send_timeRun (s : State) (e : Out) : (s.send e).timeRun = s.timeRun := rfl
@[simp] theorem State.send_turns (s : State) (e : Out) : (s.send e).turns = s.turns := rfl
@[simp] theorem State.send_turnNo (s : State) (e : Out) : (s.send e).turnNo = s.turnNo := rfl
@[simp] theorem State.send_freeNo (s : State) (e : Out) : (s.send e).freeNo = s.freeNo := rfl
@[simp] theorem State.send_nextId (s : State) (e : Out) : (s.send e).nextId = s.nextId := rfl
@[simp] theorem State.send_cur (s : State) (e : Out) : (s.send e).cur = s.cur := rfl
@[simp] theorem State.send_part (s : State) (e : Out) : (s.send e).part = s.part := rfl
@[simp] theorem State.send_mem (s : State) (e : Out) : (s.send e).mem = s.mem := rfl
@[simp] theorem State.send_fe (s : State) (e : Out) : (s.send e).fe = s.fe := rfl
@[simp] theorem State.send_soft (s : State) (e : Out) : (s.send e).soft = s.soft := rfl
@[simp] theorem State.send_strands (s : State) (e : Out) : (s.send e).strands = s.strands := rfl
@[simp] theorem State.send_cores (s : State) (e : Out) : (s.send e).cores = s.cores := rfl
@[simp] theorem State.send_clusters (s : State) (e : Out) : (s.send e).clusters = s.clusters := rfl
@[simp] theorem State.send_waits (s : State) (e : Out) : (s.send e).waits = s.waits := rfl
@[simp] theorem State.send_posted (s : State) (e : Out) : (s.send e).posted = s.posted := rfl
@[simp] theorem State.send_dirs (s : State) (e : Out) : (s.send e).dirs = s.dirs := rfl
@[simp] theorem State.send_hcx (s : State) (e : Out) : (s.send e).hcx = s.hcx := rfl
@[simp] theorem State.send_l2 (s : State) (e : Out) : (s.send e).l2 = s.l2 := rfl
@[simp] theorem State.send_l1 (s : State) (e : Out) : (s.send e).l1 = s.l1 := rfl
@[simp] theorem State.send_homeReqs (s : State) (e : Out) : (s.send e).homeReqs = s.homeReqs := rfl
@[simp] theorem State.send_homeTxns (s : State) (e : Out) : (s.send e).homeTxns = s.homeTxns := rfl
@[simp] theorem State.send_scopes (s : State) (e : Out) : (s.send e).scopes = s.scopes := rfl
@[simp] theorem State.send_launches (s : State) (e : Out) : (s.send e).launches = s.launches := rfl
@[simp] theorem State.send_newest (s : State) (e : Out) : (s.send e).newest = s.newest := rfl
@[simp] theorem State.send_pools (s : State) (e : Out) : (s.send e).pools = s.pools := rfl
@[simp] theorem State.send_spillq (s : State) (e : Out) : (s.send e).spillq = s.spillq := rfl
@[simp] theorem State.send_front (s : State) (e : Out) : (s.send e).front = s.front := rfl
@[simp] theorem State.send_futures (s : State) (e : Out) : (s.send e).futures = s.futures := rfl
@[simp] theorem State.send_regs (s : State) (e : Out) : (s.send e).regs = s.regs := rfl
@[simp] theorem State.send_tset (s : State) (e : Out) : (s.send e).tset = s.tset := rfl
@[simp] theorem State.send_tseq (s : State) (e : Out) : (s.send e).tseq = s.tseq := rfl
@[simp] theorem State.send_own (s : State) (e : Out) : (s.send e).own = s.own := rfl
@[simp] theorem State.send_deferred (s : State) (e : Out) : (s.send e).deferred = s.deferred := rfl
@[simp] theorem State.send_trst (s : State) (e : Out) : (s.send e).trst = s.trst := rfl
@[simp] theorem State.send_fenced (s : State) (e : Out) : (s.send e).fenced = s.fenced := rfl
@[simp] theorem State.send_hdm (s : State) (e : Out) : (s.send e).hdm = s.hdm := rfl
@[simp] theorem State.send_tsBusy (s : State) (e : Out) : (s.send e).tsBusy = s.tsBusy := rfl
@[simp] theorem State.send_cmo (s : State) (e : Out) : (s.send e).cmo = s.cmo := rfl
@[simp] theorem State.send_fabTx (s : State) (e : Out) : (s.send e).fabTx = s.fabTx := rfl
@[simp] theorem State.send_epReqs (s : State) (e : Out) : (s.send e).epReqs = s.epReqs := rfl
@[simp] theorem State.send_epTlb (s : State) (e : Out) : (s.send e).epTlb = s.epTlb := rfl
@[simp] theorem State.send_harts (s : State) (e : Out) : (s.send e).harts = s.harts := rfl
@[simp] theorem State.send_mc (s : State) (e : Out) : (s.send e).mc = s.mc := rfl
@[simp] theorem State.send_powered (s : State) (e : Out) : (s.send e).powered = s.powered := rfl
@[simp] theorem State.send_outbox (s : State) (e : Out) : (s.send e).outbox = s.outbox ++ [e] := rfl

/-! ### State.updFront -/

@[simp] theorem State.updFront_cycle (s : State) (f : Front → Front) : (s.updFront f).cycle = s.cycle := rfl
@[simp] theorem State.updFront_ccntAdj (s : State) (f : Front → Front) : (s.updFront f).ccntAdj = s.ccntAdj := rfl
@[simp] theorem State.updFront_slew (s : State) (f : Front → Front) : (s.updFront f).slew = s.slew := rfl
@[simp] theorem State.updFront_slewAt (s : State) (f : Front → Front) : (s.updFront f).slewAt = s.slewAt := rfl
@[simp] theorem State.updFront_timeRun (s : State) (f : Front → Front) : (s.updFront f).timeRun = s.timeRun := rfl
@[simp] theorem State.updFront_turns (s : State) (f : Front → Front) : (s.updFront f).turns = s.turns := rfl
@[simp] theorem State.updFront_turnNo (s : State) (f : Front → Front) : (s.updFront f).turnNo = s.turnNo := rfl
@[simp] theorem State.updFront_freeNo (s : State) (f : Front → Front) : (s.updFront f).freeNo = s.freeNo := rfl
@[simp] theorem State.updFront_nextId (s : State) (f : Front → Front) : (s.updFront f).nextId = s.nextId := rfl
@[simp] theorem State.updFront_cur (s : State) (f : Front → Front) : (s.updFront f).cur = s.cur := rfl
@[simp] theorem State.updFront_part (s : State) (f : Front → Front) : (s.updFront f).part = s.part := rfl
@[simp] theorem State.updFront_mem (s : State) (f : Front → Front) : (s.updFront f).mem = s.mem := rfl
@[simp] theorem State.updFront_fe (s : State) (f : Front → Front) : (s.updFront f).fe = s.fe := rfl
@[simp] theorem State.updFront_soft (s : State) (f : Front → Front) : (s.updFront f).soft = s.soft := rfl
@[simp] theorem State.updFront_strands (s : State) (f : Front → Front) : (s.updFront f).strands = s.strands := rfl
@[simp] theorem State.updFront_cores (s : State) (f : Front → Front) : (s.updFront f).cores = s.cores := rfl
@[simp] theorem State.updFront_clusters (s : State) (f : Front → Front) : (s.updFront f).clusters = s.clusters := rfl
@[simp] theorem State.updFront_waits (s : State) (f : Front → Front) : (s.updFront f).waits = s.waits := rfl
@[simp] theorem State.updFront_posted (s : State) (f : Front → Front) : (s.updFront f).posted = s.posted := rfl
@[simp] theorem State.updFront_dirs (s : State) (f : Front → Front) : (s.updFront f).dirs = s.dirs := rfl
@[simp] theorem State.updFront_hcx (s : State) (f : Front → Front) : (s.updFront f).hcx = s.hcx := rfl
@[simp] theorem State.updFront_l2 (s : State) (f : Front → Front) : (s.updFront f).l2 = s.l2 := rfl
@[simp] theorem State.updFront_l1 (s : State) (f : Front → Front) : (s.updFront f).l1 = s.l1 := rfl
@[simp] theorem State.updFront_homeReqs (s : State) (f : Front → Front) : (s.updFront f).homeReqs = s.homeReqs := rfl
@[simp] theorem State.updFront_homeTxns (s : State) (f : Front → Front) : (s.updFront f).homeTxns = s.homeTxns := rfl
@[simp] theorem State.updFront_scopes (s : State) (f : Front → Front) : (s.updFront f).scopes = s.scopes := rfl
@[simp] theorem State.updFront_launches (s : State) (f : Front → Front) : (s.updFront f).launches = s.launches := rfl
@[simp] theorem State.updFront_newest (s : State) (f : Front → Front) : (s.updFront f).newest = s.newest := rfl
@[simp] theorem State.updFront_pools (s : State) (f : Front → Front) : (s.updFront f).pools = s.pools := rfl
@[simp] theorem State.updFront_spillq (s : State) (f : Front → Front) : (s.updFront f).spillq = s.spillq := rfl
@[simp] theorem State.updFront_front (s : State) (f : Front → Front) : (s.updFront f).front = f s.front := rfl
@[simp] theorem State.updFront_futures (s : State) (f : Front → Front) : (s.updFront f).futures = s.futures := rfl
@[simp] theorem State.updFront_regs (s : State) (f : Front → Front) : (s.updFront f).regs = s.regs := rfl
@[simp] theorem State.updFront_tset (s : State) (f : Front → Front) : (s.updFront f).tset = s.tset := rfl
@[simp] theorem State.updFront_tseq (s : State) (f : Front → Front) : (s.updFront f).tseq = s.tseq := rfl
@[simp] theorem State.updFront_own (s : State) (f : Front → Front) : (s.updFront f).own = s.own := rfl
@[simp] theorem State.updFront_deferred (s : State) (f : Front → Front) : (s.updFront f).deferred = s.deferred := rfl
@[simp] theorem State.updFront_trst (s : State) (f : Front → Front) : (s.updFront f).trst = s.trst := rfl
@[simp] theorem State.updFront_fenced (s : State) (f : Front → Front) : (s.updFront f).fenced = s.fenced := rfl
@[simp] theorem State.updFront_hdm (s : State) (f : Front → Front) : (s.updFront f).hdm = s.hdm := rfl
@[simp] theorem State.updFront_tsBusy (s : State) (f : Front → Front) : (s.updFront f).tsBusy = s.tsBusy := rfl
@[simp] theorem State.updFront_cmo (s : State) (f : Front → Front) : (s.updFront f).cmo = s.cmo := rfl
@[simp] theorem State.updFront_fabTx (s : State) (f : Front → Front) : (s.updFront f).fabTx = s.fabTx := rfl
@[simp] theorem State.updFront_epReqs (s : State) (f : Front → Front) : (s.updFront f).epReqs = s.epReqs := rfl
@[simp] theorem State.updFront_epTlb (s : State) (f : Front → Front) : (s.updFront f).epTlb = s.epTlb := rfl
@[simp] theorem State.updFront_harts (s : State) (f : Front → Front) : (s.updFront f).harts = s.harts := rfl
@[simp] theorem State.updFront_mc (s : State) (f : Front → Front) : (s.updFront f).mc = s.mc := rfl
@[simp] theorem State.updFront_powered (s : State) (f : Front → Front) : (s.updFront f).powered = s.powered := rfl
@[simp] theorem State.updFront_outbox (s : State) (f : Front → Front) : (s.updFront f).outbox = s.outbox := rfl

/-! ### regPut -/

@[simp] theorem regPut_cycle (s : State) (k : Nat) (w : Word) : (regPut s k w).cycle = s.cycle := rfl
@[simp] theorem regPut_ccntAdj (s : State) (k : Nat) (w : Word) : (regPut s k w).ccntAdj = s.ccntAdj := rfl
@[simp] theorem regPut_slew (s : State) (k : Nat) (w : Word) : (regPut s k w).slew = s.slew := rfl
@[simp] theorem regPut_slewAt (s : State) (k : Nat) (w : Word) : (regPut s k w).slewAt = s.slewAt := rfl
@[simp] theorem regPut_timeRun (s : State) (k : Nat) (w : Word) : (regPut s k w).timeRun = s.timeRun := rfl
@[simp] theorem regPut_turns (s : State) (k : Nat) (w : Word) : (regPut s k w).turns = s.turns := rfl
@[simp] theorem regPut_turnNo (s : State) (k : Nat) (w : Word) : (regPut s k w).turnNo = s.turnNo := rfl
@[simp] theorem regPut_freeNo (s : State) (k : Nat) (w : Word) : (regPut s k w).freeNo = s.freeNo := rfl
@[simp] theorem regPut_nextId (s : State) (k : Nat) (w : Word) : (regPut s k w).nextId = s.nextId := rfl
@[simp] theorem regPut_cur (s : State) (k : Nat) (w : Word) : (regPut s k w).cur = s.cur := rfl
@[simp] theorem regPut_part (s : State) (k : Nat) (w : Word) : (regPut s k w).part = s.part := rfl
@[simp] theorem regPut_mem (s : State) (k : Nat) (w : Word) : (regPut s k w).mem = s.mem := rfl
@[simp] theorem regPut_fe (s : State) (k : Nat) (w : Word) : (regPut s k w).fe = s.fe := rfl
@[simp] theorem regPut_soft (s : State) (k : Nat) (w : Word) : (regPut s k w).soft = s.soft := rfl
@[simp] theorem regPut_strands (s : State) (k : Nat) (w : Word) : (regPut s k w).strands = s.strands := rfl
@[simp] theorem regPut_cores (s : State) (k : Nat) (w : Word) : (regPut s k w).cores = s.cores := rfl
@[simp] theorem regPut_clusters (s : State) (k : Nat) (w : Word) : (regPut s k w).clusters = s.clusters := rfl
@[simp] theorem regPut_waits (s : State) (k : Nat) (w : Word) : (regPut s k w).waits = s.waits := rfl
@[simp] theorem regPut_posted (s : State) (k : Nat) (w : Word) : (regPut s k w).posted = s.posted := rfl
@[simp] theorem regPut_dirs (s : State) (k : Nat) (w : Word) : (regPut s k w).dirs = s.dirs := rfl
@[simp] theorem regPut_hcx (s : State) (k : Nat) (w : Word) : (regPut s k w).hcx = s.hcx := rfl
@[simp] theorem regPut_l2 (s : State) (k : Nat) (w : Word) : (regPut s k w).l2 = s.l2 := rfl
@[simp] theorem regPut_l1 (s : State) (k : Nat) (w : Word) : (regPut s k w).l1 = s.l1 := rfl
@[simp] theorem regPut_homeReqs (s : State) (k : Nat) (w : Word) : (regPut s k w).homeReqs = s.homeReqs := rfl
@[simp] theorem regPut_homeTxns (s : State) (k : Nat) (w : Word) : (regPut s k w).homeTxns = s.homeTxns := rfl
@[simp] theorem regPut_scopes (s : State) (k : Nat) (w : Word) : (regPut s k w).scopes = s.scopes := rfl
@[simp] theorem regPut_launches (s : State) (k : Nat) (w : Word) : (regPut s k w).launches = s.launches := rfl
@[simp] theorem regPut_newest (s : State) (k : Nat) (w : Word) : (regPut s k w).newest = s.newest := rfl
@[simp] theorem regPut_pools (s : State) (k : Nat) (w : Word) : (regPut s k w).pools = s.pools := rfl
@[simp] theorem regPut_spillq (s : State) (k : Nat) (w : Word) : (regPut s k w).spillq = s.spillq := rfl
@[simp] theorem regPut_front (s : State) (k : Nat) (w : Word) : (regPut s k w).front = s.front := rfl
@[simp] theorem regPut_futures (s : State) (k : Nat) (w : Word) : (regPut s k w).futures = s.futures := rfl
@[simp] theorem regPut_regs (s : State) (k : Nat) (w : Word) : (regPut s k w).regs = fset s.regs k w := rfl
@[simp] theorem regPut_tset (s : State) (k : Nat) (w : Word) : (regPut s k w).tset = s.tset := rfl
@[simp] theorem regPut_tseq (s : State) (k : Nat) (w : Word) : (regPut s k w).tseq = s.tseq := rfl
@[simp] theorem regPut_own (s : State) (k : Nat) (w : Word) : (regPut s k w).own = s.own := rfl
@[simp] theorem regPut_deferred (s : State) (k : Nat) (w : Word) : (regPut s k w).deferred = s.deferred := rfl
@[simp] theorem regPut_trst (s : State) (k : Nat) (w : Word) : (regPut s k w).trst = s.trst := rfl
@[simp] theorem regPut_fenced (s : State) (k : Nat) (w : Word) : (regPut s k w).fenced = s.fenced := rfl
@[simp] theorem regPut_hdm (s : State) (k : Nat) (w : Word) : (regPut s k w).hdm = s.hdm := rfl
@[simp] theorem regPut_tsBusy (s : State) (k : Nat) (w : Word) : (regPut s k w).tsBusy = s.tsBusy := rfl
@[simp] theorem regPut_cmo (s : State) (k : Nat) (w : Word) : (regPut s k w).cmo = s.cmo := rfl
@[simp] theorem regPut_fabTx (s : State) (k : Nat) (w : Word) : (regPut s k w).fabTx = s.fabTx := rfl
@[simp] theorem regPut_epReqs (s : State) (k : Nat) (w : Word) : (regPut s k w).epReqs = s.epReqs := rfl
@[simp] theorem regPut_epTlb (s : State) (k : Nat) (w : Word) : (regPut s k w).epTlb = s.epTlb := rfl
@[simp] theorem regPut_harts (s : State) (k : Nat) (w : Word) : (regPut s k w).harts = s.harts := rfl
@[simp] theorem regPut_mc (s : State) (k : Nat) (w : Word) : (regPut s k w).mc = s.mc := rfl
@[simp] theorem regPut_powered (s : State) (k : Nat) (w : Word) : (regPut s k w).powered = s.powered := rfl
@[simp] theorem regPut_outbox (s : State) (k : Nat) (w : Word) : (regPut s k w).outbox = s.outbox := rfl

/-! ### Strand.wS -/

@[simp] theorem Strand.wS_status (x : Strand) (r : SReg) (w : Word) : (x.wS r w).status = x.status := by
  unfold Strand.wS; split <;> rfl
@[simp] theorem Strand.wS_pc (x : Strand) (r : SReg) (w : Word) : (x.wS r w).pc = x.pc := by
  unfold Strand.wS; split <;> rfl
@[simp] theorem Strand.wS_p (x : Strand) (r : SReg) (w : Word) : (x.wS r w).p = x.p := by
  unfold Strand.wS; split <;> rfl
@[simp] theorem Strand.wS_k (x : Strand) (r : SReg) (w : Word) : (x.wS r w).k = x.k := by
  unfold Strand.wS; split <;> rfl
@[simp] theorem Strand.wS_h (x : Strand) (r : SReg) (w : Word) : (x.wS r w).h = x.h := by
  unfold Strand.wS; split <;> rfl
@[simp] theorem Strand.wS_ids (x : Strand) (r : SReg) (w : Word) : (x.wS r w).ids = x.ids := by
  unfold Strand.wS; split <;> rfl
@[simp] theorem Strand.wS_femax (x : Strand) (r : SReg) (w : Word) : (x.wS r w).femax = x.femax := by
  unfold Strand.wS; split <;> rfl
@[simp] theorem Strand.wS_fstat (x : Strand) (r : SReg) (w : Word) : (x.wS r w).fstat = x.fstat := by
  unfold Strand.wS; split <;> rfl
@[simp] theorem Strand.wS_fpmode (x : Strand) (r : SReg) (w : Word) : (x.wS r w).fpmode = x.fpmode := by
  unfold Strand.wS; split <;> rfl
@[simp] theorem Strand.wS_olbase (x : Strand) (r : SReg) (w : Word) : (x.wS r w).olbase = x.olbase := by
  unfold Strand.wS; split <;> rfl
@[simp] theorem Strand.wS_olcap (x : Strand) (r : SReg) (w : Word) : (x.wS r w).olcap = x.olcap := by
  unfold Strand.wS; split <;> rfl
@[simp] theorem Strand.wS_olcnt (x : Strand) (r : SReg) (w : Word) : (x.wS r w).olcnt = x.olcnt := by
  unfold Strand.wS; split <;> rfl
@[simp] theorem Strand.wS_rot (x : Strand) (r : SReg) (w : Word) : (x.wS r w).rot = x.rot := by
  unfold Strand.wS; split <;> rfl
@[simp] theorem Strand.wS_cause (x : Strand) (r : SReg) (w : Word) : (x.wS r w).cause = x.cause := by
  unfold Strand.wS; split <;> rfl
@[simp] theorem Strand.wS_info (x : Strand) (r : SReg) (w : Word) : (x.wS r w).info = x.info := by
  unfold Strand.wS; split <;> rfl
@[simp] theorem Strand.wS_pinstr (x : Strand) (r : SReg) (w : Word) : (x.wS r w).pinstr = x.pinstr := by
  unfold Strand.wS; split <;> rfl
@[simp] theorem Strand.wS_pwait (x : Strand) (r : SReg) (w : Word) : (x.wS r w).pwait = x.pwait := by
  unfold Strand.wS; split <;> rfl
@[simp] theorem Strand.wS_pkind (x : Strand) (r : SReg) (w : Word) : (x.wS r w).pkind = x.pkind := by
  unfold Strand.wS; split <;> rfl
@[simp] theorem Strand.wS_phase (x : Strand) (r : SReg) (w : Word) : (x.wS r w).phase = x.phase := by
  unfold Strand.wS; split <;> rfl
@[simp] theorem Strand.wS_pstart (x : Strand) (r : SReg) (w : Word) : (x.wS r w).pstart = x.pstart := by
  unfold Strand.wS; split <;> rfl
@[simp] theorem Strand.wS_plimit (x : Strand) (r : SReg) (w : Word) : (x.wS r w).plimit = x.plimit := by
  unfold Strand.wS; split <;> rfl
@[simp] theorem Strand.wS_pcap (x : Strand) (r : SReg) (w : Word) : (x.wS r w).pcap = x.pcap := by
  unfold Strand.wS; split <;> rfl
@[simp] theorem Strand.wS_prel (x : Strand) (r : SReg) (w : Word) : (x.wS r w).prel = x.prel := by
  unfold Strand.wS; split <;> rfl
@[simp] theorem Strand.wS_pplaces (x : Strand) (r : SReg) (w : Word) : (x.wS r w).pplaces = x.pplaces := by
  unfold Strand.wS; split <;> rfl
@[simp] theorem Strand.wS_plines (x : Strand) (r : SReg) (w : Word) : (x.wS r w).plines = x.plines := by
  unfold Strand.wS; split <;> rfl
@[simp] theorem Strand.wS_pparts (x : Strand) (r : SReg) (w : Word) : (x.wS r w).pparts = x.pparts := by
  unfold Strand.wS; split <;> rfl
@[simp] theorem Strand.wS_pva (x : Strand) (r : SReg) (w : Word) : (x.wS r w).pva = x.pva := by
  unfold Strand.wS; split <;> rfl
@[simp] theorem Strand.wS_pacc (x : Strand) (r : SReg) (w : Word) : (x.wS r w).pacc = x.pacc := by
  unfold Strand.wS; split <;> rfl
@[simp] theorem Strand.wS_plog (x : Strand) (r : SReg) (w : Word) : (x.wS r w).plog = x.plog := by
  unfold Strand.wS; split <;> rfl
@[simp] theorem Strand.wS_ptime (x : Strand) (r : SReg) (w : Word) : (x.wS r w).ptime = x.ptime := by
  unfold Strand.wS; split <;> rfl
@[simp] theorem Strand.wS_nextb (x : Strand) (r : SReg) (w : Word) : (x.wS r w).nextb = x.nextb := by
  unfold Strand.wS; split <;> rfl
@[simp] theorem Strand.wS_openb (x : Strand) (r : SReg) (w : Word) : (x.wS r w).openb = x.openb := by
  unfold Strand.wS; split <;> rfl
@[simp] theorem Strand.wS_batches (x : Strand) (r : SReg) (w : Word) : (x.wS r w).batches = x.batches := by
  unfold Strand.wS; split <;> rfl
@[simp] theorem Strand.wS_reported (x : Strand) (r : SReg) (w : Word) : (x.wS r w).reported = x.reported := by
  unfold Strand.wS; split <;> rfl
@[simp] theorem Strand.wS_task (x : Strand) (r : SReg) (w : Word) : (x.wS r w).task = x.task := by
  unfold Strand.wS; split <;> rfl
@[simp] theorem Strand.wS_bpSkip (x : Strand) (r : SReg) (w : Word) : (x.wS r w).bpSkip = x.bpSkip := by
  unfold Strand.wS; split <;> rfl
@[simp] theorem Strand.wS_issueAt (x : Strand) (r : SReg) (w : Word) : (x.wS r w).issueAt = x.issueAt := by
  unfold Strand.wS; split <;> rfl
@[simp] theorem Strand.wS_stepping (x : Strand) (r : SReg) (w : Word) : (x.wS r w).stepping = x.stepping := by
  unfold Strand.wS; split <;> rfl
@[simp] theorem Strand.wS_haltReq (x : Strand) (r : SReg) (w : Word) : (x.wS r w).haltReq = x.haltReq := by
  unfold Strand.wS; split <;> rfl
@[simp] theorem Strand.wS_visSys (x : Strand) (r : SReg) (w : Word) : (x.wS r w).visSys = x.visSys := by
  unfold Strand.wS; split <;> rfl
@[simp] theorem Strand.wS_visMax (x : Strand) (r : SReg) (w : Word) : (x.wS r w).visMax = x.visMax := by
  unfold Strand.wS; split <;> rfl
@[simp] theorem Strand.wS_ackAt (x : Strand) (r : SReg) (w : Word) : (x.wS r w).ackAt = x.ackAt := by
  unfold Strand.wS; split <;> rfl

/-! ### Strand.wP -/

@[simp] theorem Strand.wP_status (x : Strand) (r : PReg) (b : Bool) : (x.wP r b).status = x.status := by
  unfold Strand.wP; split <;> rfl
@[simp] theorem Strand.wP_pc (x : Strand) (r : PReg) (b : Bool) : (x.wP r b).pc = x.pc := by
  unfold Strand.wP; split <;> rfl
@[simp] theorem Strand.wP_s (x : Strand) (r : PReg) (b : Bool) : (x.wP r b).s = x.s := by
  unfold Strand.wP; split <;> rfl
@[simp] theorem Strand.wP_k (x : Strand) (r : PReg) (b : Bool) : (x.wP r b).k = x.k := by
  unfold Strand.wP; split <;> rfl
@[simp] theorem Strand.wP_h (x : Strand) (r : PReg) (b : Bool) : (x.wP r b).h = x.h := by
  unfold Strand.wP; split <;> rfl
@[simp] theorem Strand.wP_ids (x : Strand) (r : PReg) (b : Bool) : (x.wP r b).ids = x.ids := by
  unfold Strand.wP; split <;> rfl
@[simp] theorem Strand.wP_femax (x : Strand) (r : PReg) (b : Bool) : (x.wP r b).femax = x.femax := by
  unfold Strand.wP; split <;> rfl
@[simp] theorem Strand.wP_fstat (x : Strand) (r : PReg) (b : Bool) : (x.wP r b).fstat = x.fstat := by
  unfold Strand.wP; split <;> rfl
@[simp] theorem Strand.wP_fpmode (x : Strand) (r : PReg) (b : Bool) : (x.wP r b).fpmode = x.fpmode := by
  unfold Strand.wP; split <;> rfl
@[simp] theorem Strand.wP_olbase (x : Strand) (r : PReg) (b : Bool) : (x.wP r b).olbase = x.olbase := by
  unfold Strand.wP; split <;> rfl
@[simp] theorem Strand.wP_olcap (x : Strand) (r : PReg) (b : Bool) : (x.wP r b).olcap = x.olcap := by
  unfold Strand.wP; split <;> rfl
@[simp] theorem Strand.wP_olcnt (x : Strand) (r : PReg) (b : Bool) : (x.wP r b).olcnt = x.olcnt := by
  unfold Strand.wP; split <;> rfl
@[simp] theorem Strand.wP_rot (x : Strand) (r : PReg) (b : Bool) : (x.wP r b).rot = x.rot := by
  unfold Strand.wP; split <;> rfl
@[simp] theorem Strand.wP_cause (x : Strand) (r : PReg) (b : Bool) : (x.wP r b).cause = x.cause := by
  unfold Strand.wP; split <;> rfl
@[simp] theorem Strand.wP_info (x : Strand) (r : PReg) (b : Bool) : (x.wP r b).info = x.info := by
  unfold Strand.wP; split <;> rfl
@[simp] theorem Strand.wP_pinstr (x : Strand) (r : PReg) (b : Bool) : (x.wP r b).pinstr = x.pinstr := by
  unfold Strand.wP; split <;> rfl
@[simp] theorem Strand.wP_pwait (x : Strand) (r : PReg) (b : Bool) : (x.wP r b).pwait = x.pwait := by
  unfold Strand.wP; split <;> rfl
@[simp] theorem Strand.wP_pkind (x : Strand) (r : PReg) (b : Bool) : (x.wP r b).pkind = x.pkind := by
  unfold Strand.wP; split <;> rfl
@[simp] theorem Strand.wP_phase (x : Strand) (r : PReg) (b : Bool) : (x.wP r b).phase = x.phase := by
  unfold Strand.wP; split <;> rfl
@[simp] theorem Strand.wP_pstart (x : Strand) (r : PReg) (b : Bool) : (x.wP r b).pstart = x.pstart := by
  unfold Strand.wP; split <;> rfl
@[simp] theorem Strand.wP_plimit (x : Strand) (r : PReg) (b : Bool) : (x.wP r b).plimit = x.plimit := by
  unfold Strand.wP; split <;> rfl
@[simp] theorem Strand.wP_pcap (x : Strand) (r : PReg) (b : Bool) : (x.wP r b).pcap = x.pcap := by
  unfold Strand.wP; split <;> rfl
@[simp] theorem Strand.wP_prel (x : Strand) (r : PReg) (b : Bool) : (x.wP r b).prel = x.prel := by
  unfold Strand.wP; split <;> rfl
@[simp] theorem Strand.wP_pplaces (x : Strand) (r : PReg) (b : Bool) : (x.wP r b).pplaces = x.pplaces := by
  unfold Strand.wP; split <;> rfl
@[simp] theorem Strand.wP_plines (x : Strand) (r : PReg) (b : Bool) : (x.wP r b).plines = x.plines := by
  unfold Strand.wP; split <;> rfl
@[simp] theorem Strand.wP_pparts (x : Strand) (r : PReg) (b : Bool) : (x.wP r b).pparts = x.pparts := by
  unfold Strand.wP; split <;> rfl
@[simp] theorem Strand.wP_pva (x : Strand) (r : PReg) (b : Bool) : (x.wP r b).pva = x.pva := by
  unfold Strand.wP; split <;> rfl
@[simp] theorem Strand.wP_pacc (x : Strand) (r : PReg) (b : Bool) : (x.wP r b).pacc = x.pacc := by
  unfold Strand.wP; split <;> rfl
@[simp] theorem Strand.wP_plog (x : Strand) (r : PReg) (b : Bool) : (x.wP r b).plog = x.plog := by
  unfold Strand.wP; split <;> rfl
@[simp] theorem Strand.wP_ptime (x : Strand) (r : PReg) (b : Bool) : (x.wP r b).ptime = x.ptime := by
  unfold Strand.wP; split <;> rfl
@[simp] theorem Strand.wP_nextb (x : Strand) (r : PReg) (b : Bool) : (x.wP r b).nextb = x.nextb := by
  unfold Strand.wP; split <;> rfl
@[simp] theorem Strand.wP_openb (x : Strand) (r : PReg) (b : Bool) : (x.wP r b).openb = x.openb := by
  unfold Strand.wP; split <;> rfl
@[simp] theorem Strand.wP_batches (x : Strand) (r : PReg) (b : Bool) : (x.wP r b).batches = x.batches := by
  unfold Strand.wP; split <;> rfl
@[simp] theorem Strand.wP_reported (x : Strand) (r : PReg) (b : Bool) : (x.wP r b).reported = x.reported := by
  unfold Strand.wP; split <;> rfl
@[simp] theorem Strand.wP_task (x : Strand) (r : PReg) (b : Bool) : (x.wP r b).task = x.task := by
  unfold Strand.wP; split <;> rfl
@[simp] theorem Strand.wP_bpSkip (x : Strand) (r : PReg) (b : Bool) : (x.wP r b).bpSkip = x.bpSkip := by
  unfold Strand.wP; split <;> rfl
@[simp] theorem Strand.wP_issueAt (x : Strand) (r : PReg) (b : Bool) : (x.wP r b).issueAt = x.issueAt := by
  unfold Strand.wP; split <;> rfl
@[simp] theorem Strand.wP_stepping (x : Strand) (r : PReg) (b : Bool) : (x.wP r b).stepping = x.stepping := by
  unfold Strand.wP; split <;> rfl
@[simp] theorem Strand.wP_haltReq (x : Strand) (r : PReg) (b : Bool) : (x.wP r b).haltReq = x.haltReq := by
  unfold Strand.wP; split <;> rfl
@[simp] theorem Strand.wP_visSys (x : Strand) (r : PReg) (b : Bool) : (x.wP r b).visSys = x.visSys := by
  unfold Strand.wP; split <;> rfl
@[simp] theorem Strand.wP_visMax (x : Strand) (r : PReg) (b : Bool) : (x.wP r b).visMax = x.visMax := by
  unfold Strand.wP; split <;> rfl
@[simp] theorem Strand.wP_ackAt (x : Strand) (r : PReg) (b : Bool) : (x.wP r b).ackAt = x.ackAt := by
  unfold Strand.wP; split <;> rfl

/-! ### Strand.wK -/

@[simp] theorem Strand.wK_status (x : Strand) (r : KReg) (m : BitVec 16) : (x.wK r m).status = x.status := by
  unfold Strand.wK; split <;> rfl
@[simp] theorem Strand.wK_pc (x : Strand) (r : KReg) (m : BitVec 16) : (x.wK r m).pc = x.pc := by
  unfold Strand.wK; split <;> rfl
@[simp] theorem Strand.wK_s (x : Strand) (r : KReg) (m : BitVec 16) : (x.wK r m).s = x.s := by
  unfold Strand.wK; split <;> rfl
@[simp] theorem Strand.wK_p (x : Strand) (r : KReg) (m : BitVec 16) : (x.wK r m).p = x.p := by
  unfold Strand.wK; split <;> rfl
@[simp] theorem Strand.wK_h (x : Strand) (r : KReg) (m : BitVec 16) : (x.wK r m).h = x.h := by
  unfold Strand.wK; split <;> rfl
@[simp] theorem Strand.wK_ids (x : Strand) (r : KReg) (m : BitVec 16) : (x.wK r m).ids = x.ids := by
  unfold Strand.wK; split <;> rfl
@[simp] theorem Strand.wK_femax (x : Strand) (r : KReg) (m : BitVec 16) : (x.wK r m).femax = x.femax := by
  unfold Strand.wK; split <;> rfl
@[simp] theorem Strand.wK_fstat (x : Strand) (r : KReg) (m : BitVec 16) : (x.wK r m).fstat = x.fstat := by
  unfold Strand.wK; split <;> rfl
@[simp] theorem Strand.wK_fpmode (x : Strand) (r : KReg) (m : BitVec 16) : (x.wK r m).fpmode = x.fpmode := by
  unfold Strand.wK; split <;> rfl
@[simp] theorem Strand.wK_olbase (x : Strand) (r : KReg) (m : BitVec 16) : (x.wK r m).olbase = x.olbase := by
  unfold Strand.wK; split <;> rfl
@[simp] theorem Strand.wK_olcap (x : Strand) (r : KReg) (m : BitVec 16) : (x.wK r m).olcap = x.olcap := by
  unfold Strand.wK; split <;> rfl
@[simp] theorem Strand.wK_olcnt (x : Strand) (r : KReg) (m : BitVec 16) : (x.wK r m).olcnt = x.olcnt := by
  unfold Strand.wK; split <;> rfl
@[simp] theorem Strand.wK_rot (x : Strand) (r : KReg) (m : BitVec 16) : (x.wK r m).rot = x.rot := by
  unfold Strand.wK; split <;> rfl
@[simp] theorem Strand.wK_cause (x : Strand) (r : KReg) (m : BitVec 16) : (x.wK r m).cause = x.cause := by
  unfold Strand.wK; split <;> rfl
@[simp] theorem Strand.wK_info (x : Strand) (r : KReg) (m : BitVec 16) : (x.wK r m).info = x.info := by
  unfold Strand.wK; split <;> rfl
@[simp] theorem Strand.wK_pinstr (x : Strand) (r : KReg) (m : BitVec 16) : (x.wK r m).pinstr = x.pinstr := by
  unfold Strand.wK; split <;> rfl
@[simp] theorem Strand.wK_pwait (x : Strand) (r : KReg) (m : BitVec 16) : (x.wK r m).pwait = x.pwait := by
  unfold Strand.wK; split <;> rfl
@[simp] theorem Strand.wK_pkind (x : Strand) (r : KReg) (m : BitVec 16) : (x.wK r m).pkind = x.pkind := by
  unfold Strand.wK; split <;> rfl
@[simp] theorem Strand.wK_phase (x : Strand) (r : KReg) (m : BitVec 16) : (x.wK r m).phase = x.phase := by
  unfold Strand.wK; split <;> rfl
@[simp] theorem Strand.wK_pstart (x : Strand) (r : KReg) (m : BitVec 16) : (x.wK r m).pstart = x.pstart := by
  unfold Strand.wK; split <;> rfl
@[simp] theorem Strand.wK_plimit (x : Strand) (r : KReg) (m : BitVec 16) : (x.wK r m).plimit = x.plimit := by
  unfold Strand.wK; split <;> rfl
@[simp] theorem Strand.wK_pcap (x : Strand) (r : KReg) (m : BitVec 16) : (x.wK r m).pcap = x.pcap := by
  unfold Strand.wK; split <;> rfl
@[simp] theorem Strand.wK_prel (x : Strand) (r : KReg) (m : BitVec 16) : (x.wK r m).prel = x.prel := by
  unfold Strand.wK; split <;> rfl
@[simp] theorem Strand.wK_pplaces (x : Strand) (r : KReg) (m : BitVec 16) : (x.wK r m).pplaces = x.pplaces := by
  unfold Strand.wK; split <;> rfl
@[simp] theorem Strand.wK_plines (x : Strand) (r : KReg) (m : BitVec 16) : (x.wK r m).plines = x.plines := by
  unfold Strand.wK; split <;> rfl
@[simp] theorem Strand.wK_pparts (x : Strand) (r : KReg) (m : BitVec 16) : (x.wK r m).pparts = x.pparts := by
  unfold Strand.wK; split <;> rfl
@[simp] theorem Strand.wK_pva (x : Strand) (r : KReg) (m : BitVec 16) : (x.wK r m).pva = x.pva := by
  unfold Strand.wK; split <;> rfl
@[simp] theorem Strand.wK_pacc (x : Strand) (r : KReg) (m : BitVec 16) : (x.wK r m).pacc = x.pacc := by
  unfold Strand.wK; split <;> rfl
@[simp] theorem Strand.wK_plog (x : Strand) (r : KReg) (m : BitVec 16) : (x.wK r m).plog = x.plog := by
  unfold Strand.wK; split <;> rfl
@[simp] theorem Strand.wK_ptime (x : Strand) (r : KReg) (m : BitVec 16) : (x.wK r m).ptime = x.ptime := by
  unfold Strand.wK; split <;> rfl
@[simp] theorem Strand.wK_nextb (x : Strand) (r : KReg) (m : BitVec 16) : (x.wK r m).nextb = x.nextb := by
  unfold Strand.wK; split <;> rfl
@[simp] theorem Strand.wK_openb (x : Strand) (r : KReg) (m : BitVec 16) : (x.wK r m).openb = x.openb := by
  unfold Strand.wK; split <;> rfl
@[simp] theorem Strand.wK_batches (x : Strand) (r : KReg) (m : BitVec 16) : (x.wK r m).batches = x.batches := by
  unfold Strand.wK; split <;> rfl
@[simp] theorem Strand.wK_reported (x : Strand) (r : KReg) (m : BitVec 16) : (x.wK r m).reported = x.reported := by
  unfold Strand.wK; split <;> rfl
@[simp] theorem Strand.wK_task (x : Strand) (r : KReg) (m : BitVec 16) : (x.wK r m).task = x.task := by
  unfold Strand.wK; split <;> rfl
@[simp] theorem Strand.wK_bpSkip (x : Strand) (r : KReg) (m : BitVec 16) : (x.wK r m).bpSkip = x.bpSkip := by
  unfold Strand.wK; split <;> rfl
@[simp] theorem Strand.wK_issueAt (x : Strand) (r : KReg) (m : BitVec 16) : (x.wK r m).issueAt = x.issueAt := by
  unfold Strand.wK; split <;> rfl
@[simp] theorem Strand.wK_stepping (x : Strand) (r : KReg) (m : BitVec 16) : (x.wK r m).stepping = x.stepping := by
  unfold Strand.wK; split <;> rfl
@[simp] theorem Strand.wK_haltReq (x : Strand) (r : KReg) (m : BitVec 16) : (x.wK r m).haltReq = x.haltReq := by
  unfold Strand.wK; split <;> rfl
@[simp] theorem Strand.wK_visSys (x : Strand) (r : KReg) (m : BitVec 16) : (x.wK r m).visSys = x.visSys := by
  unfold Strand.wK; split <;> rfl
@[simp] theorem Strand.wK_visMax (x : Strand) (r : KReg) (m : BitVec 16) : (x.wK r m).visMax = x.visMax := by
  unfold Strand.wK; split <;> rfl
@[simp] theorem Strand.wK_ackAt (x : Strand) (r : KReg) (m : BitVec 16) : (x.wK r m).ackAt = x.ackAt := by
  unfold Strand.wK; split <;> rfl

/-! ### Strand.wH -/

@[simp] theorem Strand.wH_status (x : Strand) (h : HReg) (v : Handle) : (x.wH h v).status = x.status := rfl
@[simp] theorem Strand.wH_pc (x : Strand) (h : HReg) (v : Handle) : (x.wH h v).pc = x.pc := rfl
@[simp] theorem Strand.wH_s (x : Strand) (h : HReg) (v : Handle) : (x.wH h v).s = x.s := rfl
@[simp] theorem Strand.wH_p (x : Strand) (h : HReg) (v : Handle) : (x.wH h v).p = x.p := rfl
@[simp] theorem Strand.wH_k (x : Strand) (h : HReg) (v : Handle) : (x.wH h v).k = x.k := rfl
@[simp] theorem Strand.wH_ids (x : Strand) (h : HReg) (v : Handle) : (x.wH h v).ids = x.ids := rfl
@[simp] theorem Strand.wH_femax (x : Strand) (h : HReg) (v : Handle) : (x.wH h v).femax = x.femax := rfl
@[simp] theorem Strand.wH_fstat (x : Strand) (h : HReg) (v : Handle) : (x.wH h v).fstat = x.fstat := rfl
@[simp] theorem Strand.wH_fpmode (x : Strand) (h : HReg) (v : Handle) : (x.wH h v).fpmode = x.fpmode := rfl
@[simp] theorem Strand.wH_olbase (x : Strand) (h : HReg) (v : Handle) : (x.wH h v).olbase = x.olbase := rfl
@[simp] theorem Strand.wH_olcap (x : Strand) (h : HReg) (v : Handle) : (x.wH h v).olcap = x.olcap := rfl
@[simp] theorem Strand.wH_olcnt (x : Strand) (h : HReg) (v : Handle) : (x.wH h v).olcnt = x.olcnt := rfl
@[simp] theorem Strand.wH_rot (x : Strand) (h : HReg) (v : Handle) : (x.wH h v).rot = x.rot := rfl
@[simp] theorem Strand.wH_cause (x : Strand) (h : HReg) (v : Handle) : (x.wH h v).cause = x.cause := rfl
@[simp] theorem Strand.wH_info (x : Strand) (h : HReg) (v : Handle) : (x.wH h v).info = x.info := rfl
@[simp] theorem Strand.wH_pinstr (x : Strand) (h : HReg) (v : Handle) : (x.wH h v).pinstr = x.pinstr := rfl
@[simp] theorem Strand.wH_pwait (x : Strand) (h : HReg) (v : Handle) : (x.wH h v).pwait = x.pwait := rfl
@[simp] theorem Strand.wH_pkind (x : Strand) (h : HReg) (v : Handle) : (x.wH h v).pkind = x.pkind := rfl
@[simp] theorem Strand.wH_phase (x : Strand) (h : HReg) (v : Handle) : (x.wH h v).phase = x.phase := rfl
@[simp] theorem Strand.wH_pstart (x : Strand) (h : HReg) (v : Handle) : (x.wH h v).pstart = x.pstart := rfl
@[simp] theorem Strand.wH_plimit (x : Strand) (h : HReg) (v : Handle) : (x.wH h v).plimit = x.plimit := rfl
@[simp] theorem Strand.wH_pcap (x : Strand) (h : HReg) (v : Handle) : (x.wH h v).pcap = x.pcap := rfl
@[simp] theorem Strand.wH_prel (x : Strand) (h : HReg) (v : Handle) : (x.wH h v).prel = x.prel := rfl
@[simp] theorem Strand.wH_pplaces (x : Strand) (h : HReg) (v : Handle) : (x.wH h v).pplaces = x.pplaces := rfl
@[simp] theorem Strand.wH_plines (x : Strand) (h : HReg) (v : Handle) : (x.wH h v).plines = x.plines := rfl
@[simp] theorem Strand.wH_pparts (x : Strand) (h : HReg) (v : Handle) : (x.wH h v).pparts = x.pparts := rfl
@[simp] theorem Strand.wH_pva (x : Strand) (h : HReg) (v : Handle) : (x.wH h v).pva = x.pva := rfl
@[simp] theorem Strand.wH_pacc (x : Strand) (h : HReg) (v : Handle) : (x.wH h v).pacc = x.pacc := rfl
@[simp] theorem Strand.wH_plog (x : Strand) (h : HReg) (v : Handle) : (x.wH h v).plog = x.plog := rfl
@[simp] theorem Strand.wH_ptime (x : Strand) (h : HReg) (v : Handle) : (x.wH h v).ptime = x.ptime := rfl
@[simp] theorem Strand.wH_nextb (x : Strand) (h : HReg) (v : Handle) : (x.wH h v).nextb = x.nextb := rfl
@[simp] theorem Strand.wH_openb (x : Strand) (h : HReg) (v : Handle) : (x.wH h v).openb = x.openb := rfl
@[simp] theorem Strand.wH_batches (x : Strand) (h : HReg) (v : Handle) : (x.wH h v).batches = x.batches := rfl
@[simp] theorem Strand.wH_reported (x : Strand) (h : HReg) (v : Handle) : (x.wH h v).reported = x.reported := rfl
@[simp] theorem Strand.wH_task (x : Strand) (h : HReg) (v : Handle) : (x.wH h v).task = x.task := rfl
@[simp] theorem Strand.wH_bpSkip (x : Strand) (h : HReg) (v : Handle) : (x.wH h v).bpSkip = x.bpSkip := rfl
@[simp] theorem Strand.wH_issueAt (x : Strand) (h : HReg) (v : Handle) : (x.wH h v).issueAt = x.issueAt := rfl
@[simp] theorem Strand.wH_stepping (x : Strand) (h : HReg) (v : Handle) : (x.wH h v).stepping = x.stepping := rfl
@[simp] theorem Strand.wH_haltReq (x : Strand) (h : HReg) (v : Handle) : (x.wH h v).haltReq = x.haltReq := rfl
@[simp] theorem Strand.wH_visSys (x : Strand) (h : HReg) (v : Handle) : (x.wH h v).visSys = x.visSys := rfl
@[simp] theorem Strand.wH_visMax (x : Strand) (h : HReg) (v : Handle) : (x.wH h v).visMax = x.visMax := rfl
@[simp] theorem Strand.wH_ackAt (x : Strand) (h : HReg) (v : Handle) : (x.wH h v).ackAt = x.ackAt := rfl

/-! ### Hart -/

@[simp] theorem Hart.wCsr_x (h : Hart) (n : Nat) (w : Word) : (h.wCsr n w).x = h.x := rfl
@[simp] theorem Hart.wCsr_pc (h : Hart) (n : Nat) (w : Word) : (h.wCsr n w).pc = h.pc := rfl
@[simp] theorem Hart.wCsr_priv (h : Hart) (n : Nat) (w : Word) : (h.wCsr n w).priv = h.priv := rfl
@[simp] theorem Hart.wCsr_virt (h : Hart) (n : Nat) (w : Word) : (h.wCsr n w).virt = h.virt := rfl
@[simp] theorem Hart.wCsr_csr (h : Hart) (n : Nat) (w : Word) : (h.wCsr n w).csr = fset h.csr n w := rfl
@[simp] theorem Hart.wCsr_f (h : Hart) (n : Nat) (w : Word) : (h.wCsr n w).f = h.f := rfl
@[simp] theorem Hart.wCsr_v (h : Hart) (n : Nat) (w : Word) : (h.wCsr n w).v = h.v := rfl
@[simp] theorem Hart.wCsr_resv (h : Hart) (n : Nat) (w : Word) : (h.wCsr n w).resv = h.resv := rfl
@[simp] theorem Hart.wCsr_caps (h : Hart) (n : Nat) (w : Word) : (h.wCsr n w).caps = h.caps := rfl
@[simp] theorem Hart.wCsr_sbx (h : Hart) (n : Nat) (w : Word) : (h.wCsr n w).sbx = h.sbx := rfl
@[simp] theorem Hart.wCsr_psbx (h : Hart) (n : Nat) (w : Word) : (h.wCsr n w).psbx = h.psbx := rfl
@[simp] theorem Hart.wCsr_kwtenant (h : Hart) (n : Nat) (w : Word) : (h.wCsr n w).kwtenant = h.kwtenant := rfl
@[simp] theorem Hart.setCap_x (h : Hart) (c : BitVec 4) (v : Cap) : (h.setCap c v).x = h.x := rfl
@[simp] theorem Hart.setCap_pc (h : Hart) (c : BitVec 4) (v : Cap) : (h.setCap c v).pc = h.pc := rfl
@[simp] theorem Hart.setCap_priv (h : Hart) (c : BitVec 4) (v : Cap) : (h.setCap c v).priv = h.priv := rfl
@[simp] theorem Hart.setCap_virt (h : Hart) (c : BitVec 4) (v : Cap) : (h.setCap c v).virt = h.virt := rfl
@[simp] theorem Hart.setCap_csr (h : Hart) (c : BitVec 4) (v : Cap) : (h.setCap c v).csr = h.csr := rfl
@[simp] theorem Hart.setCap_f (h : Hart) (c : BitVec 4) (v : Cap) : (h.setCap c v).f = h.f := rfl
@[simp] theorem Hart.setCap_v (h : Hart) (c : BitVec 4) (v : Cap) : (h.setCap c v).v = h.v := rfl
@[simp] theorem Hart.setCap_resv (h : Hart) (c : BitVec 4) (v : Cap) : (h.setCap c v).resv = h.resv := rfl
@[simp] theorem Hart.setCap_caps (h : Hart) (c : BitVec 4) (v : Cap) : (h.setCap c v).caps = fset h.caps c.toNat v := rfl
@[simp] theorem Hart.setCap_sbx (h : Hart) (c : BitVec 4) (v : Cap) : (h.setCap c v).sbx = h.sbx := rfl
@[simp] theorem Hart.setCap_psbx (h : Hart) (c : BitVec 4) (v : Cap) : (h.setCap c v).psbx = h.psbx := rfl
@[simp] theorem Hart.setCap_kwtenant (h : Hart) (c : BitVec 4) (v : Cap) : (h.setCap c v).kwtenant = h.kwtenant := rfl
@[simp] theorem Hart.goes_x (h : Hart) (pc : Word) : (h.goes pc).x = h.x := rfl
@[simp] theorem Hart.goes_pc (h : Hart) (pc : Word) : (h.goes pc).pc = pc := rfl
@[simp] theorem Hart.goes_priv (h : Hart) (pc : Word) : (h.goes pc).priv = h.priv := rfl
@[simp] theorem Hart.goes_virt (h : Hart) (pc : Word) : (h.goes pc).virt = h.virt := rfl
@[simp] theorem Hart.goes_f (h : Hart) (pc : Word) : (h.goes pc).f = h.f := rfl
@[simp] theorem Hart.goes_v (h : Hart) (pc : Word) : (h.goes pc).v = h.v := rfl
@[simp] theorem Hart.goes_resv (h : Hart) (pc : Word) : (h.goes pc).resv = h.resv := rfl
@[simp] theorem Hart.goes_caps (h : Hart) (pc : Word) : (h.goes pc).caps = h.caps := rfl
@[simp] theorem Hart.goes_sbx (h : Hart) (pc : Word) : (h.goes pc).sbx = h.sbx := rfl
@[simp] theorem Hart.goes_psbx (h : Hart) (pc : Word) : (h.goes pc).psbx = h.psbx := rfl
@[simp] theorem Hart.goes_kwtenant (h : Hart) (pc : Word) : (h.goes pc).kwtenant = h.kwtenant := rfl
@[simp] theorem Hart.wX_pc (h : Hart) (r : BitVec 5) (w : Word) : (h.wX r w).pc = h.pc := by
  unfold Hart.wX; split <;> rfl
@[simp] theorem Hart.wX_priv (h : Hart) (r : BitVec 5) (w : Word) : (h.wX r w).priv = h.priv := by
  unfold Hart.wX; split <;> rfl
@[simp] theorem Hart.wX_virt (h : Hart) (r : BitVec 5) (w : Word) : (h.wX r w).virt = h.virt := by
  unfold Hart.wX; split <;> rfl
@[simp] theorem Hart.wX_csr (h : Hart) (r : BitVec 5) (w : Word) : (h.wX r w).csr = h.csr := by
  unfold Hart.wX; split <;> rfl
@[simp] theorem Hart.wX_f (h : Hart) (r : BitVec 5) (w : Word) : (h.wX r w).f = h.f := by
  unfold Hart.wX; split <;> rfl
@[simp] theorem Hart.wX_v (h : Hart) (r : BitVec 5) (w : Word) : (h.wX r w).v = h.v := by
  unfold Hart.wX; split <;> rfl
@[simp] theorem Hart.wX_resv (h : Hart) (r : BitVec 5) (w : Word) : (h.wX r w).resv = h.resv := by
  unfold Hart.wX; split <;> rfl
@[simp] theorem Hart.wX_caps (h : Hart) (r : BitVec 5) (w : Word) : (h.wX r w).caps = h.caps := by
  unfold Hart.wX; split <;> rfl
@[simp] theorem Hart.wX_sbx (h : Hart) (r : BitVec 5) (w : Word) : (h.wX r w).sbx = h.sbx := by
  unfold Hart.wX; split <;> rfl
@[simp] theorem Hart.wX_psbx (h : Hart) (r : BitVec 5) (w : Word) : (h.wX r w).psbx = h.psbx := by
  unfold Hart.wX; split <;> rfl
@[simp] theorem Hart.wX_kwtenant (h : Hart) (r : BitVec 5) (w : Word) : (h.wX r w).kwtenant = h.kwtenant := by
  unfold Hart.wX; split <;> rfl

/-! ### Strand.clearPark -/

@[simp] theorem Strand.clearPark_status (x : Strand) : x.clearPark.status = x.status := rfl
@[simp] theorem Strand.clearPark_pc (x : Strand) : x.clearPark.pc = x.pc := rfl
@[simp] theorem Strand.clearPark_s (x : Strand) : x.clearPark.s = x.s := rfl
@[simp] theorem Strand.clearPark_p (x : Strand) : x.clearPark.p = x.p := rfl
@[simp] theorem Strand.clearPark_k (x : Strand) : x.clearPark.k = x.k := rfl
@[simp] theorem Strand.clearPark_h (x : Strand) : x.clearPark.h = x.h := rfl
@[simp] theorem Strand.clearPark_ids (x : Strand) : x.clearPark.ids = x.ids := rfl
@[simp] theorem Strand.clearPark_femax (x : Strand) : x.clearPark.femax = x.femax := rfl
@[simp] theorem Strand.clearPark_fstat (x : Strand) : x.clearPark.fstat = x.fstat := rfl
@[simp] theorem Strand.clearPark_fpmode (x : Strand) : x.clearPark.fpmode = x.fpmode := rfl
@[simp] theorem Strand.clearPark_olbase (x : Strand) : x.clearPark.olbase = x.olbase := rfl
@[simp] theorem Strand.clearPark_olcap (x : Strand) : x.clearPark.olcap = x.olcap := rfl
@[simp] theorem Strand.clearPark_olcnt (x : Strand) : x.clearPark.olcnt = x.olcnt := rfl
@[simp] theorem Strand.clearPark_rot (x : Strand) : x.clearPark.rot = x.rot := rfl
@[simp] theorem Strand.clearPark_cause (x : Strand) : x.clearPark.cause = x.cause := rfl
@[simp] theorem Strand.clearPark_info (x : Strand) : x.clearPark.info = x.info := rfl
@[simp] theorem Strand.clearPark_pinstr (x : Strand) : x.clearPark.pinstr = 0 := rfl
@[simp] theorem Strand.clearPark_pwait (x : Strand) : x.clearPark.pwait = 0 := rfl
@[simp] theorem Strand.clearPark_pkind (x : Strand) : x.clearPark.pkind = 0 := rfl
@[simp] theorem Strand.clearPark_phase (x : Strand) : x.clearPark.phase = .none := rfl
@[simp] theorem Strand.clearPark_pstart (x : Strand) : x.clearPark.pstart = x.pstart := rfl
@[simp] theorem Strand.clearPark_plimit (x : Strand) : x.clearPark.plimit = 0 := rfl
@[simp] theorem Strand.clearPark_pcap (x : Strand) : x.clearPark.pcap = [] := rfl
@[simp] theorem Strand.clearPark_prel (x : Strand) : x.clearPark.prel = false := rfl
@[simp] theorem Strand.clearPark_pplaces (x : Strand) : x.clearPark.pplaces = [] := rfl
@[simp] theorem Strand.clearPark_plines (x : Strand) : x.clearPark.plines = [] := rfl
@[simp] theorem Strand.clearPark_pparts (x : Strand) : x.clearPark.pparts = [] := rfl
@[simp] theorem Strand.clearPark_pva (x : Strand) : x.clearPark.pva = x.pva := rfl
@[simp] theorem Strand.clearPark_pacc (x : Strand) : x.clearPark.pacc = x.pacc := rfl
@[simp] theorem Strand.clearPark_plog (x : Strand) : x.clearPark.plog = [] := rfl
@[simp] theorem Strand.clearPark_ptime (x : Strand) : x.clearPark.ptime = 0 := rfl
@[simp] theorem Strand.clearPark_nextb (x : Strand) : x.clearPark.nextb = x.nextb := rfl
@[simp] theorem Strand.clearPark_openb (x : Strand) : x.clearPark.openb = x.openb := rfl
@[simp] theorem Strand.clearPark_batches (x : Strand) : x.clearPark.batches = x.batches := rfl
@[simp] theorem Strand.clearPark_reported (x : Strand) : x.clearPark.reported = x.reported := rfl
@[simp] theorem Strand.clearPark_task (x : Strand) : x.clearPark.task = x.task := rfl
@[simp] theorem Strand.clearPark_bpSkip (x : Strand) : x.clearPark.bpSkip = none := rfl
@[simp] theorem Strand.clearPark_issueAt (x : Strand) : x.clearPark.issueAt = x.issueAt := rfl
@[simp] theorem Strand.clearPark_stepping (x : Strand) : x.clearPark.stepping = x.stepping := rfl
@[simp] theorem Strand.clearPark_haltReq (x : Strand) : x.clearPark.haltReq = x.haltReq := rfl
@[simp] theorem Strand.clearPark_visSys (x : Strand) : x.clearPark.visSys = x.visSys := rfl
@[simp] theorem Strand.clearPark_visMax (x : Strand) : x.clearPark.visMax = x.visMax := rfl
@[simp] theorem Strand.clearPark_ackAt (x : Strand) : x.clearPark.ackAt = x.ackAt := rfl

/-! ### Reads after writes -/

theorem strandKey_inj {c n c' n' : Nat} (hn : n < 8) (hn' : n' < 8) (h : strandKey c n = strandKey c' n') :
    c = c' ∧ n = n' := by unfold strandKey at h; omega

theorem fset_fset {α : Type} (m : FMap α) (k : Nat) (v w : α) : fset (fset m k v) k w = fset m k w := by
  induction m with
  | nil => simp [fset]
  | cons e t ih =>
    obtain ⟨a, x⟩ := e
    simp only [fset]
    split
    · simp [fset]
    · split
      · subst_vars; simp [fset]
      · rename_i h1 h2; simp [fset, h1, h2, ih]

@[simp] theorem State.setStrand_strand (s : State) (c n : Nat) (x : Strand) : (s.setStrand c n x).strand c n = x := by
  simp [State.strand]
theorem State.strand_setStrand (s : State) (c n c' n' : Nat) (x : Strand) :
    (s.setStrand c n x).strand c' n' = if strandKey c n = strandKey c' n' then x else s.strand c' n' := by
  simp [State.strand, fget_fset]
@[simp] theorem State.setStrand_setStrand (s : State) (c n : Nat) (x y : Strand) :
    (s.setStrand c n x).setStrand c n y = s.setStrand c n y := by
  simp [State.setStrand, fset_fset]
@[simp] theorem State.setCore_core (s : State) (c : Nat) (x : Core) : (s.setCore c x).core c = x := by simp [State.core]
@[simp] theorem State.setCore_setCore (s : State) (c : Nat) (x y : Core) : (s.setCore c x).setCore c y = s.setCore c y := by
  simp [State.setCore, fset_fset]
@[simp] theorem State.setClu_clu (s : State) (c : Nat) (x : Cluster) : (s.setClu c x).clu c = x := by simp [State.clu]
@[simp] theorem State.setClu_setClu (s : State) (c : Nat) (x y : Cluster) : (s.setClu c x).setClu c y = s.setClu c y := by
  simp [State.setClu, fset_fset]
@[simp] theorem State.setHart_hart (s : State) (n : Nat) (x : Hart) : (s.setHart n x).hart n = x := by simp [State.hart]

@[simp] theorem State.setStrand_core (s : State) (c n k : Nat) (x : Strand) : (s.setStrand c n x).core k = s.core k := rfl
@[simp] theorem State.setStrand_clu (s : State) (c n k : Nat) (x : Strand) : (s.setStrand c n x).clu k = s.clu k := rfl
@[simp] theorem State.setMe_core (s : State) (k : Nat) (x : Strand) : (s.setMe x).core k = s.core k := rfl
@[simp] theorem State.setMe_clu (s : State) (k : Nat) (x : Strand) : (s.setMe x).clu k = s.clu k := rfl
@[simp] theorem State.setCore_strand (s : State) (k c n : Nat) (x : Core) : (s.setCore k x).strand c n = s.strand c n := rfl
@[simp] theorem State.setCore_clu (s : State) (k c : Nat) (x : Core) : (s.setCore k x).clu c = s.clu c := rfl
@[simp] theorem State.setCore_me (s : State) (k : Nat) (x : Core) : (s.setCore k x).me = s.me := rfl
@[simp] theorem State.setClu_strand (s : State) (k c n : Nat) (x : Cluster) : (s.setClu k x).strand c n = s.strand c n := rfl
@[simp] theorem State.setClu_core (s : State) (k c : Nat) (x : Cluster) : (s.setClu k x).core c = s.core c := rfl
@[simp] theorem State.setClu_me (s : State) (k : Nat) (x : Cluster) : (s.setClu k x).me = s.me := rfl
@[simp] theorem State.withMem_strand (s : State) (c n : Nat) (m : Memory) : (s.withMem m).strand c n = s.strand c n := rfl
@[simp] theorem State.withMem_core (s : State) (c : Nat) (m : Memory) : (s.withMem m).core c = s.core c := rfl
@[simp] theorem State.withMem_clu (s : State) (c : Nat) (m : Memory) : (s.withMem m).clu c = s.clu c := rfl
@[simp] theorem State.withMem_me (s : State) (m : Memory) : (s.withMem m).me = s.me := rfl

/-! ### The issuing strand -/

@[simp] theorem State.setMe_at (s : State) (x : Strand) : (s.setMe x).at = s.at := rfl
@[simp] theorem State.setMe_coreId (s : State) (x : Strand) : (s.setMe x).coreId = s.coreId := rfl
@[simp] theorem State.setMe_slotId (s : State) (x : Strand) : (s.setMe x).slotId = s.slotId := rfl
@[simp] theorem State.setMe_cluId (s : State) (x : Strand) : (s.setMe x).cluId = s.cluId := rfl
@[simp] theorem State.setMe_meKey (s : State) (x : Strand) : (s.setMe x).meKey = s.meKey := rfl
@[simp] theorem State.setMe_me (s : State) (x : Strand) : (s.setMe x).me = x := by simp [State.me]
@[simp] theorem State.setMe_setMe (s : State) (x y : Strand) : (s.setMe x).setMe y = s.setMe y := by
  simp [State.setMe, State.meKey, State.at, fset_fset]
/-- The issuing strand is the strand of its core and slot. -/
theorem State.strand_me (s : State) : s.strand s.coreId s.slotId = s.me := rfl
theorem State.setStrand_me (s : State) (x : Strand) : s.setStrand s.coreId s.slotId x = s.setMe x := rfl

/-! ### Registers (R21) -/

@[simp] theorem Strand.rS_zero (x : Strand) : x.rS 0#6 = 0#64 := rfl
@[simp] theorem Strand.wS_zero (x : Strand) (w : Word) : x.wS 0#6 w = x := rfl
theorem Strand.rS_wS (x : Strand) (r r' : SReg) (w : Word) (h : r ≠ 0#6) :
    (x.wS r w).rS r' = if r = r' then w else x.rS r' := by
  unfold Strand.wS Strand.rS
  simp only [h, if_false, fget_fset, BitVec.toNat_inj]
  by_cases h1 : r' = 0#6
  · subst h1; simp [h]
  · simp [h1]
@[simp] theorem Strand.wP_zero (x : Strand) (b : Bool) : x.wP 0#3 b = x := rfl
@[simp] theorem Strand.rP_zero (x : Strand) : x.rP 0#3 = true := rfl
theorem Strand.rP_wP (x : Strand) (r r' : PReg) (b : Bool) (h : r ≠ 0#3) :
    (x.wP r b).rP r' = if r = r' then b else x.rP r' := by
  have h3 := r'.isLt
  by_cases h1 : r = r'
  · subst h1
    have h4 : r.toNat < 8 := h3
    cases b <;> simp [Strand.wP, Strand.rP, h, h4]
  · have h2 : r'.toNat ≠ r.toNat := fun e => h1 (BitVec.toNat_inj.mp e.symm)
    have h4 : r'.toNat < 8 := h3
    have h5 : r'.toNat < r.toNat ∨ r'.toNat - r.toNat ≠ 0 := by omega
    cases b <;> rcases h5 with h5 | h5 <;> simp [Strand.wP, Strand.rP, h, h1, h4, h5]
@[simp] theorem Strand.wK_zero (x : Strand) (m : BitVec 16) : x.wK 0#3 m = x := rfl
@[simp] theorem Strand.rK_zero (x : Strand) : x.rK 0#3 = 0xFFFF#16 := rfl
theorem Strand.rK_wK (x : Strand) (r r' : KReg) (m : BitVec 16) (h : r ≠ 0#3) :
    (x.wK r m).rK r' = if r = r' then m else x.rK r' := by
  unfold Strand.wK Strand.rK
  simp only [h, if_false, fget_fset, BitVec.toNat_inj]
  by_cases h1 : r' = 0#3
  · subst h1; simp [h]
  · simp [h1]

end Sys2Proof.Machine
end

