-- ==== Sys2Proof/Laws/Issue.lean ====
section
/-!
SUPPORT. Laws/Issue.lean: what the frame of an instruction does (Machine/Ops.lean): it runs, it is skipped, or it names a
vector register beyond the window; and what each way to end leaves.
-/
namespace Sys2Proof.Machine

/-- Words without a soft error are read as they are. -/
theorem eccScan_clean (s : State) (clu : Nat) (ws : List Nat) (h : ∀ w ∈ ws, fget? s.soft w = none) :
    eccScan s clu ws = (s, none) := by
  induction ws with
  | nil => rfl
  | cons w ws ih =>
    have ih := ih (fun v hv => h v (by simp [hv]))
    simp only [eccScan, scanAt, h w (by simp)] at ih ⊢
    exact ih

theorem eccScan_soft (s : State) (clu : Nat) (ws : List Nat) (h : s.soft = []) : eccScan s clu ws = (s, none) :=
  eccScan_clean s clu ws (fun w _ => by rw [h]; rfl)

theorem issue_runs {i : Instr} {g : Guard} {s : State} (op : State → Res) (h : Runs i g s) :
    issue i g op s = .next (settle s ((encodeTile i).getD 0) (op s)) := by
  obtain ⟨hg, hr, hd, he⟩ := h
  have hk : eccScan s s.cluId (guardKeys s g) = (s, none) := eccScan_clean _ _ _ (fun k hk => he k (by simp [hk]))
  have hs : eccScan s s.cluId (readKeys s i) = (s, none) := eccScan_clean _ _ _ (fun k hk => he k (by simp [hk]))
  simp only [issue, hr, hk, hg, hd, hs, if_true, Bool.false_eq_true, if_false]

/-- An instruction that names no vector register runs when its guard is true and what it reads holds no soft error. -/
theorem runs_of_guard {i : Instr} {g : Guard} {s : State} (hv : i.vregs = [])
    (he : ∀ k ∈ guardKeys s g ++ readKeys s i, fget? s.soft k = none)
    (h : s.guard g = true) : Runs i g s :=
  ⟨h, by simp [regRange, hv], by
    simp only [drainPending, hv, List.any_nil, Bool.and_false]
    rw [List.any_eq_false]
    intro m _
    cases m.vdst <;> simp, he⟩

/-- A false guard: only the PC moves (R309). -/
theorem issue_skips {i : Instr} {g : Guard} {s : State} (op : State → Res) (hr : regRange s i = none)
    (hk : ∀ k ∈ guardKeys s g, fget? s.soft k = none) (h : s.guard g = false) :
    issue i g op s = .next (retire s s.coreId s.slotId) := by
  simp [issue, hr, h, eccScan_clean _ _ _ hk]

/-- A guard's predicate is one of the words that a guarded strand holds clean. -/
theorem guardKeys_clean {s : State} {g : Guard} (h : ∀ n, n < 32 → fget? s.soft (pregKey s.coreId s.slotId n) = none) :
    ∀ k ∈ guardKeys s g, fget? s.soft k = none := by
  intro k hk
  unfold guardKeys at hk
  split at hk
  · simp at hk
  · rw [List.mem_singleton.mp hk]
    exact h _ (by have := g.pred.isLt; omega)

theorem issue_range {i : Instr} {g : Guard} {s : State} (op : State → Res) {n : Nat} (hr : regRange s i = some n) :
    issue i g op s = .next (freeze s s.coreId s.slotId cREGRANGE (regRangeInfo s n)) := by
  simp [issue, hr]

theorem State.setStrand_at_me (s : State) (x : Strand) : s.setStrand s.coreId s.slotId x = s.setMe x := rfl

theorem retireTo_quiet {s : State} {core slot : Nat} (pc : Word) (h : (s.strand core slot).stepping = false)
    (h' : (s.strand core slot).haltReq = false) :
    retireTo s core slot pc = s.setStrand core slot { (s.strand core slot).clearPark with status := .ready, pc := pc } := by
  simp [retireTo, boundary, State.updStrand, h, h']

theorem retireTo_me {s : State} (pc : Word) (h : s.quiet) : retireTo s s.coreId s.slotId pc = s.goneTo pc :=
  retireTo_quiet pc h.1 h.2

theorem retire_me {s : State} (h : s.quiet) : retire s s.coreId s.slotId = s.gone := retireTo_me _ h

@[simp] theorem settle_done (s s' : State) (w : Word) : settle s w (.done s') = retire s' s.coreId s.slotId := rfl
@[simp] theorem settle_jump (s s' : State) (w pc : Word) : settle s w (.jump s' pc) = retireTo s' s.coreId s.slotId pc := rfl
@[simp] theorem settle_off (s s' : State) (w : Word) (n : Nat) :
    settle s w (.off s' n) = offRotate s' s.coreId s.slotId n := rfl
@[simp] theorem settle_wait (s s' : State) (w : Word) (k : BitVec 4) (ph : Phase) :
    settle s w (.wait k ph s') = park s' s.coreId s.slotId w k ph := rfl
@[simp] theorem settle_fault (s : State) (w : Word) (c : BitVec 8) (i : Word) :
    settle s w (.fault c i) = freeze s s.coreId s.slotId c i := rfl

/-- A completion of the issuing strand that leaves it the issuing strand. -/
theorem settle_done_gone {s s' : State} (w : Word) (hc : s'.cur = s.cur) (h : s'.quiet) :
    settle s w (.done s') = s'.gone := by
  have : s'.coreId = s.coreId ∧ s'.slotId = s.slotId := by simp [State.coreId, State.slotId, State.at, hc]
  rw [settle_done, ← this.1, ← this.2, retire_me h]

/-- A register write leaves the strand quiet. -/
theorem quiet_setMe {s : State} {x : Strand} (h : s.quiet) (h1 : x.stepping = s.me.stepping) (h2 : x.haltReq = s.me.haltReq) :
    (s.setMe x).quiet := by simp [State.quiet, h1, h2, h.1, h.2]
theorem quiet_wS {s : State} (h : s.quiet) (r : SReg) (w : Word) : (s.wS r w).quiet := quiet_setMe h (by simp) (by simp)
theorem quiet_wP {s : State} (h : s.quiet) (r : PReg) (b : Bool) : (s.wP r b).quiet := quiet_setMe h (by simp) (by simp)
theorem quiet_wK {s : State} (h : s.quiet) (r : KReg) (m : BitVec 16) : (s.wK r m).quiet := quiet_setMe h (by simp) (by simp)

end Sys2Proof.Machine
end

