-- ==== Sys2Proof/Laws/Mem.lean ====
section
/-!
SUPPORT. Laws/Mem.lean: bytes read after bytes written, in local memory and at a home (Machine/Mem.lean), and what a
coherent write leaves of the other fields.
-/
namespace Sys2Proof.Machine

theorem readBytes_length (m : Memory) (a n : Nat) : (readBytes m a n).length = n := by
  induction n generalizing a with
  | zero => rfl
  | succ n ih => simp [readBytes, ih]

/-- Local memory reads back what was written. -/
theorem memGet_memPut (s : State) (k : Nat) (bs : List Byte) : memGet (memPut s k bs) k bs.length = bs :=
  readBytes_writeBytes _ _ _

theorem readByte_memPut_outside (s : State) (k : Nat) (bs : List Byte) (x : Nat) (h : x < k ∨ k + bs.length ≤ x) :
    readByte (memPut s k bs).mem x = readByte s.mem x :=
  readByte_writeBytes_outside _ _ _ _ h

/-! ### What a holder's recall leaves alone -/

theorem hcPut_mem (s : State) (who line : Nat) (x : Option (Moesi × List Byte)) : (hcPut s who line x).mem = s.mem := by
  unfold hcPut; split
  · rfl
  · split <;> rfl
theorem hcPut_dirs (s : State) (who line : Nat) (x : Option (Moesi × List Byte)) : (hcPut s who line x).dirs = s.dirs := by
  unfold hcPut; split
  · rfl
  · split <;> rfl
theorem hcPut_homeTxns (s : State) (who line : Nat) (x : Option (Moesi × List Byte)) :
    (hcPut s who line x).homeTxns = s.homeTxns := by
  unfold hcPut; split
  · rfl
  · split <;> rfl

/-- The soft errors of a line that leaves a cache are all that changes with it. -/
theorem softLeave_keeps {β : Type} (p : State → β) (h : ∀ (s : State) (m : FMap Bool), p { s with soft := m } = p s)
    (s : State) (who attr line : Nat) (back : Bool) : p (softLeave s who attr line back) = p s := by
  unfold softLeave
  dsimp only
  split
  · exact h s _
  · rfl

/-- A step of a fold that keeps a value keeps it over the whole list. -/
theorem foldl_keeps {α β σ : Type} (f : σ → α → σ) (p : σ → β) (h : ∀ s a, p (f s a) = p s) (l : List α) (s : σ) :
    p (l.foldl f s) = p s := by
  induction l generalizing s with
  | nil => rfl
  | cons a l ih => rw [List.foldl_cons, ih, h]

/-- What every holder's drop keeps, the recall keeps, but for the entry and the forwarded data. -/
theorem recall_keeps {β : Type} (p : State → β) (hs : ∀ (s : State) (m : FMap Bool), p { s with soft := m } = p s)
    (hp : ∀ (s : State) (w line : Nat), p (hcPut s w line none) = p s) (line : Nat) (own : Option Nat) (l : List Nat) (s : State) :
    p (l.foldl (fun s w =>
      softLeave (hcPut s w line none) w 0 line (own = some w && ((hcHeld s w line).map (·.1.dirty)).getD false)) s) = p s :=
  foldl_keeps _ p (fun s w => by rw [softLeave_keeps p hs, hp]) l s

theorem recallLine_mem (s : State) (line : Nat) :
    (recallLine s line).mem = writeBytes s.mem (128 * line) (lineData s line) :=
  recall_keeps State.mem (fun _ _ => rfl) (fun s w l => hcPut_mem s w l none) line _ _ _
theorem recallLine_dirs (s : State) (line : Nat) : (recallLine s line).dirs = fdel s.dirs line := by
  unfold recallLine
  have := recall_keeps State.dirs (fun _ _ => rfl) (fun s w l => hcPut_dirs s w l none) line (dirOf s line).owner
    (dirOf s line).holders (s.withMem (writeBytes s.mem (128 * line) (lineData s line)))
  simp only [State.withMem_dirs] at this
  simp only [this]
theorem recallLine_homeTxns (s : State) (line : Nat) :
    (recallLine s line).homeTxns = s.homeTxns.map (fun t => if t.req.line = line then { t with data := none } else t) := by
  unfold recallLine
  have := recall_keeps State.homeTxns (fun _ _ => rfl) (fun s w l => hcPut_homeTxns s w l none) line (dirOf s line).owner
    (dirOf s line).holders (s.withMem (writeBytes s.mem (128 * line) (lineData s line)))
  simp only [State.withMem_homeTxns] at this
  simp only [this]

/-- After a recall the home tracks the line no more. -/
theorem tracked_recallLine (s : State) (line : Nat) : tracked (recallLine s line) line = false := by
  unfold tracked forwarded
  rw [recallLine_dirs, recallLine_homeTxns, fget?_fdel, if_pos rfl]
  simp only [Option.isSome_none, Bool.false_or]
  generalize s.homeTxns = l
  induction l with
  | nil => rfl
  | cons t l ih =>
    rw [List.map_cons, List.findSome?_cons]
    by_cases h : t.req.line = line <;> simp [h] at ih ⊢ <;> exact ih

theorem lineOf_of_mod {pa j : Nat} (h : pa % 128 + j < 128) : lineOf (pa + j) = lineOf pa := by unfold lineOf; omega

theorem cohPutByte_untracked {s : State} {pa : Nat} (b : Byte) (hp : physOk pa = true) (ht : tracked s (lineOf pa) = false) :
    cohPutByte s pa b = s.withMem (writeByte s.mem pa b) := by simp [cohPutByte, hp, ht]

theorem tracked_cohPutByte (s : State) (pa : Nat) (b : Byte) (hp : physOk pa = true) :
    tracked (cohPutByte s pa b) (lineOf pa) = false := by
  unfold cohPutByte
  simp only [hp, Bool.not_true, Bool.false_eq_true, if_false]
  split
  · exact tracked_recallLine s (lineOf pa)
  · rename_i h
    show tracked s (lineOf pa) = false
    simpa using h

theorem readByte_cohPutByte (s : State) (pa : Nat) (b : Byte) (hp : physOk pa = true) :
    readByte (cohPutByte s pa b).mem pa = b := by
  unfold cohPutByte
  simp only [hp, Bool.not_true, Bool.false_eq_true, if_false]
  split <;> simp [readByte_writeByte]

/-- Bytes written to an untracked line go to memory. -/
theorem cohPutBytes_untracked (s : State) (pa : Nat) (bs : List Byte) (hp : ∀ j < bs.length, physOk (pa + j) = true)
    (hl : pa % 128 + bs.length ≤ 128) (ht : tracked s (lineOf pa) = false) :
    cohPutBytes s pa bs = s.withMem (writeBytes s.mem pa bs) := by
  induction bs generalizing s pa with
  | nil => rfl
  | cons b t ih =>
    simp only [List.length_cons] at hp hl
    rw [cohPutBytes, cohPutByte_untracked b (by simpa using hp 0 (by omega)) ht, writeBytes]
    cases t with
    | nil => rfl
    | cons c t =>
      simp only [List.length_cons] at hp hl ih
      have hm : lineOf (pa + 1) = lineOf pa := lineOf_of_mod (by omega)
      rw [ih (s.withMem (writeByte s.mem pa b)) (pa + 1)
        (fun j hj => by have := hp (j + 1) (by omega); rwa [Nat.add_assoc, Nat.add_comm 1 j])
        (by omega) (by rw [hm]; exact ht)]
      rfl

/-- Bytes of one line written at its home are read back there. -/
theorem cohRead_cohWrite (s : State) (pa : Nat) (bs : List Byte) (hp : ∀ j < bs.length, physOk (pa + j) = true)
    (hl : pa % 128 + bs.length ≤ 128) : cohRead (cohWrite s pa bs) pa bs.length = bs := by
  unfold cohWrite
  generalize softClear s pa bs.length = s
  have key : ∀ s : State, tracked s (lineOf pa) = false → ∀ bs : List Byte, ∀ a, lineOf a = lineOf pa →
      a % 128 + bs.length ≤ 128 → (∀ j < bs.length, physOk (a + j) = true) → readBytes s.mem a bs.length = bs →
      cohRead s a bs.length = bs := by
    intro s ht bs
    induction bs with
    | nil => intros; rfl
    | cons b t ih =>
      intro a ha hl hp hr
      simp only [List.length_cons, readBytes, List.cons.injEq] at hr hl hp
      rw [List.length_cons, cohRead]
      have h0 : cohByte s a = b := by
        have := hp 0 (by omega)
        simp only [Nat.add_zero] at this
        simp [cohByte, this, ha, ht, hr.1]
      rw [h0]
      cases t with
      | nil => rfl
      | cons c t =>
        simp only [List.length_cons] at hl hp
        rw [ih (a + 1) (by rw [lineOf_of_mod (by omega), ha]) (by simp only [List.length_cons]; omega)
          (fun j hj => by
            simp only [List.length_cons] at hj
            have := hp (j + 1) (by omega); rwa [Nat.add_assoc, Nat.add_comm 1 j]) hr.2]
  cases bs with
  | nil => rfl
  | cons b t =>
    have hp0 : physOk pa = true := by simpa using hp 0 (by simp)
    rw [cohPutBytes]
    have ht := tracked_cohPutByte s pa b hp0
    have hb := readByte_cohPutByte s pa b hp0
    generalize cohPutByte s pa b = s1 at ht hb ⊢
    simp only [List.length_cons] at hp hl
    cases t with
    | nil =>
      refine key _ ht [b] pa rfl (by simp; omega) (fun j hj => by simp at hj; subst hj; simpa using hp0) ?_
      simp [readBytes, hb]
    | cons c t =>
      simp only [List.length_cons] at hp hl
      have hm : lineOf (pa + 1) = lineOf pa := lineOf_of_mod (by omega)
      rw [cohPutBytes_untracked s1 (pa + 1) (c :: t)
        (fun j hj => by
          simp only [List.length_cons] at hj
          have := hp (j + 1) (by omega); rwa [Nat.add_assoc, Nat.add_comm 1 j])
        (by simp only [List.length_cons]; omega) (by rw [hm]; exact ht)]
      refine key (s1.withMem (writeBytes s1.mem (pa + 1) (c :: t))) ht (b :: c :: t) pa rfl (by simp only [List.length_cons]; omega)
        (fun j hj => hp j (by simpa using hj)) ?_
      have := readBytes_writeBytes s1.mem (pa + 1) (c :: t)
      simp only [List.length_cons, readBytes] at this ⊢
      rw [State.withMem_mem, this, readByte_writeBytes_outside _ _ _ _ (Or.inl (by omega)), hb]

end Sys2Proof.Machine
end

