-- ==== Sys2Proof/Laws/Access.lean ====
section
/-!
SUPPORT. Laws/Access.lean: what a load, a store, an atomic, a reduction and a full/empty form do on near memory
(Machine/Access.lean, Machine/FullEmpty.lean), each said once for the forms that share it.
-/
namespace Sys2Proof.Machine

/-- An instruction that names no vector register issues wherever its guard is true and what it reads holds no soft error. -/
theorem issue_scalar {i : Instr} {g : Guard} {s : State} (op : State → Res) (hv : i.vregs = [])
    (he : ∀ k ∈ guardKeys s g ++ readKeys s i, fget? s.soft k = none) (h : s.guard g = true) :
    issue i g op s = .next (settle s ((encodeTile i).getD 0) (op s)) := issue_runs op (runs_of_guard hv he h)

/-- An instruction whose effect is one scalar result. -/
theorem settle_done_wS {s : State} (w : Word) (r : SReg) (v : Word) (q : s.quiet) : settle s w (.done (s.wS r v)) = (s.wS r v).gone :=
  settle_done_gone w rfl (quiet_wS q r v)

/-- A piece that no scoreboard entry meets is given leave. -/
theorem unboard_one {s : State} {p : Piece} (h : p.onBoard s = false) : unboard s [p] = .ok [p] := by simp [unboard, h]

/-- An access whose word holds no soft error goes on. -/
theorem eccThen_one {s : State} {n key : Nat} {far : Bool} (h : fget? s.soft (wordOf key) = none) (k : State → Res) :
   eccThen s [{ off := 0, len := n, place := .bank key far }] k = k s := by
  simp [eccThen, eccWords, Piece.words, eccScan_clean s s.cluId [wordOf key] (by simpa using h)]

/-- The value a load of one piece writes. -/
theorem loadVal_one (s : State) (key : Nat) (u : Bool) (n : Nat) (hn : n = 1 ∨ n = 2 ∨ n = 4 ∨ n = 8) :
   loadVal u false n [(0, memGet s key n)] = loadedWord s key n u := by
  simp only [loadVal, loadedWord, joined, List.flatMap_cons, List.flatMap_nil, List.append_nil, Bool.false_eq_true, if_false]
  have hlt := fromBytes_lt (memGet s key n)
  have hl : (memGet s key n).length = n := readBytes_length _ _ _
  rw [hl] at hlt
  generalize fromBytes (memGet s key n) = v at *
  cases u
  · simp; exact sextN_eq _ _ (by omega) (by omega)
  · simp [w64]
    apply BitVec.eq_of_toNat_eq
    simp
    rw [Nat.mod_eq_of_lt hlt]

/-- The sizes of a scalar access. -/
theorem sizeBytes_cases (sz : Size) : sizeBytes sz = 1 ∨ sizeBytes sz = 2 ∨ sizeBytes sz = 4 ∨ sizeBytes sz = 8 := by cases sz <;> simp [sizeBytes]

/-- A load of pieces that are read at issue: the pieces are named as a list, so that no proof looks into them. -/
theorem loadAt_pieces {s : State} {acq : Option Scope} {a : Addr} {n : Nat} {ps : List Piece} {l : List (Nat × List Byte)} (u : Bool)
    (sd : SReg) (h1 : placed none s (resolve s (askLoad (if acq.isSome then n else 1)) a n 0) = .ok ps) (h2 : unboard s ps = .ok ps)
    (h3 : ps.all (·.near) = true) (h4 : ∀ k, eccThen s ps k = k s) (h5 : nearRead s ps = l) :
    loadAt u n acq sd a none s = thenAcquire acq (s.wS sd (loadVal u false n l)) := by
  rw [loadAt, h1]
  simp only [loadThen, h2, h3, h4, h5, Bool.not_false, Bool.true_and, if_true]

/-- A load of near memory writes what it reads, then acquires (06 R124, 17 R384). -/
theorem loadAt_near {s : State} {acq : Option Scope} {a : Addr} {n key : Nat} (u : Bool) (sd : SReg)
    (h : NearAt s (askLoad (if acq.isSome then n else 1)) a n key) :
    loadAt u n acq sd a none s = thenAcquire acq (s.wS sd (loadVal u false n [(0, memGet s key n)])) :=
  loadAt_pieces u sd h.1 (unboard_one h.2.1) rfl (eccThen_one h.2.2) rfl

/-- An index scaled by a power of two is shifted. -/
theorem mul_pow_shift (x : Word) (n : Nat) : x * w64 (2 ^ n) = x <<< n := by
  apply BitVec.eq_of_toNat_eq
  simp [w64, BitVec.toNat_shiftLeft, Nat.shiftLeft_eq]

/-- What follows a release that an instruction does not ask for, or that it has completed. -/
theorem afterReleaseAt_done {s : State} {rl : Option Scope} (ps : List Piece) (k : State → Res) (h : rl = none ∨ s.me.prel = true) :
    afterReleaseAt ps rl s k = k s := by
  cases rl with
  | none => rfl
  | some sc => simp only [afterReleaseAt, h.resolve_left (by simp), if_true]
theorem afterRelease_done {s : State} {rl : Option Scope} (k : State → Res) (h : rl = none ∨ s.me.prel = true) : afterRelease rl s k = k s :=
  afterReleaseAt_done [] k h

/-- A store of pieces that enters no side log. -/
theorem storeAt_pieces {s : State} {rl : Option Scope} {a : Addr} {n : Nat} {ps : List Piece} (sd : SReg)
    (h1 : placed none s (resolve s (askStore (if rl.isSome then n else 1)) a n 0) = .ok ps) (h2 : unboard s ps = .ok ps)
    (h3 : logRuns ps (toBytes n (s.rS sd).toNat) = []) (hr : rl = none ∨ s.me.prel = true) :
    storeAt n rl sd a none s = .done (postPeers (postAll (nearPut s ps (toBytes n (s.rS sd).toNat)) .st
      (pwordsOf ps (toBytes n (s.rS sd).toNat))) false rl.isSome ps (toBytes n (s.rS sd).toNat)) := by
  rw [storeAt, h1]
  simp only [storeThen, h2, afterReleaseAt_done _ _ hr, Bool.and_false, Bool.false_and, Bool.false_eq_true, if_false, storeNow, h3,
    List.isEmpty_nil, Bool.not_true, List.foldl_nil]

/-- The store of one near piece. -/
theorem nearPut_one (s : State) (n key : Nat) (bs : List Byte) (h : bs.length = n) :
    nearPut s [{ off := 0, len := n, place := .bank key false }] bs = memPut s key bs := by
  show memPut s key (slice bs 0 n) = _
  rw [slice, List.drop_zero, List.take_of_length_le (by omega)]

/-- A store to near memory puts its bytes there (06 R124, 19 R428). -/
theorem storeAt_near {s : State} {rl : Option Scope} {a : Addr} {n key : Nat} (sd : SReg)
    (h : NearAt s (askStore (if rl.isSome then n else 1)) a n key) (hr : rl = none ∨ s.me.prel = true) :
    storeAt n rl sd a none s = .done (memPut s key (toBytes n (s.rS sd).toNat)) := by
  rw [storeAt_pieces sd h.1 (unboard_one h.2.1) rfl hr, nearPut_one _ _ _ _ (toBytes_length _ _)]
  rfl

/-- An atomic on one piece that is exchanged at issue. -/
theorem atomicAt_piece {s t : State} {ord : MemOrd} {a : Addr} {n old : Nat} {p : Piece} (f : Nat → Option Nat)
    (put : Nat → State → State) (h1 : placed none s (resolve s (askAtomic n) a n 0) = .ok [p]) (h2 : unboard s [p] = .ok [p]) (h3 : p.atIssue s = true)
    (h4 : ∀ k, eccThen s [p] k = k s) (h5 : rmwAt s p.place p.len f = (t, some old))
    (hr : ordRel ord = none ∨ s.me.prel = true) : atomicAt n ord a f put none s = thenAcquire (ordAcq ord) (put old t) := by
  rw [atomicAt, h1]
  simp only [h2, afterReleaseAt_done _ _ hr, atomicThen, h3, h4, h5, Bool.not_true, Bool.and_false, Bool.false_eq_true,
    if_false]

/-- A read-modify-write of near memory. -/
theorem rmwAt_near (s : State) (key n : Nat) (f : Nat → Option Nat) :
    rmwAt s (.bank key false) n f =
      (((f (memNat s key n)).map (fun v => memPut s key (toBytes n v))).getD s, some (memNat s key n)) := by
  show (match f (memNat s key n) with | some v => _ | none => _) = _
  cases f (memNat s key n) <;> rfl

/-- An atomic on near memory puts the new value there, hands on the old one, then acquires (08 R184, 16 R349). -/
theorem atomicAt_near {s : State} {ord : MemOrd} {a : Addr} {n key : Nat} (f : Nat → Option Nat) (put : Nat → State → State)
    (h : NearAt s (askAtomic n) a n key) (hr : ordRel ord = none ∨ s.me.prel = true) :
    atomicAt n ord a f put none s = thenAcquire (ordAcq ord)
      (put (fromBytes (memGet s key n)) (((f (fromBytes (memGet s key n))).map (fun v => memPut s key (toBytes n v))).getD s)) :=
  atomicAt_piece f put h.1 (unboard_one h.2.1) rfl (eccThen_one h.2.2) (rmwAt_near s key n f) hr

/-- A reduction on one piece of near memory. -/
theorem reduceAt_piece {s t : State} {rl : Option Scope} {a : Addr} {n old key : Nat} {p : Piece} (op : StoreOp) (sb : SReg)
    (h1 : placed none s (resolve s (askReduce n) a n 0) = .ok [p]) (h2 : unboard s [p] = .ok [p]) (h3 : p.atIssue s = true)
    (h4 : ∀ k, eccThen s [p] k = k s) (h6 : p.place = .bank key false)
    (h5 : rmwAt s p.place p.len (fun old => some (op.apply old (lowBytes s sb n))) = (t, some old))
    (hr : rl = none ∨ s.me.prel = true) : reduceAt n rl a op sb none s = .done t := by
  have h7 : reduceThen none p op (lowBytes s sb n) s =
      atomicThen none p (fun old => some (op.apply old (lowBytes s sb n))) s (fun _ s => .done s) := by rw [reduceThen, h6]
  rw [reduceAt, h1]
  simp only [h2, afterReleaseAt_done _ _ hr, h7, atomicThen, h3, h4, h5, Bool.not_true, Bool.and_false, Bool.false_eq_true, if_false]

/-- A reduction on near memory (18 R413). -/
theorem reduceAt_near {s : State} {rl : Option Scope} {a : Addr} {n key : Nat} (op : StoreOp) (sb : SReg)
    (h : NearAt s (askReduce n) a n key) (hr : rl = none ∨ s.me.prel = true) :
    reduceAt n rl a op sb none s =
      .done (memPut s key (toBytes n (op.apply (fromBytes (memGet s key n)) (lowBytes s sb n)))) :=
  reduceAt_piece op sb h.1 (unboard_one h.2.1) rfl (eccThen_one h.2.2) rfl (rmwAt_near s key n _) hr

/-- Only the low bytes of a number are written. -/
theorem toBytes_mod (n v : Nat) : toBytes n (v % 2 ^ (8 * n)) = toBytes n v := by
  induction n generalizing v with
  | zero => rfl
  | succ n ih =>
    have h8 : 2 ^ (8 * (n + 1)) = 256 * 2 ^ (8 * n) := by rw [Nat.mul_succ, Nat.add_comm, Nat.pow_add]
    rw [toBytes, toBytes, h8]
    congr 1
    · apply BitVec.eq_of_toNat_eq; simp
    · rw [Nat.mod_mul_right_div_self, ih]

/-- The signed reading of a bit vector by cases. -/
theorem toInt_by_cases (w : Nat) (hw : 0 < w) (x : BitVec w) : (if x.toNat < 2 ^ w / 2 then (x.toNat : Int) else (x.toNat : Int) - (2 ^ w : Nat)) = x.toInt := by
  rw [BitVec.toInt_eq_toNat_cond]
  have : 2 ^ w = 2 ^ (w - 1) * 2 := by rw [← Nat.pow_succ]; congr 1; omega
  by_cases h : 2 * x.toNat < 2 ^ w
  · rw [if_pos h, if_pos (by omega)]
  · rw [if_neg h, if_neg (by omega)]

/-- The integer operations on numbers are those on bit vectors. -/
theorem intOp_eq_atomicNew (op : IntOp) (n : Nat) (hn : 0 < n) (x y : BitVec (8 * n)) : intOp op n x.toNat y.toNat = (atomicNew op x y).toNat := by
  have h8 : 0 < 8 * n := by omega
  cases op <;> simp only [intOp, atomicNew]
  · rfl
  · simp
  · simp
  · simp
  · simp only [toInt_by_cases _ h8]
    simp only [BitVec.sle, decide_eq_true_eq]; split <;> rfl
  · simp only [toInt_by_cases _ h8]
    simp only [BitVec.sle, decide_eq_true_eq]; split <;> rfl
  · simp only [BitVec.ule, decide_eq_true_eq]; split <;> omega
  · simp only [BitVec.ule, decide_eq_true_eq]; split <;> omega

/-- A full/empty form on one piece of near memory. -/
theorem opFe_piece {s : State} {f : FeForm} {p : Word} {n key : Nat} {o : Nat} {ps : List Piece} (sd sa : SReg) (imm : W32)
    (h1 : placed none s (resolvePtr s (askFe f) p 8 0) = .ok ps) (h2 : unboard s ps = .ok ps) (h4 : ∀ k, eccThen s ps k = k s)
    (hps : ps = [{ off := o, len := n, place := .bank key false }]) (hp : p = s.rS sa + imm.signExtend 64) :
    opFe f sd sa imm none s = feAttempt f sd key p s := by
  subst hp
  rw [opFe, h1]
  simp only [h2, h4]
  rw [hps]
  simp only [Bool.false_and, Bool.false_eq_true, if_false, ite_self]

/-- A full/empty form on near memory attempts its exchange (06 R138). -/
theorem opFe_near {s : State} {f : FeForm} {p : Word} {key : Nat} (h : NearAt s (askFe f) (.ptr p) 8 key) (sd sa : SReg) (imm : W32)
    (hp : p = s.rS sa + imm.signExtend 64) : opFe f sd sa imm none s = feAttempt f sd key p s :=
  opFe_piece sd sa imm h.1 (unboard_one h.2.1) (eccThen_one h.2.2) rfl hp

/-- An empty wait list lets nothing pass. -/
theorem passes_nil {s : State} {w : Nat} (h : waitsOf s (bankOf w) = []) (n : Nat) : passes s w n = s := by
  cases n <;> simp [passes, h, passOnce]

/-- A word's state is no part of the wait lists. -/
theorem waits_feSet {s : State} {w : Nat} (b : Bool) (n : Nat) : waitsOf (feSet s w b) n = waitsOf s n := rfl

end Sys2Proof.Machine
end

