-- ==== Sys2Proof/Laws/Regs.lean ====
section
/-!
SUPPORT. Laws/Regs.lean: fields of numbers and words read after they are written, and control registers read after writes.
-/
namespace Sys2Proof.Machine

theorem bitsN_lt (n hi lo : Nat) : bitsN n hi lo < 2 ^ (hi + 1 - lo) := Nat.mod_lt _ (Nat.two_pow_pos _)

/-- A number's parts above, in and below a field. -/
theorem bitsN_split (n hi lo : Nat) (h : lo ≤ hi) :
    n = n / 2 ^ (hi + 1) * 2 ^ (hi + 1) + bitsN n hi lo * 2 ^ lo + n % 2 ^ lo := by
  have e : (2 : Nat) ^ (hi + 1) = 2 ^ lo * 2 ^ (hi + 1 - lo) := by rw [← Nat.pow_add]; congr 1; omega
  unfold bitsN
  have h1 := Nat.div_add_mod n (2 ^ lo)
  have h2 := Nat.div_add_mod (n / 2 ^ lo) (2 ^ (hi + 1 - lo))
  rw [Nat.div_div_eq_div_mul, ← e] at h2
  generalize n / 2 ^ lo % 2 ^ (hi + 1 - lo) = c at *
  generalize n / 2 ^ (hi + 1) = d at *
  rw [← h2] at h1
  rw [e]
  generalize 2 ^ (hi + 1 - lo) = k at *
  generalize 2 ^ lo = m at *
  generalize n % m = r at *
  rw [← h1, Nat.mul_add, Nat.mul_comm d, Nat.mul_assoc, Nat.mul_comm c]

theorem putBits_eq (n hi lo v : Nat) (h : lo ≤ hi) :
    putBits n hi lo v = n / 2 ^ (hi + 1) * 2 ^ (hi + 1) + v % 2 ^ (hi + 1 - lo) * 2 ^ lo + n % 2 ^ lo := by
  have := bitsN_split n hi lo h
  unfold putBits
  generalize bitsN n hi lo * 2 ^ lo = b at *
  omega

theorem bitsN_putBits (n hi lo v : Nat) (h : lo ≤ hi) : bitsN (putBits n hi lo v) hi lo = v % 2 ^ (hi + 1 - lo) := by
  rw [putBits_eq n hi lo v h]
  have e : (2 : Nat) ^ (hi + 1) = 2 ^ lo * 2 ^ (hi + 1 - lo) := by rw [← Nat.pow_add]; congr 1; omega
  have hv := Nat.mod_lt v (Nat.two_pow_pos (hi + 1 - lo))
  have hr := Nat.mod_lt n (Nat.two_pow_pos lo)
  unfold bitsN
  rw [e]
  generalize n / (2 ^ lo * 2 ^ (hi + 1 - lo)) = d
  generalize v % 2 ^ (hi + 1 - lo) = c at *
  generalize n % 2 ^ lo = r at *
  have : d * (2 ^ lo * 2 ^ (hi + 1 - lo)) + c * 2 ^ lo + r = r + 2 ^ lo * (d * 2 ^ (hi + 1 - lo) + c) := by
    generalize 2 ^ (hi + 1 - lo) = k
    generalize 2 ^ lo = m
    rw [Nat.mul_add, Nat.mul_comm c m, ← Nat.mul_assoc d, Nat.mul_comm d m, Nat.mul_assoc m d k]
    omega
  rw [this, Nat.add_mul_div_left _ _ (Nat.two_pow_pos lo), Nat.div_eq_of_lt hr, Nat.zero_add,
    Nat.add_comm, Nat.add_mul_mod_self_right, Nat.mod_eq_of_lt hv]

/-- The field of a word just written. -/
theorem fld_putFld (w : Word) (hi lo v : Nat) (h : lo ≤ hi) (h' : hi < 64) :
    fld (putFld w hi lo v) hi lo = v % 2 ^ (hi + 1 - lo) := by
  unfold fld putFld w64
  rw [BitVec.toNat_ofNat]
  have hlt : putBits w.toNat hi lo v < 2 ^ 64 := by
    rw [putBits_eq _ _ _ _ h]
    have hw := w.isLt
    have hv := Nat.mod_lt v (Nat.two_pow_pos (hi + 1 - lo))
    have hr := Nat.mod_lt w.toNat (Nat.two_pow_pos lo)
    have e : (2 : Nat) ^ (hi + 1) = 2 ^ lo * 2 ^ (hi + 1 - lo) := by rw [← Nat.pow_add]; congr 1; omega
    have e2 : (2 : Nat) ^ 64 = 2 ^ (hi + 1) * 2 ^ (63 - hi) := by rw [← Nat.pow_add]; congr 1; omega
    have hq : w.toNat / 2 ^ (hi + 1) < 2 ^ (63 - hi) :=
      Nat.div_lt_of_lt_mul (by rw [← e2]; exact hw)
    have h3 : v % 2 ^ (hi + 1 - lo) * 2 ^ lo + w.toNat % 2 ^ lo < 2 ^ (hi + 1) := by
      have : (v % 2 ^ (hi + 1 - lo) + 1) * 2 ^ lo ≤ 2 ^ (hi + 1 - lo) * 2 ^ lo := Nat.mul_le_mul_right _ hv
      rw [Nat.add_mul, Nat.one_mul] at this
      rw [e, Nat.mul_comm (2 ^ lo)]
      omega
    have h4 : (w.toNat / 2 ^ (hi + 1) + 1) * 2 ^ (hi + 1) ≤ 2 ^ (63 - hi) * 2 ^ (hi + 1) := Nat.mul_le_mul_right _ hq
    rw [Nat.add_mul, Nat.one_mul] at h4
    rw [e2, Nat.mul_comm (2 ^ (hi + 1))]
    omega
  rw [Nat.mod_eq_of_lt hlt, bitsN_putBits _ _ _ _ h]

theorem regGet_regPut (s : State) (o o' : Nat) (w : Word) : regGet (regPut s o w) o' = if o = o' then w else regGet s o' := by
  unfold regGet regPut
  rw [fget_fset]

theorem regGet_regFld (s : State) (o o' hi lo v : Nat) :
    regGet (regFld s o hi lo v) o' = if o = o' then putFld (regGet s o) hi lo v else regGet s o' := regGet_regPut _ _ _ _

theorem regGet_congr {s t : State} (h : t.regs = s.regs) (o : Nat) : regGet t o = regGet s o := by unfold regGet; rw [h]

end Sys2Proof.Machine
end

