-- ==== Sys2Proof/Laws/Faults.lean ====
section
/-!
SUPPORT. Laws/Faults.lean: what taking a fault leaves when the present level of the chain has room (13 R272 to R275).
-/
namespace Sys2Proof.Machine

theorem cohPutBytes_keeps {α : Type} (p : State → α) (hm : ∀ s m, p (State.withMem s m) = p s)
    (hr : ∀ s line, p (recallLine s line) = p s) (s : State) (pa : Nat) (bs : List Byte) : p (cohPutBytes s pa bs) = p s := by
  induction bs generalizing s pa with
  | nil => rfl
  | cons b t ih =>
    rw [cohPutBytes, ih]
    unfold cohPutByte
    split
    · rfl
    · rw [hm]; split
      · rw [hr]
      · rfl

/-- A coherent write keeps every part of the device that neither memory nor a line of it touches. -/
theorem cohWrite_keeps {α : Type} (p : State → α) (hm : ∀ s m, p (State.withMem s m) = p s)
    (hs : ∀ (s : State) (x : FMap Bool), p { s with soft := x } = p s)
    (hr : ∀ s line, p (recallLine s line) = p s) (s : State) (pa : Nat) (bs : List Byte) : p (cohWrite s pa bs) = p s := by
  unfold cohWrite softClear
  rw [cohPutBytes_keeps p hm hr, hs]

theorem hcPut_keeps {α : Type} (p : State → α) (hc : ∀ (s : State) (x : FMap Cluster), p { s with clusters := x } = p s)
    (hh : ∀ (s : State) (x : FMap (Moesi × List Byte)) (y : FMap (List Nat)), p { s with hcx := x, l2 := y } = p s)
    (s : State) (who line : Nat) (x : Option (Moesi × List Byte)) : p (hcPut s who line x) = p s := by
  unfold hcPut
  split
  · exact hc s _
  · split <;> exact hh s _ _

theorem recallLine_keeps {α : Type} (p : State → α) (hm : ∀ (s : State) m, p (s.withMem m) = p s)
    (hc : ∀ (s : State) (x : FMap Cluster), p { s with clusters := x } = p s)
    (hh : ∀ (s : State) (x : FMap (Moesi × List Byte)) (y : FMap (List Nat)), p { s with hcx := x, l2 := y } = p s)
    (hs : ∀ (s : State) (m : FMap Bool), p { s with soft := m } = p s)
    (hd : ∀ (s : State) (x : FMap DirEnt), p { s with dirs := x } = p s)
    (ht : ∀ (s : State) (x : List HomeTxn), p { s with homeTxns := x } = p s) (s : State) (line : Nat) :
    p (recallLine s line) = p s := by
  have : ∀ (t : State) (a : FMap DirEnt) (b : List HomeTxn), p { t with dirs := a, homeTxns := b } = p t := by
    intro t a b
    have h1 := ht { t with dirs := a } b
    rw [hd] at h1
    exact h1
  unfold recallLine
  simp only
  rw [this, recall_keeps p hs (fun s w l => hcPut_keeps p hc hh s w l none), hm]

theorem cohWrite_strands (s : State) (pa : Nat) (bs : List Byte) : (cohWrite s pa bs).strands = s.strands :=
  cohWrite_keeps State.strands (fun _ _ => rfl) (fun _ _ => rfl)
    (recallLine_keeps _ (fun _ _ => rfl) (fun _ _ => rfl) (fun _ _ _ => rfl) (fun _ _ => rfl) (fun _ _ => rfl) (fun _ _ => rfl))
    s pa bs
theorem cohWrite_cores (s : State) (pa : Nat) (bs : List Byte) : (cohWrite s pa bs).cores = s.cores :=
  cohWrite_keeps State.cores (fun _ _ => rfl) (fun _ _ => rfl)
    (recallLine_keeps _ (fun _ _ => rfl) (fun _ _ => rfl) (fun _ _ _ => rfl) (fun _ _ => rfl) (fun _ _ => rfl) (fun _ _ => rfl))
    s pa bs
theorem cohWrite_regs (s : State) (pa : Nat) (bs : List Byte) : (cohWrite s pa bs).regs = s.regs :=
  cohWrite_keeps State.regs (fun _ _ => rfl) (fun _ _ => rfl)
    (recallLine_keeps _ (fun _ _ => rfl) (fun _ _ => rfl) (fun _ _ _ => rfl) (fun _ _ => rfl) (fun _ _ => rfl) (fun _ _ => rfl))
    s pa bs
theorem cohWrite_outbox (s : State) (pa : Nat) (bs : List Byte) : (cohWrite s pa bs).outbox = s.outbox :=
  cohWrite_keeps State.outbox (fun _ _ => rfl) (fun _ _ => rfl)
    (recallLine_keeps _ (fun _ _ => rfl) (fun _ _ => rfl) (fun _ _ _ => rfl) (fun _ _ => rfl) (fun _ _ => rfl) (fun _ _ => rfl))
    s pa bs
theorem cohWrite_cycle (s : State) (pa : Nat) (bs : List Byte) : (cohWrite s pa bs).cycle = s.cycle :=
  cohWrite_keeps State.cycle (fun _ _ => rfl) (fun _ _ => rfl)
    (recallLine_keeps _ (fun _ _ => rfl) (fun _ _ => rfl) (fun _ _ _ => rfl) (fun _ _ => rfl) (fun _ _ => rfl) (fun _ _ => rfl))
    s pa bs

theorem frLevels_cons (s : State) (clu : Nat) (h : curLvl s clu < 4) : ∃ rest, frLevels s clu = curLvl s clu :: rest := by
  unfold frLevels
  generalize curLvl s clu = n at h
  match n, h with
  | 0, _ => exact ⟨[1, 2, 3], rfl⟩
  | 1, _ => exact ⟨[2, 3], rfl⟩
  | 2, _ => exact ⟨[3], rfl⟩
  | 3, _ => exact ⟨[], rfl⟩

/-- The present level set, and as storing a packet leaves it. -/
theorem curLvl_regFld (s : State) (clu v : Nat) (h : v < 4) : curLvl (regFld s (offFLTSTAT clu) 1 0 v) clu = v := by
  unfold curLvl
  rw [regGet_regFld, if_pos rfl, fld_putFld _ _ _ _ (by omega) (by omega)]
  exact Nat.mod_eq_of_lt h

theorem curLvl_frStore (s : State) (clu n : Nat) (p : Packet) : curLvl (frStore s clu n p) clu = curLvl s clu := by
  have h0 := cohWrite_regs s (frBase s clu n + 32 * (frTail s clu n % frSize s clu n)) (p.bytes n)
  unfold curLvl frStore
  dsimp only
  generalize cohWrite s (frBase s clu n + 32 * (frTail s clu n % frSize s clu n)) (p.bytes n) = t at h0 ⊢
  have h2 : (unitRelease t).regs = s.regs := h0
  generalize unitRelease t = u at h2 ⊢
  have h3 : regGet (regFld u (offFRPTR clu n) 63 32 (frTail s clu n + 1)) (offFLTSTAT clu) = regGet s (offFLTSTAT clu) := by
    rw [regGet_regFld, if_neg (by unfold offFLTSTAT offFRPTR; omega), regGet_congr h2]
  generalize regFld u (offFRPTR clu n) 63 32 (frTail s clu n + 1) = v at h3 ⊢
  rw [← h3]
  split <;> rfl

theorem frFill_room (s : State) (clu n : Nat) (p : Packet) (h : frUsed s clu n < frSize s clu n) :
    frFill s clu n [p] = (frStore s clu n p, []) := by rw [frFill, if_pos h, frFill]

theorem frDeliver_room (s : State) (clu n : Nat) (rest : List Nat) (p : Packet) (he : frEnabled s clu n = true)
    (h : frUsed (regFld s (offFLTSTAT clu) 1 0 n) clu n < frSize (regFld s (offFLTSTAT clu) 1 0 n) clu n) :
    frDeliver s clu (n :: rest) [p] = (frStore (regFld s (offFLTSTAT clu) 1 0 n) clu n p, false) := by
  rw [frDeliver, frMove]
  simp only [he, if_true, frFill_room _ _ _ _ h]

/-- A freezing packet that the present level has room for is written there and nowhere else. -/
theorem sendFreeze_stored (s : State) (clu : Nat) (p : Packet) (h4 : curLvl s clu < 4) (he : frEnabled s clu (curLvl s clu) = true)
    (hr : frUsed (regFld s (offFLTSTAT clu) 1 0 (curLvl s clu)) clu (curLvl s clu) <
      frSize (regFld s (offFLTSTAT clu) 1 0 (curLvl s clu)) clu (curLvl s clu)) :
    sendFreeze s clu p = frStore (regFld s (offFLTSTAT clu) 1 0 (curLvl s clu)) clu (curLvl s clu) p := by
  obtain ⟨rest, hl⟩ := frLevels_cons s clu h4
  have hd : frDeliver s clu (frLevels s clu) [p] =
      (frStore (regFld s (offFLTSTAT clu) 1 0 (curLvl s clu)) clu (curLvl s clu) p, false) := by rw [hl, frDeliver_room _ _ _ _ _ he hr]
  rw [sendFreeze, frSend, hd]
  rw [if_pos (by rw [curLvl_frStore _ _ _ _, curLvl_regFld _ _ _ h4])]

/-- The present level and the reads of another level's registers are no concern of FLTSTAT's level field. -/
theorem curLvl_lt (s : State) (clu : Nat) : curLvl s clu < 4 := bitsN_lt _ 1 0

theorem frSize_flt (s : State) (clu n v : Nat) (h : n < 4) : frSize (regFld s (offFLTSTAT clu) 1 0 v) clu n = frSize s clu n := by
  unfold frSize
  rw [regGet_regFld, if_neg]
  unfold offFLTSTAT offFRCFG; omega
theorem frTail_flt (s : State) (clu n v : Nat) : frTail (regFld s (offFLTSTAT clu) 1 0 v) clu n = frTail s clu n := by
  unfold frTail
  rw [regGet_regFld, if_neg]
  unfold offFLTSTAT offFRPTR; omega
theorem frHead_flt (s : State) (clu n v : Nat) : frHead (regFld s (offFLTSTAT clu) 1 0 v) clu n = frHead s clu n := by
  unfold frHead
  rw [regGet_regFld, if_neg]
  unfold offFLTSTAT offFRPTR; omega
theorem frBase_flt (s : State) (clu n v : Nat) : frBase (regFld s (offFLTSTAT clu) 1 0 v) clu n = frBase s clu n := by
  unfold frBase
  rw [regGet_regFld, if_neg]
  unfold offFLTSTAT offFRBASE; omega
theorem frUsed_flt (s : State) (clu n v : Nat) : frUsed (regFld s (offFLTSTAT clu) 1 0 v) clu n = frUsed s clu n := by
  unfold frUsed; rw [frTail_flt, frHead_flt]
/-- Taking a fault, spelled out: the strand frozen, the packet stored at the present level. -/
theorem freeze_stored (s : State) (core slot : Nat) (code : BitVec 8) (info : Word)
    (he : frEnabled s (cluOfCore core) (curLvl s (cluOfCore core)) = true)
    (hr : frUsed s (cluOfCore core) (curLvl s (cluOfCore core)) < frSize s (cluOfCore core) (curLvl s (cluOfCore core))) :
    freeze s core slot code info =
      frStore (regFld (s.setStrand core slot { (s.strand core slot).clearPark with
        status := .frozen, cause := code, info := info, stepping := false, haltReq := false })
        (offFLTSTAT (cluOfCore core)) 1 0 (curLvl s (cluOfCore core))) (cluOfCore core) (curLvl s (cluOfCore core))
        { code := code, frozen := true, async := false, cwide := false, core := core, strand := slot,
          tenant := ((s.strand core slot).task.map (·.tenant)).getD 0, aux := 0, pc := (s.strand core slot).pc, info := info,
          ccnt := w64 (ccnt s) } := by
  unfold freeze freezeAux
  rw [sendFreeze_stored]
  · rfl
  · exact curLvl_lt s (cluOfCore core)
  · exact he
  · rw [frUsed_flt, frSize_flt _ _ _ _ (curLvl_lt _ _)]; exact hr

end Sys2Proof.Machine
end

