-- ==== Sys2Proof/Laws/Formats.lean ====
section
/-!
SUPPORT. Laws/Formats.lean: a word of each format is its fields and nothing else: packing and unpacking undo each other.
-/
namespace Sys2Proof

theorem field_above {v w s l : Nat} {hi : BitVec v} {lo : BitVec w} {r : BitVec l} (h : w ≤ s)
    (e : hi.extractLsb' (s - w) l = r) : (hi ++ lo).extractLsb' s l = r := by
  rw [BitVec.extractLsb'_append_eq_of_le h, e]
theorem field_last {v w : Nat} {hi : BitVec v} {lo : BitVec w} : (hi ++ lo).extractLsb' 0 w = lo :=
  BitVec.extractLsb'_append_eq_right
theorem fields_join {n : Nat} (w : BitVec n) {a b m k : Nat} (h : a = b + k) :
    w.extractLsb' a m ++ w.extractLsb' b k = w.extractLsb' b (m + k) :=
  BitVec.extractLsb'_append_extractLsb'_eq_extractLsb' h

theorem FmtS3.unpack_pack (f : FmtS3) : FmtS3.unpack f.pack = f := by
  cases f
  simp only [FmtS3.unpack, FmtS3.pack, FmtS3.mk.injEq]
  exact ⟨field_above (by decide) (field_above (by decide) (field_above (by decide) (field_above (by decide) (field_above (by decide) (field_above (by decide) (field_above (by decide) (field_above (by decide) (field_above (by decide) (BitVec.extractLsb'_eq_self))))))))),
    field_above (by decide) (field_above (by decide) (field_above (by decide) (field_above (by decide) (field_above (by decide) (field_above (by decide) (field_above (by decide) (field_above (by decide) (field_last)))))))),
    field_above (by decide) (field_above (by decide) (field_above (by decide) (field_above (by decide) (field_above (by decide) (field_above (by decide) (field_above (by decide) (field_last))))))),
    field_above (by decide) (field_above (by decide) (field_above (by decide) (field_above (by decide) (field_above (by decide) (field_above (by decide) (field_last)))))),
    field_above (by decide) (field_above (by decide) (field_above (by decide) (field_above (by decide) (field_above (by decide) (field_last))))),
    field_above (by decide) (field_above (by decide) (field_above (by decide) (field_above (by decide) (field_last)))),
    field_above (by decide) (field_above (by decide) (field_above (by decide) (field_last))),
    field_above (by decide) (field_above (by decide) (field_last)),
    field_above (by decide) (field_last),
    field_last⟩

theorem FmtS3.pack_unpack (w : BitVec 64) : (FmtS3.unpack w).pack = w := by
  simp only [FmtS3.unpack, FmtS3.pack]
  rw [fields_join w (by decide), fields_join w (by decide), fields_join w (by decide), fields_join w (by decide), fields_join w (by decide), fields_join w (by decide), fields_join w (by decide), fields_join w (by decide), fields_join w (by decide)]
  exact BitVec.extractLsb'_eq_self

/-- OPC of a packed word. -/
theorem FmtS3.opc_pack (f : FmtS3) : f.pack.extractLsb' 56 8 = f.opc :=
  congrArg FmtS3.opc f.unpack_pack

theorem FmtSI.unpack_pack (f : FmtSI) : FmtSI.unpack f.pack = f := by
  cases f
  simp only [FmtSI.unpack, FmtSI.pack, FmtSI.mk.injEq]
  exact ⟨field_above (by decide) (field_above (by decide) (field_above (by decide) (field_above (by decide) (field_above (by decide) (field_above (by decide) (field_above (by decide) (BitVec.extractLsb'_eq_self))))))),
    field_above (by decide) (field_above (by decide) (field_above (by decide) (field_above (by decide) (field_above (by decide) (field_above (by decide) (field_last)))))),
    field_above (by decide) (field_above (by decide) (field_above (by decide) (field_above (by decide) (field_above (by decide) (field_last))))),
    field_above (by decide) (field_above (by decide) (field_above (by decide) (field_above (by decide) (field_last)))),
    field_above (by decide) (field_above (by decide) (field_above (by decide) (field_last))),
    field_above (by decide) (field_above (by decide) (field_last)),
    field_above (by decide) (field_last),
    field_last⟩

theorem FmtSI.pack_unpack (w : BitVec 64) : (FmtSI.unpack w).pack = w := by
  simp only [FmtSI.unpack, FmtSI.pack]
  rw [fields_join w (by decide), fields_join w (by decide), fields_join w (by decide), fields_join w (by decide), fields_join w (by decide), fields_join w (by decide), fields_join w (by decide)]
  exact BitVec.extractLsb'_eq_self

/-- OPC of a packed word. -/
theorem FmtSI.opc_pack (f : FmtSI) : f.pack.extractLsb' 56 8 = f.opc :=
  congrArg FmtSI.opc f.unpack_pack

theorem FmtB.unpack_pack (f : FmtB) : FmtB.unpack f.pack = f := by
  cases f
  simp only [FmtB.unpack, FmtB.pack, FmtB.mk.injEq]
  exact ⟨field_above (by decide) (field_above (by decide) (field_above (by decide) (field_above (by decide) (field_above (by decide) (BitVec.extractLsb'_eq_self))))),
    field_above (by decide) (field_above (by decide) (field_above (by decide) (field_above (by decide) (field_last)))),
    field_above (by decide) (field_above (by decide) (field_above (by decide) (field_last))),
    field_above (by decide) (field_above (by decide) (field_last)),
    field_above (by decide) (field_last),
    field_last⟩

theorem FmtB.pack_unpack (w : BitVec 64) : (FmtB.unpack w).pack = w := by
  simp only [FmtB.unpack, FmtB.pack]
  rw [fields_join w (by decide), fields_join w (by decide), fields_join w (by decide), fields_join w (by decide), fields_join w (by decide)]
  exact BitVec.extractLsb'_eq_self

/-- OPC of a packed word. -/
theorem FmtB.opc_pack (f : FmtB) : f.pack.extractLsb' 56 8 = f.opc :=
  congrArg FmtB.opc f.unpack_pack

theorem FmtV3.unpack_pack (f : FmtV3) : FmtV3.unpack f.pack = f := by
  cases f
  simp only [FmtV3.unpack, FmtV3.pack, FmtV3.mk.injEq]
  exact ⟨field_above (by decide) (field_above (by decide) (field_above (by decide) (field_above (by decide) (field_above (by decide) (field_above (by decide) (field_above (by decide) (field_above (by decide) (field_above (by decide) (BitVec.extractLsb'_eq_self))))))))),
    field_above (by decide) (field_above (by decide) (field_above (by decide) (field_above (by decide) (field_above (by decide) (field_above (by decide) (field_above (by decide) (field_above (by decide) (field_last)))))))),
    field_above (by decide) (field_above (by decide) (field_above (by decide) (field_above (by decide) (field_above (by decide) (field_above (by decide) (field_above (by decide) (field_last))))))),
    field_above (by decide) (field_above (by decide) (field_above (by decide) (field_above (by decide) (field_above (by decide) (field_above (by decide) (field_last)))))),
    field_above (by decide) (field_above (by decide) (field_above (by decide) (field_above (by decide) (field_above (by decide) (field_last))))),
    field_above (by decide) (field_above (by decide) (field_above (by decide) (field_above (by decide) (field_last)))),
    field_above (by decide) (field_above (by decide) (field_above (by decide) (field_last))),
    field_above (by decide) (field_above (by decide) (field_last)),
    field_above (by decide) (field_last),
    field_last⟩

theorem FmtV3.pack_unpack (w : BitVec 64) : (FmtV3.unpack w).pack = w := by
  simp only [FmtV3.unpack, FmtV3.pack]
  rw [fields_join w (by decide), fields_join w (by decide), fields_join w (by decide), fields_join w (by decide), fields_join w (by decide), fields_join w (by decide), fields_join w (by decide), fields_join w (by decide), fields_join w (by decide)]
  exact BitVec.extractLsb'_eq_self

/-- OPC of a packed word. -/
theorem FmtV3.opc_pack (f : FmtV3) : f.pack.extractLsb' 56 8 = f.opc :=
  congrArg FmtV3.opc f.unpack_pack

theorem FmtVM.unpack_pack (f : FmtVM) : FmtVM.unpack f.pack = f := by
  cases f
  simp only [FmtVM.unpack, FmtVM.pack, FmtVM.mk.injEq]
  exact ⟨field_above (by decide) (field_above (by decide) (field_above (by decide) (field_above (by decide) (field_above (by decide) (field_above (by decide) (field_above (by decide) (field_above (by decide) (field_above (by decide) (field_above (by decide) (field_above (by decide) (field_above (by decide) (BitVec.extractLsb'_eq_self)))))))))))),
    field_above (by decide) (field_above (by decide) (field_above (by decide) (field_above (by decide) (field_above (by decide) (field_above (by decide) (field_above (by decide) (field_above (by decide) (field_above (by decide) (field_above (by decide) (field_above (by decide) (field_last))))))))))),
    field_above (by decide) (field_above (by decide) (field_above (by decide) (field_above (by decide) (field_above (by decide) (field_above (by decide) (field_above (by decide) (field_above (by decide) (field_above (by decide) (field_above (by decide) (field_last)))))))))),
    field_above (by decide) (field_above (by decide) (field_above (by decide) (field_above (by decide) (field_above (by decide) (field_above (by decide) (field_above (by decide) (field_above (by decide) (field_above (by decide) (field_last))))))))),
    field_above (by decide) (field_above (by decide) (field_above (by decide) (field_above (by decide) (field_above (by decide) (field_above (by decide) (field_above (by decide) (field_above (by decide) (field_last)))))))),
    field_above (by decide) (field_above (by decide) (field_above (by decide) (field_above (by decide) (field_above (by decide) (field_above (by decide) (field_above (by decide) (field_last))))))),
    field_above (by decide) (field_above (by decide) (field_above (by decide) (field_above (by decide) (field_above (by decide) (field_above (by decide) (field_last)))))),
    field_above (by decide) (field_above (by decide) (field_above (by decide) (field_above (by decide) (field_above (by decide) (field_last))))),
    field_above (by decide) (field_above (by decide) (field_above (by decide) (field_above (by decide) (field_last)))),
    field_above (by decide) (field_above (by decide) (field_above (by decide) (field_last))),
    field_above (by decide) (field_above (by decide) (field_last)),
    field_above (by decide) (field_last),
    field_last⟩

theorem FmtVM.pack_unpack (w : BitVec 64) : (FmtVM.unpack w).pack = w := by
  simp only [FmtVM.unpack, FmtVM.pack]
  rw [fields_join w (by decide), fields_join w (by decide), fields_join w (by decide), fields_join w (by decide), fields_join w (by decide), fields_join w (by decide), fields_join w (by decide), fields_join w (by decide), fields_join w (by decide), fields_join w (by decide), fields_join w (by decide), fields_join w (by decide)]
  exact BitVec.extractLsb'_eq_self

/-- OPC of a packed word. -/
theorem FmtVM.opc_pack (f : FmtVM) : f.pack.extractLsb' 56 8 = f.opc :=
  congrArg FmtVM.opc f.unpack_pack

theorem FmtM.unpack_pack (f : FmtM) : FmtM.unpack f.pack = f := by
  cases f
  simp only [FmtM.unpack, FmtM.pack, FmtM.mk.injEq]
  exact ⟨field_above (by decide) (field_above (by decide) (field_above (by decide) (field_above (by decide) (field_above (by decide) (field_above (by decide) (field_above (by decide) (field_above (by decide) (field_above (by decide) (field_above (by decide) (field_above (by decide) (field_above (by decide) (BitVec.extractLsb'_eq_self)))))))))))),
    field_above (by decide) (field_above (by decide) (field_above (by decide) (field_above (by decide) (field_above (by decide) (field_above (by decide) (field_above (by decide) (field_above (by decide) (field_above (by decide) (field_above (by decide) (field_above (by decide) (field_last))))))))))),
    field_above (by decide) (field_above (by decide) (field_above (by decide) (field_above (by decide) (field_above (by decide) (field_above (by decide) (field_above (by decide) (field_above (by decide) (field_above (by decide) (field_above (by decide) (field_last)))))))))),
    field_above (by decide) (field_above (by decide) (field_above (by decide) (field_above (by decide) (field_above (by decide) (field_above (by decide) (field_above (by decide) (field_above (by decide) (field_above (by decide) (field_last))))))))),
    field_above (by decide) (field_above (by decide) (field_above (by decide) (field_above (by decide) (field_above (by decide) (field_above (by decide) (field_above (by decide) (field_above (by decide) (field_last)))))))),
    field_above (by decide) (field_above (by decide) (field_above (by decide) (field_above (by decide) (field_above (by decide) (field_above (by decide) (field_above (by decide) (field_last))))))),
    field_above (by decide) (field_above (by decide) (field_above (by decide) (field_above (by decide) (field_above (by decide) (field_above (by decide) (field_last)))))),
    field_above (by decide) (field_above (by decide) (field_above (by decide) (field_above (by decide) (field_above (by decide) (field_last))))),
    field_above (by decide) (field_above (by decide) (field_above (by decide) (field_above (by decide) (field_last)))),
    field_above (by decide) (field_above (by decide) (field_above (by decide) (field_last))),
    field_above (by decide) (field_above (by decide) (field_last)),
    field_above (by decide) (field_last),
    field_last⟩

theorem FmtM.pack_unpack (w : BitVec 64) : (FmtM.unpack w).pack = w := by
  simp only [FmtM.unpack, FmtM.pack]
  rw [fields_join w (by decide), fields_join w (by decide), fields_join w (by decide), fields_join w (by decide), fields_join w (by decide), fields_join w (by decide), fields_join w (by decide), fields_join w (by decide), fields_join w (by decide), fields_join w (by decide), fields_join w (by decide), fields_join w (by decide)]
  exact BitVec.extractLsb'_eq_self

/-- OPC of a packed word. -/
theorem FmtM.opc_pack (f : FmtM) : f.pack.extractLsb' 56 8 = f.opc :=
  congrArg FmtM.opc f.unpack_pack

theorem FmtE.unpack_pack (f : FmtE) : FmtE.unpack f.pack = f := by
  cases f
  simp only [FmtE.unpack, FmtE.pack, FmtE.mk.injEq]
  exact ⟨field_above (by decide) (field_above (by decide) (field_above (by decide) (field_above (by decide) (field_above (by decide) (field_above (by decide) (field_above (by decide) (field_above (by decide) (field_above (by decide) (field_above (by decide) (field_above (by decide) (field_above (by decide) (BitVec.extractLsb'_eq_self)))))))))))),
    field_above (by decide) (field_above (by decide) (field_above (by decide) (field_above (by decide) (field_above (by decide) (field_above (by decide) (field_above (by decide) (field_above (by decide) (field_above (by decide) (field_above (by decide) (field_above (by decide) (field_last))))))))))),
    field_above (by decide) (field_above (by decide) (field_above (by decide) (field_above (by decide) (field_above (by decide) (field_above (by decide) (field_above (by decide) (field_above (by decide) (field_above (by decide) (field_above (by decide) (field_last)))))))))),
    field_above (by decide) (field_above (by decide) (field_above (by decide) (field_above (by decide) (field_above (by decide) (field_above (by decide) (field_above (by decide) (field_above (by decide) (field_above (by decide) (field_last))))))))),
    field_above (by decide) (field_above (by decide) (field_above (by decide) (field_above (by decide) (field_above (by decide) (field_above (by decide) (field_above (by decide) (field_above (by decide) (field_last)))))))),
    field_above (by decide) (field_above (by decide) (field_above (by decide) (field_above (by decide) (field_above (by decide) (field_above (by decide) (field_above (by decide) (field_last))))))),
    field_above (by decide) (field_above (by decide) (field_above (by decide) (field_above (by decide) (field_above (by decide) (field_above (by decide) (field_last)))))),
    field_above (by decide) (field_above (by decide) (field_above (by decide) (field_above (by decide) (field_above (by decide) (field_last))))),
    field_above (by decide) (field_above (by decide) (field_above (by decide) (field_above (by decide) (field_last)))),
    field_above (by decide) (field_above (by decide) (field_above (by decide) (field_last))),
    field_above (by decide) (field_above (by decide) (field_last)),
    field_above (by decide) (field_last),
    field_last⟩

theorem FmtE.pack_unpack (w : BitVec 64) : (FmtE.unpack w).pack = w := by
  simp only [FmtE.unpack, FmtE.pack]
  rw [fields_join w (by decide), fields_join w (by decide), fields_join w (by decide), fields_join w (by decide), fields_join w (by decide), fields_join w (by decide), fields_join w (by decide), fields_join w (by decide), fields_join w (by decide), fields_join w (by decide), fields_join w (by decide), fields_join w (by decide)]
  exact BitVec.extractLsb'_eq_self

/-- OPC of a packed word. -/
theorem FmtE.opc_pack (f : FmtE) : f.pack.extractLsb' 56 8 = f.opc :=
  congrArg FmtE.opc f.unpack_pack

theorem FmtX.unpack_pack (f : FmtX) : FmtX.unpack f.pack = f := by
  cases f
  simp only [FmtX.unpack, FmtX.pack, FmtX.mk.injEq]
  exact ⟨field_above (by decide) (field_above (by decide) (field_above (by decide) (field_above (by decide) (field_above (by decide) (field_above (by decide) (field_above (by decide) (field_above (by decide) (field_above (by decide) (field_above (by decide) (BitVec.extractLsb'_eq_self)))))))))),
    field_above (by decide) (field_above (by decide) (field_above (by decide) (field_above (by decide) (field_above (by decide) (field_above (by decide) (field_above (by decide) (field_above (by decide) (field_above (by decide) (field_last))))))))),
    field_above (by decide) (field_above (by decide) (field_above (by decide) (field_above (by decide) (field_above (by decide) (field_above (by decide) (field_above (by decide) (field_above (by decide) (field_last)))))))),
    field_above (by decide) (field_above (by decide) (field_above (by decide) (field_above (by decide) (field_above (by decide) (field_above (by decide) (field_above (by decide) (field_last))))))),
    field_above (by decide) (field_above (by decide) (field_above (by decide) (field_above (by decide) (field_above (by decide) (field_above (by decide) (field_last)))))),
    field_above (by decide) (field_above (by decide) (field_above (by decide) (field_above (by decide) (field_above (by decide) (field_last))))),
    field_above (by decide) (field_above (by decide) (field_above (by decide) (field_above (by decide) (field_last)))),
    field_above (by decide) (field_above (by decide) (field_above (by decide) (field_last))),
    field_above (by decide) (field_above (by decide) (field_last)),
    field_above (by decide) (field_last),
    field_last⟩

theorem FmtX.pack_unpack (w : BitVec 64) : (FmtX.unpack w).pack = w := by
  simp only [FmtX.unpack, FmtX.pack]
  rw [fields_join w (by decide), fields_join w (by decide), fields_join w (by decide), fields_join w (by decide), fields_join w (by decide), fields_join w (by decide), fields_join w (by decide), fields_join w (by decide), fields_join w (by decide), fields_join w (by decide)]
  exact BitVec.extractLsb'_eq_self

/-- OPC of a packed word. -/
theorem FmtX.opc_pack (f : FmtX) : f.pack.extractLsb' 56 8 = f.opc :=
  congrArg FmtX.opc f.unpack_pack

theorem FmtR.unpack_pack (f : FmtR) : FmtR.unpack f.pack = f := by
  cases f
  simp only [FmtR.unpack, FmtR.pack, FmtR.mk.injEq]
  exact ⟨field_above (by decide) (field_above (by decide) (field_above (by decide) (field_above (by decide) (field_above (by decide) (field_above (by decide) (BitVec.extractLsb'_eq_self)))))),
    field_above (by decide) (field_above (by decide) (field_above (by decide) (field_above (by decide) (field_above (by decide) (field_last))))),
    field_above (by decide) (field_above (by decide) (field_above (by decide) (field_above (by decide) (field_last)))),
    field_above (by decide) (field_above (by decide) (field_above (by decide) (field_last))),
    field_above (by decide) (field_above (by decide) (field_last)),
    field_above (by decide) (field_last),
    field_last⟩

theorem FmtR.pack_unpack (w : BitVec 32) : (FmtR.unpack w).pack = w := by
  simp only [FmtR.unpack, FmtR.pack]
  rw [fields_join w (by decide), fields_join w (by decide), fields_join w (by decide), fields_join w (by decide), fields_join w (by decide), fields_join w (by decide)]
  exact BitVec.extractLsb'_eq_self

end Sys2Proof
end

