-- ==== Sys2Proof/Laws/MemOk.lean ====
section
/-!
SUPPORT. Laws/MemOk.lean: every operation that writes memory keeps its canonical form (Machine/Sparse.lean). Nothing else
in the model writes the field `mem`.
-/
namespace Sys2Proof.Machine

theorem fsorted_filter {α : Type} (p : Nat × α → Bool) (m : FMap α) (h : fsorted m = true) : fsorted (m.filter p) = true := by
  induction m with
  | nil => rfl
  | cons e t ih =>
    rw [fsorted_cons] at h
    rw [List.filter_cons]
    split
    · rw [fsorted_cons]
      exact ⟨fun f hf => h.1 f ((List.mem_filter.mp hf).1), ih h.2⟩
    · exact ih h.2

/-- Dropping listed bytes keeps the canonical form. -/
theorem wf_filter (p : Host.Cell → Bool) (m : Memory) (h : Memory.wf m = true) : Memory.wf (m.filter p) = true := by
  unfold Memory.wf at *
  simp only [Bool.and_eq_true, List.all_eq_true] at *
  exact ⟨fsorted_filter p m h.1, fun c hc => h.2 c (List.mem_filter.mp hc).1⟩

/-- Writing optional bytes keeps the canonical form. -/
theorem wf_putOpt (m : Memory) (a : Nat) (bs : List (Option Byte)) (h : Memory.wf m = true) :
    Memory.wf (homePut.putOpt m a bs) = true := by
  induction bs generalizing m a with
  | nil => exact h
  | cons b t ih =>
    cases b with
    | none => exact ih _ _ h
    | some b => exact ih _ _ (wf_writeByte _ _ _ h)

/-- A state whose memory is another's is in the canonical form with it. -/
theorem memOk_of_eq {s t : State} (h : s.MemOk) (e : t.mem = s.mem) : t.MemOk := by
  unfold State.MemOk at *; rw [e]; exact h

/-- A step of a fold that keeps the canonical form keeps it over the whole list. -/
theorem foldl_memOk {α : Type} (f : State → α → State) (h : ∀ s a, s.MemOk → (f s a).MemOk) (l : List α) (s : State)
    (hs : s.MemOk) : (l.foldl f s).MemOk := by
  induction l generalizing s with
  | nil => exact hs
  | cons a l ih => exact ih _ (h s a hs)

theorem reset_memOk : State.reset.MemOk := rfl

theorem memPut_memOk (s : State) (key : Nat) (bs : List Byte) (h : s.MemOk) : (memPut s key bs).MemOk :=
  wf_writeBytes _ _ _ h
theorem memZero_memOk (s : State) (key n : Nat) (h : s.MemOk) : (memZero s key n).MemOk := wf_filter _ _ h
theorem softClear_memOk (s : State) (key n : Nat) (h : s.MemOk) : (softClear s key n).MemOk := h
theorem feSet_memOk (s : State) (w : Nat) (b : Bool) (h : s.MemOk) : (feSet s w b).MemOk := h
theorem feRange_memOk (s : State) (w : Nat) (b : Bool) (n : Nat) (h : s.MemOk) : (feRange s w b n).MemOk := by
  induction n generalizing s w with
  | zero => exact h
  | succ n ih => exact ih _ _ (feSet_memOk _ _ _ h)
theorem recallLine_memOk (s : State) (line : Nat) (h : s.MemOk) : (recallLine s line).MemOk := by
  unfold State.MemOk; rw [recallLine_mem]; exact wf_writeBytes _ _ _ h
theorem hcPut_memOk (s : State) (who line : Nat) (x : Option (Moesi × List Byte)) (h : s.MemOk) : (hcPut s who line x).MemOk :=
  memOk_of_eq h (hcPut_mem s who line x)

theorem cohPutByte_memOk (s : State) (pa : Nat) (b : Byte) (h : s.MemOk) : (cohPutByte s pa b).MemOk := by
  unfold cohPutByte
  split
  · exact h
  · refine wf_writeByte _ _ _ ?_
    split
    · exact recallLine_memOk _ _ h
    · exact h
theorem cohPutBytes_memOk (s : State) (pa : Nat) (bs : List Byte) (h : s.MemOk) : (cohPutBytes s pa bs).MemOk := by
  induction bs generalizing s pa with
  | nil => exact h
  | cons b t ih => exact ih _ _ (cohPutByte_memOk _ _ _ h)
theorem cohWrite_memOk (s : State) (pa : Nat) (bs : List Byte) (h : s.MemOk) : (cohWrite s pa bs).MemOk :=
  cohPutBytes_memOk _ _ _ (softClear_memOk _ _ _ h)
theorem cohPutNat_memOk (s : State) (pa n v : Nat) (h : s.MemOk) : (cohPutNat s pa n v).MemOk := cohWrite_memOk _ _ _ h
theorem cohPutOpt_memOk (s : State) (pa : Nat) (bs : List (Option Byte)) (h : s.MemOk) : (cohPutOpt s pa bs).MemOk := by
  induction bs generalizing s pa with
  | nil => exact h
  | cons b t ih =>
    cases b with
    | none => exact ih _ _ h
    | some b => exact ih _ _ (cohPutByte_memOk _ _ _ h)

theorem countConflict_mem (s : State) (line : Nat) : (countConflict s line).mem = s.mem := by
  simp only [countConflict, regFld]; split <;> simp only [State.send_mem, regPut_mem]
theorem untrack_memOk (s : State) (line : Nat) (h : s.MemOk) : (untrack s line).MemOk := by
  unfold untrack
  split
  · exact memOk_of_eq (recallLine_memOk _ _ h) (countConflict_mem _ _)
  · exact h
theorem homePut_memOk (s : State) (pa : Nat) (bs : List (Option Byte)) (h : s.MemOk) : (homePut s pa bs).MemOk := by
  unfold homePut
  split
  · exact h
  · refine wf_putOpt _ _ _ ?_
    have := untrack_memOk s (lineOf pa) h
    split
    · exact this
    · exact this
theorem cpWriteBack_memOk (s : State) (line : Nat) (l : CLine) (h : s.MemOk) : (cpWriteBack s line l).MemOk := by
  unfold cpWriteBack
  split
  · exact h
  · exact homePut_memOk _ _ _ h
theorem memPutOpt_memOk (s : State) (key : Nat) (bs : List (Option Byte)) (h : s.MemOk) : (memPutOpt s key bs).MemOk := by
  unfold memPutOpt
  refine wf_putOpt _ _ _ ?_
  split
  · exact h
  · exact h
theorem homePutAll_memOk (s : State) (pa : Nat) (bs : List (Option Byte)) (h : s.MemOk) : (writeAt.homePutAll s pa bs).MemOk := by
  unfold writeAt.homePutAll
  refine foldl_memOk _ (fun s i hs => ?_) _ _ h
  generalize (if i = 0 then 0 else 128 * i - pa % 128) = lo
  dsimp only
  split
  · exact hs
  · exact homePut_memOk _ _ _ hs
theorem writeAt_memOk (s : State) (p : Place) (bs : List (Option Byte)) (h : s.MemOk) : (writeAt s p bs).MemOk := by
  unfold writeAt
  split
  · exact memPutOpt_memOk _ _ _ h
  · split
    · exact cohPutOpt_memOk _ _ _ h
    · exact homePutAll_memOk _ _ _ h
  · exact h

/-! ### Accesses and posted writes -/

theorem softLeave_memOk (s : State) (who attr line : Nat) (back : Bool) (h : s.MemOk) : (softLeave s who attr line back).MemOk :=
  memOk_of_eq h (softLeave_keeps State.mem (fun _ _ => rfl) s who attr line back)
theorem dropHc_memOk (s : State) (who line : Nat) (h : s.MemOk) : (dropHc s who line).MemOk := by
  unfold dropHc
  split
  · exact h
  · rename_i st data _
    dsimp only
    generalize hu : (if st.dirty = true then s.withMem (writeBytes s.mem (128 * line) data) else s) = u
    have h1 : u.MemOk := by
      subst hu
      split
      · exact wf_writeBytes _ _ _ h
      · exact h
    have h2 := softLeave_memOk _ who 0 line st.dirty (hcPut_memOk _ who line none h1)
    generalize softLeave (hcPut u who line none) who 0 line st.dirty = t at h2 ⊢
    split <;> exact h2
theorem dropLine_memOk (s : State) (who key : Nat) (h : s.MemOk) : (dropLine s who key).MemOk := by
  unfold dropLine
  split
  · exact dropHc_memOk _ _ _ h
  · split
    · split
      · exact dropHc_memOk _ _ _ h
      · refine softLeave_memOk _ _ _ _ _ ?_
        split
        · exact cpWriteBack_memOk _ _ _ h
        · exact h
    · exact h
/-- Making room for a line keeps the canonical form. -/
theorem roomIn_memOk (s : State) (who key : Nat) (h : s.MemOk) : (roomIn s who key).MemOk := by
  unfold roomIn
  generalize (if who < 192 then _ else _ : List Nat) = keys
  generalize (if who < 192 then cluLines else sysLines) = n
  dsimp only
  split
  · exact h
  · exact dropLine_memOk _ _ _ h
theorem setCluLine_memOk (s : State) (clu attr line : Nat) (l : CLine) (h : s.MemOk) : (setCluLine s clu attr line l).MemOk :=
  roomIn_memOk _ _ _ h
theorem cpFill_memOk (s : State) (clu line : Nat) (h : s.MemOk) : (cpFill s clu line).2.MemOk := by
  unfold cpFill
  split
  · exact h
  · exact setCluLine_memOk _ _ _ _ _ h
theorem cpWrite_memOk (s : State) (clu pa : Nat) (bs : List (Option Byte)) (h : s.MemOk) : (cpWrite s clu pa bs).MemOk :=
  setCluLine_memOk _ _ _ _ _ (cpFill_memOk _ _ _ h)
theorem addHomeReq_mem (s : State) (line : Nat) (who : Participant) (k : HomeReqKind) : (addHomeReq s line who k).mem = s.mem := by
  unfold addHomeReq; simp only []; split <;> rfl
theorem noteVis_mem (s : State) (core slot t : Nat) : (noteVis s core slot t).mem = s.mem := by
  unfold noteVis; split <;> rfl

theorem scUpdate_memOk (s : State) (clu pa : Nat) (bs : List (Option Byte)) (h : s.MemOk) : (scUpdate s clu pa bs).MemOk := by
  unfold scUpdate
  split
  · exact setCluLine_memOk _ _ _ _ _ h
  · exact h
theorem noteVis_memOk (s : State) (core slot t : Nat) (h : s.MemOk) : (noteVis s core slot t).MemOk :=
  memOk_of_eq h (noteVis_mem _ _ _ _)

/-- A read-modify-write keeps the canonical form. -/
theorem rmwAt_memOk (s : State) (p : Place) (n : Nat) (f : Nat → Option Nat) (h : s.MemOk) : (rmwAt s p n f).1.MemOk := by
  unfold rmwAt
  split
  · split
    · exact h
    · dsimp only
      split
      · exact memPut_memOk _ _ _ h
      · exact h
  · split
    · exact h
    · split
      · have hf := fun l => cpFill_memOk s s.cluId l h
        dsimp only
        split
        · exact cpWrite_memOk _ _ _ _ (hf _)
        · exact hf _
      · split
        · exact h
        · dsimp only
          split
          · exact h
          · refine noteVis_memOk _ _ _ _ ?_
            split
            · exact memPut_memOk _ _ _ (recallLine_memOk _ _ h)
            · exact scUpdate_memOk _ _ _ _ (memPut_memOk _ _ _ (untrack_memOk _ _ h))
  · exact h

/-- Storing to near memory keeps the canonical form. -/
theorem nearPut_memOk (s : State) (ps : List Piece) (data : List Byte) (h : s.MemOk) : (nearPut s ps data).MemOk := by
  refine foldl_memOk _ (fun s p hs => ?_) _ _ h
  split
  · exact memPut_memOk _ _ _ hs
  · exact hs

theorem forgetLine_mem (s : State) (core slot line : Nat) : (forgetLine s core slot line).mem = s.mem := by
  unfold forgetLine; split <;> rfl

/-- A posted write that is performed keeps the canonical form. -/
theorem doPosted_memOk (s : State) (p : Posted) (h : s.MemOk) : (doPosted s p).1.MemOk := by
  unfold doPosted
  split
  · exact h
  · exact memPutOpt_memOk _ _ _ h
  · simp only []
    exact scUpdate_memOk _ _ _ _ (homePut_memOk _ _ _ (untrack_memOk _ (lineOf p.key) h))
  · exact cpWrite_memOk _ _ _ _ (cpFill_memOk _ _ _ h)
  · split
    · split
      · split
        · exact hcPut_memOk _ _ _ _ (memOk_of_eq h (forgetLine_mem _ _ _ _))
        · exact memOk_of_eq h (addHomeReq_mem _ _ _ _)
      · exact memOk_of_eq h (addHomeReq_mem _ _ _ _)
    · split
      · exact h
      · exact memPutOpt_memOk _ _ _ (recallLine_memOk _ _ (memOk_of_eq h (forgetLine_mem _ _ _ _)))

theorem eccAt_mem (s : State) (o : Nat) (u : Bool) : (eccAt s o u).mem = s.mem := by
  unfold eccAt
  simp only []
  split
  · rfl
  · split <;> rfl
theorem scanAt_mem (s : State) (o : Nat) (ws : List Nat) : (scanAt s o ws).1.mem = s.mem := by
  induction ws generalizing s with
  | nil => rfl
  | cons w ws ih =>
    rw [scanAt]
    split
    · exact ih _
    · rw [ih, eccAt_mem]
    · exact eccAt_mem _ _ _

theorem performPosted_memOk (s : State) (p : Posted) (h : s.MemOk) : (performPosted s p).1.MemOk := by
  unfold performPosted
  split
  · exact doPosted_memOk _ _ h
  · have h1 : (doPosted (eccScan s p.clu [p.word s]).1 p).1.MemOk :=
      doPosted_memOk _ p (memOk_of_eq h (scanAt_mem s (offECCCNT p.clu) [p.word s]))
    dsimp only
    split
    · rename_i s' he
      rw [he] at h1
      dsimp only
      split <;> exact h1
    · exact h

/-! ### Other writers -/

/-- A packet stored in a ring keeps the canonical form. -/
theorem frStore_memOk (s : State) (clu n : Nat) (p : Packet) (h : s.MemOk) : (frStore s clu n p).MemOk := by
  have := cohWrite_memOk s (frBase s clu n + 32 * (frTail s clu n % frSize s clu n)) (p.bytes n) h
  refine memOk_of_eq this ?_
  unfold frStore
  dsimp only
  generalize cohWrite s (frBase s clu n + 32 * (frTail s clu n % frSize s clu n)) (p.bytes n) = t
  rw [State.send_mem]
  split <;> rfl
theorem noticeFull_memOk (s : State) (clu : Nat) (p : Packet) (h : s.MemOk) : (noticeFull s clu p).MemOk := by
  unfold noticeFull; split <;> exact h
theorem frFill_memOk (s : State) (clu n : Nat) (ps : List Packet) (h : s.MemOk) : (frFill s clu n ps).1.MemOk := by
  induction ps generalizing s with
  | nil => exact h
  | cons p ps ih =>
    rw [frFill]
    split
    · exact ih _ (frStore_memOk _ _ _ _ h)
    · split
      · exact h
      · exact ih _ (noticeFull_memOk _ _ _ h)
theorem frStuck_memOk (s : State) (clu : Nat) (new ps : List Packet) (h : s.MemOk) : (frStuck s clu new ps).1.MemOk := by
  refine foldl_memOk _ (fun s p hs => ?_) _ _ h
  split
  · exact hs
  · exact noticeFull_memOk _ _ _ hs
theorem frMove_memOk (s : State) (clu : Nat) (new : List Packet) (ls : List Nat) (ps : List Packet) (h : s.MemOk) :
    (frMove s clu new ls ps).1.MemOk := by
  induction ls generalizing s ps with
  | nil => exact frStuck_memOk _ _ _ _ h
  | cons n rest ih =>
    rw [frMove]
    dsimp only
    split
    · have h1 := frFill_memOk (regFld s (offFLTSTAT clu) 1 0 n) clu n ps h
      split <;> rename_i e <;> rw [e] at h1
      · exact h1
      · split
        · exact ih _ _ h1
        · exact frStuck_memOk _ _ _ _ h1
    · split
      · exact ih _ _ h
      · exact frStuck_memOk _ _ _ _ h
theorem heldFlush_memOk (n : Nat) (s : State) (clu : Nat) (h : s.MemOk) : (heldFlush n s clu).MemOk := by
  induction n generalizing s with
  | zero => exact h
  | succ n ih =>
    rw [heldFlush]
    split
    · split
      · exact ih _ (frStore_memOk _ _ _ _ h)
      · exact h
    · exact h
theorem frSend_memOk (s : State) (clu : Nat) (ps : List Packet) (h : s.MemOk) : (frSend s clu ps).1.MemOk := by
  have h1 : (frDeliver s clu (frLevels s clu) ps).1.MemOk := frMove_memOk _ _ _ _ _ h
  unfold frSend
  dsimp only
  split
  · exact h1
  · exact heldFlush_memOk _ _ _ h1
/-- A notice keeps the canonical form. -/
theorem notice_memOk (s : State) (clu : Nat) (p : Packet) (h : s.MemOk) : (notice s clu p).MemOk := by
  unfold notice
  split
  · exact frSend_memOk _ _ _ h
  · exact h
/-- Completing an instruction keeps the canonical form. -/
theorem retire_memOk (s : State) (core slot : Nat) (h : s.MemOk) : (retire s core slot).MemOk := by
  unfold retire retireTo boundary haltNotice
  simp only []
  split
  · exact notice_memOk _ _ _ h
  · exact h
theorem feData_memOk (s : State) (core slot : Nat) (f : FeForm) (sd : SReg) (word : Nat) (h : s.MemOk) :
    (feData s core slot f sd word).MemOk := by
  cases f <;> first | exact h | exact memPut_memOk _ _ _ h
/-- A range of local memory set to zero keeps the canonical form. -/
theorem zeroRange_memOk (s : State) (key n : Nat) (h : s.MemOk) : (zeroRange s key n).MemOk :=
  feRange_memOk _ _ _ _ (memZero_memOk _ _ _ (softClear_memOk _ _ _ h))

theorem scrPut_memOk (s : State) (core o : Nat) (bs : List Byte) (h : s.MemOk) : (scrPut s core o bs).MemOk :=
  memPut_memOk _ _ _ h
theorem rqPuts_memOk (s : State) (r : Nat) (l : List (Nat × Nat)) (h : s.MemOk) : (rqPuts s r l).MemOk := by
  induction l generalizing s with
  | nil => exact h
  | cons e t ih => exact ih _ (cohPutNat_memOk _ _ _ _ h)

/-- The flush of a page keeps the canonical form. -/
theorem flushPage_memOk (s : State) (pa size : Nat) (h : s.MemOk) : (flushPage s pa size).MemOk := by
  have h1 : ∀ (l : List Nat) (s : State), s.MemOk → (l.foldl (fun s l => if tracked s l then recallLine s l else s) s).MemOk :=
    fun l s hs => foldl_memOk _ (fun s l hs => by
      split
      · exact recallLine_memOk _ _ hs
      · exact hs) l s hs
  unfold flushPage
  simp only []
  refine memOk_of_eq (s := _) ?_ rfl
  refine foldl_memOk _ (fun s c hs => foldl_memOk _ (fun s e hs => ?_) _ _ hs) _ _ (h1 _ _ h)
  split
  · exact cpWriteBack_memOk _ _ _ hs
  · exact hs

/-- Placing an instruction for the next fetch keeps the canonical form (Machine/Fetch.lean). -/
theorem withFetchWord_memOk (s : State) (nbits w : Nat) (h : s.MemOk) : (s.withFetchWord nbits w).MemOk := by
  unfold State.withFetchWord placeWord
  split
  · exact wf_writeBytes _ _ _ h
  · exact h

end Sys2Proof.Machine
end

