-- ==== Sys2Proof/Laws/PerInstr.lean ====
section
/-!
SUPPORT. Laws/PerInstr.lean: the family Fields of LAWS.json: the fields of a well-formed instruction's word are read back as
that instruction, one lemma for each constructor.
-/
namespace Sys2Proof

/-- The fields of an instruction's word lie in the format its OPC selects, and the decoder reads the instruction from them. -/
def Laws.Fields.Statement (i : Instr) : Prop :=
  i.wf = true →
    (∀ f, i.fields = some f → f.instr = .ok i ∧ fieldsOf f.pack = some f) ∧
    (∀ f, i.kwFields = some f → instrOfR f = some i ∧ (f.opcode = 0x0B#7 ∨ f.opcode = 0x2B#7))

namespace Laws.Fields

theorem none_some {α : Type} {a : α} {P : Prop} (h : none = some a) : P := nomatch h
theorem wf_formCheck (i : Instr) (h : i.wf = true) : i.formCheck = none := by
  cases hc : i.formCheck with
  | none => rfl
  | some c =>
    rw [Instr.wf, Instr.wfCheck, hc] at h
    split at h <;> simp at h

/-- The format that an OPC selects. -/
def formatNo (o : Nat) : Nat :=
  if o = 0x01 || o = 0x08 || o = 0x0A || o = 0x0C || o = 0x17 || o = 0x18 || o = 0x19 || o = 0x29
      || o = 0x30 || o = 0x32 || o = 0x34 then 1
  else if o ≤ 0x1C then 0
  else if 0x20 ≤ o ∧ o ≤ 0x22 then 2
  else if (0x23 ≤ o ∧ o ≤ 0x28) ∨ (0x30 ≤ o ∧ o ≤ 0x39) then 0
  else if 0x40 ≤ o ∧ o ≤ 0x5A then 3
  else if 0x70 ≤ o ∧ o ≤ 0x75 then 4
  else if 0x80 ≤ o ∧ o ≤ 0x85 then 5
  else if (0x90 ≤ o ∧ o ≤ 0x96) ∨ (0xA0 ≤ o ∧ o ≤ 0xA4) ∨ (0xB0 ≤ o ∧ o ≤ 0xBC) then 6
  else if 0xC0 ≤ o ∧ o ≤ 0xCC then 7
  else 8

theorem fieldsOf_eq (w : Word) : fieldsOf w =
    match formatNo (w.extractLsb' 56 8).toNat with
    | 0 => some (.s3 (FmtS3.unpack w)) | 1 => some (.si (FmtSI.unpack w)) | 2 => some (.b (FmtB.unpack w))
    | 3 => some (.v3 (FmtV3.unpack w)) | 4 => some (.vm (FmtVM.unpack w)) | 5 => some (.m (FmtM.unpack w))
    | 6 => some (.e (FmtE.unpack w)) | 7 => some (.x (FmtX.unpack w)) | _ => none := by
  unfold fieldsOf formatNo
  simp only []
  repeat' split
  all_goals first | rfl | omega | simp_all

theorem inFormat_s3 (f : FmtS3) (h : formatNo f.opc.toNat = 0) : fieldsOf f.pack = some (.s3 f) := by
  rw [fieldsOf_eq, f.opc_pack, h, f.unpack_pack]; rfl
theorem inFormat_si (f : FmtSI) (h : formatNo f.opc.toNat = 1) : fieldsOf f.pack = some (.si f) := by
  rw [fieldsOf_eq, f.opc_pack, h, f.unpack_pack]; rfl
theorem inFormat_b (f : FmtB) (h : formatNo f.opc.toNat = 2) : fieldsOf f.pack = some (.b f) := by
  rw [fieldsOf_eq, f.opc_pack, h, f.unpack_pack]; rfl
theorem inFormat_v3 (f : FmtV3) (h : formatNo f.opc.toNat = 3) : fieldsOf f.pack = some (.v3 f) := by
  rw [fieldsOf_eq, f.opc_pack, h, f.unpack_pack]; rfl
theorem inFormat_vm (f : FmtVM) (h : formatNo f.opc.toNat = 4) : fieldsOf f.pack = some (.vm f) := by
  rw [fieldsOf_eq, f.opc_pack, h, f.unpack_pack]; rfl
theorem inFormat_m (f : FmtM) (h : formatNo f.opc.toNat = 5) : fieldsOf f.pack = some (.m f) := by
  rw [fieldsOf_eq, f.opc_pack, h, f.unpack_pack]; rfl
theorem inFormat_e (f : FmtE) (h : formatNo f.opc.toNat = 6) : fieldsOf f.pack = some (.e f) := by
  rw [fieldsOf_eq, f.opc_pack, h, f.unpack_pack]; rfl
theorem inFormat_x (f : FmtX) (h : formatNo f.opc.toNat = 7) : fieldsOf f.pack = some (.x f) := by
  rw [fieldsOf_eq, f.opc_pack, h, f.unpack_pack]; rfl

theorem guard_code (g : Guard) : Guard.ofCode g.code = g := by
  rcases g with ⟨p, b⟩
  revert p b
  decide
theorem cond_code (c : Cond) : Cond.ofCode c.code = some c := by cases c <;> rfl
theorem logicOp_code (c : LogicOp) : LogicOp.ofCode c.code = some c := by cases c <;> rfl
theorem intOp_code (c : IntOp) : IntOp.ofCode c.code = some c := by cases c <;> rfl
theorem floatOp_code (c : FloatOp) : FloatOp.ofCode c.code = some c := by cases c <;> rfl
theorem bitOp_code (c : BitOp) : BitOp.ofCode c.code = some c := by cases c <;> rfl
theorem shiftOp_code (c : ShiftOp) : ShiftOp.ofCode c.code = some c := by cases c <;> rfl
theorem ty_code (c : Ty) : Ty.ofCode c.code = some c := by cases c <;> rfl
theorem size_code (c : Size) : Size.ofCode c.code = c := by cases c <;> rfl
theorem scope_code (c : Scope) : Scope.ofCode c.code = some c := by cases c <;> rfl
theorem rounding_code (c : Rounding) : Rounding.ofCode c.code = c := by cases c <;> rfl
theorem memOrd_code (o : MemOrd) : MemOrd.ofCodes o.ordCode o.scopeCode = some o := by
  cases o <;> (try rename_i c; cases c) <;> rfl
theorem ordOf_code (o : Option Scope) : ordOf (ordBit o) (scopeBits o) = some o := by
  cases o <;> (try rename_i c; cases c) <;> rfl
theorem relOf_code (o : Option Scope) : relOf (relCode o) (scopeBits o) = some o := by
  cases o <;> (try rename_i c; cases c) <;> rfl
theorem sub0_zero (i : Instr) : sub0 0#4 i = .ok i := rfl
theorem subU_bit (u : Bool) (f : Bool → Instr) : subU ((bit u).setWidth 4) f = .ok (f u) := by cases u <;> rfl
theorem setWidth_back {n m : Nat} (h : n ≤ m) (x : BitVec n) : (x.setWidth m).setWidth n = x := by
  rw [BitVec.setWidth_setWidth_of_le _ h, BitVec.setWidth_eq]
theorem setWidth_back_6_4 (x : BitVec 4) : (x.setWidth 6).setWidth 4 = x := setWidth_back (by decide) x
theorem setWidth_back_6_3 (x : BitVec 3) : (x.setWidth 6).setWidth 3 = x := setWidth_back (by decide) x
theorem setWidth_back_10_6 (x : BitVec 6) : (x.setWidth 10).setWidth 6 = x := setWidth_back (by decide) x
theorem setWidth_back_10_4 (x : BitVec 4) : (x.setWidth 10).setWidth 4 = x := setWidth_back (by decide) x
theorem setWidth_back_10_3 (x : BitVec 3) : (x.setWidth 10).setWidth 3 = x := setWidth_back (by decide) x
theorem setWidth_back_8_2 (x : BitVec 2) : (x.setWidth 8).setWidth 2 = x := setWidth_back (by decide) x
theorem setWidth_back_8_4 (x : BitVec 4) : (x.setWidth 8).setWidth 4 = x := setWidth_back (by decide) x
theorem setWidth_back_8_6 (x : BitVec 6) : (x.setWidth 8).setWidth 6 = x := setWidth_back (by decide) x
theorem setWidth_back_12_4 (x : BitVec 4) : (x.setWidth 12).setWidth 4 = x := setWidth_back (by decide) x
theorem setWidth_back_5_4 (x : BitVec 4) : (x.setWidth 5).setWidth 4 = x := setWidth_back (by decide) x
theorem fn_hi (a b : BitVec 6) : (a ++ b).extractLsb' 6 6 = a := BitVec.extractLsb'_append_eq_left
theorem fn_lo (a b : BitVec 6) : (a ++ b).extractLsb' 0 6 = b := BitVec.extractLsb'_append_eq_right
theorem imm8_hi (a b : BitVec 4) : (a ++ b).extractLsb' 4 4 = a := BitVec.extractLsb'_append_eq_left
theorem imm8_lo (a b : BitVec 4) : (a ++ b).extractLsb' 0 4 = b := BitVec.extractLsb'_append_eq_right
theorem imm8Ord_ord (o : BitVec 2) (s : BitVec 3) : (imm8Ord o s).extractLsb' 6 2 = o := by revert o s; decide
theorem imm8Ord_scope (o : BitVec 2) (s : BitVec 3) : (imm8Ord o s).extractLsb' 3 3 = s := by revert o s; decide
theorem ld_ord (o : BitVec 1) (u : Bool) (z : BitVec 2) : (o ++ bit u ++ z).extractLsb' 3 1 = o := by revert o u z; decide
theorem ld_u (o : BitVec 1) (u : Bool) (z : BitVec 2) : (o ++ bit u ++ z)[2] = u := by revert o u z; decide
theorem ld_sz (o : BitVec 1) (u : Bool) (z : BitVec 2) : (o ++ bit u ++ z).setWidth 2 = z := by revert o u z; decide
theorem st_ord (o : BitVec 1) (z : BitVec 2) : (o ++ 0#1 ++ z).extractLsb' 3 1 = o := by revert o z; decide
theorem st_sz (o : BitVec 1) (z : BitVec 2) : (o ++ 0#1 ++ z).setWidth 2 = z := by revert o z; decide
theorem fnLdst_scope (a : BitVec 1) (c : BitVec 2) (s : BitVec 3) : (fnLdst a c s).extractLsb' 5 3 = s := by
  revert a c s; decide
theorem fnLdst_am (a : BitVec 1) (c : BitVec 2) (s : BitVec 3) : (fnLdst a c s)[11] = (a == 1#1) := by
  revert a c s; decide
theorem fnLdst_scale (a : BitVec 1) (c : BitVec 2) (s : BitVec 3) : (fnLdst a c s).extractLsb' 9 2 = c := by
  revert a c s; decide
theorem fnAtom_am (a : BitVec 1) (d : Bool) (o : BitVec 2) (s : BitVec 3) :
    (fnAtom a (bit d) o s)[11] = (a == 1#1) := by revert a d o s; decide
theorem fnAtom_sz (a : BitVec 1) (d : Bool) (o : BitVec 2) (s : BitVec 3) : (fnAtom a (bit d) o s)[10] = d := by
  revert a d o s; decide
theorem fnAtom_ord (a z : BitVec 1) (o : BitVec 2) (s : BitVec 3) : (fnAtom a z o s).extractLsb' 8 2 = o := by
  revert a z o s; decide
theorem fnAtom_scope (a z : BitVec 1) (o : BitVec 2) (s : BitVec 3) : (fnAtom a z o s).extractLsb' 5 3 = s := by
  revert a z o s; decide
theorem fnAtom_am0 (a : BitVec 1) (o : BitVec 2) (s : BitVec 3) : (fnAtom a 0#1 o s)[11] = (a == 1#1) := by
  revert a o s; decide
theorem mlb_n (n : BitVec 8) : n.extractLsb' 2 6 ++ (n.extractLsb' 0 2 ++ 0#4).extractLsb' 4 2 = n := by revert n; decide
theorem int_ne_cas (op : IntOp) : (op.code = 9#4) = False := by cases op <;> simp [IntOp.code]
theorem bit_true (b : Bool) : (bit b = 1#1) = (b = true) := by cases b <;> simp [bit]

theorem add (g : Guard) (sd : SReg) (sa : SReg) (sb : SReg) : Statement (.add g sd sa sb) := by
  intro _
  refine ⟨fun f hf => ?_, fun _ h => none_some h⟩
  cases hf
  exact ⟨congrArg (fun k => Except.ok (Instr.add k sd sa sb)) (guard_code g), inFormat_s3 _ rfl⟩
theorem addImm (g : Guard) (sd : SReg) (sa : SReg) (imm : W32) : Statement (.addImm g sd sa imm) := by
  intro _
  refine ⟨fun f hf => ?_, fun _ h => none_some h⟩
  cases hf
  exact ⟨congrArg (fun k => Except.ok (Instr.addImm k sd sa imm)) (guard_code g), inFormat_si _ rfl⟩
theorem sub (g : Guard) (sd : SReg) (sa : SReg) (sb : SReg) : Statement (.sub g sd sa sb) := by
  intro _
  refine ⟨fun f hf => ?_, fun _ h => none_some h⟩
  cases hf
  exact ⟨congrArg (fun k => Except.ok (Instr.sub k sd sa sb)) (guard_code g), inFormat_s3 _ rfl⟩
theorem mul (g : Guard) (sd : SReg) (sa : SReg) (sb : SReg) : Statement (.mul g sd sa sb) := by
  intro _
  refine ⟨fun f hf => ?_, fun _ h => none_some h⟩
  cases hf
  exact ⟨congrArg (fun k => Except.ok (Instr.mul k sd sa sb)) (guard_code g), inFormat_s3 _ rfl⟩
theorem mulh (g : Guard) (u : Bool) (sd : SReg) (sa : SReg) (sb : SReg) : Statement (.mulh g u sd sa sb) := by
  intro _
  refine ⟨fun f hf => ?_, fun _ h => none_some h⟩
  cases hf
  cases u <;> exact ⟨congrArg (fun k => Except.ok (Instr.mulh k _ sd sa sb)) (guard_code g), inFormat_s3 _ rfl⟩
theorem div (g : Guard) (u : Bool) (sd : SReg) (sa : SReg) (sb : SReg) : Statement (.div g u sd sa sb) := by
  intro _
  refine ⟨fun f hf => ?_, fun _ h => none_some h⟩
  cases hf
  cases u <;> exact ⟨congrArg (fun k => Except.ok (Instr.div k _ sd sa sb)) (guard_code g), inFormat_s3 _ rfl⟩
theorem rem (g : Guard) (u : Bool) (sd : SReg) (sa : SReg) (sb : SReg) : Statement (.rem g u sd sa sb) := by
  intro _
  refine ⟨fun f hf => ?_, fun _ h => none_some h⟩
  cases hf
  cases u <;> exact ⟨congrArg (fun k => Except.ok (Instr.rem k _ sd sa sb)) (guard_code g), inFormat_s3 _ rfl⟩
theorem and (g : Guard) (sd : SReg) (sa : SReg) (sb : SReg) : Statement (.and g sd sa sb) := by
  intro _
  refine ⟨fun f hf => ?_, fun _ h => none_some h⟩
  cases hf
  exact ⟨congrArg (fun k => Except.ok (Instr.and k sd sa sb)) (guard_code g), inFormat_s3 _ rfl⟩
theorem andImm (g : Guard) (sd : SReg) (sa : SReg) (imm : W32) : Statement (.andImm g sd sa imm) := by
  intro _
  refine ⟨fun f hf => ?_, fun _ h => none_some h⟩
  cases hf
  exact ⟨congrArg (fun k => Except.ok (Instr.andImm k sd sa imm)) (guard_code g), inFormat_si _ rfl⟩
theorem andn (g : Guard) (sd : SReg) (sa : SReg) (sb : SReg) : Statement (.andn g sd sa sb) := by
  intro _
  refine ⟨fun f hf => ?_, fun _ h => none_some h⟩
  cases hf
  exact ⟨congrArg (fun k => Except.ok (Instr.andn k sd sa sb)) (guard_code g), inFormat_s3 _ rfl⟩
theorem or (g : Guard) (sd : SReg) (sa : SReg) (sb : SReg) : Statement (.or g sd sa sb) := by
  intro _
  refine ⟨fun f hf => ?_, fun _ h => none_some h⟩
  cases hf
  exact ⟨congrArg (fun k => Except.ok (Instr.or k sd sa sb)) (guard_code g), inFormat_s3 _ rfl⟩
theorem orImm (g : Guard) (sd : SReg) (sa : SReg) (imm : W32) : Statement (.orImm g sd sa imm) := by
  intro _
  refine ⟨fun f hf => ?_, fun _ h => none_some h⟩
  cases hf
  exact ⟨congrArg (fun k => Except.ok (Instr.orImm k sd sa imm)) (guard_code g), inFormat_si _ rfl⟩
theorem xor (g : Guard) (sd : SReg) (sa : SReg) (sb : SReg) : Statement (.xor g sd sa sb) := by
  intro _
  refine ⟨fun f hf => ?_, fun _ h => none_some h⟩
  cases hf
  exact ⟨congrArg (fun k => Except.ok (Instr.xor k sd sa sb)) (guard_code g), inFormat_s3 _ rfl⟩
theorem xorImm (g : Guard) (sd : SReg) (sa : SReg) (imm : W32) : Statement (.xorImm g sd sa imm) := by
  intro _
  refine ⟨fun f hf => ?_, fun _ h => none_some h⟩
  cases hf
  exact ⟨congrArg (fun k => Except.ok (Instr.xorImm k sd sa imm)) (guard_code g), inFormat_si _ rfl⟩
theorem shl (g : Guard) (sd : SReg) (sa : SReg) (n : Amount) : Statement (.shl g sd sa n) := by
  intro _
  cases n <;>
  (refine ⟨fun f hf => ?_, fun _ h => none_some h⟩; cases hf
   simp [Fields.instr, instrOfS3, fieldsOf, Fields.pack, FmtS3.opc_pack, FmtS3.unpack_pack, mkS3, s3dab, guard_code, s3shift, amountOf])
theorem shr (g : Guard) (sd : SReg) (sa : SReg) (n : Amount) : Statement (.shr g sd sa n) := by
  intro _
  cases n <;>
  (refine ⟨fun f hf => ?_, fun _ h => none_some h⟩; cases hf
   simp [Fields.instr, instrOfS3, fieldsOf, Fields.pack, FmtS3.opc_pack, FmtS3.unpack_pack, mkS3, s3dab, guard_code, s3shift, amountOf])
theorem sra (g : Guard) (sd : SReg) (sa : SReg) (n : Amount) : Statement (.sra g sd sa n) := by
  intro _
  cases n <;>
  (refine ⟨fun f hf => ?_, fun _ h => none_some h⟩; cases hf
   simp [Fields.instr, instrOfS3, fieldsOf, Fields.pack, FmtS3.opc_pack, FmtS3.unpack_pack, mkS3, s3dab, guard_code, s3shift, amountOf])
theorem clz (g : Guard) (sd : SReg) (sa : SReg) : Statement (.clz g sd sa) := by
  intro _
  refine ⟨fun f hf => ?_, fun _ h => none_some h⟩
  cases hf
  exact ⟨congrArg (fun k => Except.ok (Instr.clz k sd sa)) (guard_code g), inFormat_s3 _ rfl⟩
theorem popc (g : Guard) (sd : SReg) (sa : SReg) : Statement (.popc g sd sa) := by
  intro _
  refine ⟨fun f hf => ?_, fun _ h => none_some h⟩
  cases hf
  exact ⟨congrArg (fun k => Except.ok (Instr.popc k sd sa)) (guard_code g), inFormat_s3 _ rfl⟩
theorem min (g : Guard) (u : Bool) (sd : SReg) (sa : SReg) (sb : SReg) : Statement (.min g u sd sa sb) := by
  intro _
  refine ⟨fun f hf => ?_, fun _ h => none_some h⟩
  cases hf
  cases u <;> exact ⟨congrArg (fun k => Except.ok (Instr.min k _ sd sa sb)) (guard_code g), inFormat_s3 _ rfl⟩
theorem max (g : Guard) (u : Bool) (sd : SReg) (sa : SReg) (sb : SReg) : Statement (.max g u sd sa sb) := by
  intro _
  refine ⟨fun f hf => ?_, fun _ h => none_some h⟩
  cases hf
  cases u <;> exact ⟨congrArg (fun k => Except.ok (Instr.max k _ sd sa sb)) (guard_code g), inFormat_s3 _ rfl⟩
theorem sel (g : Guard) (sd : SReg) (pn : PReg) (sa : SReg) (sb : SReg) : Statement (.sel g sd pn sa sb) := by
  intro _
  refine ⟨fun f hf => ?_, fun _ h => none_some h⟩
  cases hf
  simp [Fields.instr, instrOfS3, fieldsOf, Fields.pack, FmtS3.opc_pack, FmtS3.unpack_pack, mkS3, guard_code, sub0_zero]
theorem cmp (g : Guard) (c : Cond) (pd : PReg) (sa : SReg) (sb : SReg) : Statement (.cmp g c pd sa sb) := by
  intro _
  refine ⟨fun f hf => ?_, fun _ h => none_some h⟩
  cases hf
  cases c <;> exact ⟨congrArg (fun k => Except.ok (Instr.cmp k _ pd sa sb)) (guard_code g), inFormat_s3 _ rfl⟩
theorem cmpImm (g : Guard) (c : Cond) (pd : PReg) (sa : SReg) (imm : W32) : Statement (.cmpImm g c pd sa imm) := by
  intro _
  refine ⟨fun f hf => ?_, fun _ h => none_some h⟩
  cases hf
  cases c <;> exact ⟨congrArg (fun k => Except.ok (Instr.cmpImm k _ pd sa imm)) (guard_code g), inFormat_si _ rfl⟩
theorem movi (g : Guard) (sd : SReg) (imm : W32) : Statement (.movi g sd imm) := by
  intro _
  refine ⟨fun f hf => ?_, fun _ h => none_some h⟩
  cases hf
  exact ⟨congrArg (fun k => Except.ok (Instr.movi k sd imm)) (guard_code g), inFormat_si _ rfl⟩
theorem movhi (g : Guard) (sd : SReg) (imm : W32) : Statement (.movhi g sd imm) := by
  intro _
  refine ⟨fun f hf => ?_, fun _ h => none_some h⟩
  cases hf
  exact ⟨congrArg (fun k => Except.ok (Instr.movhi k sd imm)) (guard_code g), inFormat_si _ rfl⟩
theorem bfx (g : Guard) (u : Bool) (sd : SReg) (sa : SReg) (pos : BitVec 6) (len1 : BitVec 6) : Statement (.bfx g u sd sa pos len1) := by
  intro _
  refine ⟨fun f hf => ?_, fun _ h => none_some h⟩
  cases hf
  simp [Fields.instr, instrOfS3, fieldsOf, Fields.pack, FmtS3.opc_pack, FmtS3.unpack_pack, mkS3, guard_code, subU_bit, fn_hi, fn_lo]
theorem bfi (g : Guard) (sd : SReg) (sa : SReg) (pos : BitVec 6) (len1 : BitVec 6) : Statement (.bfi g sd sa pos len1) := by
  intro _
  refine ⟨fun f hf => ?_, fun _ h => none_some h⟩
  cases hf
  simp [Fields.instr, instrOfS3, fieldsOf, Fields.pack, FmtS3.opc_pack, FmtS3.unpack_pack, mkS3, guard_code, sub0_zero, fn_hi, fn_lo]
theorem plog (g : Guard) (op : LogicOp) (pd : PReg) (pa : PReg) (pb : PReg) : Statement (.plog g op pd pa pb) := by
  intro _
  refine ⟨fun f hf => ?_, fun _ h => none_some h⟩
  cases hf
  simp [Fields.instr, instrOfS3, fieldsOf, Fields.pack, FmtS3.opc_pack, FmtS3.unpack_pack, mkS3, guard_code, subOp, logicOp_code]
theorem bra (g : Guard) (disp : BitVec 40) : Statement (.bra g disp) := by
  intro _
  refine ⟨fun f hf => ?_, fun _ h => none_some h⟩
  cases hf
  exact ⟨congrArg (fun k => Except.ok (Instr.bra k disp)) (guard_code g), inFormat_b _ rfl⟩
theorem call (g : Guard) (disp : BitVec 40) : Statement (.call g disp) := by
  intro _
  refine ⟨fun f hf => ?_, fun _ h => none_some h⟩
  cases hf
  exact ⟨congrArg (fun k => Except.ok (Instr.call k disp)) (guard_code g), inFormat_b _ rfl⟩
theorem loop (g : Guard) (sr : SReg) (disp : BitVec 40) : Statement (.loop g sr disp) := by
  intro _
  refine ⟨fun f hf => ?_, fun _ h => none_some h⟩
  cases hf
  exact ⟨congrArg (fun k => Except.ok (Instr.loop k sr disp)) (guard_code g), inFormat_b _ rfl⟩
theorem jmp (g : Guard) (sa : SReg) : Statement (.jmp g sa) := by
  intro _
  refine ⟨fun f hf => ?_, fun _ h => none_some h⟩
  cases hf
  exact ⟨congrArg (fun k => Except.ok (Instr.jmp k sa)) (guard_code g), inFormat_s3 _ rfl⟩
theorem ret (g : Guard) (sa : SReg) : Statement (.ret g sa) := by
  intro _
  refine ⟨fun f hf => ?_, fun _ h => none_some h⟩
  cases hf
  exact ⟨congrArg (fun k => Except.ok (Instr.ret k sa)) (guard_code g), inFormat_s3 _ rfl⟩
theorem exit (g : Guard) : Statement (.exit g) := by
  intro _
  refine ⟨fun f hf => ?_, fun _ h => none_some h⟩
  cases hf
  exact ⟨congrArg (fun k => Except.ok (Instr.exit k)) (guard_code g), inFormat_s3 _ rfl⟩
theorem yield (g : Guard) : Statement (.yield g) := by
  intro _
  refine ⟨fun f hf => ?_, fun _ h => none_some h⟩
  cases hf
  exact ⟨congrArg (fun k => Except.ok (Instr.yield k)) (guard_code g), inFormat_s3 _ rfl⟩
theorem nop (g : Guard) : Statement (.nop g) := by
  intro _
  refine ⟨fun f hf => ?_, fun _ h => none_some h⟩
  cases hf
  exact ⟨congrArg (fun k => Except.ok (Instr.nop k)) (guard_code g), inFormat_s3 _ rfl⟩
theorem trig (g : Guard) : Statement (.trig g) := by
  intro _
  refine ⟨fun f hf => ?_, fun _ h => none_some h⟩
  cases hf
  exact ⟨congrArg (fun k => Except.ok (Instr.trig k)) (guard_code g), inFormat_s3 _ rfl⟩
theorem bkpt (g : Guard) (imm : W32) : Statement (.bkpt g imm) := by
  intro _
  refine ⟨fun f hf => ?_, fun _ h => none_some h⟩
  cases hf
  exact ⟨congrArg (fun k => Except.ok (Instr.bkpt k imm)) (guard_code g), inFormat_si _ rfl⟩
theorem ld (g : Guard) (u : Bool) (sz : Size) (acq : Option Scope) (sd : SReg) (sa : SReg) (imm : W32) : Statement (.ld g u sz acq sd sa imm) := by
  intro _
  refine ⟨fun f hf => ?_, fun _ h => none_some h⟩
  cases hf
  simp [Fields.instr, instrOfSI, fieldsOf, Fields.pack, FmtSI.opc_pack, FmtSI.unpack_pack, mkSI, guard_code, fieldOp, ld_ord, ld_u, ld_sz, ordOf_code, size_code]
theorem ldIndexed (g : Guard) (u : Bool) (sz : Size) (acq : Option Scope) (sd : SReg) (a : IdxAddr) : Statement (.ldIndexed g u sz acq sd a) := by
  intro h
  refine ⟨fun f hf => ?_, fun _ h => none_some h⟩
  cases a with
  | gen sa sb scale =>
    cases hf
    simp [Fields.instr, instrOfS3, fieldsOf, Fields.pack, FmtS3.opc_pack, FmtS3.unpack_pack, mkS3, s3idx, guard_code, fieldOp, ld_ord, ld_u, ld_sz, 
      fnLdst_scope, fnLdst_am, fnLdst_scale, idxAddrOf, ordOf_code, size_code]
  | hnd n sb =>
    have hn : acq = none := by
      cases acq with
      | none => rfl
      | some c => exact absurd (wf_formCheck _ h) (by simp [Instr.formCheck]; try split <;> simp)
    subst hn
    cases hf
    simp [Fields.instr, instrOfS3, fieldsOf, Fields.pack, FmtS3.opc_pack, FmtS3.unpack_pack, mkS3, s3idx, guard_code, fieldOp, ld_ord, ld_u, ld_sz, 
      fnLdst_scope, fnLdst_am, idxAddrOf, ordOf_code, size_code]
theorem st (g : Guard) (sz : Size) (rel : Option Scope) (sd : SReg) (sa : SReg) (imm : W32) : Statement (.st g sz rel sd sa imm) := by
  intro _
  refine ⟨fun f hf => ?_, fun _ h => none_some h⟩
  cases hf
  simp [Fields.instr, instrOfSI, fieldsOf, Fields.pack, FmtSI.opc_pack, FmtSI.unpack_pack, mkSI, guard_code, fieldOp, st_ord, st_sz, ordOf_code, size_code]
theorem stIndexed (g : Guard) (sz : Size) (rel : Option Scope) (sd : SReg) (a : IdxAddr) : Statement (.stIndexed g sz rel sd a) := by
  intro h
  refine ⟨fun f hf => ?_, fun _ h => none_some h⟩
  cases a with
  | gen sa sb scale =>
    cases hf
    simp [Fields.instr, instrOfS3, fieldsOf, Fields.pack, FmtS3.opc_pack, FmtS3.unpack_pack, mkS3, s3idx, guard_code, fieldOp, st_ord, st_sz,
      fnLdst_scope, fnLdst_am, fnLdst_scale, idxAddrOf, ordOf_code, size_code]
  | hnd n sb =>
    have hn : rel = none := by
      cases rel with
      | none => rfl
      | some c => exact absurd (wf_formCheck _ h) (by simp [Instr.formCheck])
    subst hn
    cases hf
    simp [Fields.instr, instrOfS3, fieldsOf, Fields.pack, FmtS3.opc_pack, FmtS3.unpack_pack, mkS3, s3idx, guard_code, fieldOp, st_ord, st_sz,
      fnLdst_scope, fnLdst_am, idxAddrOf, ordOf_code, size_code]
theorem ldfe (g : Guard) (sd : SReg) (sa : SReg) (imm : W32) : Statement (.ldfe g sd sa imm) := by
  intro _
  refine ⟨fun f hf => ?_, fun _ h => none_some h⟩
  cases hf
  exact ⟨congrArg (fun k => Except.ok (Instr.ldfe k sd sa imm)) (guard_code g), inFormat_si _ rfl⟩
theorem ldff (g : Guard) (sd : SReg) (sa : SReg) (imm : W32) : Statement (.ldff g sd sa imm) := by
  intro _
  refine ⟨fun f hf => ?_, fun _ h => none_some h⟩
  cases hf
  exact ⟨congrArg (fun k => Except.ok (Instr.ldff k sd sa imm)) (guard_code g), inFormat_si _ rfl⟩
theorem stef (g : Guard) (sd : SReg) (sa : SReg) (imm : W32) : Statement (.stef g sd sa imm) := by
  intro _
  refine ⟨fun f hf => ?_, fun _ h => none_some h⟩
  cases hf
  exact ⟨congrArg (fun k => Except.ok (Instr.stef k sd sa imm)) (guard_code g), inFormat_si _ rfl⟩
theorem stff (g : Guard) (sd : SReg) (sa : SReg) (imm : W32) : Statement (.stff g sd sa imm) := by
  intro _
  refine ⟨fun f hf => ?_, fun _ h => none_some h⟩
  cases hf
  exact ⟨congrArg (fun k => Except.ok (Instr.stff k sd sa imm)) (guard_code g), inFormat_si _ rfl⟩
theorem feset (g : Guard) (sd : SReg) (sa : SReg) (imm : W32) : Statement (.feset g sd sa imm) := by
  intro _
  refine ⟨fun f hf => ?_, fun _ h => none_some h⟩
  cases hf
  exact ⟨congrArg (fun k => Except.ok (Instr.feset k sd sa imm)) (guard_code g), inFormat_si _ rfl⟩
theorem feq (g : Guard) (sd : SReg) (sa : SReg) (imm : W32) : Statement (.feq g sd sa imm) := by
  intro _
  refine ⟨fun f hf => ?_, fun _ h => none_some h⟩
  cases hf
  exact ⟨congrArg (fun k => Except.ok (Instr.feq k sd sa imm)) (guard_code g), inFormat_si _ rfl⟩
theorem amo (g : Guard) (op : IntOp) (d : Bool) (ord : MemOrd) (sd : SReg) (a : AtomAddr) (sb : SReg) : Statement (.amo g op d ord sd a sb) := by
  intro _
  cases a <;>
  (refine ⟨fun f hf => ?_, fun _ h => none_some h⟩; cases hf
   simp [Fields.instr, instrOfS3, fieldsOf, Fields.pack, FmtS3.opc_pack, FmtS3.unpack_pack, mkS3, guard_code, subOp, fieldOp, intOp_code, memOrd_code, s3atom, fnAtom_am, fnAtom_sz, fnAtom_ord, fnAtom_scope, atomAddrOf])
theorem cas (g : Guard) (d : Bool) (ord : MemOrd) (sd : SReg) (sa : SReg) (sb : SReg) (sc : SReg) : Statement (.cas g d ord sd sa sb sc) := by
  intro _
  refine ⟨fun f hf => ?_, fun _ h => none_some h⟩
  cases hf
  simp [Fields.instr, instrOfS3, fieldsOf, Fields.pack, FmtS3.opc_pack, FmtS3.unpack_pack, mkS3, guard_code, sub0_zero, fieldOp, memOrd_code, fnAtom_sz, fnAtom_ord, fnAtom_scope]
theorem amof (g : Guard) (op : FloatOp) (ord : MemOrd) (sd : SReg) (a : AtomAddr) (sb : SReg) : Statement (.amof g op ord sd a sb) := by
  intro _
  cases a <;>
  (refine ⟨fun f hf => ?_, fun _ h => none_some h⟩; cases hf
   simp [Fields.instr, instrOfS3, fieldsOf, Fields.pack, FmtS3.opc_pack, FmtS3.unpack_pack, mkS3, guard_code, subOp, fieldOp, floatOp_code, memOrd_code, s3atom, fnAtom_ord, fnAtom_scope, atomAddrOf, fnAtom_am0])
theorem red (g : Guard) (op : IntOp) (d : Bool) (rel : Option Scope) (a : AtomAddr) (sb : SReg) : Statement (.red g op d rel a sb) := by
  intro _
  cases a <;>
  (refine ⟨fun f hf => ?_, fun _ h => none_some h⟩; cases hf
   simp [Fields.instr, instrOfS3, fieldsOf, Fields.pack, FmtS3.opc_pack, FmtS3.unpack_pack, mkS3, guard_code, subOp, fieldOp, intOp_code, s3atom, fnAtom_am, fnAtom_sz, fnAtom_ord, fnAtom_scope, atomAddrOf, relOf_code])
theorem redf (g : Guard) (op : FloatOp) (rel : Option Scope) (a : AtomAddr) (sb : SReg) : Statement (.redf g op rel a sb) := by
  intro _
  cases a <;>
  (refine ⟨fun f hf => ?_, fun _ h => none_some h⟩; cases hf
   simp [Fields.instr, instrOfS3, fieldsOf, Fields.pack, FmtS3.opc_pack, FmtS3.unpack_pack, mkS3, guard_code, subOp, fieldOp, floatOp_code, s3atom, fnAtom_ord, fnAtom_scope, atomAddrOf, relOf_code, fnAtom_am0])
theorem vadd (g : Guard) (ty : Ty) (vd : VNum) (va : VNum) (vb : VNum) (km : KReg) : Statement (.vadd g ty vd va vb km) := by
  intro _
  refine ⟨fun f hf => ?_, fun _ h => none_some h⟩
  cases hf
  cases ty <;> exact ⟨congrArg (fun k => Except.ok (Instr.vadd k _ vd va vb km)) (guard_code g), inFormat_v3 _ rfl⟩
theorem vsub (g : Guard) (ty : Ty) (vd : VNum) (va : VNum) (vb : VNum) (km : KReg) : Statement (.vsub g ty vd va vb km) := by
  intro _
  refine ⟨fun f hf => ?_, fun _ h => none_some h⟩
  cases hf
  cases ty <;> exact ⟨congrArg (fun k => Except.ok (Instr.vsub k _ vd va vb km)) (guard_code g), inFormat_v3 _ rfl⟩
theorem vmul (g : Guard) (ty : Ty) (vd : VNum) (va : VNum) (vb : VNum) (km : KReg) : Statement (.vmul g ty vd va vb km) := by
  intro _
  refine ⟨fun f hf => ?_, fun _ h => none_some h⟩
  cases hf
  cases ty <;> exact ⟨congrArg (fun k => Except.ok (Instr.vmul k _ vd va vb km)) (guard_code g), inFormat_v3 _ rfl⟩
theorem vfma (g : Guard) (ty : Ty) (vd : VNum) (va : VNum) (vb : VNum) (vc : VNum) (km : KReg) : Statement (.vfma g ty vd va vb vc km) := by
  intro _
  refine ⟨fun f hf => ?_, fun _ h => none_some h⟩
  cases hf
  cases ty <;> exact ⟨congrArg (fun k => Except.ok (Instr.vfma k _ vd va vb vc km)) (guard_code g), inFormat_v3 _ rfl⟩
theorem vmin (g : Guard) (ty : Ty) (vd : VNum) (va : VNum) (vb : VNum) (km : KReg) : Statement (.vmin g ty vd va vb km) := by
  intro _
  refine ⟨fun f hf => ?_, fun _ h => none_some h⟩
  cases hf
  cases ty <;> exact ⟨congrArg (fun k => Except.ok (Instr.vmin k _ vd va vb km)) (guard_code g), inFormat_v3 _ rfl⟩
theorem vmax (g : Guard) (ty : Ty) (vd : VNum) (va : VNum) (vb : VNum) (km : KReg) : Statement (.vmax g ty vd va vb km) := by
  intro _
  refine ⟨fun f hf => ?_, fun _ h => none_some h⟩
  cases hf
  cases ty <;> exact ⟨congrArg (fun k => Except.ok (Instr.vmax k _ vd va vb km)) (guard_code g), inFormat_v3 _ rfl⟩
theorem vabs (g : Guard) (ty : Ty) (vd : VNum) (va : VNum) (km : KReg) : Statement (.vabs g ty vd va km) := by
  intro _
  refine ⟨fun f hf => ?_, fun _ h => none_some h⟩
  cases hf
  cases ty <;> exact ⟨congrArg (fun k => Except.ok (Instr.vabs k _ vd va km)) (guard_code g), inFormat_v3 _ rfl⟩
theorem vneg (g : Guard) (ty : Ty) (vd : VNum) (va : VNum) (km : KReg) : Statement (.vneg g ty vd va km) := by
  intro _
  refine ⟨fun f hf => ?_, fun _ h => none_some h⟩
  cases hf
  cases ty <;> exact ⟨congrArg (fun k => Except.ok (Instr.vneg k _ vd va km)) (guard_code g), inFormat_v3 _ rfl⟩
theorem vbit (g : Guard) (op : BitOp) (vd : VNum) (va : VNum) (vb : VNum) (km : KReg) : Statement (.vbit g op vd va vb km) := by
  intro _
  refine ⟨fun f hf => ?_, fun _ h => none_some h⟩
  cases hf
  cases op <;> exact ⟨congrArg (fun k => Except.ok (Instr.vbit k _ vd va vb km)) (guard_code g), inFormat_v3 _ rfl⟩
theorem vsh (g : Guard) (op : ShiftOp) (ty : Ty) (vd : VNum) (va : VNum) (n : VAmount) (km : KReg) : Statement (.vsh g op ty vd va n km) := by
  intro _
  cases n <;>
  (refine ⟨fun f hf => ?_, fun _ h => none_some h⟩; cases hf
   simp [Fields.instr, instrOfV3, fieldsOf, Fields.pack, FmtV3.opc_pack, FmtV3.unpack_pack, mkV3, v3dab, guard_code, subOp, fieldOp, shiftOp_code, ty_code])
theorem vcmp (g : Guard) (c : Cond) (ty : Ty) (kd : KReg) (va : VNum) (vb : VNum) (km : KReg) : Statement (.vcmp g c ty kd va vb km) := by
  intro _
  refine ⟨fun f hf => ?_, fun _ h => none_some h⟩
  cases hf
  simp [Fields.instr, instrOfV3, fieldsOf, Fields.pack, FmtV3.opc_pack, FmtV3.unpack_pack, mkV3, v3dab, guard_code, subOp, fieldOp, cond_code, ty_code]
theorem vsel (g : Guard) (vd : VNum) (va : VNum) (vb : VNum) (kc : KReg) (km : KReg) : Statement (.vsel g vd va vb kc km) := by
  intro _
  refine ⟨fun f hf => ?_, fun _ h => none_some h⟩
  cases hf
  simp [Fields.instr, instrOfV3, fieldsOf, Fields.pack, FmtV3.opc_pack, FmtV3.unpack_pack, mkV3, guard_code, sub0_zero]
theorem vcvt (g : Guard) (dty : Ty) (sty : Ty) (ns : Bool) (vd : VNum) (va : VNum) (km : KReg) : Statement (.vcvt g dty sty ns vd va km) := by
  intro _
  refine ⟨fun f hf => ?_, fun _ h => none_some h⟩
  cases hf
  simp [Fields.instr, instrOfV3, fieldsOf, Fields.pack, FmtV3.opc_pack, FmtV3.unpack_pack, mkV3, guard_code, sub0_zero, fieldOp, ty_code, bit_true]
theorem vcvto (g : Guard) (dty : Ty) (sty : Ty) (ns : Bool) (vd : VNum) (va : VNum) (sb : SReg) (km : KReg) : Statement (.vcvto g dty sty ns vd va sb km) := by
  intro _
  refine ⟨fun f hf => ?_, fun _ h => none_some h⟩
  cases hf
  simp [Fields.instr, instrOfV3, fieldsOf, Fields.pack, FmtV3.opc_pack, FmtV3.unpack_pack, mkV3, guard_code, sub0_zero, fieldOp, ty_code, bit_true]
theorem vexp2 (g : Guard) (vd : VNum) (va : VNum) (km : KReg) : Statement (.vexp2 g vd va km) := by
  intro _
  refine ⟨fun f hf => ?_, fun _ h => none_some h⟩
  cases hf
  exact ⟨congrArg (fun k => Except.ok (Instr.vexp2 k vd va km)) (guard_code g), inFormat_v3 _ rfl⟩
theorem vlog2 (g : Guard) (vd : VNum) (va : VNum) (km : KReg) : Statement (.vlog2 g vd va km) := by
  intro _
  refine ⟨fun f hf => ?_, fun _ h => none_some h⟩
  cases hf
  exact ⟨congrArg (fun k => Except.ok (Instr.vlog2 k vd va km)) (guard_code g), inFormat_v3 _ rfl⟩
theorem vrcp (g : Guard) (vd : VNum) (va : VNum) (km : KReg) : Statement (.vrcp g vd va km) := by
  intro _
  refine ⟨fun f hf => ?_, fun _ h => none_some h⟩
  cases hf
  exact ⟨congrArg (fun k => Except.ok (Instr.vrcp k vd va km)) (guard_code g), inFormat_v3 _ rfl⟩
theorem vrsq (g : Guard) (vd : VNum) (va : VNum) (km : KReg) : Statement (.vrsq g vd va km) := by
  intro _
  refine ⟨fun f hf => ?_, fun _ h => none_some h⟩
  cases hf
  exact ⟨congrArg (fun k => Except.ok (Instr.vrsq k vd va km)) (guard_code g), inFormat_v3 _ rfl⟩
theorem vsqrt (g : Guard) (vd : VNum) (va : VNum) (km : KReg) : Statement (.vsqrt g vd va km) := by
  intro _
  refine ⟨fun f hf => ?_, fun _ h => none_some h⟩
  cases hf
  exact ⟨congrArg (fun k => Except.ok (Instr.vsqrt k vd va km)) (guard_code g), inFormat_v3 _ rfl⟩
theorem vred (g : Guard) (op : FloatOp) (ty : Ty) (vd : VNum) (va : VNum) (km : KReg) : Statement (.vred g op ty vd va km) := by
  intro _
  refine ⟨fun f hf => ?_, fun _ h => none_some h⟩
  cases hf
  simp [Fields.instr, instrOfV3, fieldsOf, Fields.pack, FmtV3.opc_pack, FmtV3.unpack_pack, mkV3, v3dab, guard_code, subOp, fieldOp, floatOp_code, ty_code]
theorem vperm (g : Guard) (vd : VNum) (va : VNum) (vb : VNum) (km : KReg) : Statement (.vperm g vd va vb km) := by
  intro _
  refine ⟨fun f hf => ?_, fun _ h => none_some h⟩
  cases hf
  exact ⟨congrArg (fun k => Except.ok (Instr.vperm k vd va vb km)) (guard_code g), inFormat_v3 _ rfl⟩
theorem vbcst (g : Guard) (ty : Ty) (vd : VNum) (sa : SReg) (km : KReg) : Statement (.vbcst g ty vd sa km) := by
  intro _
  refine ⟨fun f hf => ?_, fun _ h => none_some h⟩
  cases hf
  simp [Fields.instr, instrOfV3, fieldsOf, Fields.pack, FmtV3.opc_pack, FmtV3.unpack_pack, mkV3, v3dab, guard_code, sub0_zero, fieldOp, tyOp, ty_code]
theorem vmovs (g : Guard) (f : MovsForm) (lane : BitVec 4) (km : KReg) : Statement (.vmovs g f lane km) := by
  intro _
  cases f <;>
  (refine ⟨fun f hf => ?_, fun _ h => none_some h⟩; cases hf
   simp [Fields.instr, instrOfV3, fieldsOf, Fields.pack, FmtV3.opc_pack, FmtV3.unpack_pack, mkV3, guard_code])
theorem vidx (g : Guard) (ty : Ty) (vd : VNum) (sa : SReg) (km : KReg) : Statement (.vidx g ty vd sa km) := by
  intro _
  refine ⟨fun f hf => ?_, fun _ h => none_some h⟩
  cases hf
  simp [Fields.instr, instrOfV3, fieldsOf, Fields.pack, FmtV3.opc_pack, FmtV3.unpack_pack, mkV3, v3dab, guard_code, sub0_zero, fieldOp, tyOp, ty_code]
theorem vtopk (g : Guard) (vd : VNum) (va : VNum) (vb : VNum) (km : KReg) : Statement (.vtopk g vd va vb km) := by
  intro _
  refine ⟨fun f hf => ?_, fun _ h => none_some h⟩
  cases hf
  exact ⟨congrArg (fun k => Except.ok (Instr.vtopk k vd va vb km)) (guard_code g), inFormat_v3 _ rfl⟩
theorem klog (g : Guard) (op : LogicOp) (kd : KReg) (ka : KReg) (kb : KReg) : Statement (.klog g op kd ka kb) := by
  intro _
  refine ⟨fun f hf => ?_, fun _ h => none_some h⟩
  cases hf
  simp [Fields.instr, instrOfV3, fieldsOf, Fields.pack, FmtV3.opc_pack, FmtV3.unpack_pack, mkV3, v3dab, guard_code, subOp, logicOp_code]
theorem kpop (g : Guard) (sd : SReg) (ka : KReg) : Statement (.kpop g sd ka) := by
  intro _
  refine ⟨fun f hf => ?_, fun _ h => none_some h⟩
  cases hf
  simp [Fields.instr, instrOfV3, fieldsOf, Fields.pack, FmtV3.opc_pack, FmtV3.unpack_pack, mkV3, v3dab, guard_code, sub0_zero]
theorem vld (g : Guard) (vr : VNum) (a : VecAddr) (km : KReg) : Statement (.vld g vr a km) := by
  intro _
  cases a <;>
  (refine ⟨fun f hf => ?_, fun _ h => none_some h⟩; cases hf
   simp [Fields.instr, instrOfVM, fieldsOf, Fields.pack, FmtVM.opc_pack, FmtVM.unpack_pack, mkVM, guard_code, sub0_zero, fieldOp, vmAddr, vecAddrOf, ordOf_code])
theorem vst (g : Guard) (vr : VNum) (a : VecAddr) (km : KReg) : Statement (.vst g vr a km) := by
  intro _
  cases a <;>
  (refine ⟨fun f hf => ?_, fun _ h => none_some h⟩; cases hf
   simp [Fields.instr, instrOfVM, fieldsOf, Fields.pack, FmtVM.opc_pack, FmtVM.unpack_pack, mkVM, guard_code, sub0_zero, fieldOp, vmAddr, vecAddrOf, ordOf_code])
theorem vlds (g : Guard) (vr : VNum) (b : VecBase) (sb : SReg) (km : KReg) : Statement (.vlds g vr b sb km) := by
  intro _
  cases b <;>
  (refine ⟨fun f hf => ?_, fun _ h => none_some h⟩; cases hf
   simp [Fields.instr, instrOfVM, fieldsOf, Fields.pack, FmtVM.opc_pack, FmtVM.unpack_pack, mkVM, guard_code, sub0_zero, vmBase, vecBaseOf])
theorem vsts (g : Guard) (vr : VNum) (b : VecBase) (sb : SReg) (km : KReg) : Statement (.vsts g vr b sb km) := by
  intro _
  cases b <;>
  (refine ⟨fun f hf => ?_, fun _ h => none_some h⟩; cases hf
   simp [Fields.instr, instrOfVM, fieldsOf, Fields.pack, FmtVM.opc_pack, FmtVM.unpack_pack, mkVM, guard_code, sub0_zero, vmBase, vecBaseOf])
theorem vgath (g : Guard) (vr : VNum) (b : VecBase) (vx : VNum) (scale : BitVec 2) (km : KReg) : Statement (.vgath g vr b vx scale km) := by
  intro _
  cases b <;>
  (refine ⟨fun f hf => ?_, fun _ h => none_some h⟩; cases hf
   simp [Fields.instr, instrOfVM, fieldsOf, Fields.pack, FmtVM.opc_pack, FmtVM.unpack_pack, mkVM, guard_code, sub0_zero, vmBase, vecBaseOf])
theorem vscat (g : Guard) (vr : VNum) (b : VecBase) (vx : VNum) (scale : BitVec 2) (km : KReg) : Statement (.vscat g vr b vx scale km) := by
  intro _
  cases b <;>
  (refine ⟨fun f hf => ?_, fun _ h => none_some h⟩; cases hf
   simp [Fields.instr, instrOfVM, fieldsOf, Fields.pack, FmtVM.opc_pack, FmtVM.unpack_pack, mkVM, guard_code, sub0_zero, vmBase, vecBaseOf])
theorem mzero (g : Guard) : Statement (.mzero g) := by
  intro _
  refine ⟨fun f hf => ?_, fun _ h => none_some h⟩
  cases hf
  exact ⟨congrArg (fun k => Except.ok (Instr.mzero k)) (guard_code g), inFormat_m _ rfl⟩
theorem mlb (g : Guard) (ty : Ty) (f : MlbForm) : Statement (.mlb g ty f) := by
  intro _
  cases f <;>
  (refine ⟨fun f hf => ?_, fun _ h => none_some h⟩; cases hf
   simp [Fields.instr, instrOfM, fieldsOf, Fields.pack, FmtM.opc_pack, FmtM.unpack_pack, mkM, guard_code, fieldOp, ty_code, mlb_n])
theorem mma (g : Guard) (rot : Bool) (rag : Option SReg) (kind : MmaKind) (ty : Ty) (sa : SReg) (sm : SReg) : Statement (.mma g rot rag kind ty sa sm) := by
  intro _
  cases kind <;> cases rag <;> cases rot <;>
  (refine ⟨fun f hf => ?_, fun _ h => none_some h⟩; cases hf
   simp [Fields.instr, instrOfM, fieldsOf, Fields.pack, FmtM.opc_pack, FmtM.unpack_pack, mkM, guard_code, fieldOp, ty_code, mmaKindCode, mmaPtr, bit])
theorem mout (g : Guard) (sa : SReg) (sn : SReg) (sb : SReg) (sr : SReg) (sm : SReg) : Statement (.mout g sa sn sb sr sm) := by
  intro _
  refine ⟨fun f hf => ?_, fun _ h => none_some h⟩
  cases hf
  exact ⟨congrArg (fun k => Except.ok (Instr.mout k sa sn sb sr sm)) (guard_code g), inFormat_m _ rfl⟩
theorem mdrain (g : Guard) (f : DrainForm) : Statement (.mdrain g f) := by
  intro _
  refine ⟨fun x hx => ?_, nofun⟩
  cases f with
  | mem ty rm ns mf z sa sr sn =>
    cases hx
    cases ns <;> cases mf <;> cases z <;>
    simp [Fields.instr, instrOfM, fieldsOf, Fields.pack, FmtM.opc_pack, FmtM.unpack_pack, mkM, bit, rounding_code, guard_code, fieldOp, ty_code]
  | vec z vd sr =>
    cases hx
    cases z <;>
    simp [Fields.instr, instrOfM, fieldsOf, Fields.pack, FmtM.opc_pack, FmtM.unpack_pack, mkM, bit, guard_code]
theorem mring (g : Guard) : Statement (.mring g) := by
  intro _
  refine ⟨fun f hf => ?_, fun _ h => none_some h⟩
  cases hf
  exact ⟨congrArg (fun k => Except.ok (Instr.mring k)) (guard_code g), inFormat_m _ rfl⟩
theorem cpy (g : Guard) (dst : CopyArg) (src : CopyArg) (vn : VNum) : Statement (.cpy g dst src vn) := by
  intro _
  cases dst <;> cases src <;>
  (refine ⟨fun f hf => ?_, fun _ h => none_some h⟩; cases hf
   simp [Fields.instr, instrOfE, fieldsOf, Fields.pack, FmtE.opc_pack, FmtE.unpack_pack, mkE, guard_code, sub0_zero, imm8_hi, imm8_lo])
theorem waitb (g : Guard) (pd : PReg) (sd : SReg) (n : BitVec 4) : Statement (.waitb g pd sd n) := by
  intro _
  refine ⟨fun f hf => ?_, fun _ h => none_some h⟩
  cases hf
  simp [Fields.instr, instrOfE, fieldsOf, Fields.pack, FmtE.opc_pack, FmtE.unpack_pack, mkE, guard_code, sub0_zero]
theorem lzres (g : Guard) (pd : PReg) (sd : SReg) (sa : SReg) (sb : SReg) : Statement (.lzres g pd sd sa sb) := by
  intro _
  refine ⟨fun f hf => ?_, fun _ h => none_some h⟩
  cases hf
  exact ⟨congrArg (fun k => Except.ok (Instr.lzres k pd sd sa sb)) (guard_code g), inFormat_e _ rfl⟩
theorem lzrel (g : Guard) (pd : PReg) (z : BitVec 2) (ss : SReg) : Statement (.lzrel g pd z ss) := by
  intro _
  refine ⟨fun f hf => ?_, fun _ h => none_some h⟩
  cases hf
  simp [Fields.instr, instrOfE, fieldsOf, Fields.pack, FmtE.opc_pack, FmtE.unpack_pack, mkE, guard_code, sub0_zero]
theorem lzclr (g : Guard) (pd : PReg) (z : BitVec 2) (ss : SReg) : Statement (.lzclr g pd z ss) := by
  intro _
  refine ⟨fun f hf => ?_, fun _ h => none_some h⟩
  cases hf
  simp [Fields.instr, instrOfE, fieldsOf, Fields.pack, FmtE.opc_pack, FmtE.unpack_pack, mkE, guard_code, sub0_zero]
theorem lzwait (g : Guard) (pd : PReg) (sd : SReg) (z : BitVec 2) (sm : SReg) : Statement (.lzwait g pd sd z sm) := by
  intro _
  refine ⟨fun f hf => ?_, fun _ h => none_some h⟩
  cases hf
  simp [Fields.instr, instrOfE, fieldsOf, Fields.pack, FmtE.opc_pack, FmtE.unpack_pack, mkE, guard_code]
theorem lzwaitAll (g : Guard) (pd : PReg) (sd : SReg) (z : BitVec 2) : Statement (.lzwaitAll g pd sd z) := by
  intro _
  refine ⟨fun f hf => ?_, fun _ h => none_some h⟩
  cases hf
  simp [Fields.instr, instrOfE, fieldsOf, Fields.pack, FmtE.opc_pack, FmtE.unpack_pack, mkE, guard_code]
theorem fld (g : Guard) (q : BitVec 2) (sa : SReg) : Statement (.fld g q sa) := by
  intro _
  refine ⟨fun f hf => ?_, fun _ h => none_some h⟩
  cases hf
  simp [Fields.instr, instrOfE, fieldsOf, Fields.pack, FmtE.opc_pack, FmtE.unpack_pack, mkE, guard_code, sub0_zero]
theorem qpop (g : Guard) (pd : PReg) (vd : VNum) (q : BitVec 2) : Statement (.qpop g pd vd q) := by
  intro _
  refine ⟨fun f hf => ?_, fun _ h => none_some h⟩
  cases hf
  simp [Fields.instr, instrOfE, fieldsOf, Fields.pack, FmtE.opc_pack, FmtE.unpack_pack, mkE, guard_code, sub0_zero]
theorem fst (g : Guard) (rel : Option Scope) (sa : SReg) (data : FstData) : Statement (.fst g rel sa data) := by
  intro _
  cases data <;>
  (refine ⟨fun f hf => ?_, fun _ h => none_some h⟩; cases hf
   simp [Fields.instr, instrOfE, fieldsOf, Fields.pack, FmtE.opc_pack, FmtE.unpack_pack, mkE, guard_code, fieldOp, imm8Ord_ord, imm8Ord_scope, relOf_code])
theorem famo (g : Guard) (op : FamoOp) (ord : MemOrd) (pd : PReg) (sd : SReg) (sa : SReg) (sb : SReg) : Statement (.famo g op ord pd sd sa sb) := by
  intro _
  cases op <;>
  (refine ⟨fun f hf => ?_, fun _ h => none_some h⟩; cases hf
   simp [Fields.instr, instrOfE, fieldsOf, Fields.pack, FmtE.opc_pack, FmtE.unpack_pack, mkE, guard_code, subOp, fieldOp, intOp_code, memOrd_code, imm8Ord_ord, imm8Ord_scope, int_ne_cas])
theorem mldr (g : Guard) (bf16 : Bool) (pd : PReg) (vd : VNum) (sa : SReg) : Statement (.mldr g bf16 pd vd sa) := by
  intro _
  refine ⟨fun f hf => ?_, fun _ h => none_some h⟩
  cases hf
  cases bf16 <;> exact ⟨congrArg (fun k => Except.ok (Instr.mldr k _ pd vd sa)) (guard_code g), inFormat_e _ rfl⟩
theorem rqld (g : Guard) (sd : SReg) (sa : SReg) (f : BitVec 6) : Statement (.rqld g sd sa f) := by
  intro _
  refine ⟨fun f hf => ?_, fun _ h => none_some h⟩
  cases hf
  simp [Fields.instr, instrOfE, fieldsOf, Fields.pack, FmtE.opc_pack, FmtE.unpack_pack, mkE, guard_code, sub0_zero]
theorem rqst (g : Guard) (sa : SReg) (sb : SReg) (f : BitVec 6) : Statement (.rqst g sa sb f) := by
  intro _
  refine ⟨fun f hf => ?_, fun _ h => none_some h⟩
  cases hf
  simp [Fields.instr, instrOfE, fieldsOf, Fields.pack, FmtE.opc_pack, FmtE.unpack_pack, mkE, guard_code, sub0_zero]
theorem rqflt (g : Guard) (sa : SReg) (sb : SReg) : Statement (.rqflt g sa sb) := by
  intro _
  refine ⟨fun f hf => ?_, fun _ h => none_some h⟩
  cases hf
  exact ⟨congrArg (fun k => Except.ok (Instr.rqflt k sa sb)) (guard_code g), inFormat_e _ rfl⟩
theorem stepdone (g : Guard) (sa : SReg) : Statement (.stepdone g sa) := by
  intro _
  refine ⟨fun f hf => ?_, fun _ h => none_some h⟩
  cases hf
  exact ⟨congrArg (fun k => Except.ok (Instr.stepdone k sa)) (guard_code g), inFormat_e _ rfl⟩
theorem sample (g : Guard) (pd : PReg) (sd : SReg) (sa : SReg) (sb : SReg) (sc : SReg) : Statement (.sample g pd sd sa sb sc) := by
  intro _
  refine ⟨fun f hf => ?_, fun _ h => none_some h⟩
  cases hf
  exact ⟨congrArg (fun k => Except.ok (Instr.sample k pd sd sa sb sc)) (guard_code g), inFormat_e _ rfl⟩
theorem rng (g : Guard) (vd : VNum) (sa : SReg) (sb : SReg) (sc : SReg) : Statement (.rng g vd sa sb sc) := by
  intro _
  refine ⟨fun f hf => ?_, fun _ h => none_some h⟩
  cases hf
  exact ⟨congrArg (fun k => Except.ok (Instr.rng k vd sa sb sc)) (guard_code g), inFormat_e _ rfl⟩
theorem isomask (g : Guard) (pd : PReg) (vd : VNum) (sa : SReg) (sb : SReg) (sc : SReg) : Statement (.isomask g pd vd sa sb sc) := by
  intro _
  refine ⟨fun f hf => ?_, fun _ h => none_some h⟩
  cases hf
  exact ⟨congrArg (fun k => Except.ok (Instr.isomask k pd vd sa sb sc)) (guard_code g), inFormat_e _ rfl⟩
theorem isostep (g : Guard) (pd : PReg) (sd : SReg) (sa : SReg) (sb : SReg) (sc : SReg) : Statement (.isostep g pd sd sa sb sc) := by
  intro _
  refine ⟨fun f hf => ?_, fun _ h => none_some h⟩
  cases hf
  exact ⟨congrArg (fun k => Except.ok (Instr.isostep k pd sd sa sb sc)) (guard_code g), inFormat_e _ rfl⟩
theorem accept (g : Guard) (pd : PReg) (sa : SReg) (sb : SReg) (vn : VNum) : Statement (.accept g pd sa sb vn) := by
  intro _
  refine ⟨fun f hf => ?_, fun _ h => none_some h⟩
  cases hf
  exact ⟨congrArg (fun k => Except.ok (Instr.accept k pd sa sb vn)) (guard_code g), inFormat_e _ rfl⟩
theorem kvcommit (g : Guard) (pd : PReg) (sa : SReg) (sb : SReg) (sc : SReg) : Statement (.kvcommit g pd sa sb sc) := by
  intro _
  refine ⟨fun f hf => ?_, fun _ h => none_some h⟩
  cases hf
  exact ⟨congrArg (fun k => Except.ok (Instr.kvcommit k pd sa sb sc)) (guard_code g), inFormat_e _ rfl⟩
theorem futcall (g : Guard) (pd : PReg) (sd : SReg) (sa : SReg) (sb : SReg) (sc : SReg) : Statement (.futcall g pd sd sa sb sc) := by
  intro _
  refine ⟨fun f hf => ?_, fun _ h => none_some h⟩
  cases hf
  exact ⟨congrArg (fun k => Except.ok (Instr.futcall k pd sd sa sb sc)) (guard_code g), inFormat_e _ rfl⟩
theorem futwait (g : Guard) (sa : SReg) : Statement (.futwait g sa) := by
  intro _
  refine ⟨fun f hf => ?_, fun _ h => none_some h⟩
  cases hf
  exact ⟨congrArg (fun k => Except.ok (Instr.futwait k sa)) (guard_code g), inFormat_e _ rfl⟩
theorem futqry (g : Guard) (sd : SReg) (sa : SReg) : Statement (.futqry g sd sa) := by
  intro _
  refine ⟨fun f hf => ?_, fun _ h => none_some h⟩
  cases hf
  exact ⟨congrArg (fun k => Except.ok (Instr.futqry k sd sa)) (guard_code g), inFormat_e _ rfl⟩
theorem mfs (g : Guard) (sd : SReg) (n : BitVec 12) : Statement (.mfs g sd n) := by
  intro _
  refine ⟨fun f hf => ?_, fun _ h => none_some h⟩
  cases hf
  exact ⟨congrArg (fun k => Except.ok (Instr.mfs k sd n)) (guard_code g), inFormat_x _ rfl⟩
theorem mts (g : Guard) (n : BitVec 12) (sa : SReg) : Statement (.mts g n sa) := by
  intro _
  refine ⟨fun f hf => ?_, fun _ h => none_some h⟩
  cases hf
  exact ⟨congrArg (fun k => Except.ok (Instr.mts k n sa)) (guard_code g), inFormat_x _ rfl⟩
theorem trap (g : Guard) (sa : SReg) (imm : BitVec 12) : Statement (.trap g sa imm) := by
  intro _
  refine ⟨fun f hf => ?_, fun _ h => none_some h⟩
  cases hf
  exact ⟨congrArg (fun k => Except.ok (Instr.trap k sa imm)) (guard_code g), inFormat_x _ rfl⟩
theorem fence (g : Guard) (sc : Scope) : Statement (.fence g sc) := by
  intro _
  refine ⟨fun f hf => ?_, fun _ h => none_some h⟩
  cases hf
  cases sc <;> exact ⟨congrArg (fun k => Except.ok (Instr.fence k _)) (guard_code g), inFormat_x _ rfl⟩
theorem acq (g : Guard) (sc : Scope) : Statement (.acq g sc) := by
  intro _
  refine ⟨fun f hf => ?_, fun _ h => none_some h⟩
  cases hf
  cases sc <;> exact ⟨congrArg (fun k => Except.ok (Instr.acq k _)) (guard_code g), inFormat_x _ rfl⟩
theorem rel (g : Guard) (sc : Scope) : Statement (.rel g sc) := by
  intro _
  refine ⟨fun f hf => ?_, fun _ h => none_some h⟩
  cases hf
  cases sc <;> exact ⟨congrArg (fun k => Except.ok (Instr.rel k _)) (guard_code g), inFormat_x _ rfl⟩
theorem icinv (g : Guard) (sc : Scope) : Statement (.icinv g sc) := by
  intro _
  refine ⟨fun f hf => ?_, fun _ h => none_some h⟩
  cases hf
  cases sc <;> exact ⟨congrArg (fun k => Except.ok (Instr.icinv k _)) (guard_code g), inFormat_x _ rfl⟩
theorem xlate (g : Guard) (hd : HReg) (sa : SReg) : Statement (.xlate g hd sa) := by
  intro _
  refine ⟨fun f hf => ?_, fun _ h => none_some h⟩
  cases hf
  simp [Fields.instr, instrOfX, fieldsOf, Fields.pack, FmtX.opc_pack, FmtX.unpack_pack, mkX, guard_code]
theorem xlateSlot (g : Guard) (pd : PReg) (hd : HReg) (sa : SReg) (ss : SReg) : Statement (.xlateSlot g pd hd sa ss) := by
  intro _
  refine ⟨fun f hf => ?_, fun _ h => none_some h⟩
  cases hf
  simp [Fields.instr, instrOfX, fieldsOf, Fields.pack, FmtX.opc_pack, FmtX.unpack_pack, mkX, guard_code]
theorem hrel (g : Guard) (hd : Option HReg) : Statement (.hrel g hd) := by
  intro _
  cases hd <;>
  (refine ⟨fun f hf => ?_, fun _ h => none_some h⟩; cases hf
   simp [Fields.instr, instrOfX, fieldsOf, Fields.pack, FmtX.opc_pack, FmtX.unpack_pack, mkX, guard_code])
theorem sptest (g : Guard) (sd : SReg) (sa : SReg) : Statement (.sptest g sd sa) := by
  intro _
  refine ⟨fun f hf => ?_, fun _ h => none_some h⟩
  cases hf
  exact ⟨congrArg (fun k => Except.ok (Instr.sptest k sd sa)) (guard_code g), inFormat_x _ rfl⟩
theorem spcast (g : Guard) (f : CastForm) (sd : SReg) (sa : SReg) : Statement (.spcast g f sd sa) := by
  intro _
  cases f <;>
  (refine ⟨fun f hf => ?_, fun _ h => none_some h⟩; cases hf
   simp [Fields.instr, instrOfX, fieldsOf, Fields.pack, FmtX.opc_pack, FmtX.unpack_pack, mkX, guard_code])
theorem bar (g : Guard) (sa : SReg) (sb : SReg) : Statement (.bar g sa sb) := by
  intro _
  refine ⟨fun f hf => ?_, fun _ h => none_some h⟩
  cases hf
  exact ⟨congrArg (fun k => Except.ok (Instr.bar k sa sb)) (guard_code g), inFormat_x _ rfl⟩
theorem launch (g : Guard) (pd : PReg) (sd : SReg) (sa : SReg) : Statement (.launch g pd sd sa) := by
  intro _
  refine ⟨fun f hf => ?_, fun _ h => none_some h⟩
  cases hf
  exact ⟨congrArg (fun k => Except.ok (Instr.launch k pd sd sa)) (guard_code g), inFormat_x _ rfl⟩
theorem kwCapld (cd : BitVec 4) (rs1 : BitVec 5) : Statement (.kwCapld cd rs1) := by
  intro _
  refine ⟨fun _ h => none_some h, fun f hf => ?_⟩
  cases hf
  simp [instrOfR]
theorem kwCapnar (cd : BitVec 4) (ca : BitVec 4) (rs1 : BitVec 5) (rs2 : BitVec 5) : Statement (.kwCapnar cd ca rs1 rs2) := by
  intro _
  refine ⟨fun _ h => none_some h, fun f hf => ?_⟩
  cases hf
  simp [instrOfR]
theorem kwCapclr (cd : BitVec 4) : Statement (.kwCapclr cd) := by
  intro _
  refine ⟨fun _ h => none_some h, fun f hf => ?_⟩
  cases hf
  simp [instrOfR]
theorem kwSbxent (rs1 : BitVec 5) : Statement (.kwSbxent rs1) := by
  intro _
  refine ⟨fun _ h => none_some h, fun f hf => ?_⟩
  cases hf
  simp [instrOfR]
theorem kwSbxret : Statement .kwSbxret := by
  intro _
  refine ⟨fun _ h => none_some h, fun f hf => ?_⟩
  cases hf
  simp [instrOfR]
theorem kwTqpop (rd : BitVec 5) (cd : BitVec 4) (rs1 : BitVec 5) (rs2 : BitVec 5) : Statement (.kwTqpop rd cd rs1 rs2) := by
  intro _
  refine ⟨fun _ h => none_some h, fun f hf => ?_⟩
  cases hf
  simp [instrOfR]
theorem kwFutarg (rd : BitVec 5) (ca : BitVec 4) (rs1 : BitVec 5) : Statement (.kwFutarg rd ca rs1) := by
  intro _
  refine ⟨fun _ h => none_some h, fun f hf => ?_⟩
  cases hf
  simp [instrOfR]
theorem kwFutcpl (rd : BitVec 5) (ca : BitVec 4) (rs1 : BitVec 5) (rs2 : BitVec 5) : Statement (.kwFutcpl rd ca rs1 rs2) := by
  intro _
  refine ⟨fun _ h => none_some h, fun f hf => ?_⟩
  cases hf
  simp [instrOfR]
theorem kwFutfail (rd : BitVec 5) (ca : BitVec 4) (rs1 : BitVec 5) : Statement (.kwFutfail rd ca rs1) := by
  intro _
  refine ⟨fun _ h => none_some h, fun f hf => ?_⟩
  cases hf
  simp [instrOfR]
theorem kwRel : Statement .kwRel := by
  intro _
  refine ⟨fun _ h => none_some h, fun f hf => ?_⟩
  cases hf
  simp [instrOfR]
theorem sandboxAccess (hart : Nat) (kind : HartAccess) (va : Word) (len : Nat) : Statement (.sandboxAccess hart kind va len) := fun _ => ⟨fun _ h => none_some h, fun _ h => none_some h⟩
theorem rotationCountSpent (core : Nat) (slot : Nat) : Statement (.rotationCountSpent core slot) := fun _ => ⟨fun _ h => none_some h, fun _ h => none_some h⟩
theorem accessReply (core : Nat) (slot : Nat) (r : Reply) : Statement (.accessReply core slot r) := fun _ => ⟨fun _ h => none_some h, fun _ h => none_some h⟩
theorem postedWriteAck (id : Nat) (r : Reply) : Statement (.postedWriteAck id r) := fun _ => ⟨fun _ h => none_some h, fun _ h => none_some h⟩
theorem walkComplete (core : Nat) (slot : Nat) : Statement (.walkComplete core slot) := fun _ => ⟨fun _ h => none_some h, fun _ h => none_some h⟩
theorem faultedSlotArrival (cluster : Nat) (slot : Nat) : Statement (.faultedSlotArrival cluster slot) := fun _ => ⟨fun _ h => none_some h, fun _ h => none_some h⟩
theorem feRetry (core : Nat) (slot : Nat) : Statement (.feRetry core slot) := fun _ => ⟨fun _ h => none_some h, fun _ h => none_some h⟩
theorem feTimeout (core : Nat) (slot : Nat) : Statement (.feTimeout core slot) := fun _ => ⟨fun _ h => none_some h, fun _ h => none_some h⟩
theorem scoreboardRetire (core : Nat) (entry : Nat) : Statement (.scoreboardRetire core entry) := fun _ => ⟨fun _ h => none_some h, fun _ h => none_some h⟩
theorem taskPlacement (die : Nat) : Statement (.taskPlacement die) := fun _ => ⟨fun _ h => none_some h, fun _ h => none_some h⟩
theorem agingPromotion (die : Nat) (entry : Nat) : Statement (.agingPromotion die entry) := fun _ => ⟨fun _ h => none_some h, fun _ h => none_some h⟩
theorem poolFill (die : Nat) : Statement (.poolFill die) := fun _ => ⟨fun _ h => none_some h, fun _ h => none_some h⟩
theorem stepdoneReceived (core : Nat) : Statement (.stepdoneReceived core) := fun _ => ⟨fun _ h => none_some h, fun _ h => none_some h⟩
theorem stepBoundary : Statement .stepBoundary := fun _ => ⟨fun _ h => none_some h, fun _ h => none_some h⟩
theorem kvSpillCopyDone (id : Nat) : Statement (.kvSpillCopyDone id) := fun _ => ⟨fun _ h => none_some h, fun _ h => none_some h⟩
theorem kvPageFreeDone (id : Nat) : Statement (.kvPageFreeDone id) := fun _ => ⟨fun _ h => none_some h, fun _ h => none_some h⟩
theorem kvcommitCopiesDone (core : Nat) (slot : Nat) : Statement (.kvcommitCopiesDone core slot) := fun _ => ⟨fun _ h => none_some h, fun _ h => none_some h⟩
theorem servectlGo : Statement .servectlGo := fun _ => ⟨fun _ h => none_some h, fun _ h => none_some h⟩
theorem servingActivate : Statement .servingActivate := fun _ => ⟨fun _ h => none_some h, fun _ h => none_some h⟩
theorem servectlDrain : Statement .servectlDrain := fun _ => ⟨fun _ h => none_some h, fun _ h => none_some h⟩
theorem servingOff : Statement .servingOff := fun _ => ⟨fun _ h => none_some h, fun _ h => none_some h⟩
theorem servemaskWrite (die : Nat) (v : Word) : Statement (.servemaskWrite die v) := fun _ => ⟨fun _ h => none_some h, fun _ h => none_some h⟩
theorem futureDeadline (idx : Nat) : Statement (.futureDeadline idx) := fun _ => ⟨fun _ h => none_some h, fun _ h => none_some h⟩
theorem futureCompletionMessage (m : EpMsg) : Statement (.futureCompletionMessage m) := fun _ => ⟨fun _ h => none_some h, fun _ h => none_some h⟩
theorem toolQueueForward (q : Nat) : Statement (.toolQueueForward q) := fun _ => ⟨fun _ h => none_some h, fun _ h => none_some h⟩
theorem deferredRingWrite (ring : Nat) : Statement (.deferredRingWrite ring) := fun _ => ⟨fun _ h => none_some h, fun _ h => none_some h⟩
theorem tscmdHandles : Statement .tscmdHandles := fun _ => ⟨fun _ h => none_some h, fun _ h => none_some h⟩
theorem tscmdTlb : Statement .tscmdTlb := fun _ => ⟨fun _ h => none_some h, fun _ h => none_some h⟩
theorem tscmdBoth : Statement .tscmdBoth := fun _ => ⟨fun _ h => none_some h, fun _ h => none_some h⟩
theorem tscmdKick : Statement .tscmdKick := fun _ => ⟨fun _ h => none_some h, fun _ h => none_some h⟩
theorem shootdownDone : Statement .shootdownDone := fun _ => ⟨fun _ h => none_some h, fun _ h => none_some h⟩
theorem sidelogPeriodicReplay (cluster : Nat) : Statement (.sidelogPeriodicReplay cluster) := fun _ => ⟨fun _ h => none_some h, fun _ h => none_some h⟩
theorem slactRetry (cluster : Nat) : Statement (.slactRetry cluster) := fun _ => ⟨fun _ h => none_some h, fun _ h => none_some h⟩
theorem slactDiscard (cluster : Nat) : Statement (.slactDiscard cluster) := fun _ => ⟨fun _ h => none_some h, fun _ h => none_some h⟩
theorem snoopReceived (line : Nat) (who : Nat) (r : Reply) : Statement (.snoopReceived line who r) := fun _ => ⟨fun _ h => none_some h, fun _ h => none_some h⟩
theorem scWriteAtHome (id : Nat) : Statement (.scWriteAtHome id) := fun _ => ⟨fun _ h => none_some h, fun _ h => none_some h⟩
theorem cmocmdFlush (v : Word) : Statement (.cmocmdFlush v) := fun _ => ⟨fun _ h => none_some h, fun _ h => none_some h⟩
theorem cmoFlushDone : Statement .cmoFlushDone := fun _ => ⟨fun _ h => none_some h, fun _ h => none_some h⟩
theorem timedCommandStart (cluster : Nat) (id : Nat) : Statement (.timedCommandStart cluster id) := fun _ => ⟨fun _ h => none_some h, fun _ h => none_some h⟩
theorem copyCommandFinish (cluster : Nat) (id : Nat) : Statement (.copyCommandFinish cluster id) := fun _ => ⟨fun _ h => none_some h, fun _ h => none_some h⟩
theorem lzresRequest (a : Arrival) : Statement (.lzresRequest a) := fun _ => ⟨fun _ h => none_some h, fun _ h => none_some h⟩
theorem landingWrite (a : Arrival) : Statement (.landingWrite a) := fun _ => ⟨fun _ h => none_some h, fun _ h => none_some h⟩
theorem landingSlotTimeout (core : Nat) (zone : Nat) (slot : Nat) : Statement (.landingSlotTimeout core zone slot) := fun _ => ⟨fun _ h => none_some h, fun _ h => none_some h⟩
theorem zoneDisable (core : Nat) (zone : Nat) : Statement (.zoneDisable core zone) := fun _ => ⟨fun _ h => none_some h, fun _ h => none_some h⟩
theorem fabricRequestServed (a : Arrival) : Statement (.fabricRequestServed a) := fun _ => ⟨fun _ h => none_some h, fun _ h => none_some h⟩
theorem fabricTimeout (id : Nat) : Statement (.fabricTimeout id) := fun _ => ⟨fun _ h => none_some h, fun _ h => none_some h⟩
theorem switchLinkDownReport (sw : Nat) : Statement (.switchLinkDownReport sw) := fun _ => ⟨fun _ h => none_some h, fun _ h => none_some h⟩
theorem peerfenceWrite (j : Nat) (v : Word) : Statement (.peerfenceWrite j v) := fun _ => ⟨fun _ h => none_some h, fun _ h => none_some h⟩
theorem fabidWrite (v : Word) : Statement (.fabidWrite v) := fun _ => ⟨fun _ h => none_some h, fun _ h => none_some h⟩
theorem timeMessage (off : Int) : Statement (.timeMessage off) := fun _ => ⟨fun _ h => none_some h, fun _ h => none_some h⟩
theorem epdbArm (tenant : Nat) (v : Word) : Statement (.epdbArm tenant v) := fun _ => ⟨fun _ h => none_some h, fun _ h => none_some h⟩
theorem epdbDisarm (tenant : Nat) (v : Word) : Statement (.epdbDisarm tenant v) := fun _ => ⟨fun _ h => none_some h, fun _ h => none_some h⟩
theorem epMessageArrival (m : EpMsg) : Statement (.epMessageArrival m) := fun _ => ⟨fun _ h => none_some h, fun _ h => none_some h⟩
theorem epTransferComplete (id : Nat) (r : Reply) : Statement (.epTransferComplete id r) := fun _ => ⟨fun _ h => none_some h, fun _ h => none_some h⟩
theorem epOdpTimeout (id : Nat) : Statement (.epOdpTimeout id) := fun _ => ⟨fun _ h => none_some h, fun _ h => none_some h⟩
theorem matrixCommandStart (core : Nat) : Statement (.matrixCommandStart core) := fun _ => ⟨fun _ h => none_some h, fun _ h => none_some h⟩
theorem matrixCommandComplete (core : Nat) : Statement (.matrixCommandComplete core) := fun _ => ⟨fun _ h => none_some h, fun _ h => none_some h⟩
theorem ringStepCommit (core : Nat) : Statement (.ringStepCommit core) := fun _ => ⟨fun _ h => none_some h, fun _ h => none_some h⟩
theorem pairTimeout (core : Nat) : Statement (.pairTimeout core) := fun _ => ⟨fun _ h => none_some h, fun _ h => none_some h⟩
theorem faultAckTimeout (cluster : Nat) : Statement (.faultAckTimeout cluster) := fun _ => ⟨fun _ h => none_some h, fun _ h => none_some h⟩
theorem frptrHeadWrite (cluster : Nat) (level : Nat) (v : Word) : Statement (.frptrHeadWrite cluster level v) := fun _ => ⟨fun _ h => none_some h, fun _ h => none_some h⟩
theorem dbgcmdHalt (core : Nat) (slot : Nat) : Statement (.dbgcmdHalt core slot) := fun _ => ⟨fun _ h => none_some h, fun _ h => none_some h⟩
theorem dbgcmdResume (core : Nat) (slot : Nat) : Statement (.dbgcmdResume core slot) := fun _ => ⟨fun _ h => none_some h, fun _ h => none_some h⟩
theorem dbgcmdStep (core : Nat) (slot : Nat) : Statement (.dbgcmdStep core slot) := fun _ => ⟨fun _ h => none_some h, fun _ h => none_some h⟩
theorem dbgcmdRestart (core : Nat) (slot : Nat) : Statement (.dbgcmdRestart core slot) := fun _ => ⟨fun _ h => none_some h, fun _ h => none_some h⟩
theorem dbgcmdKill (core : Nat) (slot : Nat) : Statement (.dbgcmdKill core slot) := fun _ => ⟨fun _ h => none_some h, fun _ h => none_some h⟩
theorem rqfaultWrite (core : Nat) (slot : Nat) (v : Word) : Statement (.rqfaultWrite core slot v) := fun _ => ⟨fun _ h => none_some h, fun _ h => none_some h⟩
theorem debugWindowAccess (core : Nat) (off : Nat) (wr : Option Word) : Statement (.debugWindowAccess core off wr) := fun _ => ⟨fun _ h => none_some h, fun _ h => none_some h⟩
theorem sqcmdSave (core : Nat) (who : Nat) : Statement (.sqcmdSave core who) := fun _ => ⟨fun _ h => none_some h, fun _ h => none_some h⟩
theorem squallSaveComplete (core : Nat) : Statement (.squallSaveComplete core) := fun _ => ⟨fun _ h => none_some h, fun _ h => none_some h⟩
theorem sqcmdRestore (core : Nat) : Statement (.sqcmdRestore core) := fun _ => ⟨fun _ h => none_some h, fun _ h => none_some h⟩
theorem squallRestoreComplete (core : Nat) : Statement (.squallRestoreComplete core) := fun _ => ⟨fun _ h => none_some h, fun _ h => none_some h⟩
theorem tenantTimeSlice (core : Nat) (tenant : Nat) : Statement (.tenantTimeSlice core tenant) := fun _ => ⟨fun _ h => none_some h, fun _ h => none_some h⟩
theorem mcTrap (pc : Word) (cause : Word) (tval : Word) (status : Word) : Statement (.mcTrap pc cause tval status) := fun _ => ⟨fun _ h => none_some h, fun _ h => none_some h⟩
theorem wqDoorbell (fn : Nat) (q : Nat) (v : Word) : Statement (.wqDoorbell fn q v) := fun _ => ⟨fun _ h => none_some h, fun _ h => none_some h⟩
theorem launchEntry (q : Nat) : Statement (.launchEntry q) := fun _ => ⟨fun _ h => none_some h, fun _ h => none_some h⟩
theorem requestEntry (q : Nat) : Statement (.requestEntry q) := fun _ => ⟨fun _ h => none_some h, fun _ h => none_some h⟩
theorem cancelEntry (q : Nat) : Statement (.cancelEntry q) := fun _ => ⟨fun _ h => none_some h, fun _ h => none_some h⟩
theorem automatonEntry (q : Nat) : Statement (.automatonEntry q) := fun _ => ⟨fun _ h => none_some h, fun _ h => none_some h⟩
theorem zoneEntry (q : Nat) : Statement (.zoneEntry q) := fun _ => ⟨fun _ h => none_some h, fun _ h => none_some h⟩
theorem tenantCtlEntry (q : Nat) : Statement (.tenantCtlEntry q) := fun _ => ⟨fun _ h => none_some h, fun _ h => none_some h⟩
theorem badtypeEntry (q : Nat) : Statement (.badtypeEntry q) := fun _ => ⟨fun _ h => none_some h, fun _ h => none_some h⟩
theorem cqHeadWrite (fn : Nat) (r : Nat) (v : Word) : Statement (.cqHeadWrite fn r v) := fun _ => ⟨fun _ h => none_some h, fun _ h => none_some h⟩
theorem trstcmdGo (v : Word) : Statement (.trstcmdGo v) := fun _ => ⟨fun _ h => none_some h, fun _ h => none_some h⟩
theorem functionLevelReset (tenant : Nat) : Statement (.functionLevelReset tenant) := fun _ => ⟨fun _ h => none_some h, fun _ h => none_some h⟩
theorem clurstWrite (die : Nat) (v : Word) : Statement (.clurstWrite die v) := fun _ => ⟨fun _ h => none_some h, fun _ h => none_some h⟩
theorem ownershipMapWrite (off : Nat) (v : Byte) : Statement (.ownershipMapWrite off v) := fun _ => ⟨fun _ h => none_some h, fun _ h => none_some h⟩
theorem powerOn (imgs : List Image) : Statement (.powerOn imgs) := fun _ => ⟨fun _ h => none_some h, fun _ h => none_some h⟩
theorem functionReady (bit : Nat) : Statement (.functionReady bit) := fun _ => ⟨fun _ h => none_some h, fun _ h => none_some h⟩
theorem attestationRequest (nonce : List Byte) : Statement (.attestationRequest nonce) := fun _ => ⟨fun _ h => none_some h, fun _ h => none_some h⟩
theorem powerThrottle (core : Nat) : Statement (.powerThrottle core) := fun _ => ⟨fun _ h => none_some h, fun _ h => none_some h⟩
theorem thermalTrip : Statement .thermalTrip := fun _ => ⟨fun _ h => none_some h, fun _ h => none_some h⟩
theorem i3cRequest (what : I3cItem) : Statement (.i3cRequest what) := fun _ => ⟨fun _ h => none_some h, fun _ h => none_some h⟩
theorem registerWrite (off : Nat) (v : Word) : Statement (.registerWrite off v) := fun _ => ⟨fun _ h => none_some h, fun _ h => none_some h⟩
theorem undefinedOpcode (w : Word) : Statement (.undefinedOpcode w) := fun _ => ⟨fun _ h => none_some h, fun _ h => none_some h⟩
theorem xkwedarIllegal (w : W32) : Statement (.xkwedarIllegal w) := fun _ => ⟨fun _ h => none_some h, fun _ h => none_some h⟩
theorem sret : Statement .sret := fun _ => ⟨fun _ h => none_some h, fun _ h => none_some h⟩
theorem sandboxTrap (hart : Nat) (cause : Word) (tval : Word) : Statement (.sandboxTrap hart cause tval) := fun _ => ⟨fun _ h => none_some h, fun _ h => none_some h⟩
theorem mret : Statement .mret := fun _ => ⟨fun _ h => none_some h, fun _ h => none_some h⟩

end Laws.Fields

open Laws.Fields in
theorem Laws.Fields.seal (g : Guard) (sd : SReg) : Laws.Fields.Statement (.seal g sd) := by
  intro _
  refine ⟨fun f hf => ?_, fun _ h => none_some h⟩
  cases hf
  exact ⟨congrArg (fun k => Except.ok (Instr.seal k sd)) (guard_code g), inFormat_e _ rfl⟩

end Sys2Proof
end

