-- ==== Sys2Proof/Tests/Slice0.lean ====
section
/-!
SUPPORT. Tests/Slice0.lean: words of the spec decoded, ill-formed terms refused, single steps against the spec's own worked
examples, and for each obligation a concrete state and operands that meet its hypotheses (witness_…), clause by clause.
-/
set_option Elab.async false

namespace Sys2Proof.Tests
open Sys2Proof Sys2Proof.Machine

/-- A tile-core word that decodes to an instruction. -/
def reads (w : Word) (i : Instr) : Bool :=
  match decodeTile w with
  | .ok j => decide (j = i)
  | .error _ => false

/-- A tile-core word that is refused with a reason. -/
def refused (w : Word) (e : DecodeError) : Bool :=
  match decodeTile w with
  | .ok _ => false
  | .error x => decide (x = e)

/-- A hart's word that decodes to an Xkwedar instruction. -/
def readsKw (w : W32) (i : Instr) : Bool :=
  match decodeKw w with
  | .ok j => decide (j = i)
  | .error _ => false

def g0 : Guard := { pred := 0#3, inv := false }

/-! ### Words of chapters 15 to 19, with the assembly text beside them -/

/-- 15 "Worked words", 16 R347 to R349: `add s5, s6, s7`; `add s4, s4, 1`; `mulh.u s5, s6, s7`; `bfx.u s3, s9, 12, 8`; `sra s4, s5, 3`. -/
theorem test_decode_scalar :
    reads 0x0001461C00000000#64 (.add g0 5#6 6#6 7#6) = true ∧
    reads 0x0101040000000100#64 (.addImm g0 4#6 4#6 1#32) = true ∧
    reads 0x0411461C00000000#64 (.mulh g0 true 5#6 6#6 7#6) = true ∧
    reads 0x1A10C90003070000#64 (.bfx g0 true 3#6 9#6 12#6 7#6) = true ∧
    reads 0x1011050C00000000#64 (.sra g0 4#6 5#6 (.imm 3#6)) = true := by decide

/-- 16 R361, 18 R391, R404, R415, 19 R425: `div.u`, `min.u`, `rem`, `movhi s3, 0x1234`, `sel s4, p2, s5, s6`. -/
theorem test_decode_scalar2 :
    reads 0x0511461C00000000#64 (.div g0 true 5#6 6#6 7#6) = true ∧
    reads 0x1311461C00000000#64 (.min g0 true 5#6 6#6 7#6) = true ∧
    reads 0x0601461C00000000#64 (.rem g0 false 5#6 6#6 7#6) = true ∧
    reads 0x1900C00000123400#64 (.movhi g0 3#6 0x1234#32) = true ∧
    reads 0x1501051820000000#64 (.sel g0 4#6 2#3 5#6 6#6) = true := by decide

/-- 16 R359, 17 R378, 18 R409: `cmp.lt p2, s5, 100`; `plog.and p3, p1, p2`; `klog.andn k2, k1, k3`; `kpop s4, k2`. -/
theorem test_decode_predicates :
    reads 0x1720050000006420#64 (.cmpImm g0 .lt 2#3 5#6 100#32) = true ∧
    reads 0x1C00010800000030#64 (.plog g0 .and 3#3 1#3 2#3) = true ∧
    reads 0x5930080100C00000#64 (.klog g0 .andn 2#3 1#3 3#3) = true ∧
    reads 0x5A00100200000000#64 (.kpop g0 4#6 2#3) = true := by decide

/-- 15, 17 R377, 18 R416, 19 R433: `bra` back five words, `jmp s9`, `ret`, `exit`, `trap s4, 12`, `bkpt 0x42`. -/
theorem test_decode_control :
    reads 0x200FFFFFFFFFB000#64 (.bra g0 0xFFFFFFFFFB#40) = true ∧
    reads 0x2300090000000000#64 (.jmp g0 9#6) = true ∧
    reads 0x24003E0000000000#64 (.ret g0 62#6) = true ∧
    reads 0x2500000000000000#64 (.exit g0) = true ∧
    reads 0xC2000400000C0000#64 (.trap g0 4#6 12#12) = true ∧
    reads 0x2900000000004200#64 (.bkpt g0 0x42#32) = true := by decide

/-- 15, 16 R349, R357, 17 R385, 19 R429: loads, stores, atomics. -/
theorem test_decode_memory :
    reads 0x306204000000100A#64 (.ld { pred := 2#3, inv := true } true .w none 8#6 4#6 16#32) = true ∧
    reads 0x3122431408000000#64 (.ldIndexed g0 false .w none 9#6 (.hnd 3#4 5#6)) = true ∧
    reads 0x32A1840000000840#64 (.st g0 .w (some .sys) 6#6 4#6 8#32) = true ∧
    reads 0x350183207E800000#64 (.amo g0 .add true (.rel .sys) 6#6 (.hnd 3#4 7#6) 8#6) = true ∧
    reads 0x3721841C03600000#64 (.amof g0 .max (.acqRel .dev) 6#6 (.gen 4#6) 7#6) = true ∧
    reads 0x3800041C04000000#64 (.red g0 .add true none (.gen 4#6) 7#6) = true := by decide

/-- 17 R367, 19 R430, 16 R352: `ldfe s8, [s5 + 0]`; `stff [s5 + 8], s7`; `feset [s5 + 8], s9`; `bar s4, s5`. -/
theorem test_decode_fullEmpty :
    reads 0x3402050000000000#64 (.ldfe g0 8#6 5#6 0#32) = true ∧
    reads 0x3431C50000000800#64 (.stff g0 7#6 5#6 8#32) = true ∧
    reads 0x3442450000000800#64 (.feset g0 9#6 5#6 8#32) = true ∧
    reads 0xCB00041400000000#64 (.bar g0 4#6 5#6) = true := by decide

/-- 19 R435 to R443: the vector ALU. -/
theorem test_decode_vector :
    reads 0x43000C0100803000#64 (.vfma g0 .fp32 3#10 1#10 2#10 3#10 0#3) = true ∧
    reads 0x4000280B03000020#64 (.vadd g0 .fp32 10#10 11#10 12#10 2#3) = true ∧
    reads 0x4910140602000B80#64 (.vsh g0 .shr .uint32 5#10 6#10 (.imm 8#6) 0#3) = true ∧
    reads 0x4D00501500009300#64 (.vcvto g0 .e4m3 .fp32 false 20#10 21#10 9#6 0#3) = true ∧
    reads 0x5600100600003000#64 (.vmovs g0 (.toScalar 4#6 6#10) 3#4 0#3) = true ∧
    reads 0x5800A01405400000#64 (.vtopk g0 40#10 20#10 21#10 0#3) = true := by decide

/-- 19 R444 to R446: `vld v8, [s4 + s5 * 8]`; `vst.rel.sys [s4], v8`; `vgath v9, [s4 + v30 * 4]`. -/
theorem test_decode_vectorMemory :
    reads 0x7000204140006000#64 (.vld g0 8#10 (.gen 4#6 5#6 3#2 none) 0#3) = true ∧
    reads 0x7100204000090000#64 (.vst g0 8#10 (.gen 4#6 0#6 0#2 (some .sys)) 0#3) = true ∧
    reads 0x7400244001E04000#64 (.vgath g0 9#10 (.gen 4#6) 30#10 2#2 0#3) = true := by decide

/-- 18 R393, R397, R398, R403, R405: the matrix commands. -/
theorem test_decode_matrix :
    reads 0x8000000000000000#64 (.mzero g0) = true ∧
    reads 0x814000050001E100#64 (.mlb g0 .bf16 (.vec 30#10 5#8)) = true ∧
    reads 0x8261051870000300#64 (.mma g0 false (some 6#6) (.sp32 7#6) .e4m3 4#6 5#6) = true ∧
    reads 0x8301051872000000#64 (.mout g0 4#6 5#6 6#6 7#6 8#6) = true ∧
    reads 0x8480050000064000#64 (.mdrain g0 (.vec false 100#10 5#6)) = true ∧
    reads 0x8500000000000000#64 (.mring g0) = true := by decide

/-- 16 R360, 17 R365, R368, R369, R387 to R389, 18 R399, 19 R447: copies, landing zones, the fabric. -/
theorem test_decode_copyAndFabric :
    reads 0x9001050000510200#64 (.cpy g0 (.ptr 4#6) (.hnd 2#4 5#6) 20#10) = true ∧
    reads 0x9201800000000310#64 (.waitb g0 1#3 6#6 3#4) = true ∧
    reads 0x9301051800000020#64 (.lzres g0 2#3 4#6 5#6 6#6) = true ∧
    reads 0x9512000000000110#64 (.lzwaitAll g0 1#3 8#6 1#2) = true ∧
    reads 0xA200041C0000A000#64 (.fst g0 (some .sys) 4#6 (.scal 7#6)) = true ∧
    reads 0xA301841C0000A010#64 (.famo g0 (.int .add) (.rel .sys) 1#3 6#6 4#6 7#6) = true ∧
    reads 0xA410040000A00010#64 (.mldr g0 true 1#3 40#10 4#6) = true := by decide

/-- 16 R344, 17 R370, R375, R379, 18 R418 to R420, 19 R422: the engines of generation. -/
theorem test_decode_generation :
    reads 0xB0014A0000000700#64 (.rqld g0 5#6 10#6 7#6) = true ∧
    reads 0xB4024A2CC0000010#64 (.sample g0 1#3 9#6 10#6 11#6 12#6) = true ∧
    reads 0xB6000A2CC0500010#64 (.isomask g0 1#3 20#10 10#6 11#6 12#6) = true ∧
    reads 0xB8000A2C00A00010#64 (.accept g0 1#3 10#6 11#6 40#10) = true ∧
    reads 0xB9000A2CC0000010#64 (.kvcommit g0 1#3 10#6 11#6 12#6) = true ∧
    reads 0xBA024A2CC0000010#64 (.futcall g0 1#3 9#6 10#6 11#6 12#6) = true := by decide

/-- 16 R346, 17 R373, R374, R383, 18 R395, R396, 19 R427, R448: the system instructions. -/
theorem test_decode_system :
    reads 0xC001C00000000000#64 (.mfs g0 7#6 0#12) = true ∧
    reads 0xC100050000280000#64 (.mts g0 0x028#12 5#6) = true ∧
    reads 0xC400000000002000#64 (.acq g0 .clu) = true ∧
    reads 0xC710C42800000010#64 (.xlateSlot g0 1#3 3#4 4#6 10#6) = true ∧
    reads 0xC810000000000000#64 (.hrel g0 none) = true ∧
    reads 0xCA21490000020000#64 (.spcast g0 (.chk 2#4) 5#6 9#6) = true ∧
    reads 0xCC01840000000010#64 (.launch g0 1#3 6#6 4#6) = true := by decide

/-- 17 R381: `kw.capld c1, (a0)`, `kw.sbxret`, `kw.tqpop a0, c3, a1, a2`, `kw.futcpl a0, c2, a1, a2`, `kw.rel`; a word of the base instruction set is none of the extension's. -/
theorem test_decode_kw :
    readsKw 0x0005008B#32 (.kwCapld 1#4 10#5) = true ∧ readsKw 0x0000400B#32 .kwSbxret = true ∧
    readsKw 0x18C5852B#32 (.kwTqpop 10#5 3#4 11#5 12#5) = true ∧ readsKw 0x10C5A52B#32 (.kwFutcpl 10#5 2#4 11#5 12#5) = true ∧
    readsKw 0x0000402B#32 .kwRel = true ∧ readsKw 0x00000013#32 .kwRel = false := by decide

/-- The two words that 15 gives as a guarded ADD and as a reserved bit; the all-zero word; NOP. -/
theorem test_decode_reserved :
    reads 0x0001461C00000004#64 (.add { pred := 4#3, inv := false } 5#6 6#6 7#6) = true ∧
    refused 0x0001461C00008000#64 .unusedField = true ∧ refused 0#64 .allZero = true ∧
    reads 0x2700000000000000#64 (.nop g0) = true := by decide

/-! ### WellFormed refuses an ill-formed term for each check -/

theorem test_wf_smoke :
    (Instr.nop { pred := 0#3, inv := true }).wfCheck = some .invertedP0 ∧
    (Instr.bfx g0 false 1#6 2#6 63#6 1#6).wfCheck = some .fieldLimit ∧
    (Instr.add g0 0#6 0#6 0#6).wfCheck = some .allZeroWord ∧
    (Instr.ld g0 true .d none 1#6 2#6 0#32).wfCheck = some .unsignedDouble ∧
    (Instr.ldIndexed g0 false .d (some .sys) 1#6 (.hnd 2#4 3#6)).wfCheck = some .handleOrder ∧
    (Instr.vadd g0 .bf16 0#10 1#10 2#10 0#3).wfCheck = some .typeNotAllowed ∧
    (Instr.vcmp g0 .ltu .fp32 1#3 1#10 2#10 0#3).wfCheck = some .conditionNotAllowed ∧
    (Instr.mfs g0 1#6 0x002#12).wfCheck = some .systemRegister ∧
    (Instr.vadd g0 .fp32 640#10 1#10 2#10 0#3).wfCheck = some .vectorNumber ∧
    (Instr.vadd g0 .fp32 639#10 1#10 2#10 0#3).wf = true := by decide

/-! ### Small states -/

/-- A task of tenant 0 that owns its core's array. -/
def task0 : Task :=
  { launch := 0, idx := 0, tenant := 0, entry := 0x1000#64, arg := 0#64, resident := true, mxa := true, ring := false,
    femax0 := 256#32, trig := false, scr := (0, 0), shr := (0, 0), started := 0 }

/-- A strand at PC 0 with 16 vector registers and a private window of 4,096 bytes. -/
def me0 : Strand :=
  { Strand.init with status := .ready, ids := [(0x021, 16), (0x023, 4096)], femax := 256#32, task := some task0 }

/-- The reset device with the strand of slot 0 of core 0 issuing. -/
def dev (f : Strand → Strand) : State := { State.reset with strands := [(0, f me0)] }

/-- The same with scalar registers given. -/
def devS (l : FMap Word) : State := dev (fun x => { x with s := l })

/-! ### Worked examples of the spec -/

/-- What the next state of an instruction satisfies. -/
def leaves (i : Instr) (s : State) (p : State → Bool) : Bool :=
  match exec i s with
  | .next t => p t
  | _ => false

/-- 01 "Identifiers": core 9 of cluster 37 on die 2. -/
theorem test_core_number :
    coreOf (2 * 64 + 37) 9 = 0xA59 ∧ cluOfCore 0xA59 = 0xA5 ∧ cluIndex 0xA5 = 133 ∧ cluGroup 0xA5 = 33 := by decide

/-- 16, CMP: an immediate of −1 is all ones to an unsigned comparison. -/
theorem test_cmp_ltu_minus_one :
    leaves (.cmpImm g0 .ltu 1#3 4#6 (-1#32)) (devS [(4, 0xFFFFFFFFFFFFFFFE#64)]) (fun t => t.rP 1#3) = true ∧
    leaves (.cmpImm g0 .ltu 1#3 4#6 (-1#32)) (devS [(4, 0xFFFFFFFFFFFFFFFF#64)]) (fun t => !t.rP 1#3) = true := by decide

/-- 16, AMOF: `amof.max.fp32 s6, [s4], s7` with −0 in the word and +0 in s7, on a private word. -/
theorem test_amof_max_zero :
    (let s := { devS [(4, 0x1000000000000010#64)] with mem := writeBytes [] (scrKey 0 0x10) (toBytes 4 0x80000000) }
     leaves (.amof g0 .max .plain 6#6 (.gen 4#6) 7#6) s
       (fun t => t.rS 6#6 == 0x80000000#64 && memNat t (scrKey 0 0x10) 4 == 0)) = true := by decide +kernel

/-- 12, R259 and the example under R260: two products of 2^−24 added to 1.0; 1.0, 3 × 2^−49 and −1.0 leave it unchanged. -/
theorem test_array_cell :
    (let p (neg : Bool) (m : Nat) (e : Int) : FV := .num { neg := neg, man := m, exp := e, st := false }
     cellStep 0x3F800000 [p false 1 (-24), p false 1 (-24), p false 0 0] = 0x3F800001 ∧
     cellStep 0x3F800000 [p false 1 0, p false 3 (-49), p true 1 0] = 0x3F800000) := by decide

/-- 11, the example under R248: 2^24, 1, 1, 1 summed by VRED give 2^24 + 2. -/
theorem test_vred_tree :
    (let s := (dev id).updCore 0 (fun c => { c with v := [(1, vregOf 32 [0x4B800000, 0x3F800000, 0x3F800000, 0x3F800000])] })
     leaves (.vred g0 .add .fp32 3#10 1#10 0#3) s (fun t => elem 32 (t.rV 3) 0 == 0x4B800001)) = true := by decide +kernel

/-- 11, the VCVTO example: 3.0, 500.0, −0.0078125 and −1,000.0 to E4M3 with ibase 4,096 and OLCNT 10. -/
theorem test_vcvto_outliers :
    (let s := (dev (fun x => { x with s := [(1, 4096#64)], k := [(1, 15#16)], olbase := 0x1000000000000000#64, olcap := 64#64, olcnt := 10#64 })).updCore 0
        (fun c => { c with v := [(2, vregOf 32 [0x40400000, 0x43FA0000, 0xBC000000, 0xC47A0000])] })
     leaves (.vcvto g0 .e4m3 .fp32 false 3#10 2#10 1#6 1#3) s (fun t =>
       (List.range 4).map (fun l => elem 8 (t.rV 3) l) == [0x44, 0, 0x84, 0] && t.me.olcnt == 12#64 &&
       memNat t (scrKey 0 80) 8 == 0x43FA0000 * 2 ^ 32 + 4097 && memNat t (scrKey 0 88) 8 == 0xC47A0000 * 2 ^ 32 + 4099)) = true := by
  decide +kernel

/-- 10, the MLDR example: 1.0, 2^−24, 2^−24 and −1.0 added in member order give +0. -/
theorem test_mldr_lane : mldrLane [0x3F800000, 0x33800000, 0x33800000, 0xBF800000] = 0 := by decide

/-- 19, the VTOPK example: the list (5.0, 17), (2.0, 3), (2.0, 40) and a vector of 2.0, NaN, 7.0, −0.0 with IDs from 100 on. -/
theorem test_vtopk :
    (let recs : List Nat := [0x40A00000, 17, 0x40000000, 3, 0x40000000, 40] ++ List.replicate 10 0xFFFFFFFF
     let ones : VReg := BitVec.allOnes 512
     let va := vregOf 32 ([0x40000000, 0x7FC00000, 0x40E00000, 0x80000000] ++ List.replicate 12 0xFF800000)
     let s := (dev id).updCore 0 (fun c =>
       { c with v := [(1, va), (2, vregOf 32 ((List.range 16).map (100 + ·))), (8, vregOf 32 recs), (9, ones), (10, ones), (11, ones), (12, ones),
                      (13, ones), (14, ones), (15, ones)] })
     leaves (.vtopk g0 8#10 1#10 2#10 0#3) s (fun t => (List.range 12).map (fun l => elem 32 (t.rV 8) l) ==
       [0x40E00000, 102, 0x40A00000, 17, 0x40000000, 3, 0x40000000, 40, 0x40000000, 100, 0x80000000, 103] && elem 32 (t.rV 8) 13 == 0xFFFFFFFF && elem 32 (t.rV 15) 15 == 0xFFFFFFFF)) = true := by
  decide +kernel

/-! ### Encoding, steps, memory and reset -/

theorem witness_DecodingInvertsEncoding :
    (Instr.trap g0 63#6 4095#12).wf = true ∧ encode (.trap g0 63#6 4095#12) ≠ [] ∧
    decode [0x00#8, 0x00#8, 0x00#8, 0x00#8, 0x00#8, 0x00#8, 0x00#8, 0x27#8] = .ok (.nop g0) := ⟨by decide, by decide, rfl⟩

theorem witness_WordsStandForTheirInstructions : (8#64 : Word).extractLsb' 0 4 = 8#4 ∧ (0x2700000000000008#64).extractLsb' 0 4 = 8#4 := by
  decide

/-- The same with cluster 0 and the harts READY, and nobody's turn for 8 cycles. -/
def devUp (s : State) : State :=
  { s with regs := fset (fset s.regs (offREADYCLU 0) 1#64) offREADY 0x1000000#64, turns := [{ wait := 8, late := false, act := .pass }] }
/-- Slot 0 of core 0 is due to issue, with a word at PC 0 in the instruction cache. -/
def tileDue (w : Word) : State := devUp ((dev id).updCore 0 (fun c => { c with icache := [(0, w)] }))
def tileTurn0 : State := tileDue 0x2700000000000000#64

theorem witness_StepRuns_tile : TileStrandIssues tileTurn0 0 0 0 0x2700000000000000#64 ∧ reads 0x2700000000000000#64 (.nop g0) = true := by
  unfold TileStrandIssues dueFirst; decide

/-- A strand of that core READY again with the full/empty form it had parked on, and one whose future's deadline is due. -/
theorem witness_StepRuns_due :
    (let s := devUp (dev (fun x => { x with pinstr := 0x3402050000000000#64 })); let s1 := atIssue s 0 0 0
     firstDue (dues s) = some (0, .issue 0 0) ∧ dueFirst s 0 ∧ s1.cycle / 8 ∉ (s1.core 0).idled ∧ fget? s1.soft (coreKey 0) = none ∧
       (s1.strand 0 0).status = .ready ∧ (s1.strand 0 0).pinstr ≠ 0#64 ∧
       reads (s1.strand 0 0).pinstr (.ldfe g0 8#6 5#6 0#32) = true) ∧
    (let s := { devUp State.reset with futures := [(3, { Future.init with state := 1, deadline := 0 })], cycle := 256,
                                       regs := fset [] offREADY 0x20000000#64, turns := [{ wait := 8, late := false, act := .pass }] }
     firstDue (dues s) = some (256, .event (.futureDeadline 3)) ∧ dueFirst s 256) := by
  unfold dueFirst; decide

theorem witness_StepRuns_undefined : refused 0xFF00000000000000#64 .opcUndefined = true ∧ refused 0#64 .allZero = true := by decide

/-- A TLB entry of tenant 0 for VA 0, executable by every cluster group. -/
def tlb0 : TlbEntry :=
  { tenant := 0, va := 0, size := 0, pa := 0x10000000000, perm := 7#3, attr := 1#2, groups := BitVec.allOnes 48, pin := true, d := true }

/-- The same turn with the word in memory behind that entry. -/
def tileTurn1 : State :=
  { devUp ((dev id).updClu 0 (fun c => { c with tlb := [tlb0] })) with mem := writeBytes [] 0x10000000000 (toBytes 8 0x2700000000000000) }

theorem witness_StepRuns_miss :
    (let s1 := atIssue tileTurn1 0 0 0
     firstDue (dues tileTurn1) = some (0, .issue 0 0) ∧ dueFirst tileTurn1 0 ∧ (s1.strand 0 0).status = .ready ∧
     fget? (s1.core 0).icache (icKey 0 0) = none ∧ tlbFind (s1.clu 0) 0 0 .fetch = some tlb0 ∧ fget? s1.soft (homeWord s1 (tlb0.phys 0)) = none ∧
     checkEntry tlb0 .fetch 0 = none ∧ w64 (cohNat s1 (tlb0.phys 0) 8) = 0x2700000000000000#64) := by
  unfold dueFirst; decide

/-- A hart in M-mode whose pc holds a word. -/
def hartTurn0 (w : Nat) : State :=
  { devUp State.reset with mem := writeBytes [] 0x10000000000 (toBytes 4 w), turns := [{ wait := 0, late := false, act := .hart 0 }] }
/-- What a hart fetches: how many bytes, and the word. -/
def fetchIs (s : State) (len code : Nat) : Bool :=
  match hartFetch s (s.hart 0) with
  | .ok (l, c, _) => l == len && c == code
  | .error _ => false
/-- Its turn is the one that comes next, and it takes no interrupt. -/
def hartUp (s : State) : Bool :=
  (firstDue (dues s)).isNone && decide ((nextTurn s).1.act = .hart 0) &&
    (let t := { atTurn s with cur := Issuer.hart 0 }; fnReady t 24 && decide ((t.hart 0).irq t = none))

/-- A word outside the custom opcodes. -/
def notKw (w : W32) : Bool :=
  match decodeKw w with
  | .error .notXkwedar => true
  | _ => false
/-- The hart executes a word of the instruction sets of R116. -/
def execsOk (s : State) (len c : Nat) : Bool :=
  match rvExec s (s.hart 0) len (BitVec.ofNat 32 c) with
  | .ok _ => true
  | _ => false
/-- The word of KW.CAPCLR c0; of `addi x1, x0, 5`; of the compressed `c.nop`; a pc that is not a multiple of 2 is no case. -/
theorem witness_StepRuns_hart :
    (∀ w ∈ [0x0000200B, 0x00500093, 0x00000001], hartUp (hartTurn0 w) = true) ∧
    fetchIs (atTurn (hartTurn0 0x0000200B)) 4 0x0000200B = true ∧ readsKw 0x0000200B#32 (.kwCapclr 0#4) = true ∧
    fetchIs (atTurn (hartTurn0 0x00500093)) 4 0x00500093 = true ∧ notKw 0x00500093#32 = true ∧ 0x00500093#32 ≠ sretWord ∧
    execsOk (atTurn (hartTurn0 0x00500093)) 4 0x00500093 = true ∧ ((expandC 1).map (execsOk (atTurn (hartTurn0 1)) 2)) = some true ∧
    fetchIs (atTurn (hartTurn0 0x00000001)) 2 1 = true ∧ (expandC 1).isSome = true ∧
    (let s := { hartTurn0 0 with harts := [(0, { Hart.init with priv := 0, sbx := true })] }
     hartUp s = true ∧ fetchIs (atTurn s) 4 0 = false ∧ fetchIs (atTurn s) 2 0 = false) := by decide

theorem witness_StepRuns_unpowered :
    ({ dev id with powered := false, turns := [{ wait := 0, late := false, act := .pass }] } : State).powered = false ∧
    powersOn { dev id with powered := false, turns := [{ wait := 0, late := false, act := .pass }] } = false := by decide

/-- The turn of an event, with one byte listed in memory. -/
def eventTurn : State :=
  { State.reset with turns := [{ wait := 0, late := false, act := .event .thermalTrip }], mem := [(0x10000000000, 1#8)] }

theorem witness_StepRuns_event :
    firstDue (dues eventTurn) = none ∧ eventTurn.powered = true ∧ isEvent .thermalTrip = true ∧ eventReady (atTurn eventTurn) .thermalTrip = true := by
  decide

theorem witness_MemoryStaysCanonical :
    eventTurn.MemOk ∧ step eventTurn = .next { eventTurn with turns := [], powered := false } := ⟨rfl, by rfl⟩

theorem witness_ResetState :
    (8191 : Nat) < 8192 ∧ coreExists 3839 = true ∧ coreExists 3840 = false ∧ cluExists 0 = true ∧ cluExists 239 = true := by decide

/-! ### Scalar instructions -/

theorem witness_ScalarAndShiftResults : (dev id).guard g0 = true ∧ (dev id).quiet :=
  ⟨by decide, by unfold State.quiet; decide⟩

theorem witness_HighProductOrderAndFields :
    (dev id).guard g0 = true ∧ (dev id).quiet ∧ (0#6).toNat + (63#6).toNat + 1 ≤ 64 ∧ (63#6).toNat + (0#6).toNat + 1 ≤ 64 :=
  ⟨by decide, by unfold State.quiet; decide, by decide, by decide⟩

theorem witness_ClzAndPopcCount : (dev id).guard { pred := 0#3, inv := false } = true ∧ (dev id).quiet :=
  ⟨by decide, by unfold State.quiet; decide⟩

/-- A strand whose rotation count is spent. -/
def offrot0 : Strand := { me0 with status := .offrot, rot := 0 }

theorem witness_DivideAndRemainder :
    (dev id).guard g0 = true ∧ (dev (fun _ => offrot0)).strand 0 0 = offrot0 ∧ offrot0.status = .offrot ∧ offrot0.rot = 0 ∧
    offrot0.stepping = false ∧ offrot0.haltReq = false := by decide

theorem witness_ComparisonsAndLogicWritePredicates : (dev id).guard { pred := 1#3, inv := true } = true ∧ (dev id).quiet :=
  ⟨by decide, by unfold State.quiet; decide⟩

theorem witness_HardwiredRegisters : (1#6 : SReg) ≠ 0#6 ∧ (7#3 : PReg) ≠ 0#3 ∧ (7#3 : KReg) ≠ 0#3 := by decide

/-! ### Guards, branches and traps -/

theorem witness_FalseGuardHasNoEffect :
    (Instr.yield { pred := 1#3, inv := false }).guard? = some { pred := 1#3, inv := false } ∧
    (Instr.sub { pred := 1#3, inv := false } 1#6 2#6 3#6).guard? = some { pred := 1#3, inv := false } ∧
    (dev id).guard { pred := 1#3, inv := false } = false ∧
    regRange (dev id) (.sub { pred := 1#3, inv := false } 1#6 2#6 3#6) = none ∧ (dev id).quiet :=
  ⟨by decide, by decide, by decide, by decide, by unfold State.quiet; decide⟩

/-- A guard on P1, which the strands of `dev` hold false. -/
def gf : Guard := { pred := 1#3, inv := false }

/-- A device whose next turn issues a NOP under a false guard. -/
def tileTurnF : State := tileDue 0x2700000000000001#64

theorem witness_TileStrandIssues : TileStrandIssues tileTurnF 0 0 0 0x2700000000000001#64 := by
  unfold TileStrandIssues dueFirst; decide

theorem witness_FalseGuardHasNoEffect_step :
    reads 0x2700000000000001#64 (.nop gf) = true ∧ (Instr.nop gf).guard? = some gf ∧ (atIssue tileTurnF 0 0 0).guard gf = false ∧
    regRange (atIssue tileTurnF 0 0 0) (.nop gf) = none ∧ (atIssue tileTurnF 0 0 0).quiet := by
  unfold State.quiet; decide

theorem witness_RegisterBeyondTheWindowFreezes :
    (Instr.vperm g0 15#10 16#10 17#10 0#3).guard? = some g0 ∧
    (Instr.vperm g0 15#10 16#10 17#10 0#3).vregs.find? (fun r => decide ((dev id).me.vcount ≤ r)) = some 16 := by decide

/-- Level 0 of cluster 0's chain: a ring of 16 entries at the start of HBM4E. -/
def chained : State :=
  { dev id with regs := fset (fset [] (offFRBASE 0 0) 0x10000000000#64) (offFRCFG 0 0) 0x8000000000000004#64 }

theorem witness_FaultFreezesTheStrand :
    frEnabled chained 0 (curLvl chained 0) = true ∧ frUsed chained 0 (curLvl chained 0) < frSize chained 0 (curLvl chained 0) := by decide

theorem witness_FaultPacketHoldsPcAndInfo :
    frBase chained 0 0 + 32 * (frTail chained 0 0 % frSize chained 0 0) = 0x10000000000 ∧
    ∀ j, j < 32 → physOk (0x10000000000 + j) = true := by decide

theorem canonical_zero : CanonicalVa 0#64 := fun i _ h =>
  (by decide : ∀ i, i < 64 → (0#64).getLsbD i = (0#64).getLsbD 56) i h
theorem not_canonical : ¬ CanonicalVa 0x0100000000000000#64 := fun h =>
  absurd (h 57 (by decide) (by decide)) (by decide)

/-- s1 = 2, s2 = 1, s3 = 4, s4 = 2^56. -/
def devB : State := devS [(1, 2), (2, 1), (3, 4), (4, 0x0100000000000000#64)]

theorem witness_BranchesReachOrRefuseTheirTargets :
    devB.guard g0 = true ∧ devB.quiet ∧ CanonicalVa (devB.me.pc + 8#64 * (0#40).signExtend 64) ∧
    devB.rS 1#6 - 1#64 ≠ 0#64 ∧ devB.rS 2#6 - 1#64 = 0#64 ∧
    CanonicalVa (devB.rS 0#6) ∧ (devB.rS 0#6).extractLsb' 0 3 = 0#3 ∧
    ¬ CanonicalVa ((dev (fun x => { x with pc := 0x00FFFFFFFFFFFFF8#64 })).me.pc + 8#64 * (1#40).signExtend 64) ∧
    devB.rS 0#6 ≠ 1#64 ∧ (devB.rS 3#6).extractLsb' 0 3 ≠ 0#3 ∧
    (devB.rS 4#6).extractLsb' 0 3 = 0#3 ∧ ¬ CanonicalVa (devB.rS 4#6) :=
  ⟨by decide, by unfold State.quiet; decide, canonical_zero, by decide, by decide, canonical_zero, by decide, not_canonical, by decide,
    by decide, by decide, not_canonical⟩

theorem witness_NopYieldTrapAndBreakpoint : (dev id).quiet ∧ (dev id).guard g0 = true :=
  ⟨by unfold State.quiet; decide, by decide⟩

theorem witness_ExitEmptiesTheSlot :
    (dev id).guard g0 = true ∧ (dev id).me.task = some task0 ∧ (∀ e ∈ ((dev id).core (dev id).coreId).sb, e.slot ≠ (dev id).slotId) ∧
    task0.mxa = true ∧ ((dev id).core (dev id).coreId).arr.run = none ∧ ((dev id).core (dev id).coreId).arr.queue = [] := by decide

/-! ### Memory -/

/-- Granules of core 0's scratchpad and block 0 of cluster 0's shared memory owned by tenant 0. -/
def owned : FMap Byte :=
  [(offCSHOWN 0 0, 0x80#8), (offCSHOWN 0 1, 0x80#8), (offSCROWN 0 0, 0x80#8), (offSCROWN 0 1, 0x80#8), (offSCROWN 0 1023, 0x80#8)]
def devO (l : FMap Word) : State := { devS l with own := owned }

theorem witness_NearPointer_tags :
    (askLoad 8).off64 = false ∧ ptrTag 0x8000000000000000#64 ≥ 8 ∧ (askLoad 8).tags (ptrTag 0x6000000000000000#64) = false ∧
    (askLoad 8).tags 1 = true ∧ (askLoad 8).tags 2 = true ∧ (askLoad 8).tags 3 = true := by decide

theorem witness_NearPointer_private :
    ptrTag 0x1000000000040000#64 = 1 ∧ fld 0x1000000000040000#64 59 18 ≠ 0 ∧
    fld 0x1000000000000004#64 59 18 = 0 ∧ (0x1000000000000004#64).toNat % 8 ≠ 0 ∧
    fld 0x1000000000000FF8#64 59 18 = 0 ∧ (0x1000000000000FF8#64).toNat % 8 = 0 ∧
    fld 0x1000000000000FF8#64 17 0 + 8 ≤ (devO []).me.privlen ∧ (devO []).me.privlen < fld 0x1000000000001000#64 17 0 + 8 ∧
    dataMatch (devO []) true false 0x1000000000000FF8 8 = none := by decide

theorem witness_NearPointer_absolute :
    ptrTag 0x2000000000000000#64 = 2 ∧ fld 0x2000000000040000#64 47 18 ≠ 0 ∧ coreExists (fld 0x2300000000000000#64 59 48) = false ∧
    fld 0x2001000000000000#64 47 18 = 0 ∧ coreExists (fld 0x2001000000000000#64 59 48) = true ∧
    fld 0x2001000000000000#64 59 48 ≠ (devO []).coreId ∧ fld 0x2000000000000004#64 59 48 = (devO []).coreId ∧
    (0x2000000000000004#64).toNat % 8 ≠ 0 ∧ fld 0x200000000003FFF8#64 17 0 + 8 ≤ 2 ^ 18 ∧
    (∀ j, 0x3FFF8 / 256 ≤ j → j ≤ (0x3FFF8 + 8 - 1) / 256 → (fget 0#8 (devO []).own (offSCROWN (devO []).coreId j)).toNat = 0x80) := by
  refine ⟨by decide, by decide, by decide, by decide, by decide, by decide, by decide, by decide, by decide, fun j h1 h2 => ?_⟩
  have : j = 1023 := by omega
  subst this; decide

theorem witness_NearPointer_shared :
    ptrTag 0x3000000000001FF8#64 = 3 ∧ fld 0x3000000000001FF8#64 51 22 = 0 ∧
    fld 0x3000000000001FF8#64 59 52 = (devO []).cluId ∧ cluExists (devO []).cluId = true ∧ (0x3000000000001FF8#64).toNat % 8 = 0 ∧
    fld 0x3000000000001FF8#64 21 0 + 8 ≤ 2 ^ 22 ∧ (fget 0#8 (devO []).own (offCSHOWN 0 1)).toNat = 0x80 ∧
    (fget 0#8 (devO []).own (offCSHOWN 0 2)).toNat ≠ 0x80 := by decide

/-- s1 points to the private window, s2 = 8, s3 = 5; the word there holds −1. -/
def devN : State :=
  { devS [(1, 0x1000000000000010#64), (2, 1#64), (3, 5#64), (4, 0x3000000000000000#64)] with
    own := owned, mem := writeBytes [] (scrKey 0 0x18) (toBytes 8 0xFFFFFFFFFFFFFFFF) }

theorem witness_NearLoadsExtendTheBytesRead :
    devN.guard g0 = true ∧ devN.quiet ∧ NearAt devN (askLoad 1) (.ptr (devN.rS 1#6 + (8#32 : W32).signExtend 64)) 8 (scrKey 0 0x18) ∧
    NearAt devN (askLoad 8) (.ptr (devN.rS 1#6 + (devN.rS 2#6 <<< (3#2).toNat))) 8 (scrKey 0 0x18) :=
  ⟨by decide, by unfold State.quiet; decide, by unfold NearAt; exact ⟨rfl, by decide, by decide⟩,
    by unfold NearAt; exact ⟨rfl, by decide, by decide⟩⟩

theorem witness_NearStoresWriteTheirBytes :
    devN.guard g0 = true ∧ devN.quiet ∧ NearAt devN (askStore 1) (.ptr (devN.rS 1#6 + (0#32 : W32).signExtend 64)) 1 (scrKey 0 0x10) ∧
    NearAt devN (askStore 1) (.ptr (devN.rS 1#6 + (devN.rS 2#6 <<< (3#2).toNat))) 8 (scrKey 0 0x18) :=
  ⟨by decide, by unfold State.quiet; decide, by unfold NearAt; exact ⟨rfl, by decide, by decide⟩,
    by unfold NearAt; exact ⟨rfl, by decide, by decide⟩⟩

theorem witness_NearAtomicsExchange :
    devN.guard g0 = true ∧ devN.quiet ∧ NearAt devN (askAtomic 8) (.ptr (devN.rS 1#6)) 8 (scrKey 0 0x10) ∧
    NearAt devN (askReduce 8) (.ptr (devN.rS 1#6)) 8 (scrKey 0 0x10) ∧ NearAt devN (askAtomic 4) (.ptr (devN.rS 1#6)) 4 (scrKey 0 0x10) ∧
    NearAt devN (askReduce 4) (.ptr (devN.rS 1#6)) 4 (scrKey 0 0x10) :=
  ⟨by decide, by unfold State.quiet; decide, by unfold NearAt; exact ⟨rfl, by decide, by decide⟩,
    by unfold NearAt; exact ⟨rfl, by decide, by decide⟩, by unfold NearAt; exact ⟨rfl, by decide, by decide⟩,
    by unfold NearAt; exact ⟨rfl, by decide, by decide⟩⟩

/-- s1 points to cluster 1's shared memory, whose first block tenant 0 owns. -/
def devF : State := { devS [(1, 0x3010000000000000#64)] with own := [(offCSHOWN 1 0, 0x80#8)] }

theorem witness_FarStoreIsPostedThenPerformed :
    devF.guard g0 = true ∧ devF.quiet ∧ shrKey 1 0 % 8 + 8 ≤ 8 ∧
    resolve devF (askStore 1) (.ptr (devF.rS 1#6 + (0#32 : W32).signExtend 64)) 8 0 =
      .ok [{ off := 0, len := 8, place := .bank (shrKey 1 0) true }] ∧
    scrKey devF.coreId 0 + 2 ^ 18 ≤ shrKey 1 0 := ⟨by decide, by unfold State.quiet; decide, by decide, rfl, by decide⟩

/-- An entry of each attribute for VA 0. -/
def tlbAttr (a : BitVec 2) : TlbEntry := { tlb0 with attr := a }
/-- A line of 128 bytes held under an attribute. -/
def line0 (a : Attr) (tag : Nat) : CLine :=
  { attr := a, st := .e, td := tag, tv := tag, ts := tag, dirty := 0, data := List.replicate 128 7#8 }
/-- A load of VA 0 under an attribute, with a line held or not; the strand READY or parked on the load. -/
def devP (a : BitVec 2) (l : FMap CLine) (vd : Nat) (f : Strand → Strand) : State :=
  (dev f).updClu 0 (fun c => { c with tlb := [tlbAttr a], lines := l, vd := vd })
def ldI : Instr := .ld g0 false .d none 5#6 0#6 0#32
def parkedFor (i : Instr) (ph : Phase) (x : Strand) : Strand :=
  { x with status := .parked, phase := ph, pinstr := (encodeTile i).getD 0 }
def waitsB (s : State) (ph : Phase) (i : Instr) : Bool :=
  decide (s.me.status = .parked) && decide (s.me.phase = ph) && reads s.me.pinstr i
def page0 : Nat := 0x10000000000
def lineNo : Nat := lineOf page0

/-- The place of the load, as the parked strand holds it. -/
def atPage (a : BitVec 2) : List Piece := [{ off := 0, len := 8, place := .page page0 a 0 }]
def devPp (a : BitVec 2) (l : FMap CLine) (vd : Nat) (pl : FMap (Option (List Byte))) : State :=
  devP a l vd (fun x => { parkedFor ldI .access x with pplaces := atPage a, plines := pl })
/-- The load waits for its reply, and nothing stops it. -/
def pageWaits (s : State) (a : BitVec 2) : Bool :=
  reads s.me.pinstr ldI && decide (s.me.status = .parked) && decide (s.me.phase = .access) && decide (s.me.pplaces = atPage a) &&
    decide (s.me.pparts = []) && decide (s.part = none) && decide (s.soft = []) && decide ((s.clu 0).lines.length < cluLines) &&
    decide (s.cur = .strand 0 0) && decide (s.fabTx = [] ∧ s.posted = [])

theorem witness_PageLoad_issue :
    PageAt (devP 0#2 [] 0 id) (askLoad 1) (.ptr ((devP 0#2 [] 0 id).rS 0#6 + (0#32 : W32).signExtend 64)) 8 page0 0#2 0 ∧
    hcHeld (devP 0#2 [] 0 id) (cluIndex 0) lineNo = none ∧
    (devP 1#2 [] 0 id).guard g0 = true ∧ (devP 1#2 [] 0 id).quiet ∧
    PageAt (devP 1#2 [] 0 id) (askLoad 1) (.ptr ((devP 1#2 [] 0 id).rS 0#6 + (0#32 : W32).signExtend 64)) 8 page0 1#2 0 ∧
    myTxs (devP 1#2 [] 0 id) 0 0 = [] ∧ (devP 1#2 [] 0 id).posted = [] ∧ (1#2 : BitVec 2) ≠ 0#2 :=
  ⟨by unfold PageAt; exact ⟨rfl, by decide⟩, by decide, by decide, by unfold State.quiet; decide, by unfold PageAt; exact ⟨rfl, by decide⟩,
    by decide, by decide, by decide⟩

theorem witness_PageLoad_reply :
    (let s := devPp 0#2 [] 0 [(lineNo, some (List.replicate 128 7#8))]
     fget? s.me.plines lineNo = some (some (List.replicate 128 7#8)) ∧ pageWaits s 0#2 = true) ∧
    (let s := devPp 0#2 [(lineKey 0 lineNo, line0 .hc 0)] 0 []
     hcHeld s (cluIndex s.cluId) lineNo = some (.e, List.replicate 128 7#8) ∧ fget? s.me.plines lineNo = none ∧ pageWaits s 0#2 = true) ∧
    (let s := devPp 1#2 [(lineKey 1 lineNo, line0 .sc 0)] 0 []
     cluLine s s.cluId 1 lineNo = some (line0 .sc 0) ∧ scFresh (s.clu s.cluId) (line0 .sc 0) = true ∧ pageWaits s 1#2 = true) ∧
    (let s := devPp 1#2 [(lineKey 1 lineNo, line0 .sc 0)] 1 []
     cluLine s s.cluId 1 lineNo = some (line0 .sc 0) ∧ scFresh (s.clu s.cluId) (line0 .sc 0) = false ∧ pageWaits s 1#2 = true) ∧
    (let s := devPp 1#2 [] 0 []; cluLine s s.cluId 1 lineNo = none ∧ cluLine s s.cluId 2 lineNo = none ∧ pageWaits s 1#2 = true) ∧
    (let s := devPp 2#2 [(lineKey 2 lineNo, line0 .cp 0)] 0 []
     cluLine s s.cluId 2 lineNo = some (line0 .cp 0) ∧ pageWaits s 2#2 = true ∧ (s.quiet ↔ True)) ∧
    pageWaits (devPp 2#2 [] 0 []) 2#2 = true := by
  unfold State.quiet; decide

/-! ### Full/empty words and barriers -/

/-- The word at the window's start EMPTY or FULL, its bank's list as given. -/
def devFe (full : Bool) (l : FMap (List WaitEnt)) (f : Strand → Strand) : State :=
  { dev (fun x => f { x with s := [(1, 0x1000000000000000#64), (2, 3#64), (3, 0x2000000000000000#64)] }) with
    own := owned, fe := if full then [] else [(scrKey 0 0, true)], waits := l }
def at0 : Addr := .ptr (0x1000000000000000#64 + (0#32 : W32).signExtend 64)

theorem witness_FullEmptyForms :
    (devFe true [] id).guard g0 = true ∧ (devFe true [] id).quiet ∧ scrKey 0 0 % 8 = 0 ∧
    waitsOf (devFe true [] id) (bankOf (scrKey 0 0)) = [] ∧ feFull (devFe true [] id) (scrKey 0 0) = true ∧
    feFull (devFe false [] id) (scrKey 0 0) = false ∧ (devFe true [] id).rS 1#6 = 0x1000000000000000#64 ∧
    NearAt (devFe true [] id) (askFe .ldfe) at0 8 (scrKey 0 0) ∧ NearAt (devFe true [] id) (askFe .ldff) at0 8 (scrKey 0 0) ∧
    NearAt (devFe false [] id) (askFe .stef) at0 8 (scrKey 0 0) ∧ NearAt (devFe false [] id) (askFe .stff) at0 8 (scrKey 0 0) ∧
    NearAt (devFe false [] id) (askFe .feset) at0 8 (scrKey 0 0) ∧ NearAt (devFe false [] id) (askFe .feq) at0 8 (scrKey 0 0) := by
  refine ⟨by decide, by unfold State.quiet; decide, by decide, by decide, by decide, by decide, by decide, ?_, ?_, ?_, ?_, ?_, ?_⟩ <;>
    (unfold NearAt; exact ⟨rfl, by decide, by decide⟩)

def ldfeI : Instr := .ldfe g0 5#6 1#6 0#32
def fullList : FMap (List WaitEnt) :=
  [(bankOf (scrKey 0 0), List.replicate 16 { core := 0, slot := 1, word := scrKey 0 0, full := true, bar := none })]

theorem witness_FullEmptyWaits :
    (devFe false [] id).guard g0 = true ∧ NearAt (devFe false [] id) (askFe .ldfe) at0 8 (scrKey 0 0) ∧
    (devFe false [] (fun x => { x with femax := 0#32 })).me.femax = 0#32 ∧ (devFe false [] id).me.femax ≠ 0#32 ∧
    (waitsOf (devFe false [] id) (bankOf (scrKey 0 0))).length < 16 ∧
    16 ≤ (waitsOf (devFe false fullList id) (bankOf (scrKey 0 0))).length ∧
    (let s := devFe false fullList (fun x => { parkedFor ldfeI .listed x with pkind := 1, plimit := 0 })
     s.me.status = .parked ∧ s.me.phase = .listed ∧ reads s.me.pinstr ldfeI = true ∧ s.me.pkind = 1 ∧ s.me.plimit ≤ waited s s.me) ∧
    (let s := { devFe true [] (parkedFor ldfeI .retry) with cycle := 64 }
     waitsB s .retry ldfeI = true ∧ s.cur = .strand 0 0 ∧ s.me.pstart < s.cycle ∧ s.me.issueAt ≤ s.cycle ∧ (s.cycle - s.me.pstart) % 64 = 0 ∧ feFull s (scrKey 0 0) = true ∧ waitsOf s (bankOf (scrKey 0 0)) = []) := by
  refine ⟨by decide, ?_, by decide, by decide, by decide, by decide, by decide, by decide⟩
  unfold NearAt; exact ⟨rfl, by decide, by decide⟩

/-- The barrier word of 3 participants with `n` arrived, its release done. -/
def devBar (n : Nat) : State :=
  { devFe true [] (fun x => { x with prel := true }) with mem := writeBytes [] (scrKey 0 0) (toBytes 4 n) }

theorem witness_BarrierArrivals :
    (devBar 2).guard g0 = true ∧ (devBar 2).quiet ∧ (devBar 2).me.prel = true ∧
    NearAt (devBar 2) askBar (.ptr ((devBar 2).rS 3#6)) 8 (scrKey 0 0) ∧ 0 < ((devBar 2).rS 2#6).toNat ∧
    ((devBar 2).rS 2#6).toNat ≤ 65535 ∧ waitsOf (devBar 2) (bankOf (scrKey 0 0)) = [] ∧
    ((devBar 2).rS 2#6).toNat ≤ fromBytes (memGet (devBar 2) (scrKey 0 0) 4) + 1 ∧
    fromBytes (memGet (devBar 0) (scrKey 0 0) 4) + 1 < ((devBar 0).rS 2#6).toNat ∧ (devBar 0).me.femax ≠ 0#32 :=
  ⟨by decide, by unfold State.quiet; decide, by decide, by unfold NearAt; exact ⟨rfl, by decide, by decide⟩, by decide, by decide,
    by decide, by decide, by decide, by decide⟩

/-! ### The vector ALU -/

/-- v1 holds 1, v2 the FP32 number 2.0 in lane 0 and 500.0 in lane 1; k1 names lanes 0 and 1; OLBASE the private window. -/
def devV : State :=
  (dev (fun x => { x with k := [(1, 3#16)], olbase := 0x1000000000000000#64, olcap := 64#64, olcnt := 0#64 })).updCore 0
    (fun c => { c with v := [(1, 1#512), (2, 0x43FA000040000000#512)] })

theorem witness_VectorIntegerLanes :
    devV.quiet ∧ Runs (.vadd g0 .int32 3#10 1#10 2#10 1#3) g0 devV ∧ Runs (.vsh g0 .sra .uint32 15#10 1#10 (.imm 63#6) 1#3) g0 devV :=
  ⟨by unfold State.quiet; decide, by unfold Runs; decide, by unfold Runs; decide⟩

theorem witness_VectorFloatLanes :
    devV.quiet ∧ Runs (.vfma g0 .fp32 3#10 1#10 2#10 2#10 1#3) g0 devV ∧ Runs (.vsqrt g0 15#10 2#10 1#3) g0 devV ∧
    Runs (.vcvt g0 .bf16 .fp32 false 3#10 2#10 1#3) g0 devV ∧ tyBits .bf16 ≤ 32 ∧ Runs (.vcvt g0 .fp32 .fp32 true 3#10 2#10 1#3) g0 devV ∧
    Runs (.vcvto g0 .int8 .fp32 false 3#10 0#10 1#6 1#3) g0 devV ∧
    (∀ l, l < 16 → outlier .int8 .fp32 devV.rm (elem (tyBits .fp32) (devV.rV 0) l) = false) :=
  ⟨by unfold State.quiet; decide, by unfold Runs; decide, by unfold Runs; decide, by unfold Runs; decide, by decide, by unfold Runs; decide,
    by unfold Runs; decide, by decide +kernel⟩

theorem witness_ConvertWithOutliersFillsTheList :
    devV.quiet ∧ Runs (.vcvto g0 .e4m3 .fp32 false 3#10 2#10 1#6 1#3) g0 devV ∧
    0 < ((List.range 16).filter (fun l => (devV.rK 1#3).getLsbD l && outlier .e4m3 .fp32 devV.rm (elem 32 (devV.rV 2) l))).length ∧
    checkSpace devV tagsScratch 0x1000000000000000#64 = none ∧ fld 0x1000000000000000#64 2 0 = 0 ∧
    localPlace devV 0x1000000000000000#64 8 = some (.bank (scrKey 0 0) false) ∧ dataMatch devV false true 0x1000000000000000 8 = none ∧
    boardHit devV 0 0 8 = false ∧ devV.me.olcnt.toNat + 1 ≤ devV.me.olcap.toNat ∧
    (let x := { devV.me with olcap := 0#64 }; x.olcap.toNat < x.olcnt.toNat + 1) :=
  ⟨by unfold State.quiet; decide, by unfold Runs; decide, by decide +kernel, by decide, by decide, by decide, by decide, by decide,
    by decide, by decide⟩

theorem witness_VectorCompareMoveAndReduce :
    devV.quiet ∧ Runs (.vcmp g0 .lt .fp32 2#3 1#10 2#10 1#3) g0 devV ∧ Runs (.vsel g0 3#10 1#10 2#10 1#3 0#3) g0 devV ∧
    Runs (.vperm g0 3#10 1#10 2#10 0#3) g0 devV ∧ Runs (.vbcst g0 .uint8 3#10 1#6 0#3) g0 devV ∧ tyBits .uint8 ≤ 32 ∧
    Runs (.vmovs g0 (.toScalar 4#6 1#10) 15#4 0#3) g0 devV ∧ Runs (.vmovs g0 (.toVector 1#10 4#6) 15#4 0#3) g0 devV ∧
    Runs (.vidx g0 .uint32 3#10 0#6 0#3) g0 devV ∧ Runs (.vred g0 .add .int32 3#10 1#10 0#3) g0 devV ∧
    Runs (.rng g0 3#10 1#6 2#6 3#6) g0 devV := by
  refine ⟨by unfold State.quiet; decide, ?_, ?_, ?_, ?_, by decide, ?_, ?_, ?_, ?_, ?_⟩ <;> (unfold Runs; decide)

theorem witness_TopKKeepsTheBestCandidates : devV.quiet ∧ Runs (.vtopk g0 8#10 1#10 2#10 1#3) g0 devV :=
  ⟨by unfold State.quiet; decide, by unfold Runs; decide⟩

/-- s1 points to the private window, s2 = 4; k1 names lane 15 only. -/
def devVm (f : Strand → Strand) : State :=
  (dev (fun x => f { x with s := [(1, 0x1000000000000000#64), (2, 4#64)], k := [(1, 0x8000#16)] }))

theorem lanesAt_15 (s : State) (q : Ask) (f : Nat → Addr) (key : Nat → Nat) (hk : s.rK 1#3 = 0x8000#16)
    (h0 : s.me.prel = false)
    (h : resolve s q (f 15) 4 (4 * 15) = .ok [{ off := 4 * 15, len := 4, place := .bank (key 15) false }] ∧
      Piece.onBoard s { off := 4 * 15, len := 4, place := .bank (key 15) false } = false ∧ fget? s.soft (wordOf (key 15)) = none) :
    LanesAt s q f 1#3 key := by
  have one : lanePieces s 1#3 key = [{ off := 4 * 15, len := 4, place := .bank (key 15) false }] := by
    unfold lanePieces; rw [hk]; rfl
  refine ⟨fun p hp => ?_, h0, fun l hl hb => ?_⟩
  · rw [one, List.mem_singleton] at hp
    subst hp
    refine ⟨h.2.1, fun k hk => ?_⟩
    rw [Piece.words, List.mem_singleton] at hk
    subst hk
    exact h.2.2
  · rw [hk] at hb
    have : l = 15 := (by decide : ∀ l, l < 16 → (0x8000#16).getLsbD l = true → l = 15) l hl hb
    subst this
    exact h.1

def vldI : Instr := .vlds g0 3#10 (.gen 1#6) 2#6 1#3

theorem witness_VectorMemory_unit :
    (devVm id).quiet ∧ myTxs (devVm id) 0 0 = [] ∧ (∃ l, l < 16 ∧ ((devVm id).rK 1#3).getLsbD l = true) ∧
    LanesAt (devVm id) (askLoad 4) (fun l => .ptr ((devVm id).rS 1#6 + ((devVm id).rS 0#6 <<< (0#2).toNat) + BitVec.ofNat 64 (4 * l)))
      1#3 (fun l => scrKey 0 (4 * l)) ∧ Runs (.vld g0 3#10 (.gen 1#6 0#6 0#2 none) 1#3) g0 (devVm id) ∧
    LanesAt (devVm id) (askStore 4) (fun l => .ptr ((devVm id).rS 1#6 + ((devVm id).rS 0#6 <<< (0#2).toNat) + BitVec.ofNat 64 (4 * l)))
      1#3 (fun l => scrKey 0 (4 * l)) ∧ ptrTag ((devVm id).rS 1#6 + ((devVm id).rS 0#6 <<< (0#2).toNat)) < 5 :=
  ⟨by unfold State.quiet; decide, by decide, ⟨15, by decide, by decide⟩, lanesAt_15 _ _ _ _ (by decide) (by decide) ⟨rfl, by decide, by decide⟩,
    by unfold Runs; decide, lanesAt_15 _ _ _ _ (by decide) (by decide) ⟨rfl, by decide, by decide⟩, by decide⟩

theorem lane15_zero : laneW ((devVm id).rV 1) 15 = 0#32 := by decide +kernel

theorem witness_VectorMemory_reply :
    LanesAt (devVm id) (askLoad 4) (fun l => .ptr ((devVm id).rS 1#6 + BitVec.ofNat 64 l * (devVm id).rS 2#6)) 1#3
      (fun l => scrKey 0 (4 * l)) ∧ Runs vldI g0 (devVm id) ∧
    (let s := devVm (fun x => { parkedFor vldI .access x with pplaces := [{ off := 60, len := 4, place := .bank (scrKey 0 60) false }] })
     waitsB s .access vldI = true ∧ s.cur = .strand 0 0 ∧ s.me.pplaces = lanePieces s 1#3 (fun l => scrKey 0 (4 * l)) ∧ s.me.pparts = [] ∧
       s.part = none) ∧
    LanesAt (devVm id) (askLoad 4) (fun l => .ptr ((devVm id).rS 1#6 +
      ((laneW ((devVm id).rV 1) l).signExtend 64 <<< (2#2).toNat))) 1#3 (fun _ => scrKey 0 0) :=
  ⟨lanesAt_15 _ _ _ _ (by decide) (by decide) ⟨rfl, by decide, by decide⟩, by unfold Runs; decide, by decide,
    lanesAt_15 _ _ _ _ (by decide) (by decide) ⟨by simp only [lane15_zero]; rfl, by decide, by decide⟩⟩

/-! ### The matrix array -/

/-- The launch of `task0`, of a gang. -/
def launch0 : Launch :=
  { id := 0, tenant := 0, words := [0, 0x0001000100010001#64], resident := true, placed := 0, live := 1, trigd := 0, outcome := 0, met := false,
    pend := none, holds := [], host := none, spill := none }
/-- s1 points to the private window, s2 = 1, s3 = 63; a latch of INT8 has been loaded. -/
def devM : State :=
  { (devS [(1, 0x1000000000000000#64), (2, 1#64), (3, 63#64)]).updCore 0
      (fun c => { c with arr := { c.arr with shadow := { loaded := true, lty := 7#4, used := 4096, scale := false, ring := false } } }) with
    launches := [(0, launch0)] }
/-- The same with a full queue, and with a task that does not own the array. -/
def mcmd0 : MCmd := { word := 0x8000000000000000#64, pc := 0, slot := 0, ops := [], caps := [], sbIds := [], vdst := none }
def devMfull : State := devM.updCore 0 (fun c => { c with arr := { c.arr with queue := List.replicate 16 mcmd0 } })
def devMno : State := devM.setMe { devM.me with task := some { task0 with mxa := false } }

theorem witness_MatrixCommands_issue :
    devM.quiet ∧ (devM.me.task.map (·.mxa)).getD false = true ∧ (devM.core 0).arr.queue.length + (devM.core 0).arr.run.toList.length < 16 ∧
    (devM.core 0).sb.length + 1 ≤ 16 ∧ ((launchOf devM).map (·.ringed)).getD false = true ∧
    ScratchAt devM (devM.rS 1#6) 64 4096 (scrKey 0 0) ∧ ScratchAt devM (devM.rS 1#6) 8 (8 * (devM.rS 3#6).toNat) (scrKey 0 0) ∧
    ScratchAt devM (devM.rS 1#6) 8 (8 * tyBits .fp32 * (devM.rS 2#6).toNat) (scrKey 0 0) ∧
    (devM.rS 3#6).toNat + (devM.rS 2#6).toNat ≤ 64 ∧ 0 < (devM.rS 2#6).toNat ∧ (devM.core 0).arr.shadow.loaded = true ∧
    tyClass (tyOf (devM.core 0).arr.shadow.lty.toNat) = tyClass .uint8 ∧ (devM.rS 3#6).toNat < 64 :=
  ⟨by unfold State.quiet; decide, by decide, by decide, by decide, by decide, by unfold ScratchAt; decide, by unfold ScratchAt; decide,
    by unfold ScratchAt; decide, by decide, by decide, by decide, by decide, by decide⟩

theorem witness_MatrixCommands_runs :
    Runs (.mzero g0) g0 devM ∧ Runs (.mring g0) g0 devM ∧ Runs (.mlb g0 .int8 (.vec 15#10 63#8)) g0 devM ∧
    Runs (.mlb g0 .int8 (.plain 1#6)) g0 devM ∧ Runs (.mma g0 false none .dense .uint8 1#6 3#6) g0 devM ∧
    Runs (.mout g0 1#6 3#6 0#6 0#6 0#6) g0 devM ∧ Runs (.mdrain g0 (.mem .fp32 .rne false false true 1#6 3#6 2#6)) g0 devM ∧
    Runs (.mdrain g0 (.vec true 12#10 3#6)) g0 devM ∧ Runs (.mzero g0) g0 devMno ∧ Runs (.mzero g0) g0 devMfull ∧
    (devMno.me.task.map (·.mxa)).getD false = false ∧
    16 ≤ (devMfull.core 0).arr.queue.length + (devMfull.core 0).arr.run.toList.length := by
  refine ⟨?_, ?_, ?_, ?_, ?_, ?_, ?_, ?_, ?_, ?_, by decide, by decide⟩ <;> (unfold Runs; decide)

/-- An array that executes or holds one command. -/
def arrHas (w : Word) (caps : List Nat) : State :=
  devM.updCore 0 (fun c => { c with arr := { c.arr with run := some { mcmd0 with word := w, caps := caps } } })
def wordFor (i : Instr) : Word := (encodeTile i).getD 0
def arrayRunsB (s : State) (m : MCmd) (i : Instr) : Bool :=
  decide ((s.core 0).arr.run = some m) && decide ((s.core 0).arr.done = false) && reads m.word i && !m.rings &&
    (cmdWords s 0 m).all (fun w => decide (fget? s.soft w = none))
theorem arrayRuns_of (i : Instr) (caps : List Nat)
    (h : arrayRunsB (arrHas (wordFor i) caps) { mcmd0 with word := wordFor i, caps := caps } i = true) :
    ArrayRuns (arrHas (wordFor i) caps) 0 { mcmd0 with word := wordFor i, caps := caps } i := by
  simp only [arrayRunsB, Bool.and_eq_true, decide_eq_true_eq, List.all_eq_true, Bool.not_eq_true'] at h
  obtain ⟨⟨⟨⟨h1, h2⟩, h3⟩, h4⟩, h5⟩ := h
  refine ⟨h1, h2, ?_, h4, h5⟩
  revert h3
  unfold reads
  split <;> simp_all

theorem witness_MatrixCommands_completion :
    (∃ m, ArrayRuns (arrHas (wordFor (.mzero g0)) []) 0 m (.mzero g0)) ∧
    (∃ m, ArrayRuns (arrHas (wordFor (.mlb g0 .int8 (.vec 15#10 63#8))) [5]) 0 m (.mlb g0 .int8 (.vec 15#10 63#8))) ∧
    (∃ m, m.caps.getD 0 0 = 0 ∧ ArrayRuns (arrHas (wordFor (.mlb g0 .e4m3 (.plain 1#6))) [0, 0, 7, 0]) 0 m (.mlb g0 .e4m3 (.plain 1#6))) ∧
    (∃ m, ArrayRuns (arrHas (wordFor (.mma g0 false none .dense .uint8 1#6 3#6)) [1, 0, 0, 7, 0]) 0 m
      (.mma g0 false none .dense .uint8 1#6 3#6)) ∧
    (∃ m, ArrayRuns (arrHas (wordFor (.mout g0 1#6 2#6 3#6 4#6 5#6)) [1, 0, 0, 1, 0]) 0 m (.mout g0 1#6 2#6 3#6 4#6 5#6)) ∧
    (∃ m, m.caps.getD 0 0 + m.caps.getD 1 0 ≤ 64 ∧ ArrayRuns (arrHas (wordFor (.mdrain g0 (.mem .fp32 .rne false false true 1#6 3#6 2#6)))
      [63, 1, scrKey 0 0]) 0 m (.mdrain g0 (.mem .fp32 .rne false false true 1#6 3#6 2#6))) ∧
    (∀ i ∈ [(.mlb g0 .int4 (.x2 1#6) : Instr), .mlb g0 .int4 (.x4 1#6), .mlb g0 .fp4 (.mx 1#6 2#6),
        .mma g0 false (some 1#6) (.sp64 2#6) .int8 1#6 3#6, .mma g0 false none (.mx 2#6) .fp4 1#6 3#6],
      ∃ m, ArrayRuns (arrHas (wordFor i) [1, 0, 0, 7, 0]) 0 m i) ∧
    (∃ m, m.caps.getD 0 0 < 64 ∧ ArrayRuns (arrHas (wordFor (.mdrain g0 (.vec true 12#10 3#6))) [63, 0]) 0 m
      (.mdrain g0 (.vec true 12#10 3#6))) :=
  ⟨⟨_, arrayRuns_of _ _ (by decide)⟩, ⟨_, arrayRuns_of _ _ (by decide)⟩, ⟨_, by decide, arrayRuns_of _ _ (by decide)⟩,
    ⟨_, arrayRuns_of _ _ (by decide)⟩, ⟨_, arrayRuns_of _ _ (by decide)⟩, ⟨_, by decide, arrayRuns_of _ _ (by decide)⟩,
    fun i hi => ⟨_, arrayRuns_of i _ (by revert i; decide +kernel)⟩, ⟨_, by decide, arrayRuns_of _ _ (by decide)⟩⟩

/-- A ragged rotating step. -/
def ragI : Instr := .mma g0 true (some 4#6) .dense .int8 1#6 3#6

theorem witness_MatrixCommands_start :
    (let s := (arrHas 0#64 []).updCore 0 (fun c => { c with arr := { c.arr with
        run := none, queue := [{ mcmd0 with word := wordFor ragI }], loaded := true, latch := { c.arr.latch with lty := 7#4, used := 4096 } } })
     (s.core 0).arr.run = none ∧ ownerRuns s 0 = true ∧ arrayMayStart s 0 = true ∧ reads (wordFor ragI) ragI = true ∧
       latchFails (s.core 0).arr.freshLatch.loaded (s.core 0).arr.freshLatch.latch.lty (s.core 0).arr.freshLatch.latch.used
         (s.core 0).arr.freshLatch.latch.scaleOk .dense .int8 = none) ∧
    (let s := devM.updCore 0 (fun c => { c with arr := { c.arr with queue := [{ mcmd0 with word := wordFor (.mzero g0) }] } })
     (s.core 0).arr.run = none ∧ ownerRuns s 0 = true ∧ arrayMayStart s 0 = true ∧ reads (wordFor (.mzero g0)) (.mzero g0) = true) := by
  decide

/-- Every core of core 0's ring has finished the command of a word and waits for the ring, since cycle 0; PAIRTO as given. -/
def ringing (w : Word) (limit : Word) : State :=
  (List.range 8).foldl (fun s c => s.updCore c (fun x => { x with arr := { x.arr with run := some { mcmd0 with word := w }, done := true } }))
    { dev id with
      launches := [(0, launch0)], cycle := 1, regs := fset [] (cluWin 0 + 0x120) limit,
      strands := (List.range 8).map (fun c => (8 * c, { me0 with task := some { task0 with ring := true } })) }
/-- Every core of a ring executes a command of an opcode for the gang of core 0, no longer than PAIRTO. -/
def ringDone (s : State) (n : Nat) : Bool :=
  (gangOwner s 0).any (fun k => (ringOf s 0 k) == List.range 8 && (ringOf s 0 k).all (fun c =>
    (s.core c).arr.done && (gangOwner s c).any (fun j => j.launch == k.launch) && (s.core c).arr.run.any (fun m => fld m.word 63 56 == n) &&
    decide (s.cycle - (s.core c).arr.runSince ≤ pairTo s c)))
def rotI : Instr := .mma g0 true none .dense .uint8 1#6 3#6

theorem witness_Rings :
    ringDone (ringing (wordFor (.mring g0)) 1#64) 0x85 = true ∧
    (ringDone (ringing (wordFor rotI) 1#64) 0x82 = true ∧ reads (wordFor rotI) rotI = true) ∧
    (let s := ringing (wordFor rotI) 0#64
     (gangOwner s 0).isSome = true ∧ (s.core 0).arr.done = true ∧ (s.core 0).arr.run.any (·.rings) = true ∧
       pairTo s 0 < s.cycle - (s.core 0).arr.runSince ∧
       (∀ c ∈ List.range 8, underSquall s 0 c = false ∧ stillHeld s (cluOfCore c) .array c = false ∧
         (s.strand c 0).task.any (fun j => j.launch == 0 && j.ring) = true)) := by decide

/-- Scoreboard entry 9 of core 0, whose operation has finished. -/
theorem witness_ScoreboardRetire :
    (let s := (dev id).updCore 0 (fun c => { c with sb := [{ id := 9, lo := 0, hi := 64, slot := 0 }] })
     ∀ e ∈ (s.core 0).sb, e.id = 9 ∧ (∀ m ∈ (s.core 0).arr.queue ++ (s.core 0).arr.run.toList, e.id ∉ m.sbIds) ∧
       (∀ c ∈ s.clusters, ∀ m ∈ c.2.copies ++ c.2.timed ++ c.2.waiting, e.id ∉ m.sbIds) ∧ (s.clu (cluOfCore 0)).halted = false) := by decide

/-! ### Copies, batches and landing zones -/

/-- A shape vector of `n` FP32 elements in one row, its strides 0. -/
def rowShape (n : Nat) : VReg := vregOf 32 [n, 1, 1, 0]
/-- s1 and s2 point 2,048 bytes apart in the private window; v1 names 16 elements. -/
def devC : State :=
  (devS [(1, 0x1000000000000800#64), (2, 0x1000000000000000#64)]).updCore 0 (fun c => { c with v := [(1, rowShape 16)] })

theorem shape16 : devC.rV 1 = rowShape 16 := by decide +kernel

theorem witness_CopyMovesARow_issue :
    devC.quiet ∧ Runs (.cpy g0 (.ptr 1#6) (.ptr 2#6) 1#10) g0 devC ∧ shapeBad (devC.rV 1) (some (devC.rS 1#6)) = none ∧
    (shapeOf (devC.rV 1)).n1 = 1 ∧ (shapeOf (devC.rV 1)).n2 = 1 ∧ (shapeOf (devC.rV 1)).sty = (shapeOf (devC.rV 1)).dty ∧
    (shapeOf (devC.rV 1)).timed = false ∧ rowBytes (shapeOf (devC.rV 1)).sty (shapeOf (devC.rV 1)).n0 = 64 ∧
    ScratchAt devC (devC.rS 1#6) 1 64 (scrKey 0 0x800) ∧ ScratchAt devC (devC.rS 2#6) 1 64 (scrKey 0 0) ∧ scrKey 0 0x800 < 2 ^ 61 ∧
    copyAlign (shapeOf (devC.rV 1)) true (devC.rS 1#6) = none ∧ copyAlign (shapeOf (devC.rV 1)) false (devC.rS 2#6) = none ∧
    fld (devC.rS 1#6) 17 0 + 64 ≤ 2 ^ 18 ∧ fld (devC.rS 2#6) 17 0 + 64 ≤ 2 ^ 18 ∧ scrKey 0 0 < 2 ^ 61 ∧
    (copySoft devC (shapeOf (devC.rV 1)) (.bank (scrKey 0 0))).isEmpty = true ∧ (devC.clu 0).waiting = [] ∧ (devC.clu 0).timed = [] ∧ (devC.clu 0).copies.length < 64 ∧
    (devC.core 0).sb.length + 2 ≤ 16 := by
  refine ⟨by unfold State.quiet; decide, by unfold Runs; decide, ?_, ?_, ?_, ?_, ?_, ?_, by unfold ScratchAt; decide,
    by unfold ScratchAt; decide, by decide, ?_, ?_, by decide, by decide, by decide, ?_, by decide, by decide, by decide, by decide⟩ <;>
    decide +kernel

def copy0 : CopyCmd :=
  { id := 4, core := 0, slot := 0, pc := 0, tenant := 0, batch := some 1, shape := rowShape 16, dst := .bank (scrKey 0 0x800),
    src := .bank (scrKey 0 0), dptr := 0, sptr := 0, data := some (List.replicate 64 9#8), poison := [], elig := 0, sbIds := [], bad := none, boarded := true, sent := false }
/-- That copy in flight, in a batch of one command. -/
def devCf : State :=
  (dev (fun x => { x with openb := { Batch.none with num := 1, left := 1 } })).updClu 0 (fun c => { c with copies := [copy0] })

theorem witness_CopyMovesARow_finish :
    cluOfCore copy0.core = 0 ∧ (devCf.clu 0).copies = [copy0] ∧ devCf.fabTx = [] ∧ devCf.soft = [] ∧
    (shapeOf copy0.shape).mf = false ∧ copy0.data.map (·.length) = some (rowBytes (shapeOf copy0.shape).sty (shapeOf copy0.shape).n0) ∧
    copy0.batch = some 1 ∧ (devCf.strand 0 0).openb.left ≠ 0 ∧ (devCf.strand 0 0).openb.num = 1 := by decide +kernel

theorem witness_CopyMovesARow_timed :
    (let t := (dev id).updClu 0 (fun c => { c with timed := [copy0] })
     (t.clu 0).timed = [copy0] ∧ (t.clu 0).waiting = [] ∧ (t.clu 0).copies.length < 64 ∧ (shapeOf copy0.shape).time ≤ ccnt t ∧
     copy0.elig ≤ ccnt t ∧ saving t 0 = false ∧ copy0.bad = none) := by decide +kernel

def batch (n left : Nat) (st : BitVec 2) : Batch := { num := n, left := left, status := st, vis := 0 }
def devBt (l : List Batch) : State := dev (fun x => { x with batches := l, openb := batch 1 1 0#2 })

theorem witness_BatchesAreSealedAndWaitedFor :
    (dev id).guard g0 = true ∧ (dev id).quiet ∧ 16 ≤ ((devBt (List.replicate 16 (batch 0 1 0#2))).me.batches.countP (fun b => b.left != 0)) ∧
    (devBt (List.replicate 15 (batch 0 1 0#2))).me.batches.countP (fun b => b.left != 0) < 16 ∧
    (0#4 : BitVec 4).toNat < (devBt [batch 0 1 0#2]).me.batches.countP (fun b => b.left != 0) ∧
    (devBt [batch 0 1 0#2, batch 2 0 1#2, batch 1 0 1#2]).me.batches.countP (fun b => b.left != 0) ≤ (1#4 : BitVec 4).toNat ∧
    (devBt [batch 0 1 0#2, batch 2 0 1#2, batch 1 0 1#2]).me.batches.filter (fun b => b.left == 0) ≠ [] ∧
    (devBt [batch 0 1 0#2]).me.batches.filter (fun b => b.left == 0) = [] :=
  ⟨by decide, by unfold State.quiet; decide, by decide, by decide, by decide, by decide, by decide, by decide⟩

/-- Zone 1 of core 0: enabled, tenant 0, slots 0 to 15 of 256 bytes from 0x400 on, arrival words from 0x100 on, key 7; slot 2 as
given, slots 0 and 1 INUSE; accelerator 5 is this device. -/
def devZ (x : LzSlot) : State :=
  let s := (devS [(1, 4#64), (2, 2#64), (3, 0x7000000000000000#64)]).updCore 0 (fun c =>
    { c with lz := if x = .init then [(64, { LzSlot.init with state := 4 }), (65, { LzSlot.init with state := 4 })]
             else [(64, { LzSlot.init with state := 4 }), (65, { LzSlot.init with state := 4 }), (66, x)] })
  { s with regs := fset (fset (fset (fset (fset [] (offLZ 0 1) 0x8000000F00000007#64) (offLZ 0 1 + 8) 0x400#64) (offLZ 0 1 + 0x10) 0x100#64)
      (offLZ 0 1 + 0x18) 1#64) offFABID 5#64, cycle := 1 }
/-- The pointer of zone 1, slot 2 of core 0. -/
def land0 : Nat := 2 ^ 36 + 2 * 2 ^ 30
def lzReq (op : FabOp) : FabReq := { peer := 9, tag := 3, tenant := 0, cls := 0, addr := land0, op := op }
def lzOf (state pend : Nat) : LzSlot := { state := state, pend := pend, total := 8, sender := 9, score := 2, since := 0, cause := 0 }

theorem witness_LandingZonesReceive :
    fabLive (devZ .init) = true ∧ landCore land0 = 0 ∧ bitsN land0 37 36 = 1 ∧ bitsN land0 35 30 = 2 ∧ coreExists 0 = true ∧
    ZoneFor (devZ .init) 0 1 (fld (lzCfg (devZ .init) 0 1) 53 48) ∧ fld (lzCfg (devZ .init) 0 1) 31 0 = (7#32 : W32).toNat ∧
    fld (lzCfg (devZ .init) 0 1) 31 0 ≠ (8#32 : W32).toNat ∧
    (lzCfg (devZ .init) 0 1).getLsbD 57 = false ∧ 256 ≤ 2 ^ (8 + fld (lzCfg (devZ .init) 0 1) 47 44) ∧ 2 ≤ fld (lzCfg (devZ .init) 0 1) 37 32 ∧
    (lzSlot (devZ .init) 0 1 2).state = 0 ∧ (∀ m, m < 2 → (lzSlot (devZ .init) 0 1 m).state ≠ 0) := by
  refine ⟨by decide, by decide, by decide, by decide, by decide, ?_, by decide, by decide, by decide, by decide, by decide, by decide, by decide⟩
  unfold ZoneFor; decide

theorem witness_LandingZones_writes :
    (let s := devZ (lzOf 1 8); let x := lzSlot s 0 1 2
     let lo := fld (regGet s (offLZ 0 1 + 8)) 17 8 * 256 + 2 * 2 ^ (8 + fld (lzCfg s 0 1) 47 44) + bitsN land0 15 0
     x.state = 1 ∧ x.sender = (lzReq (.land false 7#32 8 2 [])).peer ∧ x.score = 2 ∧ 8 ≤ x.pend ∧ 7 < x.pend ∧ lo = 0x600 ∧ lo + 8 ≤ 2 ^ 18 ∧
     fld (regGet s (offLZ 0 1 + 0x10)) 17 3 * 8 + 8 * 2 + 8 ≤ 2 ^ 18 ∧ waitsOf s (bankOf (scrKey 0 0x110)) = [] ∧
     scrKey 0 0x110 + 8 ≤ scrKey 0 lo ∧ fld (regGet s (offLZ 0 1 + 0x18)) 47 0 ≠ 0 ∧
     fld (regGet s (offLZ 0 1 + 0x18)) 47 0 ≤ s.cycle - x.since ∧ s.waits = []) := by decide

theorem witness_LandingInstructions :
    (devZ .init).guard g0 = true ∧ (devZ .init).quiet ∧ ZoneFor (devZ .init) 0 (1#2).toNat (devZ .init).tenantId ∧
    (devZ .init).rS 0#6 = 0#64 ∧
    (let s := devZ (lzOf 3 0); (s.rS 1#6).getLsbD 2 = true ∧ (lzSlot s 0 1 2).state = 3 ∧
      (∀ k, k < 2 → (lzSlot s 0 1 k).state ≠ 3 ∧ (lzSlot s 0 1 k).state ≠ 5) ∧ lzZpend s 0 1 = 0 ∧ 2 = (s.rS 2#6).toNat ∧ s.waits = []) ∧
    (let s := devZ (lzOf 5 0); (s.rS 1#6).getLsbD 2 = true ∧ (lzSlot s 0 1 2).state = 5) ∧
    (let s := devZ (lzOf 1 8); s.rS 1#6 ≠ 0#64 ∧ ∀ k, k ≤ fld (lzCfg s 0 1) 37 32 → (lzSlot s 0 1 k).state ≠ 3 ∧ (lzSlot s 0 1 k).state ≠ 5) ∧
    (lzCfg (devZ .init) 0 2).getLsbD 63 = false := by
  refine ⟨by decide, by unfold State.quiet; decide, by unfold ZoneFor; decide, by decide, by decide, by decide, ?_, by decide⟩
  decide

def lzresI : Instr := .lzres g0 1#3 5#6 3#6 2#6
/-- A transaction of the strand to peer 9. -/
def tx0 : FabTx :=
  { id := 0, peer := 9, op := .reserve 7#32 8 0, addr := land0, owner := (0, 0), kind := .strand, tries := 0, issued := 0, sw := 0, tenant := 0,
    resp := none, sent := true }

theorem witness_LandingReply :
    (let s := { dev (parkedFor lzresI .access) with fabTx := [tx0], regs := fset [] offFABID 5#64 }
     waitsB s .access lzresI = true ∧ s.cur = .strand 0 0 ∧ s.fabTx = [tx0] ∧ tx0.kind = .strand ∧ tx0.owner = (0, 0) ∧
     tx0.peer ≠ fabId s ∧ tx0.resp = none ∧ ([0#8, 2#8] : List Byte).getD 0 0 = 0#8 ∧ ([4#8] : List Byte).getD 0 0 ≠ 0#8) := by decide

/-! ### The fabric -/

/-- s1 points to offset 0 of peer 9; this device is 5. -/
def devFb (l : List RaEntry) : State :=
  let s := (devS [(1, 0x5024000000000000#64)]).updCore 0 (fun c => { c with raq := if l.isEmpty then [] else [(2, l)] })
  { s with regs := fset (fset [] offFABID 5#64) offREADY 0xFFFF00#64 }
def ra0 (c : BitVec 8) : RaEntry := { tx := 8, arrived := true, code := c, peer := 9, tenant := 0, data := 0#512 }

theorem witness_FabricInstructions_issue :
    (devFb []).quiet ∧ (devFb []).guard g0 = true ∧ ptrTag ((devFb []).rS 1#6) = 5 ∧ fld ((devFb []).rS 1#6) 59 50 = 9 ∧
    PeerUp (devFb []) 9 0 0 ∧ ((devFb []).rS 1#6).toNat % 64 = 0 ∧ (raqOf (devFb []) 0 2).length < 32 ∧ (devFb []).fabTx = [] ∧
    (raqOf (devFb (List.replicate 31 (ra0 0))) 0 2).length < 32 ∧ myTxs (devFb []) 0 0 = [] := by
  refine ⟨by unfold State.quiet; decide, by decide, by decide, by decide, ?_, by decide, by decide, by decide, by decide, by decide⟩
  unfold PeerUp; decide

def famoI : Instr := .famo g0 (.int .add) .plain 1#3 5#6 1#6 2#6
def mldrI : Instr := .mldr g0 false 1#3 3#10 1#6

theorem witness_FabricInstructions_answers :
    Runs (.qpop g0 1#3 3#10 2#2) g0 (devFb [ra0 0, ra0 1]) ∧ raqOf (devFb [ra0 0, ra0 1]) 0 2 = [ra0 0, ra0 1] ∧
    (ra0 3).code ≠ 0#8 ∧ (ra0 0).tenant = (devFb [ra0 0]).tenantId ∧
    (let s := { dev (parkedFor famoI .access) with fabTx := [tx0], regs := fset [] offFABID 5#64 }
     waitsB s .access famoI = true ∧ s.fabTx = [tx0] ∧ tx0.peer ≠ fabId s) ∧
    (let s := { dev (parkedFor mldrI .access) with fabTx := [tx0], regs := fset [] offFABID 5#64 }
     waitsB s .access mldrI = true ∧ s.fabTx = [tx0]) :=
  ⟨by unfold Runs; decide, rfl, by decide, by decide, by decide, by decide⟩

/-- Descriptor 0 of the exported window: 2 MiB of cluster 0's shared memory at offset 0, every permission, tenant 0. -/
def devFw : State :=
  let regs := fset (fset [] offFABID 5#64) (offFW 0) 0x800000000000000E#64
  { devFb [] with regs := fset (fset regs (offFW 0 + 8) 0x3000000000000000#64) (offFW 0 + 16) 1#64 }

theorem witness_FabricServes :
    fabLive devFw = true ∧ fabPlace devFw 0 (2 ^ 21 - 8) 8 1 = some (.bank (shrKey 0 (2 ^ 21 - 8)) true) ∧
    fabPlace devFw 0 (2 ^ 21 - 7) 8 1 = none ∧ devFw.soft = [] ∧
    (∀ p ∈ [2, 3], fabPlace devFw 0 (2 ^ 21 - 8) 8 p = some (.bank (shrKey 0 (2 ^ 21 - 8)) true)) ∧
    fabPlace devFw 0 (2 ^ 21 - 256) 256 2 = some (.bank (shrKey 0 (2 ^ 21 - 256)) true) ∧ fabPlace devFw 0 (2 ^ 21) 1 2 = none ∧
    fabPlace { devFw with regs := fset devFw.regs (offFW 0 + 8) (BitVec.ofNat 64 0x10000000000) } 0 64 64 1 =
      some (.page (0x10000000000 + 64) 0#2 0) ∧
    stationUp (devFb []) (laneOf (devFb []) tx0.owner.1 ((tx0.sw + 1) % switches (devFb []))) = true ∧
    fabLive (devFb []) = true ∧ fabPlace (devFb []) 0 0 8 1 = none ∧
    (let s := { devFb [] with fabTx := [tx0], cycle := 1048576 }
     fld (regGet s offFABCFG) 31 4 * 4 ≤ s.cycle - tx0.issued ∧ tx0.tries < min 15 (fld (regGet s offFABCFG) 39 32) ∧
       min 15 (fld (regGet s offFABCFG) 39 32) ≤ { tx0 with tries := 15 }.tries ∧ tx0.peer ≠ fabId s ∧
       (switchFrom s ((tx0.sw + 1) % switches s)).isSome = true) ∧
    (regGet (devFb []) offTSYNC).getLsbD 0 = false ∧ (15 : Nat) < 16 := by decide

/-! ### Releases and acquires -/

def relReadyB (s : State) (sc : Scope) : Bool :=
  decide (s.me.prel = false) && decide (s.me.ptime = 0) && releaseReady s s.coreId s.slotId sc &&
    (s.clu s.cluId).lines.all (fun e => decide (e.2.attr = .cp → e.2.dirty = 0))
theorem releaseReady_of {s : State} {sc : Scope} (h : relReadyB s sc = true) : ReleaseReady s sc := by
  simp only [relReadyB, Bool.and_eq_true, decide_eq_true_eq, List.all_eq_true] at h
  obtain ⟨⟨⟨h1, h2⟩, h3⟩, h4⟩ := h
  exact ⟨h1, h2, h3, fun _ e he => h4 e he⟩
theorem releaseDue_of {s : State} {sc : Scope} (h : (relReadyB s sc && decide (holdUntil s sc ≤ ccnt s)) = true) :
    ReleaseDue s sc := by
  simp only [Bool.and_eq_true, decide_eq_true_eq] at h
  exact ⟨releaseReady_of h.1, h.2⟩
/-- Cycle 129, the strand's last write visible at 1. -/
def devRel (f : Strand → Strand) : State :=
  { dev (fun x => f { x with visMax := 1 }) with cycle := 129, launches := [(0, { launch0 with resident := false })] }
theorem waits_of {s : State} {ph : Phase} {i : Instr} (hc : s.me = s.strand s.coreId s.slotId) (h : waitsB s ph i = true) :
    Waits s s.coreId s.slotId ph i := by
  simp only [waitsB, Bool.and_eq_true, decide_eq_true_eq] at h
  obtain ⟨⟨h1, h2⟩, h3⟩ := h
  rw [hc] at h1 h2 h3
  refine ⟨h1, h2, ?_⟩
  revert h3; unfold reads; split <;> simp_all

/-- An unacknowledged write of the strand. -/
def posted0 : Posted :=
  { id := 0, core := 0, slot := 0, clu := 0, kind := .bank, key := 0, op := .st, data := [], done := false, vis := 0 }

/-- The same, 129 cycles earlier. -/
def relSoon : State := { devRel (fun x => { x with visMax := 130 }) with cycle := 0 }

theorem witness_Releases :
    (devRel id).guard g0 = true ∧ (devRel id).quiet ∧ coreExists (devRel id).coreId = true ∧ ReleaseDue (devRel id) .sys ∧
    ReleaseDue (devRel id) .cor ∧ (Scope.dev ≠ .cor ∧ Scope.dev ≠ .clu) ∧
    (let s := { devRel id with posted := [posted0] }
     s.me.prel = false ∧ s.me.ptime = 0 ∧ releaseReady s 0 0 .cor = false) ∧
    (ReleaseReady relSoon .sys ∧ ccnt relSoon < releaseTime relSoon 0 0 .sys 0) ∧
    fldsOut (devRel id) 0 0 = false ∧ fldsOut { devRel id with fabTx := [{ tx0 with kind := .fld 0 }] } 0 0 = true ∧
    (let s := devRel (parkedFor (.rel g0 .sys) .release)
     Waits s s.coreId s.slotId .release (.rel g0 .sys) ∧ relScope (.rel g0 .sys) = some .sys ∧ ReleaseDue s .sys) ∧
    (let s := devRel (parkedFor (.acq g0 .die) .acquire)
     Waits s s.coreId s.slotId .acquire (.acq g0 .die) ∧ acqScope (.acq g0 .die) = some .die) ∧
    (devRel id).me.task = some task0 ∧ task0.trig = false ∧ (devRel id).launch task0.launch = some { launch0 with resident := false } :=
  ⟨by decide, by unfold State.quiet; decide, by decide, releaseDue_of (by decide), releaseDue_of (by decide), by decide, by decide,
    ⟨releaseReady_of (by decide), by decide⟩, by decide, by decide,
    ⟨waits_of rfl (by decide), rfl, releaseDue_of (by decide)⟩, ⟨waits_of rfl (by decide), rfl⟩, by decide, by decide, by decide⟩

theorem witness_Acquires_far :
    (let s := { dev id with scopes := [(0, { ts := 0, gen := 8 })] }
     let c' := (acquireAt s s.cluId .die).clu s.cluId
     viewFar c'.vd (s.clu s.cluId).bd = true) ∧
    (let s := { dev id with scopes := [(0, { ts := 0, gen := 7 })] }
     let c' := (acquireAt s s.cluId .die).clu s.cluId
     viewFar c'.vd (s.clu s.cluId).bd = false ∧ viewFar c'.vv (s.clu s.cluId).bv = false ∧ viewFar c'.vs (s.clu s.cluId).bs = false) := by
  decide

/-! ### Requests -/

def hb : Nat := 0x10000000000
/-- Memory with numbers of given sizes written at given offsets of HBM4E. -/
def img (l : List (Nat × Nat × Nat)) : Memory := l.foldl (fun m x => writeBytes m (hb + x.1) (toBytes x.2.1 x.2.2)) []
/-- Records of tenant 0 from offset 0x20000 on, automata at 0x31000, tool queues at 0x30000, the tenant's page table at 0: it
maps VA 0 to 2^30 to HBM4E. Slot 0 holds request 0, and the cluster translates VA 0 to 65,535. -/
def devRq (l : List (Nat × Nat × Nat)) (f : Strand → Strand) : State :=
  let regs := fset (fset (fset [] (offSERV + 0x28) (w64 (hb + 0x30000))) (offSERV + 0x20) (w64 (hb + 0x31000))) (offSERV + 8) 0x50000#64
  let tset := fset (fset (fset (fset [] (64 * setRQBASE) (w64 (hb + 0x20000))) (64 * setTROOT) (w64 hb)) (64 * setFUTQUOTA) 1#64)
    (64 * setFUTTO) 100#64
  { (dev f).updClu 0 (fun c => { c with tlb := [tlb0] }) with
    regs := regs, tset := tset, front := { Front.init with slots := [(0, 0)] },
    mem := img ([(0, 8, (hb + 0x1000) / 4096 * 1024 + 1), (0x1000, 8, (hb + 0x2000) / 4096 * 1024 + 1),
      (0x2000, 8, hb / 4096 * 1024 + 0xDF)] ++ l) }

/-- Tenant 0's page table maps VA 0 to 2^30 to HBM4E by the words that `devRq` writes. -/
def ptOk (s : State) : Bool :=
  decide (tset s setTROOT 0 = hb) && decide (cohNat s hb 8 = (hb + 0x1000) / 4096 * 1024 + 1) &&
    decide (cohNat s (hb + 0x1000) 8 = (hb + 0x2000) / 4096 * 1024 + 1) && decide (cohNat s (hb + 0x2000) 8 = hb / 4096 * 1024 + 0xDF) &&
    decide (bitsN (cohNat s (hb + 0x3000) 8) 49 48 ≠ 3) && decide (bitsN (cohNat s (hb + 0x3000) 8) 63 51 = 0)
theorem walk_low {s : State} (h : ptOk s = true) {va : Nat} (hv : va < 2 ^ 30) :
    walk s 0 va = .leaf (hb + 0x2000) (hb / 4096 * 1024 + 0xDF) (cohNat s (hb + 0x3000) 8) 2 := by
  simp only [ptOk, Bool.and_eq_true, decide_eq_true_eq] at h
  obtain ⟨⟨⟨⟨⟨h0, h1⟩, h2⟩, h3⟩, -⟩, -⟩ := h
  have i4 : bitsN va 56 48 = 0 := by unfold bitsN; omega
  have i3 : bitsN va 47 39 = 0 := by unfold bitsN; omega
  have i2 : bitsN va 38 30 = 0 := by unfold bitsN; omega
  have q1 : physOk hb = true := by decide
  have q2 : physOk (hb + 0x1000) = true := by decide
  have q3 : physOk (hb + 0x2000) = true := by decide
  have q4 : physOk (hb + 0x3000) = true := by decide
  have e1 : bitsN ((hb + 0x1000) / 4096 * 1024 + 1) 53 10 * 4096 = hb + 0x1000 := by decide
  have e2 : bitsN ((hb + 0x2000) / 4096 * 1024 + 1) 53 10 * 4096 = hb + 0x2000 := by decide
  have b1 : bitN ((hb + 0x1000) / 4096 * 1024 + 1) 0 = true ∧ bitsN ((hb + 0x1000) / 4096 * 1024 + 1) 3 1 = 0 := by decide
  have b2 : bitN ((hb + 0x2000) / 4096 * 1024 + 1) 0 = true ∧ bitsN ((hb + 0x2000) / 4096 * 1024 + 1) 3 1 = 0 := by decide
  have b3 : bitN (hb / 4096 * 1024 + 0xDF) 0 = true ∧ bitsN (hb / 4096 * 1024 + 0xDF) 3 1 ≠ 0 ∧ bitN (hb / 4096 * 1024 + 0xDF) 1 = true := by decide
  have hn : hb ≠ 0 := by decide
  simp only [walk, h0, hn, if_false, walkFrom, Nat.reduceMul, Nat.reduceAdd, i4, i3, i2, Nat.mul_zero, Nat.add_zero, q1, q2, q3, q4, h1, h2, h3,
    b1.1, b1.2, b2.1, b2.2, b3.1, b3.2.1, e1, e2, Bool.and_self, Bool.not_true, Bool.false_eq_true, if_true, Nat.add_assoc]
theorem unitRead_low {s : State} (h : ptOk s = true) : ∀ {n va : Nat}, va + n ≤ 2 ^ 30 → unitRead s 0 va n = some (cohRead s (hb + va) n)
  | 0, _, _ => rfl
  | n + 1, va, hv => by
    have hw := walk_low h (va := va) (by omega)
    simp only [ptOk, Bool.and_eq_true, decide_eq_true_eq] at h
    have hx : (unitXlate s 0 va .load).1 = some (hb + va) := by
      have l1 : leafPage (hb / 4096 * 1024 + 0xDF) 2 = some (2, hb) := by decide
      have l2 : (bitN (hb / 4096 * 1024 + 0xDF) 4 && bitN (hb / 4096 * 1024 + 0xDF) (1 + AccKind.load.perm)) = true := by decide
      have l3 : physOk hb = true := by decide
      have l4 : va % pageBytes 2 = va := Nat.mod_eq_of_lt (by show va < 0x40000000; omega)
      have hu : unitLeaf s 0 va .load = some (leafEntry 0 va (hb / 4096 * 1024 + 223) (cohNat s (hb + 12288) 8) 2 hb .load, hb + 8192) := by
        unfold unitLeaf
        rw [hw]
        simp only [l1, l2, l3, h.1.2, h.2, decide_true, Bool.and_self, if_true, ne_eq, not_false_iff]
      unfold unitXlate
      rw [hu]
      show some (hb + va % pageBytes 2) = _
      rw [l4]
    simp only [unitRead, hx, unitRead_low (s := s) (by simp only [ptOk, Bool.and_eq_true, decide_eq_true_eq]; exact h) (n := n) (va := va + 1) (by omega), cohRead,
      Nat.add_assoc]

theorem record0_at : recordAt (devRq [] id) 0 = hb + 0x20000 := by decide +kernel
theorem record0_quiet : RecordQuiet (devRq [] id) 0 := by
  unfold RecordQuiet
  rw [record0_at]
  refine ⟨by decide, fun o ho => ⟨?_, by rfl⟩⟩
  have h1 : 0x10000000000 ≤ hb + 0x20000 + o := by unfold hb; omega
  have h2 : hb + 0x20000 + o < 0x18000000000 := by unfold hb; omega
  simp [physOk, inHbm, h1, h2]

theorem witness_RecordFieldsAreSeparate : (43 : Nat) ≤ 43 ∧ (0 : Nat) ≠ 43 ∧ RecordQuiet (devRq [] id) 0 :=
  ⟨by decide, by decide, record0_quiet⟩

def holdsB (s : State) (slot r : Nat) : Bool := decide (slotReq s slot = some r) && decide (rqGet s r rqTENANT = s.tenantId)
theorem held_of {s : State} {slot r : Nat} (h : holdsB s slot r = true) : SlotHeld s slot r := by
  simp only [holdsB, Bool.and_eq_true, decide_eq_true_eq] at h; exact h

theorem witness_RequestFields :
    (devRq [] id).guard g0 = true ∧ (devRq [] id).quiet ∧ SlotHeld (devRq [] id) ((devRq [] id).rS 0#6).toNat 0 ∧
    slotReq (devRq [] (fun x => { x with s := [(1, 1#64)] })) 1 = none ∧
    (let s := devRq [(0x20002, 1, 1)] id; slotReq s 0 = some 0 ∧ rqGet s 0 rqTENANT ≠ s.tenantId) ∧
    rqstField 0 = false ∧ rqstField 36 = true ∧ rqstFits 36 (2 ^ 32 - 1) = true ∧ rqstFits 36 (2 ^ 32) = false ∧ rqstFits 26 9 = true ∧
    (let s := devRq [] (parkedFor (.rqld g0 5#6 0#6 43#6) .access); waitsB s .access (.rqld g0 5#6 0#6 43#6) = true ∧ s.cur = .strand 0 0) ∧
    (let s := devRq [] (parkedFor (.rqst g0 0#6 5#6 24#6) .access); waitsB s .access (.rqst g0 0#6 5#6 24#6) = true ∧
      rqstFits 24 (s.rS 5#6).toNat = true) ∧
    (let s := devRq [] (parkedFor (.rqflt g0 0#6 5#6) .access); waitsB s .access (.rqflt g0 0#6 5#6) = true) :=
  ⟨by decide, by unfold State.quiet; decide, held_of (by decide +kernel), by decide, by decide +kernel, by decide, by decide, by decide,
    by decide, by decide, by decide, by decide, by decide⟩

def stepdoneI : Instr := .stepdone g0 0#6
theorem witness_Stepdone :
    (dev id).guard g0 = true ∧ (dev id).me.task = some task0 ∧ task0.resident = true ∧ { task0 with resident := false }.resident = false ∧
    ReleaseDue (dev id) .dev ∧
    (let s := { dev (parkedFor stepdoneI .sent) with front := { Front.init with ending := true } }
     waitsB s .sent stepdoneI = true ∧ (∀ m, m < 0 → (s.strand 0 m).phase ≠ .sent) ∧ (s.strand 0 0).stepping = false ∧
     (s.strand 0 0).haltReq = false ∧ s.front.ending = true ∧ (s.strand 0 0).rS 0#6 = w64 s.front.step) := by
  refine ⟨by decide, by decide, by decide, by decide, releaseDue_of (by decide), ?_⟩
  decide

def sampleI : Instr := .sample g0 1#3 5#6 0#6 2#6 3#6
/-- s2 points to the private window; the record has temperature 1, top-k 64, top-p 1. -/
def devSm (l : List (Nat × Nat)) (f : Strand → Strand) : State :=
  let s := devRq [(0x20050, 8, 0x3F8000003F800000), (0x20058, 8, 64)] (fun x => f { x with s := [(2, 0x1000000000000000#64)] })
  { s with mem := l.foldl (fun m x => writeBytes m (scrKey 0 0 + x.1) (toBytes 8 x.2)) s.mem }
theorem witness_SampleAnswersAToken :
    (devSm [] id).guard g0 = true ∧ (devSm [] id).quiet ∧ SlotHeld (devSm [] id) ((devSm [] id).rS 0#6).toNat 0 ∧
    checkSpace (devSm [] id) (fun t => t == 1 || t == 2 || t == 3) ((devSm [] id).rS 2#6) = none ∧ ((devSm [] id).rS 2#6).toNat % 8 = 0 ∧
    boundsStop (devSm [] id) ((devSm [] id).rS 2#6) 512 ((devSm [] id).rS 2#6) = none ∧
    localPlace (devSm [] id) ((devSm [] id).rS 2#6) 512 = some (.bank (scrKey 0 0) false) ∧ fld ((devSm [] id).rS 3#6) 63 24 = 0 ∧
    (∀ p ∈ listPieces (.bank (scrKey 0 0) false), p.onBoard (devSm [] id) = false) ∧
    dataMatch (devSm [] id) true false ((devSm [] id).rS 2#6).toNat 512 = none ∧ myTxs (devSm [] id) 0 0 = [] ∧ (devSm [] id).soft = [] :=
  ⟨by decide, by unfold State.quiet; decide, held_of (by decide +kernel), by decide, by decide, by decide, by decide, by decide, by decide,
    by decide, by decide⟩
theorem witness_Sample_lists :
    (let s := devSm [(8, 0xFFFFFFFF00000000)] (parkedFor sampleI .access)
     let recs := candRecords 64 (memGet s (scrKey 0 0) 512)
     waitsB s .access sampleI = true ∧ s.cur = .strand 0 0 ∧ s.me.pparts = [] ∧ s.part = none ∧ s.soft = [] ∧ recs = [(0, 0)] ∧ recs.any (fun x => !fFinite x.1) = false ∧ candSorted recs = true ∧
       sampleFieldsOk (rqGet s 0 rqTEMP) (rqGet s 0 rqTOPK) (rqGet s 0 rqTOPP) = true) ∧
    candRecords 64 (memGet (devSm [(0, 0xFFFFFFFF00000000)] id) (scrKey 0 0) 512) = [] ∧
    ((candRecords 64 (memGet (devSm [(0, 0x000000007F800000)] id) (scrKey 0 0) 512)).any (fun x => !fFinite x.1)) = true := by decide +kernel

/-! ### The automaton engine, ACCEPT and KVCOMMIT -/

def got {α : Type} (x : Except Stop α) (p : α → Bool) : Bool :=
  match x with
  | .ok a => p a
  | .error _ => false
def isomaskI : Instr := .isomask g0 1#3 3#10 0#6 2#6 3#6
def isostepI : Instr := .isostep g0 1#3 5#6 0#6 2#6 3#6
/-- Automaton 0 of tenant 0: 1 state at VA 0x1100 whose mask form is given, masks at VA 0x2100, one transition at VA 0x3100 (on
token 7 to state 0), 32 tokens. -/
def devIso (form : Nat) (f : Strand → Strand) : State :=
  devRq [(0x31000, 8, 0x1100), (0x31008, 8, 0x2100), (0x31010, 8, 0x3100), (0x31018, 8, 32 * 2 ^ 32 + 1), (0x31020, 8, 3 * 2 ^ 32 + 2),
    (0x31028, 8, 1), (0x1100, 8, 0xFFFFFFFF), (0x1108, 8, form * 2 ^ 56 + 2 ^ 32), (0x2100, 8, 5), (0x3100, 8, 7)] f
theorem witness_AutomatonEngines :
    (devIso 3 id).quiet ∧ Runs isomaskI g0 (devIso 3 id) ∧ automaton (devRq [] id) 0 = none ∧ (automaton (devRq [] id) 4096) = none ∧
    (automaton (devIso 3 id) 0).map (·.nstates) = some 1 ∧
    (let s := devIso 3 (parkedFor isomaskI .access)
     waitsB s .access isomaskI = true ∧ s.cur = .strand 0 0 ∧ (automaton s 0).all (fun e => got (isoState s e 0) (fun x =>
       (List.range 16).all (fun i => got (isoAllowed s e (e.masks + 8 * bitsN x.1 63 32) (bitsN x.2 57 56) i) (fun b => b == (i == 0 || i == 2))))) =
       true) ∧
    (let s := devIso 0 (parkedFor isostepI .access)
     waitsB s .access isostepI = true ∧ (automaton s 0).all (fun e => got (isoState s e 0) (fun x =>
       got (isoFind s (e.trans + 8 * bitsN x.2 31 0) 7 25 0 (bitsN x.2 55 32)) (fun f => f == some 0) &&
       got (isoFind s (e.trans + 8 * bitsN x.2 31 0) 8 25 0 (bitsN x.2 55 32)) (fun f => f == none && bitsN x.1 31 0 == 0xFFFFFFFF))) = true) := by
  refine ⟨by unfold State.quiet; decide, by unfold Runs; decide, ?_, ?_, ?_, ?_, ?_⟩ <;> decide +kernel

def acceptI : Instr := .accept g0 1#3 0#6 2#6 3#10
def kvcommitI : Instr := .kvcommit g0 1#3 0#6 2#6 3#6
/-- Step 0's descriptor, with slot 0 active; the record's flags as given. -/
def devAc (flags : Nat) (f : Strand → Strand) : State := devRq [(0x20001, 1, flags), (0x50040, 1, 1)] f
theorem witness_AcceptDecides :
    (devAc 0 id).quiet ∧ SlotHeld (devAc 0 id) ((devAc 0 id).rS 0#6).toNat 0 ∧ Runs acceptI g0 (devAc 0 id) ∧
    descWord (devAc 0 id) ((devAc 0 id).rS 2#6).toNat 0 8 = ((devAc 0 id).rS 2#6).toNat ∧
    descWord (devAc 0 id) 2 0 8 ≠ 2 ∧
    (let s := devAc 0 (parkedFor acceptI .access)
     waitsB s .access acceptI = true ∧ s.soft = [] ∧ s.cur = .strand 0 0 ∧ descActive s 0 0 = true ∧ slotMasked s 0 0 = false ∧ rqFlag s 0 flCancel = false ∧
       rqFlag s 0 flCommit = false) ∧
    descActive (devRq [] id) 0 0 = false ∧ rqFlag (devAc 1 id) 0 flCancel = true ∧ rqFlag (devAc 2 id) 0 flCancel = false ∧
    rqFlag (devAc 2 id) 0 flCommit = true := by
  refine ⟨by unfold State.quiet; decide, held_of (by decide +kernel), by unfold Runs; decide, ?_, ?_, ?_, ?_, ?_, ?_, ?_⟩ <;> decide +kernel
theorem witness_KvcommitAdvances :
    fld ((devAc 2 id).rS 3#6) 63 36 = 0 ∧ (devAc 2 id).guard g0 = true ∧
    (let s := devAc 2 (parkedFor kvcommitI .access)
     waitsB s .access kvcommitI = true ∧ slotMasked s 0 0 = false ∧ rqFlag s 0 flCommit = true ∧ rqGet s 0 rqPSTEP = (s.rS 2#6).toNat ∧
       fld (s.rS 3#6) 35 32 ≤ rqGet s 0 rqPLEN ∧ rqFlag s 0 flCancel = false) ∧
    (let s := devAc 2 (parkedFor kvcommitI .access)
     rqGet s 0 rqPSTEP ≠ 1 ∧ rqGet s 0 rqPLEN < 1 ∧ rqFlag (devAc 3 id) 0 flCancel = true ∧ rqFlag (devAc 3 id) 0 flCommit = true) ∧
    (let s := devAc 2 (parkedFor kvcommitI .copies)
     waitsB s .copies kvcommitI = true ∧ (s.clu s.cluId).copies.length < 64 ∧ slotMasked s s.cluId 0 = false ∧ kvWhich s 0 0 0 0 = []) := by
  decide +kernel

/-- KVCOMMIT of one token: a step of one decode row at position 7, its page table at 0x80000, which names the page at 0x90000,
the spare pool at 0xA0000, the history at 0xB0000; the cluster translates VA 0 to 2^30. -/
def devKv : State :=
  (devRq [(0x20028, 8, 0x80000), (0x200D8, 8, 0xB0000), (0x80000, 8, 0x90000), (0x50008, 8, 1), (0x70000, 8, 2 ^ 41 + 7 * 2 ^ 12)]
    (fun x => { parkedFor kvcommitI .copies x with s := fset x.s 3 0x100000000#64 })).updClu 0
    (fun c => { c with tlb := [{ tlb0 with size := 2, attr := 0#2 }] })
def devKvr : State := { devKv with regs := fset devKv.regs (offSERV + 0x18) 0xA0000#64 }
theorem atHome_hbm {s : State} (hd : s.dirs = []) (hf : ∀ l, forwarded s l = none) {o n : Nat} (h : o + n ≤ 2 ^ 30) :
    AtHome s (hb + o) n := by
  refine fun k hk => ⟨?_, by simp [tracked, hd, hf, fget?]⟩
  have h1 : 0x10000000000 ≤ hb + o + k := by unfold hb; omega
  have h2 : hb + o + k < 0x18000000000 := by unfold hb; omega
  simp [physOk, inHbm, h1, h2]
theorem sees_kv {va : Nat} {acc : AccKind} {n : Nat} (hv : va + n ≤ 2 ^ 30) (hn : va < 2 ^ 30) (ha : checkEntry { tlb0 with size := 2, attr := 0#2 } acc 0 = none) :
    Sees devKvr 0 0 va acc (hb + va) n := by
  have h0 : va / 2 ^ 30 = 0 := by omega
  refine ⟨by omega, atHome_hbm rfl (fun _ => rfl) hv, { tlb0 with size := 2, attr := 0#2 }, ?_, ha, ?_, rfl⟩
  · have ht : (devKvr.clu 0).tlb = [{ tlb0 with size := 2, attr := 0#2 }] := rfl
    have hp : va % 2 ^ 57 / 2 ^ 30 * 2 ^ 30 = 0 := by omega
    simp [tlbFind, ht, TlbEntry.hits, tlb0, pageBytes]
    omega
  · simp [TlbEntry.phys, tlb0, pageBytes, hb]
    omega
theorem witness_KvcommitCopiesADecodeRow :
    SlotHeld devKvr (devKvr.rS 0#6).toNat 0 ∧ devKvr.quiet ∧ devKvr.soft = [] ∧ RecordQuiet devKvr 0 ∧
    slotMasked devKvr devKvr.cluId (devKvr.rS 0#6).toNat = false ∧ Waits devKvr devKvr.coreId devKvr.slotId .copies kvcommitI ∧
    (devKvr.clu devKvr.cluId).copies.length < 64 ∧ fld (devKvr.rS 3#6) 35 32 = 1 ∧
    (let x := descRow (2 ^ 41 + 7 * 2 ^ 12)
     kvWhich devKvr 0 (devKvr.rS 2#6).toNat (devKvr.rS 0#6).toNat 1 = [(0, x)] ∧ x.kind = 1 ∧
     rqGet devKvr 0 rqKVPT + 8 * (x.pos / kvTok devKvr) = 0x80000 ∧ (regGet devKvr (offSERV + 0x18)).toNat = 0xA0000 ∧
     fromBytes (readBytes devKvr.mem (hb + 0x80000) 8) + x.pos % kvTok devKvr * (65536 / kvTok devKvr) = 0x90000 + 7 * 4096 ∧
     rqGet devKvr 0 rqHIST + 4 * (rqGet devKvr 0 rqPOS + 1) = 0xB0004 ∧ servTenant devKvr = 0 ∧ reqTenant 0 = 0) ∧
    Sees devKvr 0 0 0x80000 .load (hb + 0x80000) 8 ∧ Sees devKvr 0 0 0xA0000 .load (hb + 0xA0000) 4096 ∧
    Sees devKvr 0 0 (0x90000 + 7 * 4096) .store (hb + (0x90000 + 7 * 4096)) 4096 ∧ Sees devKvr 0 0 0xB0004 .store (hb + 0xB0004) 4 := by
  refine ⟨held_of (by decide +kernel), by unfold State.quiet; decide, rfl, ?_, by decide +kernel, waits_of rfl (by decide), by decide,
    by decide, by decide +kernel, sees_kv (by decide) (by decide) (by decide), sees_kv (by decide) (by decide) (by decide), sees_kv (by decide) (by decide) (by decide),
    sees_kv (by decide) (by decide) (by decide)⟩
  have h : recordAt devKvr 0 = hb + 0x20000 := by decide +kernel
  exact ⟨by rw [h]; decide, by rw [h]; exact atHome_hbm rfl (fun _ => rfl) (by decide)⟩

/-! ### The Forecast table -/

def futcallI : Instr := .futcall g0 1#3 5#6 0#6 2#6 3#6
/-- Tool queue 0 valid and tenant 0's; the record's future word as given. -/
def devFu (fut : Nat) (f : Strand → Strand) : State := devRq [(0x30018, 8, 1), (0x20070, 8, fut)] f
theorem witness_Futcall :
    (devFu 0 id).guard g0 = true ∧ (devFu 0 id).quiet ∧ SlotHeld (devFu 0 id) ((devFu 0 id).rS 0#6).toNat 0 ∧
    ((devFu 0 id).rS 2#6).toNat ≤ 255 ∧ (tqDesc (devFu 0 id) 0).valid = true ∧ (tqDesc (devFu 0 id) 0).tenant = (devFu 0 id).tenantId ∧
    (let s := devFu 0 (parkedFor futcallI .access)
     waitsB s .access futcallI = true ∧ slotMasked s s.cluId 0 = false ∧ rqFlag s 0 flCancel = false ∧ bitN (rqGet s 0 rqFUT) 16 = false ∧
       futCount s 0 < tset s setFUTQUOTA 0 ∧ (futOf s 0).state = 0) ∧
    bitN (rqGet (devFu 0x10000 id) 0 rqFUT) 16 = true ∧
    tset (devFu 0 id) setFUTQUOTA 0 ≤ futCount { devFu 0 id with futures := [(0, { Future.init with state := 1 })] } 0 := by
  refine ⟨by decide, by unfold State.quiet; decide, held_of (by decide +kernel), ?_, ?_, ?_, ?_, ?_, ?_⟩ <;> decide +kernel

/-- Future 0 in a state, its deadline cycle 0 or 1; the strand holds 0 in s0. -/
def devFt (st dl : Nat) (f : Strand → Strand) : State :=
  { dev f with futures := [(0, { Future.init with state := st, deadline := dl })] }
theorem witness_FutureQueriesWaitsAndDeadlines :
    (0 = fld ((devFt 1 1 id).rS 0#6) 15 0) ∧ OnTime (devFt 1 1 id) 0 ∧ (futOf (devFt 1 1 id) 0).tenant = (devFt 1 1 id).tenantId ∧
    (futOf (devFt 1 1 id) 0).live = true ∧ (futOf (devFt 3 1 id) 0).live = false ∧ ((devFt 1 1 id).me.pcap = []) ∧
    waitsB (devFt 1 1 (parkedFor (.futqry g0 5#6 0#6) .access)) .access (.futqry g0 5#6 0#6) = true ∧
    pastDeadline (devFt 1 0 id) (futOf (devFt 1 0 id) 0) = some 0 ∧ pastDeadline (devFt 1 1 id) (futOf (devFt 1 1 id) 0) = none := by
  refine ⟨by decide, ?_, by decide, by decide, by decide, by decide, by decide, by decide, by decide⟩
  have h : pastDeadline (devFt 1 1 id) (futOf (devFt 1 1 id) 0) = none := by decide
  unfold OnTime
  rw [h]
  intro d hd
  cases hd

/-! ### System registers, pointers, handles, walks -/

theorem witness_SystemRegisters :
    (dev id).guard g0 = true ∧ (dev id).quiet ∧ (0x040 ≤ (0x040#12).toNat ∧ (0x045#12).toNat ≤ 0x045) ∧ ¬ 0x040 ≤ (0x03F#12).toNat ∧
    waitsB (dev (parkedFor (.mfs g0 5#6 0x045#12) .access)) .access (.mfs g0 5#6 0x045#12) = true ∧
    waitsB (dev (parkedFor (.icinv g0 .clu) .access)) .access (.icinv g0 .clu) = true ∧
    coreInScope .clu 0 15 = true ∧ coreInScope .clu 0 16 = false :=
  ⟨by decide, by unfold State.quiet; decide, by decide, by decide, by decide, by decide, by decide, by decide⟩

/-- The tag, and the fields of R123, of a pointer. -/
theorem witness_PointerTagsAndCasts :
    (dev id).me.privlen = 4096 ∧ (dev id).me.privbase = 0 ∧
    (let p := 0x1000000000000FFF#64; p.toNat / 2 ^ 60 = 1 ∧ fld p 59 18 = 0 ∧ p.toNat % 2 ^ 18 < 4096) ∧
    (let p := 0x1000000000001000#64; p.toNat / 2 ^ 60 = 1 ∧ 4096 ≤ p.toNat % 2 ^ 18) ∧
    (let p := 0x2000000000000FFF#64; p.toNat / 2 ^ 60 = 2 ∧ fld p 59 48 = (dev id).coreId ∧ fld p 47 18 = 0 ∧ p.toNat % 2 ^ 18 < 0 + 4096) ∧
    (let p := 0x2001000000000000#64; p.toNat / 2 ^ 60 = 2 ∧ fld p 59 48 ≠ (dev id).coreId) ∧
    (let p := 0x2000000000040000#64; fld p 59 48 = (dev id).coreId ∧ fld p 47 18 ≠ 0) ∧
    (let p := 0x2000000000001000#64; fld p 47 18 = 0 ∧ 0 + 4096 ≤ p.toNat % 2 ^ 18) ∧ (0#64 : Word).toNat / 2 ^ 60 ≠ 1 := by decide

/-- The handle cache of cluster 0 holds VA 0, with PIN as given. -/
def devH (pin : Bool) : State := (devRq [] (fun x => { x with s := [(1, 0x0200000000000000#64), (2, 0x1000000000000000#64), (3, 1#64)] })).updClu 0
  (fun c => { c with hcache := [{ tlb0 with pin := pin }] })
theorem witness_HandlesAreMadeAndReleased :
    (devH true).guard g0 = true ∧ (devH true).quiet ∧ ptrTag ((devH true).rS 2#6) ≠ 0 ∧ ptrTag ((devH true).rS 1#6) = 0 ∧
    fld ((devH true).rS 1#6) 59 57 ≠ 0 ∧ fld ((devH true).rS 0#6) 59 57 = 0 ∧
    hcacheFind ((devRq [] id).clu 0) 0 0 = none ∧ hcacheFind ((devH true).clu 0) 0 0 = some { tlb0 with pin := true } ∧
    hcacheFind ((devH false).clu 0) 0 0 = some { tlb0 with pin := false } ∧ slotReq (devH true) ((devH true).rS 3#6).toNat = none ∧
    SlotHeld (devH true) ((devH true).rS 0#6).toNat 0 :=
  ⟨by decide, by unfold State.quiet; decide, by decide, by decide, by decide, by decide, by decide, by decide, by decide, by decide,
    held_of (by decide +kernel)⟩

/-- The page table with a companion word, and the low bits of its leaf PTE. -/
def devPt (comp low : Nat) (f : Strand → Strand) : State := devRq [(0x3000, 8, comp), (0x2000, 1, low)] f
/-- The walk finds a leaf of level 2 whose page is a 1,024 MiB one, with this PTE and companion word. -/
def leafIs (s : State) (p : Nat → Nat → Bool) : Bool :=
  match walk s 0 0 with
  | .leaf _ pte comp lvl => decide (leafPage pte lvl = some (2, hb)) && p pte comp
  | _ => false
theorem witness_WalksCheck :
    leafIs (devPt 1 0xDF id) (fun pte comp => bitN pte 4 && bitN pte 2 && bitN comp 0 && bitsN comp 49 48 != 3 && bitsN comp 63 51 == 0) = true ∧
    physOk hb = true ∧ leafIs (devPt 1 0xCF id) (fun pte _ => !bitN pte 4) = true ∧
    leafIs (devPt 1 0xDB id) (fun pte _ => bitN pte 4 && !bitN pte (1 + AccKind.store.perm)) = true ∧
    leafIs (devPt 2 0xDF id) (fun pte comp => bitN pte 4 && !bitN comp (cluGroup 0)) = true ∧
    leafIs (devPt (3 * 2 ^ 48 + 1) 0xDF id) (fun _ comp => bitN comp 0 && bitsN comp 49 48 == 3) = true ∧ cluExists 0 = true ∧
    leafIs (devPt 1 0xD7 id) (fun pte _ => !bitN pte 3) = true ∧ leafPage 0x000000000000A0DF 2 = none := by decide +kernel

/-- What a walk for the parked store at VA 0 of the issuing strand finds. -/
def trIs (s : State) (p : Tr → Bool) : Bool := p (walkAD s 0 0 .store 0).1
theorem witness_WalksFill :
    (let s := devPt 1 0xDF (fun x => { parkedFor ldI .walk x with pacc := .store })
     s.cur = .strand 0 0 ∧ s.me.status = .parked ∧ s.me.phase = .walk ∧ s.me.pacc ≠ .xlate ∧ s.me.pva = 0#64 ∧ s.soft = [] ∧
       trIs s (fun t => match t with | .ok _ => true | _ => false) = true) ∧
    trIs (devRq [(0x2000, 2, 0x100)] id) (fun t => match t with | .migrating => true | _ => false) = true ∧
    trIs (devRq [(0x2000, 8, 0)] id) (fun t => match t with | .bad c => c == cGPF_NP | _ => false) = true ∧
    trIs (devPt 2 0xDF id) (fun t => match t with | .bad c => c == cGROUPMASK | _ => false) = true := by decide +kernel

/-! ### Launches -/

/-- A descriptor of one task of tenant 0 on die 0: entry 0x1100, 16 vector registers, 256 private bytes, dependency `d`, flags. -/
def desc0 (d flags : Nat) : List Word :=
  [0x1100#64, w64 (flags * 2 ^ 48 + 0x0000000100010001), 0, w64 (2 ^ 16 + 16), w64 d, 0, 7, 0]
def desc1 : Launch := describedLaunch (dev id) 0 (desc0 0 0) none
/-- Tenant 0 has assigned launch 1, which has not met its trigger; its spill queue has room for `cap`. -/
def devL (cap : Nat) : State :=
  { dev id with newest := [(0, 1)], launches := [(launchKey 0 1, { launch0 with id := 1 })], tset := fset [] (64 * setSPILLSZ) (w64 cap) }
theorem witness_LaunchesAreChecked :
    fld ((desc0 0 0).getD 0 0) 2 0 = 0 ∧ fld (([4#64] : List Word).getD 0 0) 2 0 ≠ 0 ∧
    (describedLaunch (dev id) 0 [0x1100#64, 0x0000000100000001#64] none).gy = 0 ∧
    badField (dev id) 0 false (describedLaunch (dev id) 0 (desc0 0 2) none) = some 3 ∧
    badField (dev id) 0 false desc1 = none ∧ oversize (dev id) desc1 = none ∧ desc1.resident = false ∧
    (depState (dev id) desc1 == 0 && (spillFor (dev id) desc1.home 0).isEmpty && owedOthers (dev id) desc1.home 0 < poolRoom (dev id) desc1.home) = true ∧
    oversize (dev id) (describedLaunch (dev id) 0 [0x1100#64, 0x0000000100010001#64, 0, w64 648, 0, 0, 0, 0] none) = some 1 ∧
    (let l := describedLaunch (devL 33) 0 (desc0 1 0) none
     badField (devL 33) 0 false l = none ∧ oversize (devL 33) l = none ∧ depState (devL 33) l = 1 ∧ l.flag 3 = false ∧
       (spillOf (devL 33) 0).length + 32 < tset (devL 33) setSPILLSZ 0 ∧ tset (devL 32) setSPILLSZ 0 ≤ (spillOf (devL 32) 0).length + 32) ∧
    (let s := { devL 33 with tset := fset (devL 33).tset (64 * setSPILLBASE) (w64 0x10000000000) }
     ∀ o, o < 128 → physOk (tset s setSPILLBASE 0 + 128 * 0 + o) = true ∧ tracked s (lineOf (tset s setSPILLBASE 0 + 128 * 0 + o)) = false) ∧
    (describedLaunch (devL 1) 0 (desc0 1 8) none).flag 3 = true ∧ badField (devL 1) 0 false (describedLaunch (devL 1) 0 (desc0 1 8) none) = none ∧
    tset (devL 0) setSPILLSZ 0 ≤ (spillOf (devL 0) 0).length := by decide

def launchI : Instr := .launch g0 1#3 5#6 1#6
/-- s1 points to a descriptor at VA 0x1100 of an SC page; the strand is READY or waits for its reads. -/
def devLr (f : Strand → Strand) : State :=
  { devRq [(0x1100, 8, 0x1100), (0x1108, 8, 0x0000000100010001), (0x1118, 8, 0x10010)] (fun x => f { x with s := [(1, 0x1100#64)] }) with cycle := 1 }
def parts0 : List (Nat × Nat × Nat) := (List.range 8).map (fun j => (0x1100 + 8 * j, 8 * j, 8))
def pieces0 : List Piece := (List.range 8).map (fun j => { off := 8 * j, len := 8, place := .page (hb + 0x1100 + 8 * j) 1#2 (0x1100 + 8 * j) })
theorem placed0 (s : State) (h : (placeAll (fun a m => globalPlace s .load a m) 0 parts0).toOption = some pieces0) :
    placeAll (fun a m => globalPlace s .load a m) 0 parts0 = .ok pieces0 := by
  revert h
  generalize placeAll (fun a m => globalPlace s .load a m) 0 parts0 = x
  cases x with
  | error e => intro h; simp [Except.toOption] at h
  | ok v => intro h; cases h; rfl
theorem pieces0_far : ∀ q ∈ pieces0, ∃ pa attr a, q.place = .page pa attr a ∧ attr ≠ 0#2 := by
  intro q hq
  simp only [pieces0, List.mem_map] at hq
  obtain ⟨j, -, rfl⟩ := hq
  exact ⟨_, _, _, rfl, by decide⟩
theorem witness_LaunchReadsItsDescriptor :
    (devLr id).guard g0 = true ∧ ptrTag ((devLr id).rS 1#6) = 0 ∧ fld ((devLr id).rS 1#6) 59 57 = 0 ∧ ((devLr id).rS 1#6).toNat % 64 = 0 ∧
    fld ((devLr id).rS 1#6) 56 0 = 0x1100 ∧ dataMatch (devLr id) true false 0x1100 64 = none ∧ ReleaseDue (devLr id) .dev ∧
    (let u := (releasedState (devLr id) .dev).setMe { (devLr id).me with prel := true }
     myTxs u u.coreId u.slotId = [] ∧ placeAll (fun a m => globalPlace u .load a m) 0 parts0 = .ok pieces0) ∧
    (∀ q ∈ pieces0, ∃ pa attr a, q.place = .page pa attr a ∧ attr ≠ 0#2) := by
  refine ⟨by decide, by decide, by decide, by decide, by decide, by decide, releaseDue_of (by decide), ⟨by decide, ?_⟩, pieces0_far⟩
  exact placed0 _ (by decide +kernel)
theorem witness_Launch_reply :
    (let s := devLr (fun x => { parkedFor launchI .access x with prel := true })
     waitsB s .access launchI = true ∧ s.me.prel = true ∧ (placeAll (fun a m => globalPlace s .load a m) 0 parts0).toOption = some pieces0 ∧
     myTxs s s.coreId s.slotId = [] ∧
     s.part = none ∧
     (let r := piecesRead s 0 pieces0
      (r.2.map (fun l => l.map (fun x => w64 (fromBytes x.2)))) = some [0x1100#64, 0x0000000100010001#64, 0, 0x10010#64, 0, 0, 0, 0] ∧
        r.1.soft = [] ∧ r.1.cur = s.cur ∧ myTxs r.1 r.1.coreId r.1.slotId = [] ∧
        (submitLaunch r.1 0 [0x1100#64, 0x0000000100010001#64, 0, 0x10010#64, 0, 0, 0, 0] false none).2.cur = s.cur ∧
        (submitLaunch r.1 0 [0x1100#64, 0x0000000100010001#64, 0, 0x10010#64, 0, 0, 0, 0] false none).2.me.stepping = false ∧
        (submitLaunch r.1 0 [0x1100#64, 0x0000000100010001#64, 0, 0x10010#64, 0, 0, 0, 0] false none).2.me.haltReq = false)) := by
  decide +kernel

theorem witness_TasksStartClean : (devL 0).waits = [] ∧ (devL 0).launch (launchKey 0 1) = some { launch0 with id := 1 } ∧ (63#6 : SReg) ≠ 1#6 ∧ (63#6 : SReg) ≠ 61#6 := by
  decide

/-- One gang of 8 in the pool of die 0, at a level, as its tenant's head. -/
def gang0 : Launch := { launch0 with words := [0x1100#64, w64 (5 * 2 ^ 48 + 0x0000000100010008), 0, w64 (2 ^ 16 + 16), 0, 0, 7, 0], resident := false, live := 0 }
def devPool (lv : Nat) : State :=
  let p : Pool := { Pool.init with ents := [{ launch := 1, level := lv, since := 0, head := true }] }
  { State.reset with launches := [(1, gang0)], cycle := 2 ^ 20, pools := [(0, p)], regs := fset [] (offREADYCLU 0) (w64 (2 ^ 48 - 1)) }
theorem witness_PoolsPlacePromoteAndFill :
    (placeResident (devPool 3) 0).isNone = true ∧ ((devPool 3).pool 0).ents = [{ launch := 1, level := 3, since := 0, head := true }] ∧
    ((devPool 3).pool 0).res = [] ∧ (devPool 3).launch 1 = some gang0 ∧
    poolEligible (devPool 3) { launch := 1, level := 3, since := 0, head := true } = true ∧
    ((drrTurn (devPool 3) 0 3 [0]).bind (fun x => placeNext x.2 0 1 gang0)).map (·.2) = some 8 ∧
    poolEligible (devPool 2) { launch := 1, level := 2, since := 0, head := true } = true ∧ 0 + 2 ^ 20 ≤ (devPool 2).cycle ∧
    (let s := { devPool 2 with spillq := [(0, [1])] }
     s.launch 1 = some gang0 ∧ gang0.home = 0 ∧ depState s gang0 = 0 ∧ (s.pool 0).ents.length < 256) := by decide +kernel

/-! ### Harts -/

def hartDev (h : Hart) (s : State) : State := { s with harts := [(0, h)], cur := .hart 0 }
def m0 : Hart := { Hart.init with x := [(1, 0x10000000020#64), (2, 0x3000000000000010#64)] }
def cap0 : Cap := { base := 0x10000000000#64, length := 0x30#64, sealed := false, perm := 15#4 }
theorem witness_CapabilitiesAndSandbox :
    m0.priv = 3 ∧ (m0.rX 1#5).toNat % 32 = 0 ∧ (m0.rX 2#5).toNat % 32 ≠ 0 ∧ (hartDev m0 (dev id)).soft = [] ∧
    (let h := m0.setCap 2#4 cap0
     (h.cap 2#4).sealed = false ∧ (h.cap 2#4).base.toNat ≤ (h.rX 1#5).toNat ∧
       (h.rX 1#5).toNat + fld (h.rX 2#5) 59 0 ≤ min ((h.cap 2#4).base.toNat + (h.cap 2#4).length.toNat) (2 ^ 64) ∧
       ¬ (h.rX 1#5).toNat + fld (h.rX 1#5) 59 0 ≤ (h.cap 2#4).base.toNat + (h.cap 2#4).length.toNat) ∧
    { m0 with priv := 1 }.priv = 1 ∧ { m0 with priv := 0, sbx := true }.sbx = true ∧ m0.sbx = false ∧
    (hartLoad (hartDev m0 (dev id)) m0 .load 0x10000000020#64 32).toOption.isSome = true ∧
    (hartLoad (hartDev m0 (dev id)) { m0 with priv := 0, sbx := true } .load 0x10000000020#64 32).toOption.isSome = false := by decide

/-- A hart in M-mode; tool queue 0 is tenant 0's, valid, its ring of 4 entries at VA 0x4000; future 0 of request 0 is ARMED with key
2^32, and one entry of it is queued. Register 2 is the buffer, register 3 the number 1. -/
def devT (n st : Nat) (c : Cap) : State :=
  let h : Hart := { Hart.init with x := [(2, 0x10000002100#64), (3, 1#64)], caps := [(4, c)] }
  { hartDev h (devRq [(0x30000, 8, 0x4000), (0x30008, 4, 4), (0x30014, 4, n), (0x30018, 8, 1), (0x4000, 8, 2 ^ 32), (0x20040, 4, 64),
      (0x20010, 3, 9), (0x200D8, 8, 0x5000)] id) with
    futures := [(0, { Future.init with state := st, key := 2 ^ 32, deadline := 9 })] }
def capF : Cap := { base := w64 (2 ^ 32), length := 0, sealed := true, perm := 8#4 }
/-- One try of a pop: an entry whose future is ARMED. -/
theorem tqPopFrom_low {s : State} {d : TqDesc} {a : Nat} {e : List Byte} {key : Word} (he : d.head ≠ d.tail)
    (hs : s.soft = []) (ha : d.entry d.head = a) (hu : unitRead s 0 a 64 = some e) (hk : w64 (fromBytes (e.take 8)) = key)
    {i n : Nat} {f : Future} (hm : futMatch (futNow (cohPutNat s (d.pa + 16) 4 ((d.head + 1) % 2 ^ 32)) (fld key 15 0)) key = some (i, f))
    (hf : f.state = 1) : (tqPopFrom unitRead 0 (n + 1) s d).1 = some (e, i) := by
  have hc : unitScan s 0 a 64 = s := by unfold unitScan; rw [hs]; rfl
  rw [tqPopFrom, if_neg he, ha]
  simp only [hc, hu]
  simp only [hk, hm, hf, if_true]
/-- The descriptor of the tests' tool queue 0: one entry of 4 at VA 0x4000. -/
def tqd (r : Bool) : TqDesc := { pa := hb + 0x30000, base := 0x4000, size := 4, head := 0, tail := 1, valid := true, remote := r, tenant := 0 }
/-- The future of its entry, as the tests hold it. -/
def fut0 : Future := { Future.init with state := 1, key := 2 ^ 32, deadline := 9 }
def popOk (s : State) (r : Bool) : Bool :=
  ptOk s && decide (s.soft = []) && decide (tqDesc s 0 = tqd r) && decide (w64 (fromBytes ((cohRead s (hb + 0x4000) 64).take 8)) = w64 (2 ^ 32)) &&
    decide (futMatch (futNow (cohPutNat s (hb + 0x30000 + 16) 4 1) 0) (w64 (2 ^ 32)) = some (0, fut0))
theorem tqPop_of {s : State} {r : Bool} (h : popOk s r = true) : (tqPop unitRead s 0).1 = some (cohRead s (hb + 0x4000) 64, 0) := by
  simp only [popOk, Bool.and_eq_true, decide_eq_true_eq] at h
  obtain ⟨⟨⟨⟨h0, hs⟩, h1⟩, h2⟩, h3⟩ := h
  have hz : (tqd r).size ≠ 0 := by cases r <;> decide
  have hm : min (tqd r).used (tqd r).size = 0 + 1 := by cases r <;> decide
  have ht : (tqd r).tenant = 0 := by cases r <;> decide
  have he : (tqd r).head ≠ (tqd r).tail := by cases r <;> decide
  have ha : (tqd r).entry (tqd r).head = 0x4000 := by cases r <;> decide
  have hk : fld (w64 (2 ^ 32)) 15 0 = 0 := by decide
  have hp : (tqd r).pa = hb + 0x30000 := by cases r <;> decide
  have hd : ((tqd r).head + 1) % 2 ^ 32 = 1 := by cases r <;> decide
  have h4 : futMatch (futNow (cohPutNat s ((tqd r).pa + 16) 4 (((tqd r).head + 1) % 2 ^ 32)) (fld (w64 (2 ^ 32)) 15 0)) (w64 (2 ^ 32)) =
      some (0, fut0) := by rw [hd, hp, hk]; exact h3
  have h5 : fut0.state = 1 := by decide
  have hu := unitRead_low h0 (n := 64) (va := 0x4000) (by decide)
  unfold tqPop
  rw [h1, if_neg hz, ht, hm]
  exact tqPopFrom_low (n := 0) he hs ha hu h2 h4 h5
theorem witness_Tqpop :
    (let s := devT 1 1 capF; let h := s.myHart
     capRangeFails h .store (h.rX 2#5).toNat 64 = false ∧ (h.rX 2#5).toNat % 64 = 0 ∧
     (hartReach s h (h.mode .store) .store (h.rX 2#5).toNat 64).toOption.map (fun r => (r.1, decide (r.2 = s))) =
       some ([(hb + 0x2100, 64)], true) ∧ (h.rX 0#5).toNat ≤ 255 ∧ (writePieces s s.hartId [(hb + 0x2100, 64)] (List.replicate 64 0#8)).toOption.isSome = true ∧
     (tqDesc s 0).valid = true ∧ (tqDesc s 0).remote = false ∧ (tqDesc s 0).tenant = fld h.kwtenant 5 0 ∧
     popOk s false = true ∧ (tqPop unitRead (devT 0 1 capF) 0).1.isNone = true ∧
     ((fun h : Hart => capRangeFails h .store 0 64) { h with sbx := true }) = true) ∧
    (tqDesc (devRq [] id) 0).valid = false := by decide +kernel
theorem witness_FutureCapabilities :
    (let s := devT 1 1 capF; let h := s.myHart
     (h.cap 4#4).future = true ∧ (h.cap 0#4).future = false ∧ futMatch s (h.cap 4#4).base = some (0, futOf s 0) ∧ (futOf s 0).live = true ∧
     (futOf (devT 1 4 capF) 0).live = false ∧ (h.rX 0#5).toNat < argLen s (futOf s 0) ∧
     (unitRead s 0 (rqGet s 0 rqHIST) 4).isSome = true ∧ pastDeadline s (futOf s 0) = none ∧ (h.rX 0#5).toNat % 4 = 0 ∧
     (h.rX 3#5).toNat ≤ rqGet s 0 rqPFQSIZE ∧ (hartLoad s h .load (h.rX 2#5) (4 * (h.rX 3#5).toNat)).toOption.isSome = true ∧ s.soft = [] ∧
     capRangeFails h .load (h.rX 2#5).toNat (4 * (h.rX 3#5).toNat) = false) ∧
    futMatch (devT 1 0 capF) capF.base = none := by decide +kernel

theorem witness_SandboxChecksAndTraps :
    (let h : Hart := { Hart.init with priv := 0, sbx := true, caps := [(0, cap0)] }
     h.priv = 0 ∧ h.sbx = true ∧ (fget Cap.null h.caps 0).grants .load = true ∧ cap0.base.toNat ≤ 0x10000000020 ∧
       0x10000000020 + 16 ≤ cap0.base.toNat + cap0.length.toNat ∧
       (∀ i, i < 16 → (fget Cap.null ({ h with caps := [] } : Hart).caps i).grants .load = false)) ∧
    (hartPages { Hart.init with priv := 0, sbx := true } (Hart.mode { Hart.init with priv := 0, sbx := true } .load) .load 2 (dev id)
      0x10000000020 16).toOption.isSome = true ∧
    (let h := { Hart.init with priv := 0, sbx := true, csr := fset [] 0x180 0xA000000010000000#64 }
     (match hartPages h (h.mode .load) .load 2 (dev id) 0x1000 16 with
      | .error ((x, _), _) => decide (x ≠ xHardware)
      | .ok _ => false) = true) ∧
    m0.sretTrap = none ∧ { m0 with priv := 0 }.sretTrap = some xIllegal ∧
    m0.priv = 3 ∧ (dev id).mc.banks.length < 2 ∧ { m0 with priv := 1 }.priv ≠ 0 := by decide

/-! ### The Front -/

/-- Serving mode active; the Front as given. -/
def devS' (f : Front) : State := { dev id with regs := fset [] offSERV 4#64, front := f }
def move0 : PageMove := { id := 3, req := 0, idx := 0, dst := hb + 0x10000, spill := true, ids := [] }
def page0' : KvPage := { win := 0, pa := hb, spill := false }
theorem witness_StepsAndPages :
    (let s := devS' { Front.init with ending := true }
     s.front.ending = true ∧ servActive s = true ∧ s.front.plan = none ∧ allDone s = true ∧ s.front.slots = [] ∧ s.front.cancels = [] ∧
       s.front.deadSlots = [] ∧ s.front.deadPages = [] ∧ s.futures = [] ∧ s.front.held = [] ∧ s.front.drainPub = false ∧ s.front.moves = [] ∧
       (∀ i, i < 64 → tset s setRQCOUNT i = 0)) ∧
    (let s := devS' { Front.init with ending := true, drainPub := true }
     s.front.ending = true ∧ s.front.drainPub = true ∧ allDone s = true) ∧ (devS' .init).front.ending = false ∧
    (let s := devS' { Front.init with moves := [move0], reqs := [(0, { pages := [page0'], rebuild := none })] }
     s.front.moves = [move0] ∧ drained s move0.ids = true ∧ (frontReq s move0.req).pages[move0.idx]? = some page0') ∧
    (let x : PageFree := { id := 1, tenant := 0, page := page0', ids := [] }
     let s := devS' { Front.init with frees := [x] }
     s.front.frees = [x] ∧ drained s x.ids = true ∧ servActive s = true) ∧
    4095 ∈ (devS' { Front.init with faulted := [4095] }).front.faulted ∧ slotReq (devS' { Front.init with faulted := [4095] }) 4095 = none ∧
    0 ∉ (devS' .init).front.faulted := by decide
/-- Slot 0 holds request 0, and is faulted. -/
theorem witness_StepsAndPages_slot :
    (let s := { devRq [] id with front := { Front.init with slots := [(0, 0)], faulted := [0] } }
     0 ∈ s.front.faulted ∧ slotReq s 0 = some 0 ∧ RecordQuiet s 0) := ⟨by decide, by decide, record0_quiet⟩

/-- Cluster 0 is in the core mask and READY; the resident launch of tenant 0 is described at VA 0x1100 of its page table. -/
def devGo (gz : Nat) : State :=
  let s := devRq [(0x1100, 8, 0x1100), (0x1108, 8, 20 * 2 ^ 48 + gz * 2 ^ 32 + 192 * 2 ^ 16 + 16), (0x1118, 8, 0x10010)] id
  { s with regs := fset (fset (fset (fset s.regs (offSERV + 8) 0#64) (offSERV + 0x40) 1#64) offREADY (w64 (2 ^ 28))) (offREADYCLU 0) 1#64, tset := fset s.tset (64 * setRESIDENT) 0x1100#64 }
/-- The state in which GO reads the resident launch: BUSY, its words emptied. -/
def goState (s : State) : State :=
  let s1 := (servFld s 3 3 1).updFront (fun f => { f with free := ((List.range (kvFreeCnt s)).map
    (fun i => bitsN (cohNat s (kvFreeBase s + 8 * i) 8) 55 16 * 65536)).reverse })
  let off := regGet s1 (offSERV + 0x30)
  (servClusters s1).foldl (fun s c => (fld off 21 0 :: (List.range 16).map (fun c => fld off 53 32 + 8 * c)).foldl (emptyWord c) s) s1
def goLaunch (s : State) : Bool :=
  match unitRead s 0 0x1100 64 with
  | some bs => fld (submitLaunch s 0 ((List.range 8).map (fun i => w64 (fromBytes (slice bs (8 * i) 8)))) true none).1 7 0 == 0
  | none => false
theorem goLaunch_low {s : State} (h : ptOk s = true) : goLaunch s = (fld (submitLaunch s 0 ((List.range 8).map
    (fun i => w64 (fromBytes (slice (cohRead s (hb + 0x1100) 64) (8 * i) 8)))) true none).1 7 0 == 0) := by
  simp only [goLaunch, unitRead_low h (show 0x1100 + 64 ≤ 2 ^ 30 by decide)]
theorem witness_ServingGo_ready : fnReady (devGo 1) 28 = true ∧ fnReady (dev id) 28 = false := by decide
theorem witness_ServingGo_refused :
    (let s := { dev id with regs := fset [] offREADY (w64 (2 ^ 28)) }; fnReady s 28 = true ∧ goRefused s = true) := by decide +kernel
theorem witness_ServingGo_accepted : goRefused (devGo 1) = false := by decide +kernel
theorem witness_ServingGo_launch : goLaunch (goState (devGo 1)) = true ∧ (goState (devGo 1)).soft = [] ∧ servTenant (goState (devGo 1)) = 0 := by
  refine ⟨?_, by decide +kernel, by decide +kernel⟩; rw [goLaunch_low (by decide +kernel)]; decide +kernel
theorem witness_ServingGo_bad : goLaunch (goState (devGo 9)) = false := by rw [goLaunch_low (by decide +kernel)]; decide +kernel
theorem witness_ServingGo_unread :
    (let s := { devGo 1 with tset := fset (devGo 1).tset (64 * setRESIDENT) (w64 (2 ^ 30)) }
     goRefused s = false ∧ unitRead (goState s) 0 (tset (goState s) setRESIDENT 0) 64 = none) := by decide +kernel
theorem witness_ServingActivateAndOff :
    (let l := { launch0 with placed := 1 }
     let s := { devS' { Front.init with launch := some 0, drained := true } with launches := [(0, l)], regs := fset [] offSERV 8#64 }
     s.front.launch = some 0 ∧ s.launch 0 = some l ∧ servBusy s = true ∧ servActive s = false ∧ l.outcome = 0 ∧ l.tasks ≤ l.placed ∧
       launch0.placed < launch0.tasks) ∧
    (let l := { launch0 with live := 0 }
     let s := { devS' { Front.init with launch := some 0, drained := true } with launches := [(0, l)] }
     servActive s = true ∧ s.front.drained = true ∧ s.front.launch = some 0 ∧ s.launch 0 = some l ∧ l.live = 0) ∧ (3 : Nat) < 4 := by decide

def record0 : Deferred := { ring := 0, data := 4#8 :: List.replicate 31 0#8, tenant := 0, sys := false, req := none }
/-- Ring 0 is tenant 0's, of 16 entries at VA 0x6000, with `used` of them taken; one record waits. -/
def devCq (used cfg : Nat) : State :=
  let s := devRq [] id
  { s with regs := fset (fset (fset s.regs (offCQ 0) 0x6000#64) (offCQ 0 + 8) (w64 cfg)) (offCQ 0 + 16) (w64 (used * 2 ^ 32)), deferred := [record0] }
theorem witness_DeferredRecordsAreRetried :
    record0.ring < 2 ^ 16 ∧ record0.data.getD 0 0 ≠ 7#8 ∧ cqOwned (devCq 0 0) 0 0 false = false ∧ cqOwned (devCq 15 (2 ^ 63)) 0 0 false = true ∧
    (cqStore (devCq 15 (2 ^ 63)) 0 record0.data).map (·.deferred) = some [record0] ∧ (cqStore (devCq 16 (2 ^ 63)) 0 record0.data).isNone = true := by
  decide +kernel

/-- Request 0 in slot 0 with the first word of its record as given, and more of memory; its tenant may hold one slot, nine pages
and eight rows. -/
def devOut (w : Nat) (more : List (Nat × Nat × Nat)) : State :=
  let s := devRq ((0x20000, 8, w) :: more) id
  { s with front := { s.front with active := [0] }, tset := fset (fset (fset (fset (fset s.tset (64 * setSLOTQ) 1#64) (64 * setPAGEQ) 9#64)
      (64 * setROWQ) 8#64) (64 * setPFCHUNK) 4#64) (64 * setRQCOUNT) 1#64 }
theorem recordQuiet_of {s : State} (hd : s.dirs = []) (hf : ∀ l, forwarded s l = none) (h : recordAt s 0 = hb + 0x20000) :
    RecordQuiet s 0 := ⟨by rw [h]; decide, by rw [h]; exact atHome_hbm hd hf (by decide)⟩
/-- The request's state, flags and fault code. -/
def outIs (s : State) (st : Nat) (commit cancel : Bool) (code stop : Nat) : Bool :=
  rqGet s 0 rqSTATE == st && rqFlag s 0 flCommit == commit && rqFlag s 0 flCancel == cancel && rqGet s 0 rqFCODE == code &&
    bitsN (rqGet s 0 rqFLAGS) 4 3 == stop
theorem witness_OutcomesComeInOrder :
    outIs (devOut 0x0203 []) stRUNNING true false 0 0 = true ∧ 0 ∉ (devOut 0x0203 []).front.faulted ∧
    outIs (devOut 0x0103 [(0x200B8, 1, 7)]) stRUNNING false true 7 0 = true ∧ outIs (devOut 0x0903 []) stRUNNING false true 0 1 = true ∧
    outIs (devOut 0x1003 []) stRUNNING false false 0 2 = true ∧ outIs (devOut 2 []) stADMITTED false false 0 0 = true ∧
    0 ∈ (devOut 2 []).front.active ∧ rqFuture (devOut 2 []) 0 = none ∧ rqFuture (devOut 2 [(0x20070, 4, 0x10000)]) 0 = some 0 ∧
    recordAt (devOut 0x0203 []) 0 = hb + 0x20000 := by decide +kernel
theorem witness_OutcomesQuiet : RecordQuiet (devOut 0x0203 []) 0 := recordQuiet_of rfl (fun _ => rfl) (by decide +kernel)
theorem witness_RequestEnds :
    (let s := unitRelease (rqPut (devOut 3 []) 0 rqSTATE stRETIRED)
     let cq := rqGet s 0 rqCQ
     let x := cqPut s (bitsN cq 12 0) (reqTenant 0) (bitN cq 13) (endRecord s 0 stRETIRED 1) (some 0)
     x.2 = true ∧ rqFuture x.1 0 = none ∧ x.1.front.moves = [] ∧ (frontReq x.1 0).pages = [] ∧ recordAt x.1 0 = hb + 0x20000) ∧
    (let s := unitRelease (rqPut (devCq 16 (2 ^ 63)) 0 rqSTATE stRETIRED)
     (cqPut s 0 0 false (endRecord s 0 stRETIRED 1) (some 0)).2 = false) := by decide +kernel
/-- The same request waiting for admission. -/
def devAdm (gen : Nat) : State :=
  let s := devOut 1 [(0x20018, 4, gen)]
  { s with front := { s.front with slots := [] } }
theorem witness_AdmissionTakesTheOldest :
    (let s := devAdm 0
     (allRequests s).filter (fun q => isCandidate s q && rqGet s q rqPRIO == 0) = [0] ∧ rqGet s 0 rqSTATE = stQUEUED ∧ freeSlot s = some 0 ∧
       s.front.frees = [] ∧ spilledPages s 0 = 0 ∧ slotsHeld s 0 < tset s setSLOTQ 0 ∧
       (tenantPages s 0).length + wantPages s 0 ≤ tset s setPAGEQ 0 ∧ wantPages s 0 ≤ s.front.free.length) ∧
    (devAdm 1).front.free.length < wantPages (devAdm 1) 0 ∧
    slotsHeld (devAdm 0) 0 = tset { devAdm 0 with tset := fset (devAdm 0).tset (64 * setSLOTQ) 0#64 } setSLOTQ 0 ∧
    largest (fun t => if t = 3 then 5 else 4) [1, 3, 7] = some 3 ∧ oldestReq (devAdm 0) [0, 1] = some 0 := by decide +kernel
theorem witness_RowsAreChosen :
    rowReqs (devOut 3 []) = [(0, 0)] ∧ pendingRows (devOut 3 []) 0 = 0 ∧ rqGet (devOut 3 []) 0 rqGEN = 0 ∧
    rqGet (devOut 3 [(0x20018, 4, 1)]) 0 rqGEN = 1 ∧ draftRows (devOut 3 [(0x20018, 4, 1)]) 0 0 = [] ∧
    pendingRows (devOut 3 [(0x2004C, 4, 5)]) 0 = 5 ∧ chooseRows (devOut 3 [(0x2004C, 4, 5)]) ≠ [] := by decide +kernel
/-- A plan of one row for slot 0, and pages that are free; the eviction class in the record's first word. -/
def devEv (w : Nat) (free : List Nat) : State :=
  let s := devOut w []
  { s with front := { s.front with plan := some { rows := [{ slot := 0, pos := 0, node := 0, kind := 0, parent := 0 }], fresh := [], todo := [] },
                                   free := free } }
theorem witness_PagesAreFoundByEviction :
    (let s := devEv 3 [hb]
     s.front.plan.any (fun p => needPages s p.rows 0 0 == 1) = true ∧ slotReq s 0 = some 0 ∧ s.front.frees = [] ∧ s.front.moves = [] ∧
       (tenantPages s 0).length + 1 ≤ tset s setPAGEQ 0 ∧ (frontReq s 0).pages = [] ∧ recordAt s 0 = hb + 0x20000 ∧
       tset s setEVPOL 0 = 0) ∧
    evictable (devEv 0x10000003 []) (0, 0) = true ∧ firstEvicted (devEv 0x10000003 []) [(0, 0)] = some (0, 0) ∧
    (devEv 3 []).front.slots.filter (evictable (devEv 3 [])) = [] := by decide +kernel

/-! ### Shootdowns, side logs, homes -/

/-- TSCMD as given, TSPA.SIZE as given, tenant 0, VA 0. -/
def devTs (cmd size : Nat) (l : List Posted) : State :=
  { dev id with regs := fset (fset [] offTSPA (w64 (hb + size))) offTSCMD (w64 cmd), posted := l, tsBusy := [0] }
theorem witness_ShootdownsInvalidate :
    (regGet (devTs 0 2 []) offTSCMD).getLsbD 8 = false ∧ tsSize (devTs 0 2 []) = 2 ∧ tsSize (devTs 0 3 []) = 3 ∧
    (regGet (devTs 0x100 0 []) offTSCMD).getLsbD 8 = true ∧ drained (devTs 0x100 0 []) (devTs 0x100 0 []).tsBusy = true ∧
    drained (devTs 0x100 0 [posted0]) (devTs 0x100 0 [posted0]).tsBusy = false ∧ (devTs 0x100 0 []).trst = [] ∧
    (let s := { devTs 0 0 [posted0] with trst := [(0, [0])] }
     (regGet s offTSCMD).getLsbD 8 = false ∧ drained s [0] = false ∧ drained { s with posted := [] } [0] = true) ∧ (∀ c ∈ (devTs 0 0 []).clusters, c.2.sidelog = []) := by decide

def sl0 : SlEntry := { id := 1, tenant := 0, va := 8, op := .st, data := [1#8, 2#8], core := 0, slot := 0, pc := 0, gone := false }
/-- One side-log entry of page 0, whose page is there again; its replay period began at cycle 0, or it is held. -/
def devSl (cyc : Nat) (at_ : List (Nat × Nat × Nat)) (held : Option (Nat × Nat × Nat)) : State :=
  { (devPt 1 0xDF id).updClu 0 (fun c => { c with sidelog := [sl0], slAt := at_, slHeld := held }) with cycle := cyc }
theorem witness_SideLogsReplay :
    (let s := devSl 65536 [(0, 0, 0)] none
     s.soft = [] ∧ (s.clu 0).slAt = [(0, 0, 0)] ∧ 65536 ≤ s.cycle - 0 ∧ (s.clu 0).slHeld = none ∧ slOf (s.clu 0) 0 0 = [sl0] ∧
       (match xlateWalk (s.updClu 0 (fun c => { c with slAt := [(0, 0, s.cycle)] })) 0 sl0.va .store 0 with
        | (.ok te, some _) => te.attr == 0#2 | _ => false) = true) ∧
    (let s := devSl 0 [] (some (0, 0, 8))
     (s.clu 0).slHeld = some (0, 0, 8) ∧ slOf (s.clu 0) 0 0 = [sl0] ∧
       (match xlateWalk (s.updClu 0 (fun c => { c with slHeld := none })) 0 sl0.va .store 0 with
        | (.ok _, some _) => true | _ => false) = true) ∧ sl0.op = .st ∧ physOk (hb + 8) = true ∧ physOk (hb + 9) = true := by decide +kernel

def req0 (k : HomeReqKind) : HomeReq := { line := lineNo, who := 1, kind := k }
def bytes128 : List Byte := List.replicate 128 6#8
/-- Cluster index 0 holds the line modified, and is asked for it. -/
def devSn (k : HomeReqKind) : State :=
  { (dev id).updClu 0 (fun c => { c with lines := [(lineKey 0 lineNo, { line0 .hc 0 with st := .m, data := bytes128 })] }) with
    homeTxns := [{ req := req0 k, snoops := [0], data := none }], dirs := [(lineNo, { holders := [0], owner := some 0, born := 0 })] }
def scWrite0 : Posted := { posted0 with kind := .sc, key := hb + 8, data := [some 1#8, some 2#8] }
theorem witness_HomesServeAndSnoop :
    (let s := { dev id with homeReqs := [req0 .read] }
     physOk (128 * lineNo) = true ∧ s.homeReqs = [req0 .read] ∧ s.homeTxns = [] ∧ fget? s.dirs lineNo = none ∧ (setLines s lineNo).length < 16 ∧
       hcHeld s 1 lineNo = none ∧ (s.clu (cluOfIndex 1)).lines.length < cluLines ∧ s.hcx.length < sysLines) ∧
    (∀ k ∈ [HomeReqKind.read, .own], let s := devSn k
     s.homeTxns = [{ req := req0 k, snoops := [0], data := none }] ∧ dirOf s lineNo = { holders := [0], owner := some 0, born := 0 } ∧
       hcHeld s 0 lineNo = some (.m, bytes128) ∧ hcHeld s 1 lineNo = none ∧ (s.clu (cluOfIndex 1)).lines.length < cluLines) ∧
    (let s := { dev id with posted := [scWrite0] }
     s.posted = [scWrite0] ∧ postedFirst s scWrite0 = true ∧ scWrite0.done = false ∧ lineBusy s (lineOf scWrite0.key) = false ∧ tracked s (lineOf scWrite0.key) = false ∧
       physOk scWrite0.key = true ∧ scWrite0.data = [1#8, 2#8].map some) ∧
    (regGet (dev id) offCMOCMD).getLsbD 8 = false ∧ (1#64 : Word).getLsbD 0 = true ∧ fld (regGet (dev id) offCMOPA) 1 0 ≠ 3 ∧
    (regGet { dev id with regs := fset [] offCMOCMD 0x100#64 } offCMOCMD).getLsbD 8 = true ∧
    ({ dev id with cmo := some (hb, 0) } : State).cmo = some (hb, 0) := by decide +kernel

/-! ### The endpoint -/

def ep0 (w : Nat) (laddr len : Nat) : EpReq :=
  { id := 6, tenant := 0, index := 3, words := [w64 w, 7, BitVec.allOnes 64, 0, w64 laddr, w64 len, 0, 9], armed := true, fired := true,
    spent := false, stall := none, msg := none }
def devEp (q : EpReq) : State :=
  let s := devRq [(0x70C0, 8, 0), (0x7100, 8, 6), (0x30018, 8, 3), (0x30000, 8, 0x4000), (0x30008, 4, 4), (0x30014, 4, 1), (0x4000, 8, 2 ^ 32)] id
  { s with tset := fset (fset s.tset (64 * setEPWRBASE) 0x7000#64) (64 * setEPWRCNT) 5#64, epReqs := [q],
           futures := [(0, { Future.init with state := 1, key := 2 ^ 32, deadline := 9 })] }
def msg0 (tag : Word) (d : List Byte) : EpMsg := { tenant := 0, peer := 9, tag := tag, data := d }
def epEntry (s : State) (i : Nat) : Word := w64 (fromBytes (slice (cohRead s (hb + (0x7000 + 64 * i)) 64) 0 8))
theorem epEntry_read {s : State} (h : ptOk s = true) {i : Nat} (hi : i < 64) : (unitRead s 0 (0x7000 + 64 * i) 64).map
    (fun bs => w64 (fromBytes (slice bs 0 8))) = some (epEntry s i) := by
  rw [unitRead_low h (by omega)]; rfl
theorem witness_EndpointRequests :
    (4096#64 : Word).getLsbD 12 = true ∧ (4#64 : Word).getLsbD 12 = false ∧
    (let s := devEp (ep0 0 0x2100 16); let s1 := epDisarm (unitRelease s) 0 3
     tset s setEPWRCNT 0 = 5 ∧ tset s1 setEPWRBASE 0 = 0x7000 ∧ ptOk s1 = true ∧ ptOk s = true ∧ epEntryOk (epEntry s1 3) = true ∧
       epEntryOk (epEntry s1 4) = false) := by decide +kernel
/-- The read of an armed entry, and of a request's data; the write of its data; its counter. -/
theorem witness_EndpointTranslates :
    (let s := devEp (ep0 0 0x2100 16); let s1 := epDisarm (unitRelease s) 0 3
     (epRead s1 0 (0x7000 + 64 * 3) 64).1.isSome = true ∧ (epRead s 0 0x2100 16).1.isSome = true) ∧
    (let s := devEp (ep0 0 0x2100 16); let q := ep0 0 0x2100 16; let c := epXlate s 0 (ctrVa s 0 q.ctr) .store
     c.1.isSome = true ∧ (epRead c.2 0 q.laddr q.len).1.isSome = true) ∧
    (let s := devEp (ep0 3 0x2100 16); let q := ep0 3 0x2100 16; let c := epXlate s 0 (ctrVa s 0 q.ctr) .store
     c.1.isSome = true ∧ (epWrite c.2 0 0x2100 [1#8, 2#8]).isSome = true ∧ q.odp = false) ∧
    (let s := { devEp (ep0 3 0x2100 16) with tset := [] }; (epXlate s 0 (ctrVa s 0 (ep0 3 0x2100 16).ctr) .store).1 = none) := by
  decide +kernel
theorem witness_EndpointMessages :
    (ep0 1 0x2100 16).kind ≤ 1 ∧ (ep0 2 0x2100 16).kind = 2 ∧ (ep0 3 0x2100 16).kind = 3 ∧ (ep0 3 0x2100 16).persist = false ∧
    (ep0 3 0x2100 16).matches (msg0 7 []) = true ∧ (ep0 3 0x2100 16).matches (msg0 6 []) = false ∧
    (let q := { ep0 0 (2 ^ 30) 16 with stall := some 0 }
     (((epFind (epRetry (devEp q) q) q.id).bind (·.stall)).isNone = false ∧ (devEp q).cycle < 0 + 320000)) ∧
    (let q := { ep0 0 (2 ^ 30) 16 with stall := some 0, fired := false }
     let s := { devEp q with cycle := 320000 }
     ((epFind (epRetry s q) q.id).bind (·.stall)).isNone = false ∧ 0 + 320000 ≤ s.cycle ∧ q.accessed = false) ∧
    (let q := { ep0 0 0x2100 16 with stall := some 0 }
     ((epFind (epRetry (devEp q) q) q.id).bind (·.stall)).isNone = true) ∧
    (let s := devEp (ep0 4 0 0)
     (tqDesc s 0).valid = true ∧ (tqDesc s 0).remote = true ∧ (ep0 4 0 0).kind = 4 ∧ (ep0 4 0 0).laddr = 0 ∧ (tqDesc s 0).tenant = 0 ∧ popOk s true = true) := by decide +kernel
theorem witness_ToolQueueForward :
    (let s := devEp (ep0 4 0 0); let c := epXlate s 0 (ctrVa s 0 (ep0 4 0 0).ctr) .store
     c.1.isSome = true ∧ (tqDesc s 0).head ≠ (tqDesc s 0).tail ∧ tqFaults c.2 (tqDesc s 0) = false ∧
       (tqPop (fun s t a n => (epRead s t a n).1) c.2 0).1.isSome = true) ∧
    (let s := { devEp (ep0 4 0 0) with mem := writeBytes (devEp (ep0 4 0 0)).mem (hb + 0x30000) (toBytes 8 (2 ^ 30)) }
     tqFaults (epXlate s 0 (ctrVa s 0 (ep0 4 0 0).ctr) .store).2 (tqDesc s 0) = true) := by decide +kernel

/-- The message for future 0 with key 2^32: no tokens, COMPLETED or FAILED. -/
def done0 (kind : Nat) : EpMsg := msg0 7 (toBytes 8 (2 ^ 32) ++ toBytes 8 kind)
theorem witness_CompletionMessages :
    (msg0 0 []).data.length < 16 ∧ (msg0 0 (List.replicate 18 0#8)).data.length % 4 ≠ 0 ∧ 1 < fromBytes (slice (done0 2).data 8 1) ∧
    (done0 0).data.drop 16 = ([] : List (BitVec 32)).flatMap (fun t => toBytes 4 t.toNat) ∧ 16 ≤ (done0 0).data.length ∧
    fromBytes (slice (done0 1).data 8 1) = 1 ∧
    (let s := devEp (ep0 5 0x2100 16); let f : Future := { Future.init with state := 1, key := 2 ^ 32, deadline := 9 }
     futMatch s (w64 (fromBytes (slice (done0 0).data 0 8))) = some (0, f) ∧ f.tenant = (done0 0).tenant ∧ f.live = true ∧
       pastDeadline s (futOf s 0) = none ∧ futMatch s 0 = none ∧ (ep0 5 0x2100 16).matches (done0 0) = true ∧
       (let c := epXlate s 0 (ctrVa s 0 (ep0 5 0x2100 16).ctr) .store
        c.1.isSome = true ∧ (epWrite c.2 0 0x2100 ((done0 0).data.take 16)).isSome = true)) := by decide +kernel

/-! ### Debug and Squalls -/

def frozen0 : Strand := { me0 with status := .frozen, cause := cALIGN }
theorem witness_DebugCommandsAct :
    (dev id).me.status = .ready ∧ (dev (fun _ => offrot0)).me.status = .offrot ∧
    (let x := (dev (parkedFor ldI .access)).me; x.status = .parked ∧ withdrawable x = false) ∧
    (let x := (dev (parkedFor ldI .cond)).me; x.status = .parked ∧ x.phase = .cond) ∧ (State.reset.strand 0 0).status = .empty ∧
    frozen0.status = .frozen ∧ { frozen0 with status := .halted }.status = .halted ∧ frozen0.task = some task0 ∧
    ((dev (fun _ => frozen0)).core 0).sb = [] ∧ (dev (fun _ => frozen0)).waits = [] ∧ fld 0x0000001D#64 7 0 ≠ 0 ∧ fld 0x0000001D#64 7 0 ≤ 0x1D ∧ 0x1D < fld 0x0000001E#64 7 0 ∧
    slotReq (devRq [] id) (fld 0x0000001D#64 27 16) ≠ none ∧ slotReq (dev id) 0 = none ∧ ((dev id).clu 0).held = [] := by decide

/-- A freezing packet of level 0 not yet acknowledged, FACKTO 0; level 1 enabled or not. -/
def late (next : Bool) : State :=
  let regs := fset (fset (fset [] (offFRBASE 0 0) (w64 hb)) (offFRCFG 0 0) 0x8000000000000004#64) (offFRPTR 0 0) (w64 (2 ^ 32))
  let regs := if next then fset (fset regs (offFRBASE 0 1) (w64 (hb + 4096))) (offFRCFG 0 1) 0x8000000000000004#64 else regs
  let s := (dev id).updClu 0 (fun c => { c with freezes := [(0, 0, 0)] })
  { s with regs := fset regs (offFACKTO 0) 0, cycle := 1, mem := writeBytes [] hb [1#8, 1#8] }
theorem witness_FaultAckTimeout :
    ackLate (late true) 0 = true ∧ ackLate (dev id) 0 = false ∧
    (∀ b ∈ [true, false], let s := late b
      let u := s.updClu 0 (fun c => { c with freezes := c.freezes.filter (fun f => f.1 != curLvl s 0) })
      (frMove u 0 [] ((frLevels s 0).drop 1) (frPending s 0 (curLvl s 0))).2 = !b) := by decide +kernel

theorem witness_DebugWindowShowsState :
    coreExists 0 = true ∧ ((dev (fun _ => frozen0)).strand 0 7).status = .empty ∧ ((dev (fun _ => frozen0)).strand 0 0).status = .frozen ∧
    0x20000 ≤ 0x5FFF8 ∧ 0x5FFF8 < 0x60000 ∧ 0x5FFF8 % 8 = 0 := by decide

def sq (busy defer saved : Bool) (cmd : Nat) (f : Strand → Strand) : State :=
  (dev f).updCore 0 (fun c => { c with sqBusy := busy, sqDefer := defer, sqSaved := saved, sqCmd := cmd })
theorem witness_Squalls :
    coreExists 0 = true ∧ squallCores (dev id) 0 = [0] ∧ ((dev id).core 0).sqBusy = false ∧ ((dev id).core 0).sqSaved = false ∧
    hasFrozen (dev (fun _ => frozen0)) 0 = true ∧ hasFrozen (dev id) 0 = false ∧ ((sq true true false 1 id).core 0).sqCmd = 1 ∧
    ((sq true true false 1 id).core 0).sqDefer = true ∧ coreDrained (sq true false false 1 id) 0 = true ∧
    coreDrained ((sq true false false 1 id).updCore 0 (fun c => { c with raq := [(0, [{ ra0 0 with arrived := false }])] })) 0 = false ∧
    ((sq false false true 1 id).core 0).sqSaved = true ∧ restoreReady (sq true false true 2 id) 0 = true ∧
    ((sq true false true 2 id).core 0).saved.tasks = [] ∧
    restoreReady ((sq true false true 2 id).updCore 0 (fun c => { c with saved := { c.saved with
      holds := [{ core := 0, slot := 0, v := (0, 0), g := (0, 0), c := (0, 0), m := false }] } })) 0 = false := by decide +kernel
/-- A core that is being saved with a task, its save area at the start of HBM4E; and a saved task whose place is free. -/
def devSq : State :=
  { (sq true false false 1 (fun x => { x with s := [(5, 9#64)] })) with regs := fset [] (offSQADDR 0) (w64 hb) }
theorem witness_SavedTasks :
    (let u := (List.range 8).foldl (fun s n => saveStrand s 0 n) devSq
     coreDrained devSq 0 = true ∧ saveBase u 0 = hb ∧ u.dirs = [] ∧ u.homeTxns = [] ∧ (u.clu (cluOfCore 0)).lines = [] ∧
       (u.strand 0 0).task = some task0 ∧ (u.strand 0 0).rS 5#6 = 9#64) ∧
    (let s := (sq true false true 2 id).updCore 0 (fun c => { c with saved := { c.saved with tasks := [(0, me0)] } })
     (s.core 0).saved.tasks = [(0, me0)] ∧ restoreReady s 0 = true) := by decide +kernel
theorem witness_SavedTasks_area : AtHome devSq hb saveBytes := atHome_hbm (o := 0) rfl (fun _ => rfl) (by decide)
theorem witness_TenantTimeSlice :
    (let e : PoolEnt := { launch := 1, level := 0, since := 0, head := true }
     let s := { dev id with tset := fset [] (64 * setTSLICE) 10#64, cycle := 10, launches := [(1, { gang0 with tenant := 1 })],
                            strands := [(0, me0), (64, me0)], regs := fset [] (offREADYCLU 0) 1#64, pools := [(0, { Pool.init with ents := [e] })] }
     (s.strand 0 0).task = some task0 ∧ task0.tenant = 0 ∧ tset s setTSLICE 0 ≠ 0 ∧ tset s setTSLICE 0 ≤ s.cycle - task0.started ∧
       (s.pool (dieOfCore 0)).ents = [e] ∧ waitsFor s 0 e = true ∧ entTenant s e ≠ 0 ∧ squallCores s 0 = [0]) ∧ tset (dev id) setTSLICE 0 = 0 := by decide +kernel

/-! ### The host port, registers, resets, power -/

/-- Queue 8191 of tenant 0, 16 entries at VA 0x8000, HEAD and TAIL as given; its first entry as given. -/
def devWq (cfg head tail : Nat) (e : List (Nat × Nat)) : State :=
  let s := devRq (e.map (fun x => (0x8000 + x.1, 8, x.2))) id
  { s with regs := fset (fset (fset s.regs (offWQ 8191) 0x8000#64) (offWQ 8191 + 8) (w64 cfg)) (offWQ 8191 + 16) (w64 (tail * 2 ^ 32 + head)),
           tset := fset s.tset (64 * setRQCOUNT) 1#64 }
theorem witness_DoorbellsMoveTail :
    (let s := devWq (2 ^ 63) 1 3 []
     (wqCfg s 8191).getLsbD 63 = true ∧ (wqCfg s 8191).getLsbD 62 = false ∧ wqTenant s 8191 + 1 = 1 ∧ inReset s 0 = false ∧
       cqSize (wqCfg s 8191) = 16 ∧ wqHead s 8191 = 1 ∧ wqTail s 8191 = 3 ∧
       (17 + 2 ^ 32 - 1) % 2 ^ 32 ≤ 16 ∧ 16 < (18 + 2 ^ 32 - 1) % 2 ^ 32 ∧ (2 + 2 ^ 32 - 1) % 2 ^ 32 < (3 + 2 ^ 32 - 1) % 2 ^ 32) ∧
    (wqCfg (dev id) 8191).getLsbD 63 = false ∧ (8191 : Nat) < 8192 := by decide
/-- The queue's first entry, of tenant 0, is at VA 0x8000. -/
def wqOk (s : State) : Bool :=
  ptOk s && decide (s.soft = []) && decide (¬(8192 ≤ 8191 ∨ ¬(wqCfg s 8191).getLsbD 63 = true ∨ wqHead s 8191 = wqTail s 8191)) && decide (wqTenant s 8191 = 0) &&
    decide ((regGet s (offWQ 8191)).toNat + 128 * (wqHead s 8191 % cqSize (wqCfg s 8191)) = 0x8000)
def ent (s : State) : List Byte := cohRead s (hb + 0x8000) 128
theorem wqEntry_low {s : State} (h : wqOk s = true) : wqEntry s 8191 = some (ent s) := by
  simp only [wqOk, Bool.and_eq_true, decide_eq_true_eq] at h
  obtain ⟨⟨⟨⟨h0, hs⟩, h1⟩, h2⟩, h3⟩ := h
  simp only [wqEntry]
  rw [if_neg h1, h2, h3, unitRead_low h0 (by decide)]
  rfl
def entryIs (s : State) (ty : Nat) : Bool := wqOk s && fld (entWord (ent s) 0) 7 0 == ty
theorem entryAt_of {s : State} {ty : Nat} (h : entryIs s ty = true) : EntryAt s 8191 (ent s) ty := by
  simp only [entryIs, Bool.and_eq_true, beq_iff_eq] at h
  refine ⟨wqEntry_low h.1, h.2, ?_⟩
  have hs := h.1
  simp only [wqOk, Bool.and_eq_true, decide_eq_true_eq] at hs
  unfold wqScan unitScan
  rw [hs.1.1.1.2]
  simp
/-- A REQUEST entry that passes every check: prefill ring of 64 tokens at VA 0, one token, temperature and top-p 1, top-k 64, 16 tokens. -/
def goodReq : List (Nat × Nat) := [(0, 2), (8, 5), (0x20, 2 ^ 32 + 64), (0x38, 0x3F8000003F800000), (0x40, 16 * 2 ^ 16 + 64), (0x50, 0xFFFFFFFF)]
theorem witness_EntriesAreProcessed :
    entryIs (devWq (2 ^ 63) 0 1 [(0, 1)]) 1 = true ∧ entryIs (devWq (2 ^ 63) 0 1 [(0, 3)]) 3 = true ∧
    entryIs (devWq (2 ^ 63) 0 1 []) 0 = true ∧ entryIs (devWq (2 ^ 63) 0 1 [(0, 7)]) 7 = true ∧
    wqEntry (devWq (2 ^ 63) 1 1 []) 8191 = none := by decide +kernel
theorem witness_Requests :
    (let s := devWq (2 ^ 63) 0 1 goodReq
     entryIs s 2 = true ∧ requestBad s 0 (ent s) = none ∧ freeRecord s 0 = some 0) ∧
    (let s := devWq (2 ^ 63) 0 1 [(0, 2)]
     entryIs s 2 = true ∧ (requestBad s 0 (ent s)).any (· < 256) = true ∧ freeRecord { s with tset := fset s.tset (64 * setRQCOUNT) 0 } 0 = none) := by
  decide +kernel

theorem witness_AutomatonEntry :
    (let s := devWq (2 ^ 63) 0 1 [(0, 4), (0x68, 1)]; let e := ent s
     entryIs s 4 = true ∧ fld (entWord e 0x68) 6 1 = 0 ∧ fld (entWord e 0x68) 63 7 = 0 ∧ fld (entWord e 8) 63 12 = 0 ∧
       (∀ b ∈ slice e 0x10 0x30, b = 0#8) ∧ (∀ b ∈ slice e 0x70 0x10, b = 0#8) ∧ bitN (cohNat s (hb + 0x31028) 8) 0 = false) ∧
    (let s := devWq (2 ^ 63) 0 1 [(0, 4), (0x68, 3)]; entryIs s 4 = true ∧ fld (entWord (ent s) 0x68) 6 1 ≠ 0) ∧
    (let s := devWq (2 ^ 63) 0 1 [(0, 4), (8, 4096), (0x68, 1)]
     entryIs s 4 = true ∧ fld (entWord (ent s) 0x68) 6 1 = 0 ∧ fld (entWord (ent s) 8) 63 12 ≠ 0) := by decide +kernel
theorem witness_ZoneEntry :
    (let s := { devWq (2 ^ 63) 0 1 [(0, 5), (0x10, 2 ^ 63)] with own := owned }; let e := ent s
     entryIs s 5 = true ∧ fld (entWord e 0x10) 53 48 = 0 ∧ coreExists (fld (entWord e 8) 11 0) = true ∧
       scrOwned s 0 (fld (entWord e 0x18) 17 8 * 256) ((fld (entWord e 0x10) 37 32 + 1) * 2 ^ (8 + fld (entWord e 0x10) 47 44)) 0 = true ∧
       scrOwned s 0 (fld (entWord e 0x20) 17 3 * 8) 512 0 = true ∧ (lzCfg s 0 0).getLsbD 63 = false) ∧ scrOwned (dev id) 0 0 256 0 = false ∧
    (let s := devWq (2 ^ 63) 0 1 [(0, 5), (0x10, 2 ^ 48)]; entryIs s 5 = true ∧ fld (entWord (ent s) 0x10) 53 48 ≠ 0) := by decide +kernel
theorem witness_TenantCtlEntry :
    (let s := devWq (2 ^ 63) 0 1 [(0, 6)]; entryIs s 6 = true ∧ wqSys s 8191 = false) ∧
    (let s := devWq (3 * 2 ^ 62) 0 1 [(0, 6), (8, 6 * 256), (0x10, 255)]; let e := ent s
     entryIs s 6 = true ∧ wqSys s 8191 = true ∧ fld (entWord e 8) 15 8 = setLWEIGHT ∧ settingOk s 6 0 (entWord e 0x10).toNat = true) ∧
    settingOk (dev id) 6 0 256 = false ∧
    (let s := devWq (3 * 2 ^ 62) 0 1 [(0, 6), (8, 16 * 256), (0x10, 16)]; let e := ent s
     entryIs s 6 = true ∧ fld (entWord e 8) 15 8 = setTOSEQ ∧ 1 ≤ fld (entWord e 0x10) 4 0 ∧ fld (entWord e 0x10) 4 0 ≤ 16) := by decide +kernel

theorem witness_RegistersTakeTheirFields :
    offTSVA ≠ offTSPA ∧ 9 % 8 ≠ 0 ∧ (wqCfg (devWq (2 ^ 63) 0 0 []) 8191).getLsbD 63 = true ∧ (wqCfg (dev id) 8191).getLsbD 63 = false ∧
    (ownEntry (offSCROWN 0 0)).isSome = true ∧ (ownEntry 0x3FF).isNone = true ∧ ownRunning (dev id) (.scr 0 0) = true ∧
    ownRunning (dev id) (.scr 0 1023) = false ∧ ownRunning (dev id) (.stg) = false := by decide
theorem witness_ResetsClear :
    (0x40#64 : Word).getLsbD 6 = true ∧ (0x3F#64 : Word).getLsbD 6 = false ∧
    inReset { dev id with regs := fset [] offTRSTBUSY 1#64 } 0 = true ∧ (63 : Nat) < 64 ∧ wqSys (dev id) 8191 = false ∧
    wqTenant (dev id) 8191 = 0 ∧ (∀ e ∈ (fset [] (offWQ 8191 + 8) 0x8000000000000000#64 : FMap Word), 0x100000000 ≤ e.1 → False) ∧
    isZoneCfg (0x10000 + 0x400 * 63) ∧ ¬ isZoneCfg 0x10008 ∧
    (∀ i, i < 48 → ((1#64 <<< 47 : Word).getLsbD i = true ↔ i = 47)) ∧ cluOfCore (coreOf 0 15) = 0 ∧ keyInCluster 0 (shrKey 0 8) = true := by
  unfold isZoneCfg
  decide
/-- An image with no header is not accepted; whether one is accepted depends on the keys of the part. -/
theorem witness_PowerAndManagement :
    imgAccepted { header := [], key := [], body := [] } = false ∧ canReady (dev id) 7 = true ∧ canReady (dev id) 24 = false ∧
    cluExists 239 = true ∧ ((dev id).clu 239).halted = false ∧
    (let s := { (dev id).updCore 0 (fun c => { c with idled := [0, 1, 2, 3, 4, 5, 6] }) with cycle := 55 }
     let n := s.cycle / 8 + 1
     (∀ i, i < 7 → n - 1 - i ∈ (s.core 0).idled) ∧ 7 ≤ n) ∧ (dev id).cycle / 8 + 1 < 7 ∧ 64 + 239 ∉ (dev id).fenced := by decide

end Sys2Proof.Tests
end

/-! ### The state after reset (O5) -/

namespace Sys2Proof.Machine

/-! Nothing is listed at reset, so a table answers its default and a register the reset value of its fields. -/

@[simp] theorem fget_nil {α : Type} (d : α) (k : Nat) : fget d [] k = d := rfl

@[simp] theorem regGet_reset (o : Nat) : regGet State.reset o = w64 (regInfo o).reset := fget_nil _ _

@[simp] theorem strand_reset (core slot : Nat) : State.reset.strand core slot = .init := fget_nil _ _

@[simp] theorem core_reset (c : Nat) : State.reset.core c = .init := fget_nil _ _

@[simp] theorem clu_reset (c : Nat) : State.reset.clu c = .init := fget_nil _ _

@[simp] theorem hart_reset (n : Nat) : State.reset.hart n = .init := fget_nil _ _

theorem tset_reset (i t : Nat) : tset State.reset i t = (w64 (tsetReset i)).toNat := rfl

@[simp] theorem feFull_reset (word : Nat) : feFull State.reset word = true := rfl

@[simp] theorem lzSlot_reset (core z n : Nat) : lzSlot State.reset core z n = .init := by
  unfold lzSlot
  rw [core_reset]
  rfl

@[simp] theorem futOf_reset (f : Nat) : futOf State.reset f = .init := fget_nil _ _

/-! Where the registers of a work queue lie (R295). -/

theorem regInfo_wq_reset (q k : Nat) (hq : q < 8192) (hk : k < 32) : (regInfo (offWQ q + k)).reset = 0 := by
  have hin : 0x100000 ≤ offWQ q + k ∧ offWQ q + k < 0x140000 := by unfold offWQ; omega
  have hne : offWQ q + k ≠ offTRSTCQ := by unfold offTRSTCQ; omega
  unfold regInfo
  rw [if_neg hne, if_pos hin]
  split_ifs <;> rfl

/-! Where the registers of a cluster and of its cores lie (R12, R294). -/

theorem cluIndex_lt {clu : Nat} (h : cluExists clu = true) : cluIndex clu < 192 := by
  simp only [cluExists, Bool.and_eq_true, decide_eq_true_eq] at h
  unfold cluIndex
  omega

theorem cluExists_cluOfCore {core : Nat} (h : coreExists core = true) : cluExists (cluOfCore core) = true := by
  simp only [coreExists, cluExists, Bool.and_eq_true, decide_eq_true_eq] at h ⊢
  unfold cluOfCore
  omega

/-- The register at an offset in a cluster's control window. -/
theorem regInfo_cluWin {clu o : Nat} (h : cluExists clu = true) (ho : o < 0x1000000) : regInfo (cluWin clu + o) = cluInfo o := by
  have hi := cluIndex_lt h
  have hlo : 0x100000000 ≤ cluWin clu + o := by unfold cluWin; omega
  have hhi : cluWin clu + o < 0x100000000 + 0x1000000 * 192 := by unfold cluWin; omega
  have hmod : (cluWin clu + o) % 0x1000000 = o := by unfold cluWin; omega
  generalize cluWin clu + o = a at hlo hhi hmod
  simp (disch := omega) only [regInfo, offTRSTCQ, offTSVA, offTSPA, offCMOPA, offTSCMD, offCMOCMD, offECCAD, if_neg, if_pos, hmod]

theorem regInfo_offLZ {core z : Nat} (h : coreExists core = true) (hz : z < 4) : regInfo (offLZ core z) = lzInfo 0 := by
  have e : offLZ core z = cluWin (cluOfCore core) + (0x10000 + 0x1000 * (core % 16) + 0x400 * z) := by
    unfold offLZ
    omega
  have hmod : (0x10000 + 0x1000 * (core % 16) + 0x400 * z) % 0x400 = 0 := by omega
  rw [e, regInfo_cluWin (cluExists_cluOfCore h) (by omega)]
  simp (disch := omega) only [cluInfo, if_neg, if_pos, hmod]

theorem regInfo_offFRCFG_reset {clu n : Nat} (h : cluExists clu = true) (hn : n < 4) : (regInfo (offFRCFG clu n)).reset = 4 := by
  have e : offFRCFG clu n = cluWin clu + (0x20 * n + 8) := by unfold offFRCFG; omega
  rw [e, regInfo_cluWin h (by omega)]
  simp (disch := omega) only [cluInfo, if_neg, if_pos]

theorem regInfo_offFRPTR_reset {clu n : Nat} (h : cluExists clu = true) (hn : n < 4) : (regInfo (offFRPTR clu n)).reset = 0 := by
  have e : offFRPTR clu n = cluWin clu + (0x20 * n + 0x10) := by unfold offFRPTR; omega
  rw [e, regInfo_cluWin h (by omega)]
  simp (disch := omega) only [cluInfo, if_neg, if_pos]

/-! The parts of the device at reset. -/

/-- A work queue is disabled and empty (R295). -/
theorem wq_reset {q : Nat} (hq : q < 8192) :
    (wqCfg State.reset q).getLsbD 63 = false ∧ wqHead State.reset q = 0 ∧ wqTail State.reset q = 0 := by
  simp only [wqCfg, wqHead, wqTail, regGet_reset, regInfo_wq_reset q 8 hq (by omega), regInfo_wq_reset q 16 hq (by omega)]
  decide

/-- A landing zone is disabled and its slots FREE (R202, R203). -/
theorem lz_reset {core z : Nat} (n : Nat) (h : coreExists core = true) (hz : z < 4) :
    lzCfg State.reset core z = 0#64 ∧ (lzSlot State.reset core z n).state = 0 := by
  rw [lzCfg, regGet_reset, regInfo_offLZ h hz, lzSlot_reset]
  exact ⟨rfl, rfl⟩

/-- A fault ring is disabled and empty, of 16 packets (R274). -/
theorem fr_reset {clu n : Nat} (h : cluExists clu = true) (hn : n < 4) :
    frEnabled State.reset clu n = false ∧ frSize State.reset clu n = 16 ∧ frHead State.reset clu n = 0 ∧
      frTail State.reset clu n = 0 := by
  simp only [frEnabled, frSize, frHead, frTail, regGet_reset, regInfo_offFRCFG_reset h hn, regInfo_offFRPTR_reset h hn]
  decide

/-- A cluster's time limits and its ECC threshold (R274, R267, R288). -/
theorem cluRegs_reset {clu : Nat} (h : cluExists clu = true) :
    regGet State.reset (offFACKTO clu) = 0x04000000#64 ∧ regGet State.reset (offPAIRTO clu) = 0x00100000#64 ∧
      regGet State.reset (offECCTHR clu) = 0x1000#64 := by
  have hreg (o : Nat) (ho : o < 0x1000000) : regGet State.reset (cluWin clu + o) = w64 (cluInfo o).reset := by
    rw [regGet_reset, regInfo_cluWin h ho]
  exact ⟨hreg 0x80 (by omega), hreg 0x120 (by omega), hreg 0x138 (by omega)⟩

/-- The registers of the fabric, of the shootdown, of serving and READY (R213, R73, R302). -/
theorem deviceRegs_reset :
    regGet State.reset offFABCFG = 0x300400000#64 ∧ regGet State.reset offFABID = 0#64 ∧ regGet State.reset offTSCMD = 0#64 ∧
      regGet State.reset offSERV = 0#64 ∧ regGet State.reset offREADY = 0#64 := by
  simp only [regGet_reset]
  decide

/-- The Reset column of the tenant settings (R299). -/
theorem tenantSettings_reset (t : Nat) :
    tset State.reset setLWEIGHT t = 1 ∧ tset State.reset setFEMAXDEF t = 0x01000000 ∧ tset State.reset setWEIGHT t = 1 ∧
      tset State.reset setPFCHUNK t = 16384 ∧ tset State.reset setFUTTO t = 1600000000 ∧ tset State.reset setQOS t = 0x100 ∧
      tset State.reset setTROOT t = 0 ∧ tset State.reset setSLOTQ t = 0 := by
  simp only [tset_reset]
  decide

/-- Settles O5: no table lists anything at reset, and each register's offset selects the fields whose reset value the spec
gives. -/
theorem resetState : Obligations.ResetState := by
  unfold Obligations.ResetState
  refine ⟨reset_memOk, rfl, fun core slot => ?slots, feFull_reset, fget_nil _, fun _ => wq_reset,
    fun _ _ n => lz_reset n, fun _ _ => fr_reset, fun clu h => ?cluster, fun core => ?core, ?rest⟩
  case slots =>
    rw [strand_reset]
    exact ⟨rfl, rfl⟩
  case cluster =>
    obtain ⟨hfackto, hpairto, heccthr⟩ := cluRegs_reset h
    rw [clu_reset]
    exact ⟨hfackto, hpairto, heccthr, rfl, rfl, rfl⟩
  case core =>
    rw [core_reset]
    exact ⟨rfl, rfl, rfl⟩
  case rest =>
    obtain ⟨hfabcfg, hfabid, htscmd, hserv, hready⟩ := deviceRegs_reset
    have hfuture (f : Nat) : (futOf State.reset f).state = 0 ∧ (futOf State.reset f).gen = 0 := by
      rw [futOf_reset]
      exact ⟨rfl, rfl⟩
    have hcaps (n : Nat) (c : BitVec 4) : (State.reset.hart n).cap c = Cap.null := by
      rw [hart_reset]
      rfl
    exact ⟨hfabcfg, hfabid, htscmd, hserv, hready, tenantSettings_reset, hfuture, hcaps, rfl, rfl, rfl⟩

end Sys2Proof.Machine

/-! ### DIV and REM (O9) -/

namespace Sys2Proof.Machine

open Sys2Proof

/-- What a scalar instruction reads holds no soft error, where no register of its strand does and nothing that it looks up. -/
theorem readKeys_clean {s : State} {g : Guard} {i : Instr} (h : s.guarded g) (hg : i.guard? = some g) (hv : vsrcs i = [])
    (hp : psrcs i = []) (hk : keptKeys s i = []) (hl : ∀ k ∈ lookupKeys s i, fget? s.soft k = none) :
    ∀ k ∈ guardKeys s g ++ readKeys s i, fget? s.soft k = none := by
  obtain ⟨-, hs, hpr⟩ := h
  intro k
  simp only [readKeys, hg, hv, hp, hk, Option.map_some, Option.getD_some, List.map_nil, List.filter_nil, List.append_nil,
    List.mem_append, List.mem_map]
  rintro (hgk | (hgk | ⟨r, -, rfl⟩) | hgk)
  · exact guardKeys_clean hpr k hgk
  · exact guardKeys_clean hpr k hgk
  · exact hs r
  · exact hl k hgk

theorem lookup_nothing {s : State} {i : Instr} (h : lookupKeys s i = []) : ∀ k ∈ lookupKeys s i, fget? s.soft k = none := by
  rw [h]
  nofun

theorem lookupKeys_div (s : State) (g : Guard) (u : Bool) (sd sa sb : SReg) : lookupKeys s (.div g u sd sa sb) = [] := by
  simp [lookupKeys, firstPtr]

theorem lookupKeys_rem (s : State) (g : Guard) (u : Bool) (sd sa sb : SReg) : lookupKeys s (.rem g u sd sa sb) = [] := by
  simp [lookupKeys, firstPtr]

theorem divW_unsigned (a b : Word) : divW true a b = if b = 0#64 then BitVec.allOnes 64 else a / b := by
  rw [divW, if_pos rfl, w64, ← BitVec.toNat_udiv, BitVec.ofNat_toNat, BitVec.setWidth_eq]

theorem divW_signed (a b : Word) : divW false a b = if b = 0#64 then BitVec.allOnes 64 else a.sdiv b := by
  have h : BitVec.ofInt 64 (a.toInt.tdiv b.toInt) = a.sdiv b := by
    apply BitVec.eq_of_toInt_eq
    rw [BitVec.toInt_ofInt, BitVec.toInt_sdiv]
  rw [divW, if_neg Bool.false_ne_true, h]

theorem remW_unsigned (a b : Word) : remW true a b = if b = 0#64 then a else a % b := by
  rw [remW, if_pos rfl, w64, ← BitVec.toNat_umod, BitVec.ofNat_toNat, BitVec.setWidth_eq]

theorem remW_signed (a b : Word) : remW false a b = if b = 0#64 then a else a.srem b := by
  rw [remW, if_neg Bool.false_ne_true, ← BitVec.toInt_srem, BitVec.ofInt_toInt]

/-- An operation of the issuing strand that leaves it OFFROT after writing one register (02 R27). -/
theorem settle_off_wS (s : State) (w : Word) (sd : SReg) (v : Word) (n : Nat) :
    settle s w (.off (s.wS sd v) n) =
      (s.wS sd v).setMe { (s.me.wS sd v).clearPark with status := .offrot, rot := n, pc := s.me.pc + 8#64 } := by
  have hme : (s.wS sd v).strand s.coreId s.slotId = s.me.wS sd v := State.setMe_me s (s.me.wS sd v)
  rw [settle_off, offRotate, State.updStrand, hme, Strand.wS_pc]
  rfl

/-- At an instruction boundary a strand that nothing stops is READY (02 R27, 13 R280, R282). -/
theorem boundary_quiet {s : State} {core slot : Nat} (hstep : (s.strand core slot).stepping = false)
    (hhalt : (s.strand core slot).haltReq = false) :
    boundary s core slot = s.setStrand core slot { s.strand core slot with status := .ready } := by
  simp only [boundary, hstep, hhalt, Bool.or_self, Bool.false_eq_true, if_false]

/-- Settles O9: the model's quotient and remainder of integers are the bit-vector operations, and the frame of a scalar instruction
turns the result into the OFFROT strand; at the end of the count the boundary makes it READY. -/
theorem divideAndRemainder : Obligations.DivideAndRemainder := by
  unfold Obligations.DivideAndRemainder
  intro s g sd sa sb h
  have hdiv (u : Bool) : exec (.div g u sd sa sb) s = .next (settle s _ (opDiv u sd sa sb s)) :=
    issue_scalar _ rfl (readKeys_clean h rfl rfl rfl rfl (lookup_nothing (lookupKeys_div ..))) h.1
  have hrem (u : Bool) : exec (.rem g u sd sa sb) s = .next (settle s _ (opRem u sd sa sb s)) :=
    issue_scalar _ rfl (readKeys_clean h rfl rfl rfl rfl (lookup_nothing (lookupKeys_rem ..))) h.1
  simp only [hdiv, hrem, opDiv, opRem, settle_off_wS, divW_unsigned, divW_signed, remW_unsigned, remW_signed, true_and]
  intro core slot x hx hst hrot hstep hhalt
  subst hx
  show execRotationCountSpent core slot s = _
  simp only [execRotationCountSpent, hst, hrot, and_self, if_true, boundary_quiet hstep hhalt]
end Sys2Proof.Machine

/-! ### Registers, and the register range (O11, O13) -/

namespace Sys2Proof.Machine

open Sys2Proof

/-- Settles O11, by the rules for a register read after a write to the same or to another register. -/
theorem hardwiredRegisters : Obligations.HardwiredRegisters := by
  unfold Obligations.HardwiredRegisters
  intro x v b m
  exact ⟨x.rS_zero, x.rP_zero, x.rK_zero, x.wS_zero v, x.wP_zero b, x.wK_zero m, fun r r' => x.rS_wS r r' v,
    fun r r' => x.rP_wP r r' b, fun r r' => x.rK_wK r r' m⟩

/-- Every guarded instruction runs in the frame `issue`; only YIELD, which names no vector register, changes the state before it
(its count in the idle-issue statistics, 13 R450). -/
theorem exec_eq_issue {i : Instr} {g : Guard} (h : i.guard? = some g) (s : State) :
    ∃ op s', exec i s = issue i g op s' ∧ (s' = s ∨ i.vregs = []) := by
  delta exec
  cases i <;> cases h
  case yield => exact ⟨_, countYield s, rfl, .inr rfl⟩
  all_goals exact ⟨_, s, rfl, .inl rfl⟩

/-- Settles O13: the frame checks the register range before it looks at the guard. -/
theorem registerBeyondTheWindowFreezes : Obligations.RegisterBeyondTheWindowFreezes := by
  unfold Obligations.RegisterBeyondTheWindowFreezes
  intro i g s n hg hn
  obtain ⟨op, s', he, rfl | hv⟩ := exec_eq_issue hg s
  · rw [he]
    exact issue_range op hn
  · rw [hv] at hn
    cases hn

end Sys2Proof.Machine

/-! ### A hart's turn without power (O3) -/

namespace Sys2Proof.Machine

open Sys2Proof

/-- A device without power whose next turn is that of hart 0: the hart is usable, takes no interrupt, and its fetch is refused,
for it is in sandbox mode and holds no capability. -/
def darkHartTurn : State :=
  { State.reset with
    powered := false
    regs := [(offREADY, 0x1000000#64)]
    harts := [(0, { Hart.init with priv := 0, sbx := true })]
    turns := [{ wait := 0, late := false, act := .hart 0 }] }

/-- The turn of that hart. -/
def darkHart : State := { atTurn darkHartTurn with cur := .hart 0 }

theorem step_darkHartTurn : step darkHartTurn = .fault .powerRemoved := rfl

theorem hartFetch_darkHart : ∃ f, hartFetch darkHart (darkHart.hart 0) = .error f := ⟨_, rfl⟩

theorem turnFirst_darkHartTurn : turnFirst darkHartTurn := fun _ _ _ h => nomatch h.1

/-- Refutes O3: the clauses on a hart's turn do not ask for power. Without it `step` stops the machine (14 R302, R306), but the
clause on a refused fetch asks for a next state. -/
theorem not_stepRunsTheDecodedInstruction : ¬ Obligations.StepRunsTheDecodedInstruction := by
  unfold Obligations.StepRunsTheDecodedInstruction
  intro h
  obtain ⟨-, -, -, -, -, -, -, -, -, hrefused, -⟩ :=
    h darkHartTurn 0 0 0 0 0 0#64 .kwRel ⟨0, 0, 0, 0, 0, 0, 0, false, false⟩ darkHart
  obtain ⟨f, hf⟩ := hartFetch_darkHart
  have hnext := hrefused ⟨turnFirst_darkHartTurn, rfl, by decide, by decide, by decide, fun _ => rfl⟩ f hf
  rw [step_darkHartTurn] at hnext
  cases hnext

end Sys2Proof.Machine

/-! ### Bytes in memory and at their homes (07 R166, 08 R170) -/

namespace Sys2Proof.Machine

open Sys2Proof

theorem writeBytes_append (m : Memory) (a : Nat) (xs ys : List Byte) :
    writeBytes m a (xs ++ ys) = writeBytes (writeBytes m a xs) (a + xs.length) ys := by
  induction xs generalizing m a with
  | nil => rfl
  | cons x xs ih => rw [List.cons_append, writeBytes, writeBytes, ih, List.length_cons, Nat.add_right_comm, Nat.add_assoc]

theorem readBytes_congr {m m' : Memory} {a n : Nat} (h : ∀ x, a ≤ x → x < a + n → readByte m x = readByte m' x) :
    readBytes m a n = readBytes m' a n := by
  induction n generalizing a with
  | zero => rfl
  | succ n ih => rw [readBytes, readBytes, h a (by omega) (by omega), ih (fun x hl hr => h x (by omega) (by omega))]

/-- A part of what is written to memory is read back at its place. -/
theorem readBytes_writeBytes_middle (m : Memory) (a : Nat) (xs ys zs : List Byte) :
    readBytes (writeBytes m a (xs ++ (ys ++ zs))) (a + xs.length) ys.length = ys := by
  rw [writeBytes_append, writeBytes_append]
  rw [readBytes_congr (fun x _ hr => readByte_writeBytes_outside _ _ _ _ (.inl hr)), readBytes_writeBytes]

/-- The home of each byte of a range is populated memory and tracks no holder of the byte's line. -/
def Untracked (s : State) (pa n : Nat) : Prop := ∀ o, o < n → physOk (pa + o) = true ∧ tracked s (lineOf (pa + o)) = false

theorem Untracked.tail {s : State} {pa n : Nat} (h : Untracked s pa (n + 1)) : Untracked s (pa + 1) n := fun o ho => by
  have := h (o + 1) (by omega)
  rwa [← Nat.add_assoc, Nat.add_right_comm] at this

theorem Untracked.part {s : State} {pa n i k : Nat} (h : Untracked s pa n) (hk : i + k ≤ n) : Untracked s (pa + i) k :=
  fun o ho => by rw [Nat.add_assoc]; exact h (i + o) (by omega)

/-- Bytes that no holder has are written to memory, over as many lines as they span. -/
theorem cohPutBytes_of_untracked {s : State} {pa : Nat} {bs : List Byte} (h : Untracked s pa bs.length) :
    cohPutBytes s pa bs = s.withMem (writeBytes s.mem pa bs) := by
  induction bs generalizing s pa with
  | nil => rfl
  | cons b bs ih =>
    obtain ⟨hp, ht⟩ : physOk pa = true ∧ tracked s (lineOf pa) = false := h 0 (Nat.zero_lt_succ _)
    have hrest : Untracked (s.withMem (writeByte s.mem pa b)) (pa + 1) bs.length := h.tail
    rw [cohPutBytes, cohPutByte_untracked b hp ht, ih hrest]
    rfl

theorem cohRead_of_untracked {s : State} {pa n : Nat} (h : Untracked s pa n) : cohRead s pa n = readBytes s.mem pa n := by
  induction n generalizing pa with
  | zero => rfl
  | succ n ih =>
    obtain ⟨hp, ht⟩ : physOk pa = true ∧ tracked s (lineOf pa) = false := h 0 (Nat.zero_lt_succ _)
    rw [cohRead, readBytes, ih h.tail]
    simp only [cohByte, hp, ht, Bool.not_true, Bool.false_eq_true, if_false]

/-- The bytes of eight-byte words, in order. -/
def wordBytes (ws : List Word) : List Byte := ws.flatMap (fun w => toBytes 8 w.toNat)

theorem wordBytes_length (ws : List Word) : (wordBytes ws).length = 8 * ws.length := by
  simp [wordBytes, List.length_flatMap, Nat.mul_comm]

/-- A word of a record that has been written is read back. -/
theorem readBytes_wordBytes (m : Memory) (a : Nat) (ws : List Word) (zs : List Byte) {j : Nat} (hj : j < ws.length) :
    fromBytes (readBytes (writeBytes m a (wordBytes ws ++ zs)) (a + 8 * j) 8) = (ws.getD j 0).toNat := by
  have hsplit : wordBytes ws ++ zs = wordBytes (ws.take j) ++ (toBytes 8 ws[j].toNat ++ (wordBytes (ws.drop (j + 1)) ++ zs)) := by
    calc wordBytes ws ++ zs = wordBytes (ws.take j ++ ws.drop j) ++ zs := by rw [List.take_append_drop]
      _ = _ := by
        rw [List.drop_eq_getElem_cons hj, wordBytes, List.flatMap_append, List.flatMap_cons, List.append_assoc, List.append_assoc]
        rfl
  have hlen : (wordBytes (ws.take j)).length = 8 * j := by rw [wordBytes_length, List.length_take, Nat.min_eq_left hj.le]
  have hmid := readBytes_writeBytes_middle m a (wordBytes (ws.take j)) (toBytes 8 ws[j].toNat) (wordBytes (ws.drop (j + 1)) ++ zs)
  rw [hlen, toBytes_length] at hmid
  rw [hsplit, hmid, fromBytes_toBytes, Nat.mod_eq_of_lt ws[j].isLt, List.getD_eq_getElem?_getD, List.getElem?_eq_getElem hj,
    Option.getD_some]

end Sys2Proof.Machine

/-! ### Pools (02 R40 to R45) -/

namespace Sys2Proof.Machine

open Sys2Proof

theorem fget?_map {α β : Type} (f : α → β) (m : FMap α) (k : Nat) :
    fget? (m.map (fun e => (e.1, f e.2))) k = (fget? m k).map f := by
  induction m with
  | nil => rfl
  | cons e m ih =>
    rw [List.map_cons, fget?, fget?, ih]
    split <;> rfl

/-- Bringing the pools up to date refreshes each of them. -/
theorem pool_poolHeads (s : State) (die : Nat) : (poolHeads s).pool die = (s.pool die).refresh s := by
  have h : fget? (poolHeads s).pools die = (fget? s.pools die).map (·.refresh s) := fget?_map _ _ _
  unfold State.pool fget
  rw [h]
  cases fget? s.pools die <;> rfl

@[simp] theorem poolHeads_mem (s : State) : (poolHeads s).mem = s.mem := by rw [poolHeads]
@[simp] theorem poolHeads_strands (s : State) : (poolHeads s).strands = s.strands := by rw [poolHeads]
@[simp] theorem poolEnter_mem (s : State) (die k level : Nat) : (poolEnter s die k level).mem = s.mem := by
  rw [poolEnter, poolHeads_mem, State.setPool]
@[simp] theorem poolEnter_strands (s : State) (die k level : Nat) : (poolEnter s die k level).strands = s.strands := by
  rw [poolEnter, poolHeads_strands, State.setPool]

theorem markHeads_launch (s : State) (seen : List (Nat × Nat)) (es : List PoolEnt) :
    (markHeads s seen es).map (·.launch) = es.map (·.launch) := by
  induction es generalizing seen with
  | nil => rfl
  | cons e es ih =>
    unfold markHeads
    dsimp only
    split_ifs <;> rw [List.map_cons, List.map_cons, ih]

/-- A refreshed pool holds the same launches in the same order. -/
theorem Pool.refresh_launch (s : State) (p : Pool) : (p.refresh s).ents.map (·.launch) = p.ents.map (·.launch) :=
  markHeads_launch s [] p.ents

@[simp] theorem State.setPool_pool (s : State) (die : Nat) (p : Pool) : (s.setPool die p).pool die = p := fget_fset_self ..

/-- A launch enters a pool behind those that are there. -/
theorem poolEnter_launch (s : State) (die k level : Nat) :
    ((poolEnter s die k level).pool die).ents.map (·.launch) = (s.pool die).ents.map (·.launch) ++ [k] := by
  rw [poolEnter, pool_poolHeads, Pool.refresh_launch, State.setPool_pool, List.map_append]
  rfl

@[simp] theorem launch_setLaunch (s : State) (k : Nat) (l : Launch) : (s.setLaunch k l).launch k = some l := fget?_fset_self ..

theorem launch_setLaunch_ne (s : State) {k j : Nat} (l : Launch) (h : k ≠ j) : (s.setLaunch k l).launch j = s.launch j :=
  fget?_fset_ne _ _ h

/-! ### A launch is submitted (02 R30 to R32, R40 to R42) -/

/-- A launch accepted with the tenant's next ID. -/
def accept (s : State) (l : Launch) : State :=
  { s.setLaunch (launchKey l.tenant l.id) l with newest := fset s.newest l.tenant l.id }

section Submitted

variable {s : State} {tenant : Nat} {ws : List Word} {sysctl : Bool} {host : Option (Nat × Bool × Word)} {d : Nat}

theorem submitLaunch_badField (h : badField s tenant sysctl (describedLaunch s tenant ws host) = some d) :
    submitLaunch s tenant ws sysctl host = (w64 (d * 256 + 3), s) := by
  unfold submitLaunch
  dsimp only
  split
  · next d' hd =>
    cases hd.symm.trans h
    rfl
  · next hd => cases hd.symm.trans h

theorem submitLaunch_oversize (hf : badField s tenant sysctl (describedLaunch s tenant ws host) = none)
    (h : oversize s (describedLaunch s tenant ws host) = some d) :
    submitLaunch s tenant ws sysctl host = (w64 (d * 256 + 2), s) := by
  unfold submitLaunch
  dsimp only
  split
  · next hd => cases hd.symm.trans hf
  · split
    · next d' hd =>
      cases hd.symm.trans h
      rfl
    · next hd => cases hd.symm.trans h

/-- A launch that passes its checks and is not resident: it enters its pool directly, or else its tenant's spill queue, where
that has room. -/
theorem submitLaunch_passed (hf : badField s tenant sysctl (describedLaunch s tenant ws host) = none)
    (ho : oversize s (describedLaunch s tenant ws host) = none) (hr : (describedLaunch s tenant ws host).resident = false) :
    let l := describedLaunch s tenant ws host
    let k := launchKey tenant l.id
    let n := (spillOf s tenant).length
    let cap := tset s setSPILLSZ tenant
    submitLaunch s tenant ws sysctl host =
      if depState s l == 0 && (spillFor s l.home tenant).isEmpty && owedOthers s l.home tenant < poolRoom s l.home then
        (w64 (l.id * 2 ^ 32), poolEnter (accept s l) l.home k l.prio)
      else if (if l.flag 3 then cap ≤ n else cap ≤ n + 32) then (w64 1, s)
      else (w64 (l.id * 2 ^ 32), spillEnter (accept s l) k l) := by
  unfold submitLaunch
  dsimp only
  split
  · next hd => cases hd.symm.trans hf
  · split
    · next hd => cases hd.symm.trans ho
    · rw [if_neg (by rw [show (fld (ws.getD 1 0) 52 52 == 1) = false from hr]; exact Bool.false_ne_true)]
      rfl

/-- The first two checks (R30): the descriptor's version, and an empty grid. -/
theorem badField_version (l : Launch) (h : fld (l.words.getD 0 0) 2 0 ≠ 0) : badField s tenant sysctl l = some 1 := by
  unfold badField
  rw [firstBad, if_neg (by simpa [Launch.field] using h)]

theorem badField_grid (l : Launch) (hv : fld (l.words.getD 0 0) 2 0 = 0) (h : l.gx = 0 ∨ l.gy = 0 ∨ l.gz = 0) :
    badField s tenant sysctl l = some 2 := by
  unfold badField
  rw [firstBad, if_pos (by simpa [Launch.field] using hv), firstBad, if_neg (by simp only [Bool.and_eq_true, bne_iff_ne]; tauto)]

end Submitted

/-! ### A launch in its tenant's spill queue (02 R40) -/

/-- The entries of a tenant's spill area that are taken. -/
def spillUsed (s : State) (tenant : Nat) : List Nat := (spillOf s tenant).filterMap (fun j => (s.launch j).bind (·.spill))

/-- The lowest number that a list does not have. -/
def lowestFree (used : List Nat) : Nat := ((List.range (used.length + 1)).find? (fun i => !used.contains i)).getD 0

theorem lowestFree_not_mem (used : List Nat) : lowestFree used ∉ used := by
  unfold lowestFree
  cases h : (List.range (used.length + 1)).find? (fun i => !used.contains i) with
  | some i =>
    have hi := List.find?_some h
    simpa using hi
  | none =>
    have hsub : List.range (used.length + 1) ⊆ used := fun i hi => by simpa using List.find?_eq_none.mp h i hi
    have hlen := (List.nodup_range.subperm hsub).length_le
    rw [List.length_range] at hlen
    omega

/-- The device's own bookkeeping: eight bytes of each of some free values. -/
def ownStep (p : List Byte × State) (_ : Nat) : List Byte × State := (p.1 ++ toBytes 8 p.2.free.1.toNat, p.2.free.2)

theorem foldl_ownStep (l : List Nat) (p : List Byte × State) :
    (l.foldl ownStep p).1.length = p.1.length + 8 * l.length ∧ ∃ n, (l.foldl ownStep p).2 = { p.2 with freeNo := n } := by
  induction l generalizing p with
  | nil => exact ⟨rfl, p.2.freeNo, rfl⟩
  | cons a l ih =>
    obtain ⟨hlen, n, hs⟩ := ih (ownStep p a)
    rw [List.foldl_cons]
    refine ⟨?_, n, hs⟩
    rw [hlen, ownStep, List.length_append, toBytes_length, List.length_cons]
    omega

/-- A launch behind the others of its tenant's queue, with its entry. -/
def spilledInto (t : State) (k : Nat) (l : Launch) (e : Nat) : State :=
  { t.setLaunch k { l with spill := some e } with spillq := fset t.spillq l.tenant (spillOf t l.tenant ++ [k]) }

/-- The address of a spill entry of a tenant. -/
def spillAddr (s : State) (tenant e : Nat) : Nat := tset s setSPILLBASE tenant + 128 * e

/-- The record of a spilled launch is written to the entry, with the device's own bookkeeping behind the descriptor, and the launch
enters its tenant's queue. -/
theorem spillEnter_eq (s : State) (k : Nat) (l : Launch) : ∃ (own : List Byte) (t : State) (n : Nat), own.length = 64 ∧
    t = { s with freeNo := n } ∧ spillEnter s k l =
      spilledInto (cohWrite t (spillAddr t l.tenant (lowestFree (spillUsed s l.tenant))) (wordBytes l.words ++ own)) k l
        (lowestFree (spillUsed s l.tenant)) := by
  unfold spillEnter
  generalize hr : List.range 8 = r
  obtain ⟨hlen, n, hs⟩ := foldl_ownStep r ([], s)
  refine ⟨(r.foldl ownStep ([], s)).1, (r.foldl ownStep ([], s)).2, n, ?_, hs, rfl⟩
  rw [hlen, ← hr]
  rfl

/-- The launches and the queues that hold them. -/
def State.queues (s : State) : FMap Launch × FMap Nat × FMap Pool × FMap (List Nat) := (s.launches, s.newest, s.pools, s.spillq)

theorem recallLine_queues (s : State) (line : Nat) : (recallLine s line).queues = s.queues :=
  recallLine_keeps State.queues (fun _ _ => rfl) (fun _ _ => rfl) (fun _ _ _ => rfl) (fun _ _ => rfl) (fun _ _ => rfl)
    (fun _ _ => rfl) s line

theorem cohWrite_queues (s : State) (pa : Nat) (bs : List Byte) : (cohWrite s pa bs).queues = s.queues :=
  cohWrite_keeps State.queues (fun _ _ => rfl) (fun _ _ => rfl) recallLine_queues s pa bs

/-- A record written to memory that no holder has is in its memory, and nothing else of the memory changes. -/
theorem cohWrite_record {s : State} {pa : Nat} {ws : List Word} {own : List Byte} (hw : ws.length = 8) (ho : own.length = 64)
    (h : Untracked s pa 128) :
    let t := cohWrite s pa (wordBytes ws ++ own)
    (∀ j, j < 8 → cohNat t (pa + 8 * j) 8 = (ws.getD j 0).toNat) ∧
      ∀ a, a < pa ∨ pa + 128 ≤ a → readByte t.mem a = readByte s.mem a := by
  have hlen : (wordBytes ws ++ own).length = 128 := by rw [List.length_append, wordBytes_length, hw, ho]
  have hu : Untracked (softClear s pa 128) pa (wordBytes ws ++ own).length := by rw [hlen]; exact h
  have hmem : cohWrite s pa (wordBytes ws ++ own) = (softClear s pa 128).withMem (writeBytes s.mem pa (wordBytes ws ++ own)) := by
    rw [cohWrite, hlen, cohPutBytes_of_untracked hu]
    rfl
  rw [hmem]
  refine ⟨fun j hj => ?_, fun a ha => readByte_writeBytes_outside _ _ _ _ (by rwa [hlen])⟩
  have hpart : Untracked ((softClear s pa 128).withMem (writeBytes s.mem pa (wordBytes ws ++ own))) (pa + 8 * j) 8 :=
    Untracked.part (n := 128) h (by omega)
  rw [cohNat, cohRead_of_untracked hpart]
  exact readBytes_wordBytes _ _ _ _ (hw ▸ hj)

/-- What a spilled launch leaves: its own entry of the spill area holds its record. -/
theorem spillEnter_accept (s : State) (l : Launch) :
    let k := launchKey l.tenant l.id
    let t := spillEnter (accept s l) k l
    ∃ e, t.launch k = some { l with spill := some e } ∧ fget 0 t.newest l.tenant = l.id ∧
      spillOf t l.tenant = spillOf s l.tenant ++ [k] ∧ t.pools = s.pools ∧
      (∀ j ∈ spillOf s l.tenant, j ≠ k → (s.launch j).bind (·.spill) ≠ some e) ∧
      (l.words.length = 8 → Untracked s (spillAddr s l.tenant e) 128 →
        (∀ j, j < 8 → cohNat t (spillAddr s l.tenant e + 8 * j) 8 = (l.words.getD j 0).toNat) ∧
        ∀ a, a < spillAddr s l.tenant e ∨ spillAddr s l.tenant e + 128 ≤ a → readByte t.mem a = readByte s.mem a) := by
  intro k t
  obtain ⟨own, u, n, hown, hu, heq⟩ := spillEnter_eq (accept s l) k l
  have hfree := lowestFree_not_mem (spillUsed (accept s l) l.tenant)
  generalize lowestFree (spillUsed (accept s l) l.tenant) = e at hfree heq
  have haddr : spillAddr u l.tenant e = spillAddr s l.tenant e := by rw [hu]; rfl
  rw [haddr] at heq
  have hq := cohWrite_queues u (spillAddr s l.tenant e) (wordBytes l.words ++ own)
  have hrec (hw : l.words.length = 8) (hun : Untracked u (spillAddr s l.tenant e) 128) := cohWrite_record hw hown hun
  generalize cohWrite u (spillAddr s l.tenant e) (wordBytes l.words ++ own) = v at hq hrec heq
  subst hu
  simp only [State.queues, Prod.mk.injEq] at hq
  obtain ⟨-, hnewest, hpools, hspillq⟩ := hq
  have hqueue : spillOf v l.tenant = spillOf s l.tenant := by unfold spillOf; rw [hspillq]; rfl
  rw [show t = spilledInto v k l e from heq]
  refine ⟨e, fget?_fset_self .., ?newest, ?queue, hpools, ?entry, hrec⟩
  case newest =>
    change fget 0 v.newest l.tenant = l.id
    rw [hnewest]
    exact fget_fset_self ..
  case queue =>
    rw [← hqueue]
    exact fget_fset_self ..
  case entry =>
    intro j hj hne he
    refine hfree (List.mem_filterMap.mpr ⟨j, hj, ?_⟩)
    rwa [show (accept s l).launch j = s.launch j from launch_setLaunch_ne s l (Ne.symm hne)]

/-- What a launch leaves that enters its pool directly. -/
theorem poolEnter_accept (s : State) (l : Launch) :
    let t := poolEnter (accept s l) l.home (launchKey l.tenant l.id) l.prio
    t.launch (launchKey l.tenant l.id) = some l ∧ fget 0 t.newest l.tenant = l.id ∧ t.mem = s.mem ∧
      (t.pool l.home).ents.map (·.launch) = (s.pool l.home).ents.map (·.launch) ++ [launchKey l.tenant l.id] := by
  intro t
  have hents := poolEnter_launch (accept s l) l.home (launchKey l.tenant l.id) l.prio
  exact ⟨fget?_fset_self .., fget_fset_self .., poolEnter_mem .., hents⟩

theorem launchesAreCheckedAndQueued : LaunchesAreCheckedAndQueued := by
  intro s tenant ws sysctl host
  refine ⟨fun hv => submitLaunch_badField (badField_version _ hv), fun hv hg => submitLaunch_badField (badField_grid _ hv hg),
    fun d => submitLaunch_badField, fun hf => ⟨fun d => submitLaunch_oversize hf, fun ho hr => ?_⟩⟩
  have heq := submitLaunch_passed hf ho hr
  dsimp only at heq
  refine ⟨fun hd => ?direct, fun hd hroom => ?spilled, fun hd hfull => ?full⟩
  case direct =>
    rw [if_pos hd] at heq
    rw [heq]
    exact ⟨rfl, poolEnter_accept s _⟩
  case spilled =>
    rw [if_neg (by rw [hd]; exact Bool.false_ne_true), if_neg (by split at hroom <;> split <;> omega)] at heq
    rw [heq]
    obtain ⟨e, h⟩ := spillEnter_accept s (describedLaunch s tenant ws host)
    exact ⟨e, rfl, h⟩
  case full =>
    rw [if_neg (by rw [hd]; exact Bool.false_ne_true), if_pos hfull] at heq
    exact heq

end Sys2Proof.Machine

/-! ### Strands that park for a reply, and their transactions (02 R28, 10 R213) -/

namespace Sys2Proof.Machine

open Sys2Proof

/-- A reply performs the operation that its strand has parked on. -/
theorem accessReply_settles {s : State} {i : Instr} {f : State → Res} (rp : Reply) (hcur : s.cur = .strand s.coreId s.slotId)
    (hw : Waits s s.coreId s.slotId .access i) (hop : replyOp (some rp) i = some f) :
    exec (.accessReply s.coreId s.slotId rp) s = .next (settle s s.me.pinstr (f s)) := by
  obtain ⟨hstatus, hphase, hdec⟩ := hw
  have hself : ({ s with cur := .strand s.coreId s.slotId } : State) = s := by rw [← hcur]
  change execAccessReply s.coreId s.slotId rp s = _
  rw [State.strand_me] at hstatus hphase hdec
  simp only [execAccessReply, State.strand_me, hstatus, hphase, hdec, hself, replyTo, hop, reduceCtorEq, and_false, if_true, if_false]

section Transactions

variable {s : State}

theorem dropTxs_of_none {core slot : Nat} (h : myTxs s core slot = []) : dropTxs s core slot = s := by
  have hall : s.fabTx.filter (fun t => !(t.kind == .strand && t.owner == (core, slot))) = s.fabTx :=
    List.filter_eq_self.mpr (fun t ht => by
      rw [Bool.not_eq_true', Bool.eq_false_iff]
      exact List.filter_eq_nil_iff.mp h t ht)
  unfold dropTxs
  rw [hall]

theorem fillTx_of_none (r : Reply) (h : myTxs s s.coreId s.slotId = []) : fillTx s r = s := by
  unfold fillTx
  rw [h]
  cases r.tag <;> rfl

theorem endTxs_of_none (h : myTxs s s.coreId s.slotId = []) : endTxs s = (s, false) := by
  unfold endTxs
  rw [dropTxs_of_none h, h]
  rfl

end Transactions

/-- A piece that lies in a page. -/
def Piece.inPage (p : Piece) : Prop := ∃ pa attr va, p.place = .page pa attr va

/-- A piece that lies in an SC or CP page. -/
def Piece.inSoftPage (p : Piece) : Prop := ∃ pa attr va, p.place = .page pa attr va ∧ attr ≠ 0#2

theorem unboard_pages {s : State} {ps : List Piece} (h : ∀ p ∈ ps, p.inPage) : unboard s ps = .ok ps := by
  have hnone : ps.any (fun p => p.onBoard s) = false := by
    rw [List.any_eq_false]
    intro p hp
    obtain ⟨pa, attr, va, hplace⟩ := h p hp
    simp [Piece.onBoard, hplace]
  rw [unboard, hnone, if_neg Bool.false_ne_true]

/-- Nothing is asked of others for SC and CP pages at the issue of a load. -/
theorem askFor_softPages {s : State} {ps : List Piece} (h : ∀ p ∈ ps, p.inSoftPage) : askFor s ps = s := by
  induction ps with
  | nil => rfl
  | cons p ps ih =>
    obtain ⟨pa, attr, va, hplace, hattr⟩ := h p (List.mem_cons_self ..)
    rw [askFor]
    simp only [hplace, hattr, decide_false, Bool.false_and, Bool.false_eq_true, if_false]
    exact ih (fun q hq => h q (List.mem_cons_of_mem _ hq))

/-- A load that cannot be read at its issue asks for what it needs and parks for its reply. -/
theorem loadThen_parks {s : State} {parks : Bool} {ps : List Piece} (k : Bool → List (Nat × List Byte) → State → Res)
    (hparks : (!parks && ps.all (·.near)) = false) (hboard : unboard s ps = .ok ps) (htx : myTxs s s.coreId s.slotId = []) :
    loadThen none parks ps s k = awaitReply ps (askFor s ps) := by
  simp only [loadThen, hboard, hparks, dropTxs_of_none htx, Bool.false_eq_true, if_false]

/-- At its reply a load that the caches can answer hands on the bytes that it reads. -/
theorem loadThen_replied {s u : State} {ps : List Piece} {l : List (Nat × List Byte)} (rp : Reply) (parks : Bool)
    (k : Bool → List (Nat × List Byte) → State → Res) (hpart : s.part = none) (htx : myTxs s s.coreId s.slotId = [])
    (hread : piecesRead s 0 ps = (u, some l)) (hclean : ∀ w ∈ ps.flatMap (·.words s), fget? u.soft w = none)
    (htx' : myTxs u u.coreId u.slotId = []) : loadThen (some rp) parks ps s k = k false l u := by
  simp only [loadThen, hpart, fillTx_of_none rp htx, hread, eccWords, eccScan_clean u u.cluId _ hclean, endTxs_of_none htx']

/-- The strand of an access that parks for its reply keeps the places to which the access has resolved. -/
theorem settle_awaitReply {s t : State} (i : Instr) (ps : List Piece) (hcur : t.cur = s.cur) :
    settle s ((encodeTile i).getD 0) (awaitReply ps t) = (t.setMe { t.me with pplaces := ps }).parkedOn i 0 .access := by
  rw [awaitReply, settle_wait, State.parkedOn, State.coreId, State.slotId, State.at, ← hcur]
  rfl

end Sys2Proof.Machine

/-! ### LAUNCH (02 R31, R46; 17 R383) -/

namespace Sys2Proof.Machine

open Sys2Proof

theorem publish_strands (s : State) (t : Nat) (is : List Nat) : (publish s t is).strands = s.strands := by
  induction is generalizing s with
  | nil => rfl
  | cons i is ih => exact ih _

theorem publish_cur (s : State) (t : Nat) (is : List Nat) : (publish s t is).cur = s.cur := by
  induction is generalizing s with
  | nil => rfl
  | cons i is ih => exact ih _

/-- A release whose timestamp has come is completed: it is published, and the strand knows it done (08 R176). -/
theorem tryRelease_due {s : State} {sc : Scope} (h : ReleaseDue s sc) :
    tryRelease s s.coreId s.slotId sc = ((releasedState s sc).setMe { s.me with prel := true }, true) := by
  obtain ⟨⟨-, hptime, hready, hclean⟩, hhold⟩ := h
  have hflush : ((sc = .dev || sc = .sys) && cpDirty s (cluOfCore s.coreId)) = false := by
    rw [Bool.and_eq_false_imp]
    intro hsc
    have hsc : sc = .dev ∨ sc = .sys := by simpa using hsc
    exact List.any_eq_false.mpr (fun e he => by simpa using hclean hsc e he)
  have hme : (releasedState s sc).strand s.coreId s.slotId = s.me := by
    rw [releasedState, State.strand, publish_strands]
    rfl
  have hkey : (releasedState s sc).meKey = s.meKey := by rw [State.meKey, State.at, releasedState, publish_cur]; rfl
  have hx : ({ s.me with prel := true } : Strand) = { s.me with prel := true, ptime := 0 } :=
    congrArg (fun n => { s.me with prel := true, ptime := n }) hptime
  rw [hx]
  unfold tryRelease
  simp only [State.strand_me, hptime, hready, decide_true, Bool.true_and, Bool.not_true, Bool.false_eq_true, hflush, if_true, if_false]
  rw [if_pos (show releaseHold s s.coreId s.slotId sc (releaseTime s s.coreId s.slotId sc 0) ≤ ccnt s from hhold)]
  change ((releasedState s sc).updStrand s.coreId s.slotId _, true) = _
  rw [State.updStrand, hme, State.setMe, hkey]
  rfl

theorem afterRelease_due {s : State} {sc : Scope} (k : State → Res) (h : ReleaseDue s sc) :
    afterRelease (some sc) s k = k ((releasedState s sc).setMe { s.me with prel := true }) := by
  have hprel : s.me.prel = false := h.1.1
  simp only [afterRelease, afterReleaseAt, hprel, tryRelease_due h, Bool.false_eq_true, if_false]

/-- The pointer of a LAUNCH is one that its checks let pass. -/
theorem launchStops_none {s : State} {p : Word} (htag : ptrTag p = 0) (hfields : fld p 59 57 = 0) (halign : p.toNat % 64 = 0) :
    firstStop [checkSpace s (· == 0) p, alignStop p 64] = none := by
  simp [firstStop, checkSpace, alignStop, fieldsOk, htag, hfields, halign]

theorem launchStops_space {s : State} {p : Word} (htag : ptrTag p ≠ 0) :
    firstStop [checkSpace s (· == 0) p, alignStop p 64] = some (.bad cSPACE p) := by
  simp [firstStop, checkSpace, htag]

theorem launchStops_fields {s : State} {p : Word} (htag : ptrTag p = 0) (hfields : fld p 59 57 ≠ 0) :
    firstStop [checkSpace s (· == 0) p, alignStop p 64] = some (.bad cBOUNDS p) := by
  simp [firstStop, checkSpace, fieldsOk, htag, hfields]

theorem launchStops_align {s : State} {p : Word} (htag : ptrTag p = 0) (hfields : fld p 59 57 = 0) (halign : p.toNat % 64 ≠ 0) :
    firstStop [checkSpace s (· == 0) p, alignStop p 64] = some (.bad cALIGN p) := by
  simp [firstStop, checkSpace, alignStop, fieldsOk, htag, hfields, halign]

theorem lookupKeys_launch (s : State) (g : Guard) (pd : PReg) (sd sa : SReg) : lookupKeys s (.launch g pd sd sa) = [] := by
  simp [lookupKeys, firstPtr]

theorem exec_launch {s : State} {g : Guard} (pd : PReg) (sd sa : SReg) (h : s.guarded g) :
    exec (.launch g pd sd sa) s = .next (settle s ((encodeTile (.launch g pd sd sa)).getD 0) (opLaunch pd sd sa none s)) :=
  issue_scalar (i := .launch g pd sd sa) _ rfl (readKeys_clean h rfl rfl rfl rfl (lookup_nothing (lookupKeys_launch ..))) h.1

/-- A LAUNCH whose pointer is refused freezes its strand. -/
theorem exec_launch_stopped {s : State} {g : Guard} (pd : PReg) (sd sa : SReg) {c : BitVec 8} (h : s.guarded g)
    (hstop : firstStop [checkSpace s (· == 0) (s.rS sa), alignStop (s.rS sa) 64] = some (.bad c (s.rS sa))) :
    exec (.launch g pd sd sa) s = .next (freeze s s.coreId s.slotId c (s.rS sa)) := by
  rw [exec_launch pd sd sa h, opLaunch]
  simp only [hstop, Stop.res, settle_fault]

/-- The descriptor's eight words, which LAUNCH reads as one access (17 R383). -/
def launchParts (p : Word) : List (Nat × Nat × Nat) := (List.range 8).map (fun j => (fld p 56 0 + 8 * j, 8 * j, 8))

/-- What follows the checks, the comparators and the release of a LAUNCH: its descriptor is read, submitted and answered. -/
def launchRead (pd : PReg) (sd : SReg) (rp : Option Reply) (ps : List Piece) (s : State) : Res :=
  loadThen rp true ps s fun _ l s =>
    let (w, s) := submitLaunch s s.tenantId (l.map (fun x => w64 (fromBytes x.2))) false none
    .done ((s.wS sd w).wP pd (fld w 7 0 == 0))

theorem opLaunch_reads {s u : State} {sa : SReg} {ps : List Piece} (pd : PReg) (sd : SReg) (rp : Option Reply)
    (hstop : firstStop [checkSpace s (· == 0) (s.rS sa), alignStop (s.rS sa) 64] = none)
    (hmatch : dataMatch s true false (fld (s.rS sa) 56 0) 64 = none)
    (hrelease : ∀ k, afterRelease (some .dev) s k = k u)
    (hplaced : placeAll (fun a m => globalPlace u .load a m) 0 (launchParts (s.rS sa)) = .ok ps) :
    opLaunch pd sd sa rp s = launchRead pd sd rp ps u := by
  rw [launchParts] at hplaced
  simp only [opLaunch, hstop, hmatch, hrelease, hplaced, launchRead]

theorem dataMatch_parked {s : State} (ld st : Bool) (a n : Nat) (h : s.me.status ≠ .ready) : dataMatch s ld st a n = none :=
  if_pos h

theorem launchRead_parks {s : State} {ps : List Piece} (pd : PReg) (sd : SReg) (htx : myTxs s s.coreId s.slotId = [])
    (hsoft : ∀ p ∈ ps, p.inSoftPage) : launchRead pd sd none ps s = awaitReply ps s := by
  have hboard : unboard s ps = .ok ps :=
    unboard_pages fun p hp => let ⟨pa, attr, va, h, _⟩ := hsoft p hp; ⟨pa, attr, va, h⟩
  rw [launchRead, loadThen_parks _ rfl hboard htx, askFor_softPages hsoft]

theorem launchReadsItsDescriptor : LaunchReadsItsDescriptor := by
  intro s g pd sd sa ps rp
  refine ⟨fun hg => ⟨fun htag => ?_, fun htag hfields => ?_, fun htag hfields halign => ?_⟩,
    fun htag hfields halign => ⟨?issue, ?reply⟩⟩
  · exact exec_launch_stopped pd sd sa hg (launchStops_space htag)
  · exact exec_launch_stopped pd sd sa hg (launchStops_fields htag hfields)
  · exact exec_launch_stopped pd sd sa hg (launchStops_align htag hfields halign)
  case issue =>
    intro hg hmatch hdue u hu htx hplaced hsoft
    have hcur : u.cur = s.cur := by rw [hu]; exact publish_cur ..
    have hop := opLaunch_reads pd sd none (launchStops_none htag hfields halign) hmatch (fun k => hu ▸ afterRelease_due k hdue) hplaced
    rw [exec_launch pd sd sa hg, hop, launchRead_parks pd sd htx hsoft, settle_awaitReply _ _ hcur]
  case reply =>
    intro hreplied hprel hpart hplaced htx u t l w hread hclean hcur htx' hsub htcur hquiet
    obtain ⟨hscur, hwaits⟩ := hreplied
    have hparked : s.me.status ≠ .ready := by
      obtain ⟨hstatus, -, -⟩ := hwaits
      rw [State.strand_me] at hstatus
      rw [hstatus]
      decide
    have hop := opLaunch_reads pd sd (some rp) (launchStops_none htag hfields halign) (dataMatch_parked true false _ _ hparked)
      (fun k => afterRelease_done k (.inr hprel)) hplaced
    rw [accessReply_settles rp hscur hwaits (f := opLaunch pd sd sa (some rp)) rfl, hop, launchRead,
      loadThen_replied rp _ _ hpart htx hread (fun _ _ => by rw [hclean]; rfl) htx']
    simp only [hsub]
    have hq := quiet_wP (quiet_wS hquiet sd w) pd (fld w 7 0 == 0)
    have hc : ((t.wS sd w).wP pd (fld w 7 0 == 0)).cur = s.cur := htcur
    rw [settle_done_gone _ hc hq]

end Sys2Proof.Machine

/-! ### A task that is placed (02 R33, R34) -/

namespace Sys2Proof.Machine

open Sys2Proof

theorem fget?_filter {α : Type} (m : FMap α) (p : Nat → Bool) (k : Nat) :
    fget? (m.filter (fun e => p e.1)) k = if p k = true then fget? m k else none := by
  induction m with
  | nil => simp [fget?]
  | cons e m ih =>
    obtain ⟨a, x⟩ := e
    by_cases ha : a = k
    · subst ha
      by_cases hp : p a = true
      · simp [hp, fget?]
      · simpa [List.filter_cons, hp] using ih
    · by_cases hp : p a = true <;> simp [hp, fget?, ha, ih]

/-- A key that lies among those removed answers the default. -/
theorem fget_filter_removed {α : Type} (d : α) (m : FMap α) (p : Nat → Bool) {k : Nat} (h : p k = false) :
    fget d (m.filter (fun e => p e.1)) k = d := by
  rw [fget, fget?_filter, h]
  rfl

/-- A key that answers the default still does when keys are removed. -/
theorem fget_filter_default {α : Type} (d : α) (m : FMap α) (p : Nat → Bool) {k : Nat} (h : fget d m k = d) :
    fget d (m.filter (fun e => p e.1)) k = d := by
  rw [fget, fget?_filter]
  split
  · exact h
  · rfl

/-! What placing a task changes of the device: ownership, memory and full/empty bits, and nothing beside. -/

theorem foldl_own (g : State → Nat → FMap Byte) (js : List Nat) (s : State) :
    js.foldl (fun s j => { s with own := g s j }) s = { s with own := (js.foldl (fun s j => { s with own := g s j }) s).own } := by
  induction js generalizing s with
  | nil => rfl
  | cons j js ih => exact ih _

theorem scrownRange_eq (s : State) (core base len : Nat) (v : Byte) :
    scrownRange s core base len v = { s with own := (scrownRange s core base len v).own } := foldl_own _ _ s

theorem cshownRange_eq (s : State) (clu base len : Nat) (v : Byte) :
    cshownRange s clu base len v = { s with own := (cshownRange s clu base len v).own } := foldl_own _ _ s

theorem scrownRange_launches (s : State) (core base len : Nat) (v : Byte) : (scrownRange s core base len v).launches = s.launches := by
  rw [scrownRange_eq]
theorem scrownRange_waits (s : State) (core base len : Nat) (v : Byte) : (scrownRange s core base len v).waits = s.waits := by
  rw [scrownRange_eq]
theorem cshownRange_launches (s : State) (clu base len : Nat) (v : Byte) : (cshownRange s clu base len v).launches = s.launches := by
  rw [cshownRange_eq]
theorem cshownRange_waits (s : State) (clu base len : Nat) (v : Byte) : (cshownRange s clu base len v).waits = s.waits := by
  rw [cshownRange_eq]

theorem feRange_eq (s : State) (word : Nat) (full : Bool) (n : Nat) :
    feRange s word full n = { s with fe := (feRange s word full n).fe } := by
  induction n generalizing s word with
  | zero => rfl
  | succ n ih => exact ih _ _

theorem feFull_feRange_of_empty {s : State} {a : Nat} (word n : Nat) (h : feFull s a = false) :
    feFull (feRange s word false n) a = false := by
  induction n generalizing s word with
  | zero => exact h
  | succ n ih =>
    refine ih (word + 8) ?_
    simp only [feFull, feSet, Bool.false_eq_true, if_false, fget_fset] at h ⊢
    split
    · rfl
    · exact h

theorem feFull_feRange_empty (s : State) (word : Nat) {n j : Nat} (h : j < n) : feFull (feRange s word false n) (word + 8 * j) = false := by
  induction n generalizing s word j with
  | zero => omega
  | succ n ih =>
    cases j with
    | zero => exact feFull_feRange_of_empty _ n (by simp [feFull, feSet])
    | succ j =>
      have hj : word + 8 * (j + 1) = word + 8 + 8 * j := by omega
      rw [hj]
      exact ih _ _ (by omega)

/-- No full/empty form waits on a word of a range. -/
def Unlisted (s : State) (lo n : Nat) : Prop := ∀ b ∈ s.waits, ∀ e ∈ b.2, ¬ (lo ≤ e.word ∧ e.word < lo + n)

theorem zeroEmpty_of_unlisted {s : State} {key n : Nat} (h : Unlisted s key n) : zeroEmpty s key n = zeroRange s key n := by
  have hnone : (s.waits.flatMap (·.2)).filterMap (fun e =>
      if key ≤ e.word && e.word < key + n && feFull s e.word then some e.word else none) = [] := by
    rw [List.filterMap_eq_nil_iff]
    intro e he
    obtain ⟨b, hb, he⟩ := List.mem_flatMap.mp he
    have hout := h b hb e he
    rw [if_neg]
    simp only [Bool.and_eq_true, decide_eq_true_eq]
    exact fun hin => hout hin.1
  simp only [zeroEmpty]
  rw [hnone]
  rfl

/-- The bytes of a range are zero and its words EMPTY. -/
def Cleared (s : State) (key n : Nat) : Prop := ∀ o, o < n → readByte s.mem (key + o) = 0#8 ∧ feFull s (key + o / 8 * 8) = false

theorem zeroRange_frame (s : State) (key n : Nat) :
    zeroRange s key n = { s with soft := (zeroRange s key n).soft, mem := (zeroRange s key n).mem, fe := (zeroRange s key n).fe } := by
  rw [zeroRange, feRange_eq]
  rfl

theorem zeroRange_mem (s : State) (key n : Nat) :
    (zeroRange s key n).mem = s.mem.filter (fun c => !(key ≤ c.1 && c.1 < key + n)) := by
  rw [zeroRange, feRange_eq]
  rfl

theorem zeroRange_waits (s : State) (key n : Nat) : (zeroRange s key n).waits = s.waits := by rw [zeroRange_frame]
theorem zeroRange_launches (s : State) (key n : Nat) : (zeroRange s key n).launches = s.launches := by rw [zeroRange_frame]

theorem zeroRange_cleared (s : State) (key : Nat) {n : Nat} (h : n % 8 = 0) : Cleared (zeroRange s key n) key n := by
  intro o ho
  have hmem : readByte (zeroRange s key n).mem (key + o) = 0#8 := by
    rw [zeroRange_mem, readByte]
    exact fget_filter_removed _ _ (fun a => !(key ≤ a && a < key + n)) (by simp; omega)
  have hfe : feFull (zeroRange s key n) (key + 8 * (o / 8)) = false := feFull_feRange_empty _ key (by omega)
  rw [Nat.mul_comm (o / 8) 8]
  exact ⟨hmem, hfe⟩

/-- What is cleared stays so when another range is. -/
theorem Cleared.zeroRange {s : State} {key n : Nat} (h : Cleared s key n) (key' n' : Nat) : Cleared (zeroRange s key' n') key n := by
  intro o ho
  obtain ⟨hmem, hfe⟩ := h o ho
  refine ⟨?_, feFull_feRange_of_empty _ _ hfe⟩
  rw [zeroRange_mem, readByte]
  exact fget_filter_default _ _ (fun a => !(key' ≤ a && a < key' + n')) hmem

/-! The stages of a placement, after its own window and the scratchpad allocation have their owner. -/

/-- The shared memory of a launch in a cluster: that which its tasks there have, or one that is owned and cleared for it. -/
def placedShr (s : State) (k : Nat) (l : Launch) (f : Fit) : (Nat × Nat) × State :=
  let clu := cluOfCore f.core
  let own := BitVec.ofNat 8 (0x80 + l.tenant)
  let s := scrownRange s f.core (256 * f.p) l.priv own
  let s := scrownRange s f.core (256 * f.g) l.scratch own
  match launchShr s clu k with
  | some r => (r, s)
  | none => ((4096 * f.c, l.shared), zeroEmpty (cshownRange s clu (4096 * f.c) l.shared own) (shrKey clu (4096 * f.c)) l.shared)

/-- The matrix array shows nothing of an earlier owner's to the task, and the acquire at .dev stands before its first instruction. -/
def placedArray (l : Launch) (f : Fit) (s : State) : State :=
  acquireAt (if l.mxa then s.updCore f.core (fun x =>
      { x with arr := { x.arr with staleAcc := true, staleLatch := true, ring := 0, shadow := .init } })
    else s) (cluOfCore f.core) .dev

/-- The launch counts the task. -/
def placedCount (k : Nat) (s : State) : State :=
  match s.launch k with
  | some l => s.setLaunch k { l with placed := l.placed + 1, live := l.live + 1 }
  | none => s

theorem taskPlace_eq (s : State) (k : Nat) (l : Launch) (idx : Nat) (f : Fit) :
    taskPlace s k l idx f = placedCount k (placedArray l f (taskInit (placedShr s k l f).2 k l idx f (placedShr s k l f).1)) := by
  unfold taskPlace placedShr
  dsimp only
  generalize launchShr _ _ k = r
  cases r <;> rfl

section Stages

variable (k : Nat) (l : Launch) (f : Fit) (s : State)

theorem placedCount_strand (core slot : Nat) : (placedCount k s).strand core slot = s.strand core slot := by
  unfold placedCount
  split <;> rfl
theorem placedCount_core (c : Nat) : (placedCount k s).core c = s.core c := by
  unfold placedCount
  split <;> rfl
theorem placedCount_mem : (placedCount k s).mem = s.mem := by
  unfold placedCount
  split <;> rfl
theorem placedCount_fe : (placedCount k s).fe = s.fe := by
  unfold placedCount
  split <;> rfl

theorem placedArray_strand (core slot : Nat) : (placedArray l f s).strand core slot = s.strand core slot := by
  unfold placedArray
  split <;> rfl
theorem placedArray_launch (j : Nat) : (placedArray l f s).launch j = s.launch j := by
  unfold placedArray
  split <;> rfl
theorem placedArray_mem : (placedArray l f s).mem = s.mem := by
  unfold placedArray
  split <;> rfl
theorem placedArray_fe : (placedArray l f s).fe = s.fe := by
  unfold placedArray
  split <;> rfl

theorem placedCount_launch {k : Nat} {l : Launch} {s : State} (h : s.launch k = some l) :
    (placedCount k s).launch k = some { l with placed := l.placed + 1, live := l.live + 1 } := by
  rw [placedCount, h]
  exact fget?_fset_self ..

theorem acquireAt_core (clu : Nat) (sc : Scope) (c : Nat) : (acquireAt s clu sc).core c = s.core c := rfl

theorem slotMended_core (core slot c : Nat) : (slotMended s core slot).core c = s.core c := rfl

/-- The vector registers are not the array's. -/
theorem placedArray_v : ((placedArray l f s).core f.core).v = (s.core f.core).v := by
  unfold placedArray
  split
  · rw [acquireAt_core, State.updCore, State.setCore_core]
  · rfl

theorem taskInit_strand (idx : Nat) (shr : Nat × Nat) :
    ∃ u, (taskInit s k l idx f shr).strand f.core f.slot = taskStrand u k l idx f shr := ⟨_, State.setStrand_strand ..⟩

theorem taskInit_v (idx : Nat) (shr : Nat × Nat) {i : Nat} (h : i < l.vregs) :
    fget 0#512 ((taskInit s k l idx f shr).core f.core).v (8 * f.v + i) = 0#512 := by
  rw [taskInit, State.setStrand_core, slotMended_core, clearWindow, State.updCore, State.setCore_core]
  exact fget_filter_removed _ _ (fun a => !(8 * f.v ≤ a && a < 8 * f.v + l.vregs)) (by simp; omega)

end Stages

/-! What the strand of a task holds. -/

section TaskStrand

variable (u : State) (k : Nat) (l : Launch) (idx : Nat) (f : Fit) (shr : Nat × Nat)

theorem taskStrand_rS_arg : (taskStrand u k l idx f shr).rS 1#6 = l.words.getD 6 0 := rfl
theorem taskStrand_rS_sp : (taskStrand u k l idx f shr).rS 61#6 = w64 (2 ^ 60 + l.priv) := rfl

theorem taskStrand_rS_zero {r : SReg} (h1 : r ≠ 1#6) (h61 : r ≠ 61#6) : (taskStrand u k l idx f shr).rS r = 0#64 := by
  have h1 : (1 : Nat) ≠ r.toNat := fun h => h1 (BitVec.eq_of_toNat_eq h.symm)
  have h61 : (61 : Nat) ≠ r.toNat := fun h => h61 (BitVec.eq_of_toNat_eq h.symm)
  simp [Strand.rS, taskStrand, fget, fget?, h1, h61]

theorem taskStrand_id_x : (taskStrand u k l idx f shr).id 0x010 = idx % l.gx % 2 ^ 64 := BitVec.toNat_ofNat ..
theorem taskStrand_id_launch : (taskStrand u k l idx f shr).id 0x01D = l.id % 2 ^ 64 := BitVec.toNat_ofNat ..
theorem taskStrand_id_tenant : (taskStrand u k l idx f shr).id 0x01E = l.tenant % 2 ^ 64 := BitVec.toNat_ofNat ..

end TaskStrand

/-! What a placement leaves of the launches and of the task's own window, where nothing is listed on what it clears. -/

theorem Cleared.congr {s t : State} {key n : Nat} (h : Cleared s key n) (hmem : t.mem = s.mem) (hfe : t.fe = s.fe) : Cleared t key n := by
  intro o ho
  rw [hmem, feFull, hfe]
  exact h o ho

theorem Unlisted.congr {s t : State} {lo n : Nat} (h : Unlisted s lo n) (hwaits : t.waits = s.waits) : Unlisted t lo n := by
  rw [Unlisted, hwaits]
  exact h

section Unlisted

variable {s : State} {l : Launch} {f : Fit} (k idx : Nat)

theorem placedShr_kept (h : Unlisted s (shrKey (cluOfCore f.core) (4096 * f.c)) l.shared) :
    (placedShr s k l f).2.launches = s.launches ∧ (placedShr s k l f).2.waits = s.waits := by
  have hunlisted : ∀ {u : State} {own : Byte}, u.waits = s.waits →
      Unlisted (cshownRange u (cluOfCore f.core) (4096 * f.c) l.shared own) (shrKey (cluOfCore f.core) (4096 * f.c)) l.shared :=
    fun hu => h.congr ((cshownRange_waits ..).trans hu)
  unfold placedShr
  dsimp only
  split
  · simp only [scrownRange_launches, scrownRange_waits, and_self]
  · rw [zeroEmpty_of_unlisted (hunlisted (by simp only [scrownRange_waits]))]
    simp only [zeroRange_launches, zeroRange_waits, cshownRange_launches, cshownRange_waits, scrownRange_launches, scrownRange_waits, and_self]

theorem scrKey_add (core base o : Nat) : scrKey core (base + o) = scrKey core base + o := (Nat.add_assoc ..).symm

section Slot

variable (u : State) (core base n core' slot : Nat) (x : Strand)

theorem placedSlot_launches : ((slotMended (clearWindow u core base n) core' slot).setStrand core' slot x).launches = u.launches := by
  simp only [State.setStrand_launches, slotMended, softDrop, clearWindow, State.updCore, State.setCore_launches]
theorem placedSlot_mem : ((slotMended (clearWindow u core base n) core' slot).setStrand core' slot x).mem = u.mem := by
  simp only [State.setStrand_mem, slotMended, softDrop, clearWindow, State.updCore, State.setCore_mem]
theorem placedSlot_fe : ((slotMended (clearWindow u core base n) core' slot).setStrand core' slot x).fe = u.fe := by
  simp only [State.setStrand_fe, slotMended, softDrop, clearWindow, State.updCore, State.setCore_fe]

end Slot

theorem taskInit_kept (shr : Nat × Nat) (hp : Unlisted s (scrKey f.core (256 * f.p)) l.priv)
    (hg : Unlisted s (scrKey f.core (256 * f.g)) l.scratch) :
    (taskInit s k l idx f shr).launches = s.launches ∧ Cleared (taskInit s k l idx f shr) (scrKey f.core (256 * f.p)) l.priv := by
  have hcleared := (zeroRange_cleared s (scrKey f.core (256 * f.p)) (n := l.priv) (by simp [Launch.priv]; omega)).zeroRange
    (scrKey f.core (256 * f.g)) l.scratch
  rw [taskInit, zeroEmpty_of_unlisted hp, zeroEmpty_of_unlisted (hg.congr (zeroRange_waits ..))]
  exact ⟨(placedSlot_launches ..).trans ((zeroRange_launches ..).trans (zeroRange_launches ..)),
    hcleared.congr (placedSlot_mem ..) (placedSlot_fe ..)⟩

end Unlisted

theorem tasksStartClean : TasksStartClean := by
  intro s k l idx f hl
  obtain ⟨u, hx⟩ := taskInit_strand k l f (placedShr s k l f).2 idx (placedShr s k l f).1
  have hx : (taskPlace s k l idx f).strand f.core f.slot = taskStrand u k l idx f (placedShr s k l f).1 := by
    rw [taskPlace_eq, placedCount_strand, placedArray_strand, hx]
  dsimp only
  rw [hx]
  refine ⟨rfl, rfl, taskStrand_rS_arg .., taskStrand_rS_sp .., fun r h1 h61 => taskStrand_rS_zero _ _ _ _ _ _ h1 h61, taskStrand_id_x ..,
    taskStrand_id_launch .., taskStrand_id_tenant .., rfl, fun i hi => ?_, fun hp hg hc => ?_⟩
  · rw [taskPlace_eq, placedCount_core, placedArray_v, taskInit_v _ _ _ _ _ _ hi]
  · obtain ⟨hlaunch, hwaits⟩ := placedShr_kept (s := s) k hc
    obtain ⟨hlaunch', hcleared⟩ := taskInit_kept k idx (placedShr s k l f).1 (Unlisted.congr hp hwaits) (Unlisted.congr hg hwaits)
    have hcleared := hcleared.congr ((placedCount_mem k _).trans (placedArray_mem l f _)) ((placedCount_fe k _).trans (placedArray_fe l f _))
    have hl : (placedArray l f (taskInit (placedShr s k l f).2 k l idx f (placedShr s k l f).1)).launch k = some l := by
      rw [placedArray_launch, State.launch, hlaunch', hlaunch]
      exact hl
    rw [← taskPlace_eq] at hcleared
    refine ⟨?_, fun o ho => ?_⟩
    · rw [taskPlace_eq, placedCount_launch hl]
    · rw [scrKey_add, scrKey_add]
      exact hcleared o ho

end Sys2Proof.Machine

/-! ### Arbitration, promotion and filling of the pools (02 R43, R44) -/

namespace Sys2Proof.Machine

open Sys2Proof

section Eligible

variable {s u : State} (h : u.launches = s.launches) (e : PoolEnt)

include h

theorem poolEligible_congr : poolEligible u e = poolEligible s e := by
  unfold poolEligible State.launch
  rw [h]

theorem entTenant_congr : entTenant u e = entTenant s e := by
  unfold entTenant State.launch
  rw [h]

theorem atLevel_congr (die lv : Nat) (hents : (u.pool die).ents = (s.pool die).ents) : atLevel u die lv = atLevel s die lv := by
  unfold atLevel
  simp only [hents, poolEligible_congr h]

end Eligible

/-- A turn is given to one of the tenants, and changes of the pool no more than its counts. -/
theorem drrTurn_some {s u : State} {die lv t : Nat} {ts : List Nat} (h : drrTurn s die lv ts = some (t, u)) :
    t ∈ ts ∧ u.launches = s.launches ∧ (u.pool die).ents = (s.pool die).ents := by
  unfold drrTurn at h
  dsimp only at h
  split at h
  · next t' hkeep =>
    cases h
    split at hkeep
    · split at hkeep
      · next hmem =>
        cases hkeep
        exact ⟨by simpa using (Bool.and_eq_true_iff.mp hmem).1, rfl, rfl⟩
      · cases hkeep
    · cases hkeep
  · split at h
    · cases h
    · next t' hnext =>
      cases h
      refine ⟨?_, rfl, by rw [State.setPool_pool]⟩
      obtain hfind | ⟨-, hhead⟩ := Option.or_eq_some_iff.mp hnext
      · exact List.mem_of_find?_eq_some hfind
      · exact List.mem_of_head? hhead

theorem entTenant_of_launch {s : State} {e : PoolEnt} {l : Launch} (hl : s.launch e.launch = some l) : entTenant s e = l.tenant := by
  simp [entTenant, hl]

section OneEntry

variable {s : State} {die : Nat} {e : PoolEnt} {l : Launch} (hents : (s.pool die).ents = [e])

include hents

theorem atLevel_other {lv : Nat} (h : lv ≠ e.level) : atLevel s die lv = [] := by
  simp [atLevel, hents, Ne.symm h]

theorem tenantsAt_other {lv : Nat} (h : lv ≠ e.level) : tenantsAt s die lv = [] := by
  rw [tenantsAt, atLevel_other hents h]
  rfl

variable (helig : poolEligible s e = true)

include helig

theorem atLevel_own : atLevel s die e.level = [e] := by
  simp [atLevel, hents, helig]

theorem tenantsAt_own (hl : s.launch e.launch = some l) : tenantsAt s die e.level = [l.tenant] := by
  rw [tenantsAt, atLevel_own hents helig, List.foldl_cons, List.foldl_nil, entTenant_of_launch hl]
  rfl

/-- The highest level at which somebody is waiting is the one entry's. -/
theorem openLevel_own (hl : s.launch e.launch = some l) (hlevel : e.level ≤ 3) :
    [3, 2, 1, 0].find? (fun lv => !(tenantsAt s die lv).isEmpty) = some e.level := by
  have hown : (fun lv => !(tenantsAt s die lv).isEmpty) = (fun lv => lv == e.level) := by
    funext lv
    by_cases h : lv = e.level
    · subst h
      simp [tenantsAt_own hents helig hl]
    · simp [tenantsAt_other hents h, h]
  rw [hown]
  generalize e.level = n at hlevel
  decide +revert

/-- One round of the arbiter, where the turn's launch can be placed. -/
theorem arbitrate_one (hl : s.launch e.launch = some l) (hlevel : e.level ≤ 3) {n t cost : Nat} {u v kept : State}
    (hturn : drrTurn s die e.level [l.tenant] = some (t, u)) (hplace : placeNext u die e.launch l = some (v, cost)) :
    arbitrate die (n + 1) [] s kept = (some (chargePlaced v die e.level t e.launch cost), kept) := by
  obtain ⟨ht, hlaunches, huents⟩ := drrTurn_some hturn
  have ht : t = l.tenant := List.mem_singleton.mp ht
  have hat : atLevel u die e.level = [e] := (atLevel_congr hlaunches die _ huents).trans (atLevel_own hents helig)
  have htenant : entTenant u e = t := (entTenant_congr hlaunches e).trans ((entTenant_of_launch hl).trans ht.symm)
  have hul : u.launch e.launch = some l := by rw [State.launch, hlaunches]; exact hl
  have hopen : ∀ lv (ts : List Nat), ts.filter (fun t => !([] : List (Nat × Nat)).contains (lv, t)) = ts :=
    fun lv ts => List.filter_eq_self.mpr (fun _ _ => rfl)
  rw [arbitrate]
  simp only [hopen, openLevel_own hents helig hl hlevel, tenantsAt_own hents helig hl, hturn, hat, List.find?_cons, htenant, beq_self_eq_true,
    hul, hplace]

/-- The one entry of a pool, in front and eligible, is its tenant's head. -/
theorem agingPromotion_one (hhead : e.head = true) (hlevel : e.level < 3) (hsince : e.since + 2 ^ 20 ≤ s.cycle) :
    exec (.agingPromotion die 0) s =
      .next (poolHeads (s.setPool die { s.pool die with ents := [{ e with level := e.level + 1, head := false }] })) := by
  change execAgingPromotion die 0 s = _
  unfold execAgingPromotion
  dsimp only
  rw [hents]
  simp only [List.getElem?_cons_zero, hhead, helig, hlevel, hsince, and_self, if_true]
  rfl

end OneEntry

theorem poolHeads_one {s : State} {die : Nat} {e : PoolEnt} (hents : (s.pool die).ents = [e]) (helig : poolEligible s e = true) :
    ((poolHeads s).pool die).ents = [{ e with head := true, since := if e.head then e.since else s.cycle }] := by
  rw [pool_poolHeads, Pool.refresh]
  dsimp only
  rw [hents, markHeads, if_pos helig]
  rfl

/-! A spilled launch enters its pool. -/

theorem fillRounds_of_empty {s : State} {tenant : Nat} (die n : Nat) (h : s.spillq = [(tenant, [])]) : fillRounds die n s = s := by
  have hspill : spillOf s tenant = [] := by simp [spillOf, h, fget, fget?]
  have hnext : spillNext s die tenant = none := by simp [spillNext, spillFor, hspill]
  have hround : fillRound die (s.spillq.map (·.1)) s = s := by
    rw [h, List.map_cons, List.map_nil, fillRound]
    split
    · rfl
    · rw [hnext, fillRound]
  induction n with
  | zero => rfl
  | succ n ih => rw [fillRounds, hround, ih]

@[simp] theorem poolEnter_spillq (s : State) (die k level : Nat) : (poolEnter s die k level).spillq = s.spillq := by
  rw [poolEnter, poolHeads, State.setPool]

/-- The state in which a launch has left its tenant's queue, where it was alone. -/
def unspilled (s : State) (tenant k : Nat) (l : Launch) : State :=
  { s with spillq := [(tenant, [])] }.setLaunch k { l with spill := none }

section Spilled

variable {s : State} {die tenant k : Nat} {l : Launch} (hq : s.spillq = [(tenant, [k])]) (hl : s.launch k = some l) (hdeps : depState s l = 0)

include hq hl hdeps

theorem failDeps_of_met : failDeps s = s := by
  rw [failDeps, hq]
  simp [hl, hdeps]

theorem fillRound_one (hhome : l.home = die) (hroom : poolRoom s die ≠ 0) :
    fillRound die [tenant] s = poolEnter (unspilled s tenant k l) die k l.prio := by
  have hspill : spillOf s tenant = [k] := by simp [spillOf, hq, fget, fget?]
  have hnext : spillNext s die tenant = some k := by simp [spillNext, spillFor, hspill, hl, hhome, hdeps]
  have hleft : fset s.spillq tenant ([k].filter (· != k)) = [(tenant, [])] := by simp [hq, fset]
  rw [fillRound, if_neg hroom, hnext, hspill]
  dsimp only
  rw [hleft, unspilled]
  generalize hu : ({ s with spillq := [(tenant, [])] } : State) = u
  have hul : u.launch k = some l := hu ▸ hl
  simp only [hul, launch_setLaunch, Option.map_some, Option.getD_some, fillRound]
  rfl

end Spilled

theorem poolsPlacePromoteAndFill : PoolsPlacePromoteAndFill := by
  intro s die e l hdie
  refine ⟨fun hresident hents hres hlevel hl helig t u v cost hturn hplace => ?place, fun hents hhead helig hlevel hsince => ?promote,
    fun tenant k hq hl hhome hdeps hroom => ?fill⟩
  case place =>
    have hreserved : placeReserved s die = none := by rw [placeReserved, hres]; rfl
    change execTaskPlacement die s = _
    rw [execTaskPlacement, if_neg (by omega), hresident]
    simp only [hreserved]
    rw [arbitrate_one hents helig hl hlevel hturn hplace]
  case promote =>
    refine ⟨_, agingPromotion_one hents helig hhead hlevel hsince, ?_, poolHeads_mem _, poolHeads_strands _⟩
    have hents' := congrArg Pool.ents (State.setPool_pool s die { s.pool die with ents := [{ e with level := e.level + 1, head := false }] })
    rw [poolHeads_one hents' helig, hhead]
    rfl
  case fill =>
    obtain ⟨n, hn⟩ : ∃ n, poolRoom s die = n + 1 := ⟨255 - (s.pool die).ents.length, by rw [poolRoom]; omega⟩
    refine ⟨poolEnter (unspilled s tenant k l) die k l.prio, ?_, poolEnter_launch .., ?_, poolEnter_mem .., poolEnter_strands ..⟩
    · change execPoolFill die s = _
      rw [execPoolFill, if_neg (by omega), failDeps_of_met hq hl hdeps]
      simp only [hn, fillRounds]
      rw [hq, List.map_cons, List.map_nil, fillRound_one hq hl hdeps hhome (by omega), fillRounds_of_empty die n (poolEnter_spillq ..)]
    · rw [spillOf, poolEnter_spillq]
      change fget [] (fset [] tenant []) tenant = []
      exact fget_fset_self ..

/-- Settles O52: a launch from its descriptor over its pool or spill queue to its tasks, part by part. -/
theorem launchesAreQueuedAndPlaced : Obligations.LaunchesAreQueuedAndPlaced :=
  ⟨launchesAreCheckedAndQueued, launchReadsItsDescriptor, tasksStartClean, poolsPlacePromoteAndFill⟩

end Sys2Proof.Machine

/-! ### A load of a page (02 R28; 08 R168, R171, R174, R180) -/

namespace Sys2Proof.Machine

open Sys2Proof

/-- A line that a full cache need not make room for enters it. -/
theorem roomIn_of_space {s : State} {clu : Nat} (key : Nat) (hclu : cluExists clu = true) (hroom : (s.clu clu).lines.length < cluLines) :
    roomIn s (cluIndex clu) key = s := by
  simp only [cluExists, Bool.and_eq_true, decide_eq_true_eq] at hclu
  obtain ⟨hlt, hmod⟩ := hclu
  have hwho : cluIndex clu < 192 := by unfold cluIndex; omega
  have hback : cluOfIndex (cluIndex clu) = clu := by unfold cluOfIndex cluIndex; omega
  have hlen : ((s.clu clu).lines.map (·.1)).length < cluLines := by rw [List.length_map]; exact hroom
  unfold roomIn
  simp only [hwho, if_true, hback, hlen, decide_true, Bool.or_true]

theorem cluExists_cluId {s : State} (h : coreExists s.coreId = true) : cluExists s.cluId = true := by
  unfold State.cluId cluOfCore
  simp only [coreExists, cluExists, Bool.and_eq_true, decide_eq_true_eq] at h ⊢
  omega

/-- A load of a page changes of the device no more than the cluster caches. -/
def State.withClusters (s : State) (cs : FMap Cluster) : State := { s with clusters := cs }

theorem setCluLine_eq {s : State} {clu : Nat} (attr line : Nat) (l : CLine) (hclu : cluExists clu = true)
    (hroom : (s.clu clu).lines.length < cluLines) : ∃ cs, setCluLine s clu attr line l = s.withClusters cs := by
  rw [setCluLine, roomIn_of_space _ hclu hroom]
  exact ⟨_, rfl⟩

/-- A part of a page is read as the bytes of a line, of which its cluster's cache may keep a copy. -/
def PageReads (s : State) (pa n : Nat) (attr : BitVec 2) (l : List Byte) : Prop :=
  ∃ cs, pageRead s pa n attr = (s.withClusters cs, some (slice l (pa % 128) n))

section PageReads

variable {s : State} {pa n : Nat}

theorem pageReads_delivered {d : List Byte} (h : fget? s.me.plines (lineOf pa) = some (some d)) : PageReads s pa n 0#2 d := by
  refine ⟨s.clusters, ?_⟩
  simp only [pageRead, h, if_true]
  rfl

theorem pageReads_held {st : Moesi} {l : List Byte} (hnone : ∀ d, fget? s.me.plines (lineOf pa) ≠ some (some d))
    (h : hcHeld s (cluIndex s.cluId) (lineOf pa) = some (st, l)) : PageReads s pa n 0#2 l := by
  refine ⟨s.clusters, ?_⟩
  simp only [pageRead, h, if_true]
  rfl

/-- An SC line as its cluster reads it: the copy that is fresh, else one filled from its home (08 R174). -/
def scLine (s : State) (line : Nat) : CLine :=
  match cluLine s s.cluId 1 line with
  | some l => if scFresh (s.clu s.cluId) l then l else fillLine s s.cluId line .sc
  | none => fillLine s s.cluId line .sc

theorem scLine_fresh {l : CLine} {line : Nat} (h : cluLine s s.cluId 1 line = some l) (hfresh : scFresh (s.clu s.cluId) l = true) :
    (scLine s line).data = l.data := by
  simp only [scLine, h, hfresh, if_true]

theorem scLine_stale {l : CLine} {line : Nat} (h : cluLine s s.cluId 1 line = some l) (hstale : scFresh (s.clu s.cluId) l = false) :
    (scLine s line).data = lineData s line := by
  simp only [scLine, h, hstale, Bool.false_eq_true, if_false, fillLine]

theorem scLine_absent {line : Nat} (h : cluLine s s.cluId 1 line = none) : (scLine s line).data = lineData s line := by
  simp only [scLine, h, fillLine]

theorem cpFill_held {l : CLine} {line : Nat} (h : cluLine s s.cluId 2 line = some l) : (cpFill s s.cluId line).1 = l := by
  simp only [cpFill, h]

theorem cpFill_absent {line : Nat} (h : cluLine s s.cluId 2 line = none) : (cpFill s s.cluId line).1.data = lineData s line := by
  simp only [cpFill, h, fillLine]

variable (hcore : coreExists s.coreId = true) (hroom : (s.clu s.cluId).lines.length < cluLines)

include hcore hroom

theorem pageReads_sc (htx : s.fabTx = []) (hposted : s.posted = []) : PageReads s pa n 1#2 (scLine s (lineOf pa)).data := by
  obtain ⟨cs, hcs⟩ := setCluLine_eq 1 (lineOf pa) (scLine s (lineOf pa)) (cluExists_cluId hcore) hroom
  refine ⟨cs, ?_⟩
  rw [← hcs]
  have hfree : (s.posted.any (fun p => p.kind == .sc && p.clu == s.cluId && lineOf p.key == lineOf pa) ||
      ownScWait s s.cluId (lineOf pa)) = false := by
    rw [ownScWait, hposted, htx]
    rfl
  simp only [pageRead, hfree]
  rfl

theorem pageReads_cp : PageReads s pa n 2#2 (cpFill s s.cluId (lineOf pa)).1.data := by
  have hfill : ∃ cs, (cpFill s s.cluId (lineOf pa)).2 = s.withClusters cs := by
    unfold cpFill
    split
    · exact ⟨s.clusters, rfl⟩
    · exact setCluLine_eq 2 _ _ (cluExists_cluId hcore) hroom
  obtain ⟨cs, hcs⟩ := hfill
  refine ⟨cs, ?_⟩
  rw [← hcs]
  rfl

end PageReads

/-- The value that a load of `n` bytes of one place gives a register (17 R385). -/
theorem loadVal_piece {n : Nat} (u : Bool) (bs : List Byte) (hn : n = 1 ∨ n = 2 ∨ n = 4 ∨ n = 8) (hlen : bs.length ≤ n) :
    loadVal u false n [(0, bs)] =
      let b := BitVec.ofNat (8 * n) (fromBytes bs)
      if u = true then b.setWidth 64 else b.signExtend 64 := by
  have hlt : fromBytes bs < 2 ^ (8 * n) := (fromBytes_lt bs).trans_le (Nat.pow_le_pow_right (by decide) (by omega))
  simp only [loadVal, joined, List.flatMap_cons, List.flatMap_nil, List.append_nil, Bool.false_eq_true, if_false]
  generalize fromBytes bs = v at hlt
  cases u with
  | false =>
    rw [if_neg Bool.false_ne_true, if_neg Bool.false_ne_true]
    exact sextN_eq _ _ (by omega) (by omega)
  | true =>
    rw [if_pos rfl, if_pos rfl]
    apply BitVec.eq_of_toNat_eq
    rw [w64, BitVec.toNat_setWidth, BitVec.toNat_ofNat, BitVec.toNat_ofNat, Nat.mod_eq_of_lt hlt]

theorem lookupKeys_ld {s : State} (g : Guard) (u : Bool) (sz : Size) (sd sa : SReg) (imm : W32)
    (h : fget? s.soft (tlbKey s.cluId) = none) :
    ∀ k ∈ lookupKeys s (.ld g u sz none sd sa imm), fget? s.soft k = none := by
  intro k hk
  simp only [lookupKeys] at hk
  split at hk
  · nomatch hk
  · split at hk
    · rwa [List.mem_singleton.mp hk]
    · nomatch hk

theorem exec_ld {s : State} {g : Guard} (u : Bool) (sz : Size) (sd sa : SReg) (imm : W32) (h : s.guarded g)
    (htlb : fget? s.soft (tlbKey s.cluId) = none) :
    exec (.ld g u sz none sd sa imm) s =
      .next (settle s ((encodeTile (.ld g u sz none sd sa imm)).getD 0) (opLd u sz none sd sa imm none s)) :=
  issue_scalar (i := .ld g u sz none sd sa imm) _ rfl (readKeys_clean h rfl rfl rfl rfl (lookupKeys_ld g u sz sd sa imm htlb)) h.1

theorem myTxs_of_none {s : State} (h : s.fabTx = []) : myTxs s s.coreId s.slotId = [] := by
  unfold myTxs
  rw [h]
  rfl

theorem askLine_cur (s : State) (line : Nat) : (askLine s line).cur = s.cur := by
  rw [askLine, addHomeReq]
  split <;> rfl

section Load

variable {s : State} {pa va n : Nat} {attr : BitVec 2}

/-- A load that has resolved to one page. -/
def pagePiece (n pa : Nat) (attr : BitVec 2) (va : Nat) : List Piece := [{ off := 0, len := n, place := .page pa attr va }]

theorem pagePiece_inPage : ∀ p ∈ pagePiece n pa attr va, p.inPage := fun _ hp => ⟨pa, attr, va, by rw [List.mem_singleton.mp hp]⟩

theorem askFor_page_asked (hattr : attr = 0#2) (hheld : hcHeld s (cluIndex s.cluId) (lineOf pa) = none) :
    askFor s (pagePiece n pa attr va) = askLine s (lineOf pa) := by
  simp [pagePiece, askFor, hattr, hheld]

theorem askFor_page_nothing (h : attr ≠ 0#2 ∨ hcHeld s (cluIndex s.cluId) (lineOf pa) ≠ none) :
    askFor s (pagePiece n pa attr va) = s := by
  have hcond : (attr = 0#2 && (hcHeld s (cluIndex s.cluId) (lineOf pa)).isNone) = false := by
    rw [Bool.and_eq_false_iff]
    exact h.imp (fun ha => decide_eq_false ha) (fun hh => by simp [Option.isNone_eq_false_iff, Option.isSome_iff_ne_none, hh])
  rw [pagePiece, askFor]
  simp only [hcond]
  rfl

/-- A load of a page parks for its reply, and asks for what it needs. -/
theorem opLd_parks {u : Bool} {sz : Size} {sd sa : SReg} {imm : W32}
    (hpage : PageAt s (askLoad 1) (.ptr (s.rS sa + imm.signExtend 64)) (sizeBytes sz) pa attr va) (htx : s.fabTx = []) :
    opLd u sz none sd sa imm none s = awaitReply (pagePiece (sizeBytes sz) pa attr va) (askFor s (pagePiece (sizeBytes sz) pa attr va)) := by
  obtain ⟨hplaced, -, -⟩ := hpage
  have hplaced : placed none s (resolve s (askLoad 1) (s.addrImm sa imm) (sizeBytes sz) 0) = .ok (pagePiece (sizeBytes sz) pa attr va) := hplaced
  rw [opLd, loadAt]
  simp only [Option.isSome_none, Bool.false_eq_true, if_false, hplaced]
  exact loadThen_parks _ rfl (unboard_pages pagePiece_inPage) (myTxs_of_none htx)

/-- The reply to a load of a page writes what it reads. -/
theorem opLd_replied {u : Bool} {sz : Size} {sd sa : SReg} {imm : W32} {l : List Byte} (r : Reply)
    (hplaces : s.me.pplaces = pagePiece (sizeBytes sz) pa attr va) (hparts : s.me.pparts = []) (hpart : s.part = none)
    (hsoft : fget? s.soft (pageWord s pa attr) = none) (htx : s.fabTx = []) (hposted : s.posted = [])
    (hread : PageReads s pa (sizeBytes sz) attr l) :
    ∃ cs, opLd u sz none sd sa imm (some r) s =
      .done ((s.withClusters cs).wS sd (loadVal u false (sizeBytes sz) [(0, slice l (pa % 128) (sizeBytes sz))])) := by
  obtain ⟨cs, hread⟩ := hread
  have hpending : pendingWord s pa = false := by
    rw [pendingWord, ownPending, hposted, htx]
    rfl
  have hpieces : piecesRead s 0 (pagePiece (sizeBytes sz) pa attr va) =
      (s.withClusters cs, some [(0, slice l (pa % 128) (sizeBytes sz))]) := by
    simp only [pagePiece, piecesRead, partRead, hparts, fget?, pieceRead, hpending, hread, Bool.false_eq_true, if_false]
  have hclean : ∀ w ∈ (pagePiece (sizeBytes sz) pa attr va).flatMap (·.words s), fget? (s.withClusters cs).soft w = none := by
    intro w hw
    have hw : w = pageWord s pa attr := by simpa [pagePiece, Piece.words] using hw
    rw [hw]
    exact hsoft
  refine ⟨cs, ?_⟩
  rw [opLd, loadAt, placed, hplaces]
  exact loadThen_replied r false _ hpart (myTxs_of_none htx) hpieces hclean (myTxs_of_none (s := s.withClusters cs) htx)

end Load

section Loaded

variable (s : State) (sd : SReg) (v : Word)

theorem wS_me : (s.wS sd v).me = s.me.wS sd v := State.setMe_me ..

theorem loaded_rS : ((s.wS sd v).gone).rS sd = if sd = 0#6 then 0#64 else v := by
  have hkept : ((s.wS sd v).gone).rS sd = (s.me.wS sd v).rS sd := by
    rw [State.gone, State.goneTo, State.rS, State.setMe_me, wS_me]
    rfl
  rw [hkept]
  split
  · next h => rw [h, Strand.rS_zero]
  · next h => rw [Strand.rS_wS _ _ _ _ h, if_pos rfl]
theorem loaded_status : ((s.wS sd v).gone).me.status = .ready := by
  rw [State.gone, State.goneTo, State.setMe_me]
theorem loaded_pc : ((s.wS sd v).gone).me.pc = s.me.pc + 8#64 := by
  rw [State.gone, State.goneTo, State.setMe_me, wS_me, Strand.wS_pc]

end Loaded

/-- Settles O24, by what each kind of page reads at the reply. -/
theorem pageLoadParksAndTheReplyCompletesIt : Obligations.PageLoadParksAndTheReplyCompletesIt := by
  intro s g u sz sd sa imm pa va attr r i n line ps held val hquiet htx hposted
  refine ⟨fun hg hpage => ?issue, fun hcur hwaits hplaces hparts hpart hsoft hcore hroom => ?reply⟩
  case issue =>
    obtain ⟨-, -, htlb⟩ := id hpage
    have hexec := exec_ld u sz sd sa imm hg htlb
    rw [opLd_parks hpage htx] at hexec
    refine ⟨fun h => ?_, fun hattr hheld => ?_⟩
    · rw [hexec, askFor_page_nothing h, settle_awaitReply _ _ rfl]
      rfl
    · rw [hexec, askFor_page_asked hattr hheld, settle_awaitReply _ _ (askLine_cur ..)]
      rfl
  case reply =>
    intro ans
    have answered : ∀ l, PageReads s pa n attr l → ans (val l) := by
      intro l hread
      obtain ⟨cs, hop⟩ := opLd_replied (u := u) (sd := sd) (sa := sa) (imm := imm) r hplaces hparts hpart hsoft htx hposted hread
      have hval := loadVal_piece u (slice l (pa % 128) n) (sizeBytes_cases sz) (List.length_take_le ..)
      have hval : loadVal u false n [(0, slice l (pa % 128) n)] = val l := hval
      rw [hval] at hop
      have hq : (s.withClusters cs).quiet := hquiet
      have hexec := accessReply_settles r hcur hwaits (f := opLd u sz none sd sa imm (some r)) rfl
      rw [hop, settle_done_gone (s := s) (s' := (s.withClusters cs).wS sd (val l)) _ rfl (quiet_wS hq sd (val l))] at hexec
      exact ⟨_, hexec, loaded_rS .., loaded_status .., loaded_pc .., rfl, rfl⟩
    have sc := fun (hattr : attr = 1#2) => answered (scLine s line).data (hattr ▸ pageReads_sc hcore hroom htx hposted)
    have cp := fun (hattr : attr = 2#2) => answered (cpFill s s.cluId line).1.data (hattr ▸ pageReads_cp hcore hroom)
    exact ⟨fun d hattr hd => answered d (hattr ▸ pageReads_delivered hd),
      fun st l hattr hnone hl => answered l (hattr ▸ pageReads_held hnone hl),
      fun l hattr hl hfresh => scLine_fresh hl hfresh ▸ sc hattr,
      fun l hattr hl hstale => scLine_stale hl hstale ▸ sc hattr,
      fun hattr hl => scLine_absent hl ▸ sc hattr,
      fun l hattr hl => cpFill_held hl ▸ cp hattr,
      fun hattr hl => cpFill_absent hl ▸ cp hattr⟩

end Sys2Proof.Machine

/-! ### Bits of a field that is replaced -/

namespace Sys2Proof.Machine

open Sys2Proof

theorem testBit_bitsN (n hi lo i : Nat) : (bitsN n hi lo).testBit i = (decide (i < hi + 1 - lo) && n.testBit (lo + i)) := by
  rw [bitsN, Nat.testBit_mod_two_pow, Nat.testBit_div_two_pow, Nat.add_comm i lo]

theorem putBits_mod {n hi lo v : Nat} (h : lo ≤ hi) : putBits n hi lo v % 2 ^ lo = n % 2 ^ lo := by
  have e : (2 : Nat) ^ (hi + 1) = 2 ^ lo * 2 ^ (hi + 1 - lo) := by rw [← Nat.pow_add]; congr 1; omega
  rw [putBits_eq n hi lo v h, e, Nat.mul_left_comm, Nat.mul_comm (v % _), ← Nat.mul_add, Nat.mul_add_mod, Nat.mod_mod]

theorem putBits_div {n hi lo v : Nat} (h : lo ≤ hi) : putBits n hi lo v / 2 ^ (hi + 1) = n / 2 ^ (hi + 1) := by
  have e : (2 : Nat) ^ (hi + 1) = 2 ^ lo * 2 ^ (hi + 1 - lo) := by rw [← Nat.pow_add]; congr 1; omega
  have hv := Nat.mod_lt v (Nat.two_pow_pos (hi + 1 - lo))
  have hlow : v % 2 ^ (hi + 1 - lo) * 2 ^ lo + n % 2 ^ lo < 2 ^ (hi + 1) := by
    calc v % 2 ^ (hi + 1 - lo) * 2 ^ lo + n % 2 ^ lo < v % 2 ^ (hi + 1 - lo) * 2 ^ lo + 2 ^ lo :=
          Nat.add_lt_add_left (Nat.mod_lt _ (Nat.two_pow_pos _)) _
      _ = (v % 2 ^ (hi + 1 - lo) + 1) * 2 ^ lo := by rw [Nat.add_mul, Nat.one_mul]
      _ ≤ 2 ^ (hi + 1 - lo) * 2 ^ lo := Nat.mul_le_mul_right _ hv
      _ = 2 ^ (hi + 1) := by rw [e, Nat.mul_comm]
  rw [putBits_eq n hi lo v h, Nat.add_assoc, Nat.mul_comm, Nat.mul_add_div (Nat.two_pow_pos _), Nat.div_eq_of_lt hlow,
    Nat.add_zero]

/-- Replacing a field changes the field's bits alone. -/
theorem testBit_putBits {n hi lo v i : Nat} (h : lo ≤ hi) :
    (putBits n hi lo v).testBit i = if lo ≤ i ∧ i ≤ hi then v.testBit (i - lo) else n.testBit i := by
  rcases Nat.lt_or_ge i lo with hl | hl
  · have hmod := congrArg (·.testBit i) (putBits_mod (n := n) (v := v) h)
    simpa [Nat.testBit_mod_two_pow, hl, Nat.not_le.mpr hl] using hmod
  · rcases Nat.lt_or_ge hi i with hh | hh
    · have hdiv := congrArg (·.testBit (i - (hi + 1))) (putBits_div (n := n) (v := v) h)
      simpa [Nat.testBit_div_two_pow, Nat.sub_add_cancel hh, Nat.not_le.mpr hh] using hdiv
    · have hfield := congrArg (·.testBit (i - lo)) (bitsN_putBits n hi lo v h)
      simp only [testBit_bitsN, Nat.testBit_mod_two_pow, Nat.add_sub_cancel' hl] at hfield
      have hw : i - lo < hi + 1 - lo := by omega
      simpa [hw, hl, hh] using hfield

/-- A field that lies apart from the one replaced reads as before. -/
theorem bitsN_putBits_apart {n hi lo v hi' lo' : Nat} (h : lo ≤ hi) (ha : hi' < lo ∨ hi < lo') :
    bitsN (putBits n hi lo v) hi' lo' = bitsN n hi' lo' := Nat.eq_of_testBit_eq fun i => by
  rw [testBit_bitsN, testBit_bitsN, testBit_putBits h]
  by_cases hi : i < hi' + 1 - lo'
  · rw [if_neg (by omega)]
  · rw [decide_eq_false hi, Bool.false_and, Bool.false_and]

theorem bitN_eq_testBit (n i : Nat) : bitN n i = n.testBit i := by
  rw [bitN, Nat.testBit_eq_decide_div_mod_eq]
  rfl

theorem putBits_lt {n hi lo v k : Nat} (h : lo ≤ hi) (hn : n < 2 ^ k) (hk : hi < k) : putBits n hi lo v < 2 ^ k :=
  Nat.lt_pow_two_of_testBit _ fun i hi => by
    rw [testBit_putBits h, if_neg (by omega)]
    exact Nat.testBit_lt_two_pow (hn.trans_le (Nat.pow_le_pow_right (by decide) hi))

end Sys2Proof.Machine

/-! ### Fields of a request record (O44; 03 R52, R53) -/

namespace Sys2Proof.Machine

open Sys2Proof

/-- A field lies within one aligned word of the 256 bytes of its record. -/
theorem rqPlace_inWord : ∀ f : Nat, f ≤ 43 →
    (rqPlace f).1 % 8 = 0 ∧ (rqPlace f).1 + 8 ≤ 256 ∧ 0 < (rqPlace f).2.2 ∧ (rqPlace f).2.1 + (rqPlace f).2.2 ≤ 64 := by
  decide

/-- Two fields of one word have no bit in common. -/
theorem rqPlace_disjoint : ∀ f : Nat, f ≤ 43 → ∀ h : Nat, h ≤ 43 → h ≠ f → (rqPlace h).1 = (rqPlace f).1 →
    (rqPlace h).2.1 + (rqPlace h).2.2 ≤ (rqPlace f).2.1 ∨ (rqPlace f).2.1 + (rqPlace f).2.2 ≤ (rqPlace h).2.1 := by
  decide

/-- The word of a record at an offset, as memory holds it. -/
def recWord (s : State) (r o : Nat) : Nat := fromBytes (readBytes s.mem (recordAt s r + o) 8)

theorem recWord_lt (s : State) (r o : Nat) : recWord s r o < 2 ^ 64 := by
  have := fromBytes_lt (readBytes s.mem (recordAt s r + o) 8)
  rwa [readBytes_length] at this

/-- Every part of the device beside memory, its lines in the caches and their errors. -/
def State.besideLines (s : State) : State :=
  { s with mem := [], clusters := [], hcx := [], l2 := [], soft := [], dirs := [], homeTxns := [] }

theorem eq_of_besideLines {α : Type} (p : State → α) (hp : ∀ s : State, p s.besideLines = p s) {s t : State}
    (h : t.besideLines = s.besideLines) : p t = p s := by
  rw [← hp t, h, hp]

theorem cohWrite_besideLines (s : State) (pa : Nat) (bs : List Byte) : (cohWrite s pa bs).besideLines = s.besideLines :=
  cohWrite_keeps State.besideLines (fun _ _ => rfl) (fun _ _ => rfl)
    (recallLine_keeps _ (fun _ _ => rfl) (fun _ _ => rfl) (fun _ _ _ => rfl) (fun _ _ => rfl) (fun _ _ => rfl) (fun _ _ => rfl))
    s pa bs

theorem rqPut_besideLines (s : State) (r f v : Nat) : (rqPut s r f v).besideLines = s.besideLines := cohWrite_besideLines ..

theorem rqPuts_besideLines (s : State) (r : Nat) (l : List (Nat × Nat)) : (rqPuts s r l).besideLines = s.besideLines := by
  induction l generalizing s with
  | nil => rfl
  | cons x l ih => rw [rqPuts, ih, rqPut_besideLines]

theorem recordAt_of_besideLines {s t : State} (h : t.besideLines = s.besideLines) (r : Nat) : recordAt t r = recordAt s r := by
  rw [recordAt, recordAt, tset, tset, eq_of_besideLines State.tset (fun _ => rfl) h]

@[simp] theorem recordAt_rqPut (s : State) (r f v q : Nat) : recordAt (rqPut s r f v) q = recordAt s q :=
  recordAt_of_besideLines (rqPut_besideLines ..) q

theorem rqGet_eq (s : State) (r f : Nat) : rqGet s r f =
    bitsN (cohNat s (recordAt s r + (rqPlace f).1) 8) ((rqPlace f).2.1 + (rqPlace f).2.2 - 1) (rqPlace f).2.1 := rfl

section Record
variable {s : State} {r f v : Nat}

theorem recordQuiet_untracked (h : RecordQuiet s r) : Untracked s (recordAt s r) 256 := h.2

theorem recordQuiet_word (h : RecordQuiet s r) (hf : f ≤ 43) : Untracked s (recordAt s r + (rqPlace f).1) 8 :=
  (recordQuiet_untracked h).part (rqPlace_inWord f hf).2.1

theorem cohNat_quiet (h : RecordQuiet s r) (hf : f ≤ 43) : cohNat s (recordAt s r + (rqPlace f).1) 8 = recWord s r (rqPlace f).1 := by
  rw [cohNat, cohRead_of_untracked (recordQuiet_word h hf), recWord]

theorem rqGet_quiet (h : RecordQuiet s r) (hf : f ≤ 43) :
    rqGet s r f = bitsN (recWord s r (rqPlace f).1) ((rqPlace f).2.1 + (rqPlace f).2.2 - 1) (rqPlace f).2.1 := by
  rw [rqGet_eq, cohNat_quiet h hf]

/-- The word of a field with the field written. -/
def wordPut (s : State) (r f v : Nat) : Nat :=
  putBits (recWord s r (rqPlace f).1) ((rqPlace f).2.1 + (rqPlace f).2.2 - 1) (rqPlace f).2.1 v

theorem wordPut_lt (hf : f ≤ 43) : wordPut s r f v < 2 ^ 64 := by
  obtain ⟨-, -, hw, hb⟩ := rqPlace_inWord f hf
  exact putBits_lt (by omega) (recWord_lt ..) (by omega)

/-- A field written to a record that lies at its home changes the field's word of memory, and no other part of the device but
the errors of that word. -/
theorem rqPut_quiet (h : RecordQuiet s r) (hf : f ≤ 43) : rqPut s r f v = (softClear s (recordAt s r + (rqPlace f).1) 8).withMem
    (writeBytes s.mem (recordAt s r + (rqPlace f).1) (toBytes 8 (wordPut s r f v))) := by
  have hput : rqPut s r f v = cohPutBytes (softClear s (recordAt s r + (rqPlace f).1) 8) (recordAt s r + (rqPlace f).1)
      (toBytes 8 (putBits (cohNat s (recordAt s r + (rqPlace f).1) 8) ((rqPlace f).2.1 + (rqPlace f).2.2 - 1) (rqPlace f).2.1 v)) := rfl
  rw [hput, cohNat_quiet h hf, cohPutBytes_of_untracked]
  · rfl
  · rw [toBytes_length]
    exact recordQuiet_word h hf

theorem recordQuiet_rqPut {q : Nat} (h : RecordQuiet s r) (hf : f ≤ 43) : RecordQuiet (rqPut s r f v) q ↔ RecordQuiet s q := by
  rw [rqPut_quiet h hf]
  exact Iff.rfl

theorem readByte_rqPut (h : RecordQuiet s r) (hf : f ≤ 43) {a : Nat}
    (ha : a < recordAt s r + (rqPlace f).1 ∨ recordAt s r + (rqPlace f).1 + 8 ≤ a) :
    readByte (rqPut s r f v).mem a = readByte s.mem a := by
  rw [rqPut_quiet h hf]
  exact readByte_writeBytes_outside _ _ _ _ (by rwa [toBytes_length])

theorem recWord_rqPut_same (h : RecordQuiet s r) (hf : f ≤ 43) : recWord (rqPut s r f v) r (rqPlace f).1 = wordPut s r f v := by
  rw [recWord, recordAt_rqPut, rqPut_quiet h hf]
  have hread := readBytes_writeBytes s.mem (recordAt s r + (rqPlace f).1) (toBytes 8 (wordPut s r f v))
  rw [toBytes_length] at hread
  exact (congrArg fromBytes hread).trans (by rw [fromBytes_toBytes, Nat.mod_eq_of_lt (wordPut_lt hf)])

theorem recWord_rqPut_apart (h : RecordQuiet s r) (hf : f ≤ 43) {o : Nat} (ho : o % 8 = 0) (hne : o ≠ (rqPlace f).1) :
    recWord (rqPut s r f v) r o = recWord s r o := by
  have hword := (rqPlace_inWord f hf).1
  rw [recWord, recordAt_rqPut, recWord, readBytes_congr fun x hl hr => readByte_rqPut h hf (by omega)]

theorem rqGet_rqPut_same (h : RecordQuiet s r) (hf : f ≤ 43) : rqGet (rqPut s r f v) r f = v % 2 ^ (rqPlace f).2.2 := by
  obtain ⟨-, -, hw, -⟩ := rqPlace_inWord f hf
  rw [rqGet_quiet ((recordQuiet_rqPut h hf).mpr h) hf, recWord_rqPut_same h hf, wordPut, bitsN_putBits _ _ _ _ (by omega)]
  congr 2
  omega

theorem rqGet_rqPut_ne (h : RecordQuiet s r) (hf : f ≤ 43) {k : Nat} (hk : k ≤ 43) (hne : k ≠ f) :
    rqGet (rqPut s r f v) r k = rqGet s r k := by
  rw [rqGet_quiet ((recordQuiet_rqPut h hf).mpr h) hk, rqGet_quiet h hk]
  by_cases ho : (rqPlace k).1 = (rqPlace f).1
  · obtain ⟨-, -, hwf, -⟩ := rqPlace_inWord f hf
    obtain ⟨-, -, hwk, -⟩ := rqPlace_inWord k hk
    have hapart := rqPlace_disjoint f hf k hk hne ho
    rw [ho, recWord_rqPut_same h hf, wordPut, bitsN_putBits_apart (by omega) (by omega)]
  · rw [recWord_rqPut_apart h hf (rqPlace_inWord k hk).1 ho]

end Record

/-- Settles O44, by the word that each field lies in. -/
theorem recordFieldsAreSeparate : Obligations.RecordFieldsAreSeparate := by
  intro s r f k v hf hk hquiet
  refine ⟨rqGet_rqPut_same hquiet hf, rqGet_rqPut_ne hquiet hf hk, fun a ha => readByte_rqPut hquiet hf ?_⟩
  have hin := (rqPlace_inWord f hf).2.1
  omega

end Sys2Proof.Machine

/-! ### RQLD, RQST, RQFLT and STEPDONE (O45; 18 R418 to R420, 19 R431) -/

namespace Sys2Proof.Machine

open Sys2Proof

section OnSlot
variable {s : State} {sa : Word} {r : Nat} {k : Nat → Res}

theorem onSlot_empty (h : slotReq s sa.toNat = none) : onSlot s sa k = .fault cRQ_STATE sa := by rw [onSlot, h]

theorem onSlot_other (h : slotReq s sa.toNat = some r) (ht : rqGet s r rqTENANT ≠ s.tenantId) : onSlot s sa k = .fault cPRIV sa := by
  rw [onSlot, h]
  exact if_pos ht

theorem onSlot_held (h : SlotHeld s sa.toNat r) : onSlot s sa k = k r := by
  obtain ⟨hreq, ht⟩ := h
  rw [onSlot, hreq]
  exact if_neg (not_not.mpr ht)

end OnSlot

/-- At its reply an operation of the Front whose words hold no soft error is performed. -/
theorem atReplyOf_replied {s : State} (rp : Reply) {words : State → List Nat} (k : State → Res)
    (h : ∀ w ∈ words s, fget? s.soft w = none) : atReplyOf (some rp) s words k = k s := by
  simp only [atReplyOf, atReply, eccScan_clean s s.cluId _ h]

/-- An operation that changes only memory, its lines and the Front keeps the issuing strand as it is. -/
theorem settle_done_beside {s t : State} (w : Word) (hcur : t.cur = s.cur) (hstrands : t.strands = s.strands) (hq : s.quiet) :
    settle s w (.done t) = t.gone := by
  refine settle_done_gone w hcur ?_
  have hme : t.me = s.me := by rw [State.me, State.me, State.meKey, State.meKey, State.at, State.at, hcur, hstrands]
  rw [State.quiet, hme]
  exact hq

theorem rqPut_strands (s : State) (r f v : Nat) : (rqPut s r f v).strands = s.strands :=
  eq_of_besideLines State.strands (fun _ => rfl) (rqPut_besideLines ..)

theorem rqPut_cur (s : State) (r f v : Nat) : (rqPut s r f v).cur = s.cur :=
  eq_of_besideLines State.cur (fun _ => rfl) (rqPut_besideLines ..)

theorem rqPut_front (s : State) (r f v : Nat) : (rqPut s r f v).front = s.front :=
  eq_of_besideLines State.front (fun _ => rfl) (rqPut_besideLines ..)

/-! The fields that RQST writes. -/

theorem rqstField_le {n : Nat} (h : rqstField n = true) : n ≤ 43 := by
  simp only [rqstField, Bool.or_eq_true, beq_iff_eq, Bool.and_eq_true, decide_eq_true_eq] at h
  omega

theorem lookupKeys_rqld (s : State) (g : Guard) (sd sa : SReg) (f : BitVec 6) : lookupKeys s (.rqld g sd sa f) = [] := by
  simp [lookupKeys, firstPtr]
theorem lookupKeys_rqst (s : State) (g : Guard) (sa sb : SReg) (f : BitVec 6) : lookupKeys s (.rqst g sa sb f) = [] := by
  simp [lookupKeys, firstPtr]
theorem lookupKeys_rqflt (s : State) (g : Guard) (sa sb : SReg) : lookupKeys s (.rqflt g sa sb) = [] := by
  simp [lookupKeys, firstPtr]
theorem lookupKeys_stepdone (s : State) (g : Guard) (sa : SReg) : lookupKeys s (.stepdone g sa) = [] := by
  simp [lookupKeys, firstPtr]

section Issued
variable {s : State} {g : Guard} {sa sb sd : SReg} {f : BitVec 6} (h : s.guarded g)
include h

theorem exec_rqld : exec (.rqld g sd sa f) s =
    .next (settle s ((encodeTile (.rqld g sd sa f)).getD 0) (opRqld sd sa f none s)) :=
  issue_scalar (i := .rqld g sd sa f) _ rfl (readKeys_clean h rfl rfl rfl rfl (lookup_nothing (lookupKeys_rqld ..))) h.1

theorem exec_rqst : exec (.rqst g sa sb f) s =
    .next (settle s ((encodeTile (.rqst g sa sb f)).getD 0) (opRqst sa sb f none s)) :=
  issue_scalar (i := .rqst g sa sb f) _ rfl (readKeys_clean h rfl rfl rfl rfl (lookup_nothing (lookupKeys_rqst ..))) h.1

theorem exec_rqflt : exec (.rqflt g sa sb) s =
    .next (settle s ((encodeTile (.rqflt g sa sb)).getD 0) (opRqflt sa sb none s)) :=
  issue_scalar (i := .rqflt g sa sb) _ rfl (readKeys_clean h rfl rfl rfl rfl (lookup_nothing (lookupKeys_rqflt ..))) h.1

theorem exec_stepdone : exec (.stepdone g sa) s =
    .next (settle s ((encodeTile (.stepdone g sa)).getD 0) (opStepdone sa s)) :=
  issue_scalar (i := .stepdone g sa) _ rfl (readKeys_clean h rfl rfl rfl rfl (lookup_nothing (lookupKeys_stepdone ..))) h.1

end Issued

/-! A fault raised on a request (03 R76, R96). -/

theorem mem_insertAsc {k a : Nat} {l : List Nat} : a ∈ insertAsc k l ↔ a = k ∨ a ∈ l := by
  induction l with
  | nil => simp [insertAsc]
  | cons b l ih =>
    rw [insertAsc]
    split
    · rw [List.mem_cons]
    · split
      · next hb => subst hb; simp
      · rw [List.mem_cons, ih, List.mem_cons]
        exact or_left_comm

theorem reqFault_besideLines (s : State) (r code : Nat) (info : Word) : (reqFault s r code info).besideLines = s.besideLines := by
  rw [reqFault, rqSetFlag, rqPut_besideLines]
  split
  · exact rqPuts_besideLines ..
  · rfl

/-- COMMIT_PENDING, once set or cleared, reads so. -/
theorem rqFlag_rqSetFlag {s : State} {r i : Nat} (b : Bool) (h : RecordQuiet s r) (hi : i < 8) :
    rqFlag (rqSetFlag s r i b) r i = b := by
  have hflag : rqGet (rqSetFlag s r i b) r rqFLAGS = putBits (rqGet s r rqFLAGS) i i (b2n b) % 2 ^ 8 :=
    rqGet_rqPut_same h (by decide)
  rw [rqFlag, hflag, bitN_eq_testBit, Nat.testBit_mod_two_pow, testBit_putBits le_rfl, if_pos ⟨le_rfl, le_rfl⟩, Nat.sub_self,
    decide_eq_true hi]
  cases b <;> rfl

theorem recordQuiet_rqPuts {s : State} {r q : Nat} {l : List (Nat × Nat)} (h : RecordQuiet s r) (hl : ∀ x ∈ l, x.1 ≤ 43) :
    RecordQuiet (rqPuts s r l) q ↔ RecordQuiet s q := by
  induction l generalizing s with
  | nil => exact Iff.rfl
  | cons x l ih =>
    have hx : x.1 ≤ 43 := hl x (List.mem_cons_self ..)
    rw [rqPuts, ih ((recordQuiet_rqPut h hx).mpr h) (fun y hy => hl y (List.mem_cons_of_mem _ hy)), recordQuiet_rqPut h hx]

/-- A field after an update of several reads as the last value written to it, else as before. -/
theorem rqGet_rqPuts {s : State} {r k : Nat} {l : List (Nat × Nat)} (h : RecordQuiet s r) (hl : ∀ x ∈ l, x.1 ≤ 43) (hk : k ≤ 43) :
    rqGet (rqPuts s r l) r k = ((l.reverse.lookup k).map (· % 2 ^ (rqPlace k).2.2)).getD (rqGet s r k) := by
  induction l generalizing s with
  | nil => rfl
  | cons x l ih =>
    obtain ⟨f, v⟩ := x
    have hf : f ≤ 43 := hl (f, v) (List.mem_cons_self ..)
    rw [rqPuts, ih ((recordQuiet_rqPut h hf).mpr h) (fun y hy => hl y (List.mem_cons_of_mem _ hy)), List.reverse_cons,
      List.lookup_append]
    cases l.reverse.lookup k with
    | some w => simp only [Option.some_or, Option.map_some, Option.getD_some]
    | none =>
      by_cases hkf : k = f
      · subst hkf
        simp [rqGet_rqPut_same h hf, List.lookup]
      · simp [rqGet_rqPut_ne h hf hk hkf, List.lookup, beq_false_of_ne hkf]

theorem rqGet_rqPuts_some {s : State} {r k v : Nat} {l : List (Nat × Nat)} (h : RecordQuiet s r) (hl : ∀ x ∈ l, x.1 ≤ 43) (hk : k ≤ 43)
    (hv : l.reverse.lookup k = some v) : rqGet (rqPuts s r l) r k = v % 2 ^ (rqPlace k).2.2 := by
  rw [rqGet_rqPuts h hl hk, hv, Option.map_some, Option.getD_some]

theorem rqGet_rqPuts_none {s : State} {r k : Nat} {l : List (Nat × Nat)} (h : RecordQuiet s r) (hl : ∀ x ∈ l, x.1 ≤ 43) (hk : k ≤ 43)
    (hv : l.reverse.lookup k = none) : rqGet (rqPuts s r l) r k = rqGet s r k := by
  rw [rqGet_rqPuts h hl hk, hv, Option.map_none, Option.getD_none]

/-- The fields of a fault on a record: its first fault is kept (R76). -/
theorem reqFault_fields {s : State} {r code : Nat} {info : Word} (h : RecordQuiet s r) (hcode : code < 2 ^ 8) :
    rqGet (reqFault s r code info) r rqFCODE = (if rqGet s r rqFCODE = 0 then code else rqGet s r rqFCODE) ∧
    rqGet (reqFault s r code info) r rqFINFO = (if rqGet s r rqFCODE = 0 then info.toNat else rqGet s r rqFINFO) ∧
    rqFlag (reqFault s r code info) r flCommit = false := by
  rw [reqFault]
  split
  case isTrue h0 =>
    have hl : ∀ x ∈ [(rqFCODE, code), (rqFINFO, info.toNat)], x.1 ≤ 43 := by simp [rqFCODE, rqFINFO]
    have hq := (recordQuiet_rqPuts h hl).mpr h
    refine ⟨?_, ?_, rqFlag_rqSetFlag _ hq (by decide)⟩
    · rw [rqSetFlag, rqGet_rqPut_ne hq (by decide) (by decide) (by decide), rqGet_rqPuts_some h hl (by decide) rfl]
      exact Nat.mod_eq_of_lt hcode
    · rw [rqSetFlag, rqGet_rqPut_ne hq (by decide) (by decide) (by decide), rqGet_rqPuts_some h hl (by decide) rfl]
      exact Nat.mod_eq_of_lt info.isLt
  case isFalse =>
    exact ⟨rqGet_rqPut_ne h (by decide) (by decide) (by decide), rqGet_rqPut_ne h (by decide) (by decide) (by decide),
      rqFlag_rqSetFlag _ h (by decide)⟩

@[simp] theorem rqGet_updFront (s : State) (f : Front → Front) (r k : Nat) : rqGet (s.updFront f) r k = rqGet s r k := rfl
@[simp] theorem rqFlag_updFront (s : State) (f : Front → Front) (r i : Nat) : rqFlag (s.updFront f) r i = rqFlag s r i := rfl

/-- What a fault on a slot's request leaves: the request's fields, and the slot's bit. -/
theorem slotFault_held {s : State} {slot r : Nat} (code : Nat) (info : Word) (h : slotReq s slot = some r) :
    ∃ at_, slotFault s slot code info = (reqFault s r code info).updFront
      (fun f => { f with faulted := insertAsc slot f.faulted, faultAt := at_ }) := by
  rw [slotFault, h]
  exact ⟨_, rfl⟩

theorem requestFieldsAreReadAndWritten : RequestFieldsAreReadAndWritten := by
  intro s g sd sa sb f r rp hg hquiet slot n v frz
  have hld := exec_rqld (sa := sa) (sd := sd) (f := f) hg
  have hst := exec_rqst (sa := sa) (sb := sb) (f := f) hg
  have hflt := exec_rqflt (sa := sa) (sb := sb) hg
  refine ⟨fun hempty => ?_, fun hreq hother => ?_, fun hheld => ?_⟩
  · rw [hld, hst, hflt, opRqld, opRqst, opRqflt, onSlot_empty hempty, onSlot_empty hempty, onSlot_empty hempty]
    exact ⟨rfl, rfl, rfl⟩
  · rw [hld, hst, hflt, opRqld, opRqst, opRqflt, onSlot_other hreq hother, onSlot_other hreq hother, onSlot_other hreq hother]
    exact ⟨rfl, rfl, rfl⟩
  have hopld (p : Option Reply) : opRqld sd sa f p s = _ := onSlot_held hheld
  have hopst (p : Option Reply) : opRqst sa sb f p s = _ := onSlot_held hheld
  have hopflt (p : Option Reply) : opRqflt sa sb p s = _ := onSlot_held hheld
  rw [hld, hst, hflt, hopld, hopst, hopflt]
  refine ⟨fun hn => ?_, fun hn => ?_, fun hn hf => ?_, fun hf hfit => ?_, fun hf hfit => ?_, rfl, fun hn hrep hsoft => ?_,
    fun hf hfit hrep hsoft => ?_, fun hrep hsoft => ?_⟩
  · rw [if_neg (Nat.not_lt.mpr hn)]
    rfl
  · rw [if_pos hn, if_pos hn]
    exact ⟨rfl, rfl⟩
  · rw [if_neg (Nat.not_lt.mpr hn), if_pos (by rw [hf]; rfl)]
    rfl
  · rw [if_neg (Nat.not_lt.mpr (rqstField_le hf)), if_neg (by rw [hf]; decide), if_pos (by rw [hfit]; rfl)]
    rfl
  · rw [if_neg (Nat.not_lt.mpr (rqstField_le hf)), if_neg (by rw [hf]; decide), if_neg (by rw [hfit]; decide)]
    rfl
  · obtain ⟨hcur, hwaits⟩ := hrep
    have hclean : ∀ w ∈ [rqWord s r n], fget? s.soft w = none := fun w hw => List.mem_singleton.mp hw ▸ hsoft
    rw [accessReply_settles rp hcur hwaits (f := opRqld sd sa f (some rp)) rfl, hopld, if_neg (Nat.not_lt.mpr hn),
      atReplyOf_replied rp _ hclean, settle_done_wS _ _ _ hquiet]
  · obtain ⟨hcur, hwaits⟩ := hrep
    have hclean : ∀ w ∈ (if (rqPlace n).2.2 = 64 then [] else [rqWord s r n]), fget? s.soft w = none := fun w hw => by
      split at hw
      · cases hw
      · exact List.mem_singleton.mp hw ▸ hsoft
    rw [accessReply_settles rp hcur hwaits (f := opRqst sa sb f (some rp)) rfl, hopst,
      if_neg (Nat.not_lt.mpr (rqstField_le hf)), if_neg (by rw [hf]; decide), if_neg (by rw [hfit]; decide),
      atReplyOf_replied rp _ hclean, settle_done_beside _ (rqPut_cur ..) (rqPut_strands ..) hquiet]
    rfl
  · obtain ⟨hscur, hwaits⟩ := hrep
    have hclean : ∀ w ∈ [rqFLAGS, rqFCODE].map (rqWord s r), fget? s.soft w = none := by simpa using hsoft
    obtain ⟨at_, hfault⟩ := slotFault_held fcRQ_PROG (s.rS sb) hheld.1
    have hbeside := reqFault_besideLines s r fcRQ_PROG (s.rS sb)
    have hstrands : (slotFault s slot fcRQ_PROG (s.rS sb)).strands = s.strands := by
      rw [hfault]
      exact eq_of_besideLines (t := reqFault s r _ _) State.strands (fun _ => rfl) hbeside
    have hcur : (slotFault s slot fcRQ_PROG (s.rS sb)).cur = s.cur := by
      rw [hfault]
      exact eq_of_besideLines (t := reqFault s r _ _) State.cur (fun _ => rfl) hbeside
    refine ⟨slotFault s slot fcRQ_PROG (s.rS sb), ?_, ?_, hstrands, fun hrec => ?_⟩
    · rw [accessReply_settles rp hscur hwaits (f := opRqflt sa sb (some rp)) rfl, hopflt, atReplyOf_replied rp _ hclean,
        settle_done_beside _ hcur hstrands hquiet]
    · rw [hfault]
      exact mem_insertAsc.mpr (.inl rfl)
    · rw [hfault, rqGet_updFront, rqGet_updFront, rqFlag_updFront]
      exact reqFault_fields hrec (by decide)

/-! STEPDONE. -/

/-- The strand of a core whose STEPDONE the Front receives is the first one that waits in it. -/
theorem stepdoneOf_first {s : State} {core n : Nat} {g : Guard} {sa : SReg} (hn : n < 8) (hw : Waits s core n .sent (.stepdone g sa))
    (hfirst : ∀ m, m < n → (s.strand core m).phase ≠ .sent) : stepdoneOf s core = some (n, (s.strand core n).rS sa) := by
  obtain ⟨-, hphase, hdec⟩ := hw
  rw [stepdoneOf, List.findSome?_eq_some_iff]
  refine ⟨List.range n, n, (List.range (7 - n)).map (· + (n + 1)), ?_, ?_, fun m hm => ?_⟩
  · have hsplit : 8 = n + (1 + (7 - n)) := by omega
    rw [hsplit, List.range_add, Nat.add_comm 1, List.range_succ_eq_map]
    simp [Function.comp_def, Nat.add_left_comm]
  · simp only [hphase, if_true, hdec]
  · simp only [hfirst m (List.mem_range.mp hm), if_false]

theorem stepdoneIsReleasedAndReceived : StepdoneIsReleasedAndReceived := by
  intro s g sa k hg hk
  have hstep := exec_stepdone (sa := sa) hg
  refine ⟨fun hres => ?_, fun hres hdue => ?_, fun core n hn hw hfirst hstepping hhalt => ?_⟩
  · rw [hstep, opStepdone, hk, Option.map_some, Option.getD_some, hres]
    rfl
  · rw [hstep, opStepdone, hk, Option.map_some, Option.getD_some, hres, if_neg (by decide), afterRelease_due _ hdue, settle_wait,
      State.parkedOn]
    have hat : ((releasedState s .dev).setMe { s.me with prel := true }).at = s.at := by
      rw [State.at, State.at, State.setMe_cur, releasedState, publish_cur]
    rw [State.coreId, State.slotId, State.coreId, State.slotId, hat]
  · intro x
    set t := if s.front.ending && x.rS sa = w64 s.front.step then
      s.updFront (fun f => { f with doneCores := insertAsc core f.doneCores }) else s with ht
    have hexec : exec (.stepdoneReceived core) s = .next (retire t core n) := by
      change execStepdoneReceived core s = _
      rw [execStepdoneReceived, stepdoneOf_first hn hw hfirst]
      rfl
    have hstrands : t.strands = s.strands := by rw [ht]; split <;> rfl
    have hmem : t.mem = s.mem := by rw [ht]; split <;> rfl
    have hx : t.strand core n = x := by rw [State.strand, hstrands]; rfl
    have hretire : retire t core n = t.setStrand core n { x.clearPark with status := .ready, pc := x.pc + 8#64 } := by
      rw [retire, retireTo_quiet _ (hx ▸ hstepping) (hx ▸ hhalt), hx]
    refine ⟨_, hexec, ?_, ?_, ?_⟩
    · rw [hretire]
      exact State.setStrand_strand ..
    · rw [hretire]
      exact hmem
    · rw [hretire, State.setStrand_front, ht]
      split
      · next hc =>
        rw [Bool.and_eq_true, decide_eq_true_eq] at hc
        exact mem_insertAsc.trans (by simp [hc])
      · next hc =>
        rw [Bool.and_eq_true, decide_eq_true_eq] at hc
        simp [hc]

/-- Settles O45. -/
theorem requestInstructionsActOnTheirSlot : Obligations.RequestInstructionsActOnTheirSlot :=
  ⟨requestFieldsAreReadAndWritten, stepdoneIsReleasedAndReceived⟩

end Sys2Proof.Machine

/-! ### A predicate that KVCOMMIT writes at the end of its copies (O48; 13 R288, 17 R380) -/

namespace Sys2Proof.Machine

open Sys2Proof

/-- KVCOMMIT of the slot, step and word in s1, s2 and s3, which answers in p1. -/
def kvcommitP1 : Instr := .kvcommit ⟨0#3, false⟩ 1#3 1#6 2#6 3#6

/-- Strand 0 of core 0 waits for the copies of a KVCOMMIT of no token for batch slot 0, whose request has an empty record at the
first byte of HBM4E. Its predicate p1, which the KVCOMMIT is to write, holds a single-bit soft error. -/
def softPredicate : State :=
  { State.reset with
    soft := [(pregKey 0 0 1, false)]
    strands := [(strandKey 0 0, { Strand.init with status := .parked, phase := .copies, pinstr := (encodeTile kvcommitP1).getD 0 })]
    front := { Front.init with slots := [(0, 0)] }
    tset := [(64 * setRQBASE, 0x10000000000#64)] }

/-- The soft errors of the state that an event leaves. -/
def softAfter : Outc → FMap Bool
  | .next t => t.soft
  | _ => []

/-- At the end of the copies the predicate is written and its error stays. -/
theorem softAfter_copiesDone : softAfter (exec (.kvcommitCopiesDone 0 0) softPredicate) = [(pregKey 0 0 1, false)] := by
  decide +kernel

/-- Refutes O48: where a commit of no token ends, the model writes the strand's predicate and leaves a soft error of it in place,
but the clause asks for the state after a write of the predicate by the issuing strand, which ends the error. -/
theorem not_acceptDecidesAndKvcommitAdvances : ¬ Obligations.AcceptDecidesAndKvcommitAdvances := by
  unfold Obligations.AcceptDecidesAndKvcommitAdvances
  rintro ⟨-, h⟩
  have hquiet : softPredicate.quiet := ⟨rfl, rfl⟩
  have hheld : SlotHeld softPredicate (softPredicate.rS 1#6).toNat 0 := ⟨rfl, by decide +kernel⟩
  obtain ⟨-, -, -, hcopies⟩ := h softPredicate ⟨0#3, false⟩ 1#3 1#6 2#6 3#6 0#10 0 { code := 0, data := [] } hquiet hheld
  have hwaits : Waits softPredicate 0 0 .copies kvcommitP1 := ⟨rfl, rfl, by decide⟩
  have hnext := hcopies rfl hwaits (by decide) (by decide +kernel) (by decide) (by decide +kernel) (by decide +kernel)
  have hsoft := congrArg softAfter hnext
  exact absurd (softAfter_copiesDone.symm.trans hsoft) (by decide +kernel)

end Sys2Proof.Machine

/-! ### Fields of registers (14 R294, R295) -/

namespace Sys2Proof.Machine

open Sys2Proof

theorem toNat_putFld (w : Word) (v : Nat) {hi lo : Nat} (h : lo ≤ hi) (hh : hi < 64) :
    (putFld w hi lo v).toNat = putBits w.toNat hi lo v := by
  rw [putFld, w64, BitVec.toNat_ofNat, Nat.mod_eq_of_lt (putBits_lt h w.isLt hh)]

/-- Setting a field of a word changes the field's bits alone. -/
theorem getLsbD_putFld (w : Word) (v : Nat) {hi lo i : Nat} (h : lo ≤ hi) (hh : hi < 64) :
    (putFld w hi lo v).getLsbD i = if lo ≤ i ∧ i ≤ hi then v.testBit (i - lo) else w.getLsbD i := by
  rw [← BitVec.testBit_toNat, toNat_putFld w v h hh, testBit_putBits h, BitVec.testBit_toNat]

theorem fld_putFld_apart (w : Word) (v : Nat) {hi lo hi' lo' : Nat} (h : lo ≤ hi) (hh : hi < 64) (ha : hi' < lo ∨ hi < lo') :
    fld (putFld w hi lo v) hi' lo' = fld w hi' lo' := by
  rw [fld, toNat_putFld w v h hh, bitsN_putBits_apart h ha, fld]

theorem fld_congr {a b : Word} {hi lo : Nat} (h : ∀ i, lo ≤ i → i ≤ hi → a.getLsbD i = b.getLsbD i) : fld a hi lo = fld b hi lo :=
  Nat.eq_of_testBit_eq fun i => by
    rw [fld, fld, testBit_bitsN, testBit_bitsN, BitVec.testBit_toNat, BitVec.testBit_toNat]
    by_cases hi : i < hi + 1 - lo
    · rw [h (lo + i) (by omega) (by omega)]
    · rw [decide_eq_false hi, Bool.false_and, Bool.false_and]

theorem regWrite_mem (s : State) (o : Nat) (w : Word) : (regWrite s o w).mem = s.mem := by rw [regWrite, regPut_mem]

theorem regWrite_strands (s : State) (o : Nat) (w : Word) : (regWrite s o w).strands = s.strands := by rw [regWrite, regPut_strands]

/-- A bit of an RW field takes the bit that software writes (01 R3). -/
theorem getLsbD_regWrite {s : State} {o i : Nat} {w : Word} (hrw : (regInfo o).rw < 2 ^ 64) (hi : (regInfo o).rw.testBit i = true) :
    (regGet (regWrite s o w) o).getLsbD i = w.getLsbD i := by
  have hi64 : i < 64 := by
    by_contra hge
    rw [Nat.testBit_lt_two_pow (hrw.trans_le (Nat.pow_le_pow_right (by decide) (Nat.not_lt.mp hge)))] at hi
    cases hi
  have hkept : (2 ^ 64 - 1 - (regInfo o).rw).testBit i = false := by
    rw [Nat.sub_sub, Nat.add_comm, Nat.testBit_two_pow_sub_succ hrw, hi, Bool.not_true, Bool.and_false]
  rw [regWrite, regGet_regPut, if_pos rfl, w64, BitVec.getLsbD_ofNat, Nat.testBit_or, Nat.testBit_and, Nat.testBit_and, Nat.testBit_and,
    hkept, hi, decide_eq_true hi64]
  simp [BitVec.testBit_toNat]

end Sys2Proof.Machine

/-! ### Doorbells (14 R295, R296) -/

namespace Sys2Proof.Machine

open Sys2Proof

/-- A release of a hardware unit at .sys raises the counts of the device and system instances (08 R179). -/
theorem unitRelease_gen (s : State) : ((unitRelease s).scope 4).gen = ((s.scope 4).gen + 1) % 2 ^ 32 ∧
    ((unitRelease s).scope 5).gen = ((s.scope 5).gen + 1) % 2 ^ 32 := by
  simp [unitRelease, genInc, State.scope, fget_fset]

section Doorbell
variable {s : State} {fn q : Nat} {v : Word}

/-- A doorbell that its queue takes: TAIL moves after a release, or ERR is set. -/
theorem exec_wqDoorbell_open (hq : q < 8192) (hen : (wqCfg s q).getLsbD 63 = true) (hfn : fn = ownerFn (wqSys s q) (wqTenant s q))
    (hreset : wqSys s q = true ∨ inReset s (wqTenant s q) = false) : exec (.wqDoorbell fn q v) s =
      if cqSize (wqCfg s q) < (fld v 31 0 + 2 ^ 32 - wqHead s q) % 2 ^ 32 ∨
          (fld v 31 0 + 2 ^ 32 - wqHead s q) % 2 ^ 32 < (wqTail s q + 2 ^ 32 - wqHead s q) % 2 ^ 32 then
        .next (regFld s (offWQ q + 8) 47 47 1)
      else .next (unitRelease (regFld s (offWQ q + 16) 63 32 (fld v 31 0))) := by
  have hopen : ¬ (8192 ≤ q ∨ fn ≠ ownerFn (wqSys s q) (wqTenant s q) ∨ ¬ (wqCfg s q).getLsbD 63 = true ∨
      (¬ wqSys s q = true ∧ inReset s (wqTenant s q) = true)) := by
    rcases hreset with h | h <;> simp [hq, hen, hfn, h]
  exact if_neg hopen

theorem exec_wqDoorbell_closed (h : ¬ ((wqCfg s q).getLsbD 63 = true ∧ fn = ownerFn (wqSys s q) (wqTenant s q) ∧
    (wqSys s q = true ∨ inReset s (wqTenant s q) = false))) : exec (.wqDoorbell fn q v) s = .next s := by
  refine if_pos ?_
  by_contra hopen
  simp only [not_or, not_not, not_and, Bool.not_eq_true] at hopen
  obtain ⟨-, hfn, hen, hreset⟩ := hopen
  refine h ⟨Bool.eq_true_of_not_eq_false hen, hfn, ?_⟩
  cases hsys : wqSys s q
  · exact .inr (hreset hsys)
  · exact .inl rfl

end Doorbell

theorem fld_low (v : Word) : fld v 31 0 = v.toNat % 2 ^ 32 := by rw [fld, bitsN, Nat.pow_zero, Nat.div_one]

theorem doorbellsMoveTail : DoorbellsMoveTail := by
  intro s fn q v hq cfg tail ahead owner open' ccfg cowner
  have htail : fld v 31 0 = tail := fld_low v
  refine ⟨fun ⟨hen, hfn, hreset⟩ hfits hforward => ?_, fun ⟨hen, hfn, hreset⟩ hbad => ?_, fun hclosed => exec_wqDoorbell_closed hclosed,
    fun hfn => ?_, fun hfn => if_pos (.inr hfn)⟩
  · refine ⟨unitRelease (regFld s (offWQ q + 16) 63 32 tail), ?_, ?_, ?_, rfl, unitRelease_gen _⟩
    · rw [exec_wqDoorbell_open hq hen hfn hreset, htail, if_neg (not_or.mpr ⟨Nat.not_lt.mpr hfits, Nat.not_lt.mpr hforward⟩)]
    · show fld (regGet (regFld s (offWQ q + 16) 63 32 tail) (offWQ q + 16)) 63 32 = tail
      rw [regGet_regFld, if_pos rfl, fld_putFld _ _ _ _ (by decide) (by decide)]
      exact Nat.mod_mod ..
    · show fld (regGet (regFld s (offWQ q + 16) 63 32 tail) (offWQ q + 16)) 31 0 = _
      rw [regGet_regFld, if_pos rfl, fld_putFld_apart _ _ (by decide) (by decide) (by decide)]
      rfl
  · refine ⟨regFld s (offWQ q + 8) 47 47 1, ?_, ?_, ?_, rfl⟩
    · rw [exec_wqDoorbell_open hq hen hfn hreset, htail, if_pos hbad]
    · rw [wqCfg, regGet_regFld, if_pos rfl, getLsbD_putFld _ _ (by decide) (by decide)]
      rfl
    · rw [wqTail, wqTail, regGet_regFld, if_neg (by omega)]
  · refine ⟨regFld s (offCQ q + 16) 31 0 (fld v 31 0), if_neg (not_or.mpr ⟨Nat.not_le.mpr hq, not_not.mpr hfn⟩), ?_, ?_, rfl⟩
    · rw [regGet_regFld, if_pos rfl, fld_putFld _ _ _ _ (by decide) (by decide), htail]
      exact Nat.mod_mod ..
    · rw [regGet_regFld, if_pos rfl, fld_putFld_apart _ _ (by decide) (by decide) (by decide)]

end Sys2Proof.Machine

/-! ### Entries of a work queue (14 R296 to R298; 03 R58, R59) -/

namespace Sys2Proof.Machine

open Sys2Proof

section Entry
variable {s : State} {q n : Nat} {e : List Byte} {ty : Nat → Bool} {k : List Byte → State → State × List (List Byte)}

/-- An entry of the type at HEAD takes effect over the state as it stands. -/
theorem onEntry_at (h : EntryAt s q e n) (hty : ty n = true) : onEntry q ty k s = .next (entryDone s q (k e s).1 (k e s).2) := by
  obtain ⟨hentry, htype, hscan⟩ := h
  simp only [onEntry, hentry, htype, hty, hscan, if_true, entryDone]

theorem onEntry_eq {u : State} {recs : List (List Byte)} (h : EntryAt s q e n) (hty : ty n = true) (hk : k e s = (u, recs)) :
    onEntry q ty k s = .next (entryDone s q u recs) := by
  rw [onEntry_at h hty, hk]

theorem onEntry_none (h : wqEntry s q = none) : onEntry q ty k s = .next s := by simp only [onEntry, h]

end Entry

/-! What the event of each entry does. -/

theorem exec_launchEntry (q : Nat) (s : State) : exec (.launchEntry q) s = execLaunchEntry q s := rfl
theorem exec_cancelEntry (q : Nat) (s : State) : exec (.cancelEntry q) s = execCancelEntry q s := rfl
theorem exec_badtypeEntry (q : Nat) (s : State) : exec (.badtypeEntry q) s = execBadtypeEntry q s := rfl
theorem exec_requestEntry (q : Nat) (s : State) : exec (.requestEntry q) s = execRequestEntry q s := rfl
theorem exec_automatonEntry (q : Nat) (s : State) : exec (.automatonEntry q) s = execAutomatonEntry q s := rfl
theorem exec_zoneEntry (q : Nat) (s : State) : exec (.zoneEntry q) s = execZoneEntry q s := rfl
theorem exec_tenantCtlEntry (q : Nat) (s : State) : exec (.tenantCtlEntry q) s = execTenantCtlEntry q s := rfl

/-! The bytes of a completion record. -/

theorem getD_toBytes (v : Nat) {n i : Nat} (h : i < n) : (toBytes n v).getD i 0 = BitVec.ofNat 8 (v / 256 ^ i) := by
  induction n generalizing v i with
  | zero => exact absurd h (Nat.not_lt_zero _)
  | succ n ih =>
    cases i with
    | zero => rw [Nat.pow_zero, Nat.div_one]; rfl
    | succ i =>
      rw [toBytes, List.getD_cons_succ, ih _ (Nat.lt_of_succ_lt_succ h), Nat.div_div_eq_div_mul, Nat.pow_succ, Nat.mul_comm]

theorem getD_recBytes (a b c d : Nat) {i : Nat} (h : i < 8) : (recBytes a b c d).getD i 0 = BitVec.ofNat 8 (a / 256 ^ i) := by
  rw [recBytes, List.append_assoc, List.append_assoc, List.getD_append _ _ _ _ (by rwa [toBytes_length]), getD_toBytes a h]

theorem slice_recBytes (a b c d : Nat) : slice (recBytes a b c d) 8 8 = toBytes 8 b := by
  rw [slice, recBytes, List.append_assoc, List.append_assoc, List.drop_left' (toBytes_length ..), List.take_left' (toBytes_length ..)]

/-- A record of KIND 0x02 to 0x06 that answers no request that has ended: two free values are used, and its bytes 0, 1 and 7 and
its TAG are as given. -/
theorem openRecord_fields (s : State) {kind reason detail : Nat} (tag id : Nat) (hkind : kind < 2 ^ 8) (hreason : reason < 2 ^ 8) :
    ∃ x : List Byte, openRecord s kind reason detail tag id = (x, { s with freeNo := s.freeNo + 2 }) ∧
      x.getD 0 0 = BitVec.ofNat 8 kind ∧ x.getD 1 0 = BitVec.ofNat 8 reason ∧ x.getD 7 0 = BitVec.ofNat 8 detail ∧
      slice x 8 8 = toBytes 8 tag := by
  have hgen : fld (Config.freeValue s.freeNo) 23 0 < 2 ^ 24 := bitsN_lt _ 23 0
  refine ⟨_, rfl, ?_, ?_, ?_, slice_recBytes ..⟩ <;> rw [getD_recBytes _ _ _ _ (by decide), ← BitVec.toNat_inj] <;>
    simp only [BitVec.toNat_ofNat] <;> omega

/-- A REQUEST entry that is rejected with a reason and a detail: the record of KIND 0x02 (R58). -/
theorem rejected_of {s : State} {q : Nat} {e : List Byte} {code detail : Nat}
    (h : exec (.requestEntry q) s = .next (entryDone s q (openRecord s 2 code detail (entWord e 0x10).toNat (entWord e 8).toNat).2
      [(openRecord s 2 code detail (entWord e 0x10).toNat (entWord e 8).toNat).1])) (hcode : code < 2 ^ 8) :
    ∃ x : List Byte, exec (.requestEntry q) s = .next (entryDone s q { s with freeNo := s.freeNo + 2 } [x]) ∧ x.getD 0 0 = 2#8 ∧
      x.getD 1 0 = BitVec.ofNat 8 code ∧ x.getD 7 0 = BitVec.ofNat 8 detail ∧ slice x 8 8 = toBytes 8 (entWord e 0x10).toNat := by
  obtain ⟨x, hx, hfields⟩ := openRecord_fields s (kind := 2) (entWord e 0x10).toNat (entWord e 8).toNat (by decide) hcode
  rw [hx] at h
  exact ⟨x, h, hfields⟩

theorem readBytes_replicate_zero (m : Memory) (a n : Nat) {i k : Nat} (h : i + k ≤ n) :
    fromBytes (readBytes (writeBytes m a (List.replicate n 0#8)) (a + i) k) = 0 := by
  have hsplit : List.replicate n 0#8 = List.replicate i 0#8 ++ (List.replicate k 0#8 ++ List.replicate (n - i - k) 0#8) := by
    rw [List.replicate_append_replicate, List.replicate_append_replicate]
    congr 1
    omega
  have hread := readBytes_writeBytes_middle m a (List.replicate i 0#8) (List.replicate k 0#8) (List.replicate (n - i - k) 0#8)
  rw [List.length_replicate, List.length_replicate] at hread
  rw [hsplit, hread]
  clear hsplit hread h
  induction k with
  | zero => rfl
  | succ k ih => rw [List.replicate_succ, fromBytes, ih]; rfl

theorem recordQuiet_withMem {s : State} {a n r : Nat} (m : Memory) : RecordQuiet ((softClear s a n).withMem m) r ↔ RecordQuiet s r := Iff.rfl

theorem recWord_withMem (s : State) (a n r o : Nat) (m : Memory) :
    recWord ((softClear s a n).withMem m) r o = fromBytes (readBytes m (recordAt s r + o) 8) := rfl

/-- Bytes written over a whole record at its home. -/
theorem cohWrite_quiet {s : State} {r : Nat} {bs : List Byte} (h : RecordQuiet s r) (hlen : bs.length = 256) :
    cohWrite s (recordAt s r) bs = (softClear s (recordAt s r) 256).withMem (writeBytes s.mem (recordAt s r) bs) := by
  rw [cohWrite, hlen, cohPutBytes_of_untracked]
  · rfl
  · rw [hlen]
    exact h.2

/-- A record of zeros at its home: every field reads 0. -/
theorem rqGet_cleared {s : State} {r : Nat} (h : RecordQuiet s r) :
    RecordQuiet (cohWrite s (recordAt s r) (List.replicate 256 0#8)) r ∧
    ∀ f, f ≤ 43 → rqGet (cohWrite s (recordAt s r) (List.replicate 256 0#8)) r f = 0 := by
  rw [cohWrite_quiet h (List.length_replicate ..)]
  have hq := (recordQuiet_withMem (a := recordAt s r) (n := 256) (writeBytes s.mem (recordAt s r) (List.replicate 256 0#8))).mpr h
  refine ⟨hq, fun f hf => ?_⟩
  rw [rqGet_quiet hq hf, recWord_withMem, readBytes_replicate_zero _ _ _ (rqPlace_inWord f hf).2.1, bitsN, Nat.zero_div, Nat.zero_mod]

/-- Every field of a request record that an entry fills is one of the record's (03 R53, R58). -/
theorem requestFields_le (s : State) (t ring : Nat) (sys : Bool) (e : List Byte) : ∀ x ∈ requestFields s t ring sys e, x.1 ≤ 43 := by
  have hfields : ∀ f ∈ (requestFields s t ring sys e).map (·.1), f ≤ 43 := by
    have hmap : (requestFields s t ring sys e).map (·.1) =
      [rqSTATE, rqTENANT, rqPRIO, rqEVCLASS, rqSLOT, rqID, rqMAXTOK, rqSTOPSET, rqKVPT, rqPFQBASE, rqPFQSIZE, rqPFQTAIL, rqTEMP, rqTOPP,
        rqTOPK, rqSEED, rqAUTO, rqASTATE, rqAGE, rqPROG, rqHIST, rqTAG, rqCQ] := rfl
    rw [hmap]
    decide
  exact fun x hx => hfields x.1 (List.mem_map_of_mem hx)

/-- A request record as an entry fills it: the fields that the entry gives, and zeros (R58). -/
theorem openedRequest_fields {s : State} {r t ring : Nat} {sys : Bool} {e : List Byte} (h : RecordQuiet s r) :
    let v := rqPuts (cohWrite s (recordAt s r) (List.replicate 256 0#8)) r (requestFields s t ring sys e)
    rqGet v r rqSTATE = stQUEUED ∧ rqGet v r rqTENANT = t % 64 ∧ rqGet v r rqID = (entWord e 8).toNat ∧
      rqGet v r rqTAG = (entWord e 0x10).toNat ∧ rqGet v r rqPFQTAIL = fld (entWord e 0x20) 63 32 ∧ rqGet v r rqPOS = 0 ∧
      rqGet v r rqGEN = 0 ∧ rqGet v r rqFCODE = 0 ∧ rqGet v r rqSLOT = 0xFFFF := by
  intro v
  obtain ⟨hq, hzero⟩ := rqGet_cleared h
  have hle := requestFields_le s t ring sys e
  have given (f : Nat) {w : Nat} (hf : f ≤ 43) (hw : (requestFields s t ring sys e).reverse.lookup f = some w) :
      rqGet v r f = w % 2 ^ (rqPlace f).2.2 := rqGet_rqPuts_some hq hle hf hw
  have left_zero (f : Nat) (hf : f ≤ 43) (hw : (requestFields s t ring sys e).reverse.lookup f = none) : rqGet v r f = 0 :=
    (rqGet_rqPuts_none hq hle hf hw).trans (hzero f hf)
  exact ⟨given rqSTATE (by decide) rfl, given rqTENANT (by decide) rfl,
    (given rqID (by decide) rfl).trans (Nat.mod_eq_of_lt (entWord e 8).isLt),
    (given rqTAG (by decide) rfl).trans (Nat.mod_eq_of_lt (entWord e 0x10).isLt),
    (given rqPFQTAIL (by decide) rfl).trans (Nat.mod_eq_of_lt (bitsN_lt _ 63 32)),
    left_zero rqPOS (by decide) rfl, left_zero rqGEN (by decide) rfl, left_zero rqFCODE (by decide) rfl,
    given rqSLOT (by decide) rfl⟩

theorem entriesAreProcessed : EntriesAreProcessed := by
  intro s u q e w r d t rejected
  refine ⟨fun hat hsub => ?launch, fun hat => ?cancel, fun hat hd => ?badtype, fun hat => ?request, fun hnone => ?none⟩
  case launch =>
    refine ((exec_launchEntry q s).trans (onEntry_at hat rfl)).trans ?_
    simp only [show submitLaunch s (wqTenant s q) _ false _ = (w, u) from hsub]
  case cancel =>
    have hexec := (exec_cancelEntry q s).trans (onEntry_at hat rfl)
    exact hexec
  case badtype =>
    have hty : (d == 0 || decide (7 ≤ d)) = true := by simpa using hd
    obtain ⟨x, hx, hkind, hreason, -⟩ := openRecord_fields { s with freeNo := s.freeNo + 2 } (kind := 2) (reason := 0x24) (detail := 0)
      (Config.freeValue s.freeNo).toNat (Config.freeValue (s.freeNo + 1)).toNat (by decide) (by decide)
    refine ⟨x, ((exec_badtypeEntry q s).trans (onEntry_at hat hty)).trans ?_, hkind, hreason⟩
    simp only [State.free, hx]
  case request =>
    have hexec := (exec_requestEntry q s).trans (onEntry_at hat rfl)
    refine ⟨fun hnone => ?_, fun hsome n hbad _ => ?_, fun hsome hbad hfree => ?_, fun hsome hbad hfree => ?_⟩
    · exact rejected_of (hexec.trans (by rw [if_pos hnone])) (by decide)
    · exact rejected_of (hexec.trans (by rw [if_neg hsome, hbad])) (by decide)
    · exact rejected_of (hexec.trans (by rw [if_neg hsome, hbad, hfree])) (by decide)
    · refine ⟨_, hexec.trans (by rw [if_neg hsome, hbad, hfree]), fun hquiet => ?_⟩
      obtain ⟨hstate, htenant, hrest⟩ := openedRequest_fields (t := t) (ring := wqRing s q) (sys := wqSys s q) (e := e) hquiet
      exact ⟨hstate, htenant.trans (Nat.mod_eq_of_lt (bitsN_lt _ 57 52)), hrest⟩
  case none => exact ⟨(exec_launchEntry q s).trans (onEntry_none hnone), (exec_requestEntry q s).trans (onEntry_none hnone),
      (exec_cancelEntry q s).trans (onEntry_none hnone), (exec_badtypeEntry q s).trans (onEntry_none hnone)⟩

/-! ### AUTOMATON, ZONE and TENANT_CTL entries (14 R297, R299; 04 R88; 09 R202) -/

theorem all_zero_iff {l : List Byte} : l.all (· == 0#8) = true ↔ ∀ b ∈ l, b = 0#8 := by simp

/-- The RW fields of a landing zone's configuration hold its enable bit, its size and its tenant. -/
theorem lzCfg_rw : (lzInfo 0).rw < 2 ^ 64 ∧ (lzInfo 0).rw.testBit 63 = true ∧
    (∀ i, i < 48 → 44 ≤ i → (lzInfo 0).rw.testBit i = true) ∧ ∀ i, i < 54 → 48 ≤ i → (lzInfo 0).rw.testBit i = true := by decide

/-- A zone's configuration as software writes it enables the zone for the tenant that it names, if its size is one there is. -/
theorem zoneFor_regWrite {s : State} {core z : Nat} {cfg : Word} (hcore : coreExists core = true) (hz : z < 4) (t : Nat)
    (ht : fld cfg 53 48 = t) : ZoneFor (regWrite s (offLZ core z) cfg) core z t ↔ cfg.getLsbD 63 = true ∧ fld cfg 47 44 ≤ 8 := by
  obtain ⟨hrw, hen, hsize, hten⟩ := lzCfg_rw
  rw [← regInfo_offLZ hcore hz] at hrw hen hsize hten
  have hbit {i : Nat} (hi : (regInfo (offLZ core z)).rw.testBit i = true) :
      (lzCfg (regWrite s (offLZ core z) cfg) core z).getLsbD i = cfg.getLsbD i := getLsbD_regWrite hrw hi
  have hsizes : fld (lzCfg (regWrite s (offLZ core z) cfg) core z) 47 44 = fld cfg 47 44 :=
    fld_congr fun i hlo hhi => hbit (hsize i (by omega) hlo)
  have htens : fld (lzCfg (regWrite s (offLZ core z) cfg) core z) 53 48 = fld cfg 53 48 :=
    fld_congr fun i hlo hhi => hbit (hten i (by omega) hlo)
  rw [ZoneFor, hbit hen, hsizes, htens]
  simp [ht]

/-- The registers of a zone as a ZONE entry writes them, its configuration last. -/
def zoneWritten (s : State) (e : List Byte) : State :=
  let o := offLZ (fld (entWord e 8) 11 0) (fld (entWord e 8) 13 12)
  regWrite (regWrite (regWrite (regWrite s (o + 8) (entWord e 0x18)) (o + 0x10) (entWord e 0x20)) (o + 0x18) (entWord e 0x28)) o
    (entWord e 0x10)

theorem zoneWritten_mem (s : State) (e : List Byte) : (zoneWritten s e).mem = s.mem := by
  simp only [zoneWritten, regWrite_mem]

theorem zoneWritten_strands (s : State) (e : List Byte) : (zoneWritten s e).strands = s.strands := by
  simp only [zoneWritten, regWrite_strands]

/-- What a ZONE entry asks for: an existing core whose slots and arrival words are the tenant's (R202). -/
def zoneFits (s : State) (t : Nat) (e : List Byte) : Bool :=
  let core := fld (entWord e 8) 11 0
  let cfg := entWord e 0x10
  coreExists core && scrOwned s core (fld (entWord e 0x18) 17 8 * 256) ((fld cfg 37 32 + 1) * 2 ^ (8 + fld cfg 47 44)) t &&
    scrOwned s core (fld (entWord e 0x20) 17 3 * 8) 512 t

section ControlEntry
variable {s : State} {q : Nat} {e : List Byte}

theorem exec_zoneEntry_priv (h : EntryAt s q e 5) (ht : fld (entWord e 0x10) 53 48 ≠ wqTenant s q) :
    exec (.zoneEntry q) s = .next (entryDone s q s (endEntry e rePRIV 0)) :=
  (exec_zoneEntry q s).trans (onEntry_eq h rfl (if_pos ht))

theorem exec_zoneEntry_bad (h : EntryAt s q e 5) (ht : fld (entWord e 0x10) 53 48 = wqTenant s q)
    (hfits : ¬ zoneFits s (wqTenant s q) e = true) : exec (.zoneEntry q) s = .next (entryDone s q s (endEntry e reBADFIELD 0)) :=
  (exec_zoneEntry q s).trans (onEntry_eq h rfl ((if_neg (not_not.mpr ht)).trans (if_pos hfits)))

theorem exec_zoneEntry_good (h : EntryAt s q e 5) (ht : fld (entWord e 0x10) 53 48 = wqTenant s q)
    (hfits : zoneFits s (wqTenant s q) e = true)
    (hoff : (lzCfg s (fld (entWord e 8) 11 0) (fld (entWord e 8) 13 12)).getLsbD 63 = false) :
    exec (.zoneEntry q) s = .next (entryDone s q (zoneWritten s e) (endEntry e 0 0)) := by
  refine (exec_zoneEntry q s).trans (onEntry_eq h rfl ((if_neg (not_not.mpr ht)).trans ((if_neg (not_not.mpr hfits)).trans ?_)))
  simp only [hoff, Bool.false_eq_true, if_false]
  rfl

theorem exec_tenantCtlEntry_priv (h : EntryAt s q e 6) (hsys : wqSys s q = false) :
    exec (.tenantCtlEntry q) s = .next (entryDone s q s (endEntry e rePRIV 0)) :=
  (exec_tenantCtlEntry q s).trans (onEntry_eq h rfl (if_pos (by rw [hsys]; decide)))

section TenantCtl
variable {u : State} (h : EntryAt s q e 6) (hsys : wqSys s q = true)
include h hsys

theorem exec_tenantCtlEntry_good (hput : putSetting s (fld (entWord e 8) 15 8) (fld (entWord e 8) 5 0) e = (u, true)) :
    exec (.tenantCtlEntry q) s = .next (entryDone s q u (endEntry e 0 0)) := by
  refine (exec_tenantCtlEntry q s).trans (onEntry_eq h rfl ((if_neg (by rw [hsys]; decide)).trans ?_))
  simp only [hput]

theorem exec_tenantCtlEntry_bad (hput : putSetting s (fld (entWord e 8) 15 8) (fld (entWord e 8) 5 0) e = (u, false)) :
    exec (.tenantCtlEntry q) s = .next (entryDone s q u (endEntry e reBADFIELD (fld (entWord e 8) 15 8))) := by
  refine (exec_tenantCtlEntry q s).trans (onEntry_eq h rfl ((if_neg (by rw [hsys]; decide)).trans ?_))
  simp only [hput]

end TenantCtl

end ControlEntry

/-- An AUTOMATON entry of another tenant, or for an automaton of another tenant, is refused (R88). -/
theorem automatonEntries {s : State} {q : Nat} {e : List Byte} (hat : EntryAt s q e 4) :
    let t := wqTenant s q
    let pa := fld (regGet s (offSERV + 0x20)) 55 0 + 64 * fld (entWord e 8) 11 0
    let now := cohNat s (pa + 0x28) 8
    let aPriv : Prop := fld (entWord e 0x68) 6 1 ≠ t ∨ (bitN now 0 = true ∧ bitsN now 6 1 ≠ t)
    let aOk : Prop := fld (entWord e 0) 31 9 = 0 ∧ fld (entWord e 0x68) 63 7 = 0 ∧ fld (entWord e 8) 63 12 = 0 ∧
      (∀ b ∈ slice e 0x10 0x30, b = 0#8) ∧ ∀ b ∈ slice e 0x70 0x10, b = 0#8
    (aPriv → exec (.automatonEntry q) s = .next (entryDone s q s (endEntry e rePRIV 0))) ∧
    (¬ aPriv → ¬ aOk → exec (.automatonEntry q) s = .next (entryDone s q s (endEntry e reBADFIELD 0))) ∧
    (¬ aPriv → aOk → exec (.automatonEntry q) s = .next (entryDone s q
      (updClusters (cohWrite s pa (slice e 0x40 64)) (fun c => { c with masks := [] })) (endEntry e 0 0))) := by
  intro t pa now aPriv aOk
  have hok : ¬ aOk ↔ (fld (entWord e 0) 31 9 ≠ 0 ∨ fld (entWord e 0x68) 63 7 ≠ 0 ∨ fld (entWord e 8) 63 12 ≠ 0 ∨
      ¬ (slice e 0x10 0x30).all (· == 0#8) = true ∨ ¬ (slice e 0x70 0x10).all (· == 0#8) = true) := by
    rw [all_zero_iff, all_zero_iff]
    simp only [aOk, not_and_or, ne_eq]
  refine ⟨fun hpriv => ?_, fun hpriv hbad => ?_, fun hpriv hgood => ?_⟩ <;> refine (exec_automatonEntry q s).trans (onEntry_eq hat rfl ?_)
  · exact if_pos hpriv
  · exact (if_neg hpriv).trans (if_pos (hok.mp hbad))
  · exact (if_neg hpriv).trans (if_neg (fun h => hok.mpr h hgood))

theorem controlEntriesWriteTheirTarget : ControlEntriesWriteTheirTarget := by
  intro s q e t w pa now ends aPriv aOk core z cfg zOk i tn
  refine ⟨fun hat => automatonEntries hat, fun hat => ?zone, fun hat => ?tenant, fun hnone => ?none⟩
  case zone =>
    have hfits : zoneFits s t e = true ↔ zOk := by
      simp only [zoneFits, Bool.and_eq_true, and_assoc]
      rfl
    refine ⟨exec_zoneEntry_priv hat, fun hten hbad => exec_zoneEntry_bad hat hten (fun h => hbad (hfits.mp h)), fun hten hgood hoff => ?_⟩
    have hz : z < 4 := bitsN_lt (w 8).toNat 13 12
    exact ⟨zoneWritten s e, exec_zoneEntry_good hat hten (hfits.mpr hgood) hoff, zoneWritten_mem s e, zoneWritten_strands s e,
      zoneFor_regWrite hgood.1 hz t hten⟩
  case tenant =>
    refine ⟨exec_tenantCtlEntry_priv hat, fun hsys hto hfail => ⟨fun hok => ?_, fun hok => ?_⟩, fun hsys hseq hlo hhi => ?_⟩
    · have hput : putSetting s i tn e = ({ s with tset := fset s.tset (64 * i + tn) (w 0x10) }, true) := by
        rw [putSetting, if_neg (not_or.mpr ⟨hto, hfail⟩), if_pos hok]
      exact ⟨_, exec_tenantCtlEntry_good hat hsys hput, congrArg BitVec.toNat (fget_fset_self ..), rfl⟩
    · have hput : putSetting s i tn e = (s, false) := by
        rw [putSetting, if_neg (not_or.mpr ⟨hto, hfail⟩), if_neg (by rw [hok]; decide)]
      exact exec_tenantCtlEntry_bad hat hsys hput
    · have hput : putSetting s i tn e = ({ s with tseq := fset s.tseq (64 * i + tn) ((List.range (fld (w 0x10) 4 0)).map
          (fun j => BitVec.ofNat 32 (fromBytes (slice e (0x18 + 4 * j) 4)))) }, true) := by
        rw [putSetting, if_pos hseq]
        exact if_pos ⟨hlo, hhi⟩
      exact ⟨_, exec_tenantCtlEntry_good hat hsys hput, rfl, fget_fset_self ..⟩
  case none =>
    exact ⟨(exec_automatonEntry q s).trans (onEntry_none hnone), (exec_zoneEntry q s).trans (onEntry_none hnone),
      (exec_tenantCtlEntry q s).trans (onEntry_none hnone)⟩

/-- Settles O59. -/
theorem theHostPortProcessesEntries : Obligations.TheHostPortProcessesEntries :=
  ⟨doorbellsMoveTail, entriesAreProcessed, controlEntriesWriteTheirTarget⟩

end Sys2Proof.Machine

/-! ### What leaves the Front's own state as it is (03 R50, R75)

Writes at homes, notices, replays, walks of units and the wake-up of waiters change neither the Front nor the tenants'
settings, and they bring no soft error where there is none. -/

namespace Sys2Proof.Machine

open Sys2Proof

/-- A state has the Front and the tenant settings of another, and no soft error where that one has none. -/
structure FrontSame (s t : State) : Prop where
  front : t.front = s.front
  tset : t.tset = s.tset
  soft : s.soft = [] → t.soft = []

namespace FrontSame

theorem refl (s : State) : FrontSame s s := ⟨rfl, rfl, id⟩

theorem trans {s t u : State} (h : FrontSame s t) (h' : FrontSame t u) : FrontSame s u :=
  ⟨h'.front.trans h.front, h'.tset.trans h.tset, fun hs => h'.soft (h.soft hs)⟩

/-- A change that leaves the Front, the settings and the soft errors. -/
theorem of_eq {s t : State} (hf : t.front = s.front) (ht : t.tset = s.tset) (hs : t.soft = s.soft) : FrontSame s t :=
  ⟨hf, ht, fun h => hs.trans h⟩

theorem foldl {α : Type} {f : State → α → State} (h : ∀ s a, FrontSame s (f s a)) (l : List α) (s : State) :
    FrontSame s (l.foldl f s) := by
  induction l generalizing s with
  | nil => exact refl s
  | cons a l ih => exact (h s a).trans (ih _)

end FrontSame

theorem filter_nil_of_nil {α : Type} {l : List α} (p : α → Bool) (h : l = []) : l.filter p = [] := by rw [h, List.filter_nil]

/-! Parts of the state. -/

section Parts
variable (s : State)

theorem frontSame_withMem (m : Memory) : FrontSame s (s.withMem m) := .of_eq rfl rfl rfl
theorem frontSame_updClu (c : Nat) (f : Cluster → Cluster) : FrontSame s (s.updClu c f) := .of_eq rfl rfl rfl
theorem frontSame_updClusters (f : Cluster → Cluster) : FrontSame s (updClusters s f) := .of_eq rfl rfl rfl
theorem frontSame_setStrand (c n : Nat) (x : Strand) : FrontSame s (s.setStrand c n x) := .of_eq rfl rfl rfl
theorem frontSame_updStrand (c n : Nat) (f : Strand → Strand) : FrontSame s (s.updStrand c n f) := .of_eq rfl rfl rfl
theorem frontSame_send (o : Out) : FrontSame s (s.send o) := .of_eq rfl rfl rfl
theorem frontSame_genInc (i : Nat) : FrontSame s (genInc s i) := .of_eq rfl rfl rfl
theorem frontSame_regPut (o : Nat) (w : Word) : FrontSame s (regPut s o w) := .of_eq (regPut_front ..) (regPut_tset ..) (regPut_soft ..)
theorem frontSame_regFld (o hi lo v : Nat) : FrontSame s (regFld s o hi lo v) := frontSame_regPut ..
theorem frontSame_unitRelease : FrontSame s (unitRelease s) := (frontSame_genInc s 4).trans (frontSame_genInc _ 5)
theorem frontSame_softClear (key n : Nat) : FrontSame s (softClear s key n) := ⟨rfl, rfl, filter_nil_of_nil _⟩
theorem frontSame_memPut (key : Nat) (bs : List Byte) : FrontSame s (memPut s key bs) :=
  (frontSame_softClear s key bs.length).trans (frontSame_withMem ..)
theorem frontSame_feSet (w : Nat) (b : Bool) : FrontSame s (feSet s w b) := .of_eq rfl rfl rfl

theorem frontSame_noteVis (core slot v : Nat) : FrontSame s (noteVis s core slot v) := by
  unfold noteVis
  split
  · exact frontSame_updStrand ..
  · exact .refl s

end Parts

/-! Soft errors that are met (13 R288). -/

theorem scanAt_nil {s : State} (h : s.soft = []) (o : Nat) (ws : List Nat) : scanAt s o ws = (s, none) := by
  induction ws with
  | nil => rfl
  | cons w ws ih => simp only [scanAt, h, fget?, ih]

theorem frontSame_eccAt (s : State) (o : Nat) (u : Bool) : FrontSame s (eccAt s o u) := by
  unfold eccAt
  dsimp only
  split
  · exact frontSame_regPut ..
  · split
    · have h := frontSame_regPut s o (putFld (regGet s o) 31 0 (min (fld (regGet s o) 31 0 + 1) (2 ^ 32 - 1)))
      exact ⟨h.front, h.tset, h.soft⟩
    · exact frontSame_regPut ..

theorem frontSame_scanAt (s : State) (o : Nat) (ws : List Nat) : FrontSame s (scanAt s o ws).1 := by
  induction ws generalizing s with
  | nil => exact .refl s
  | cons w ws ih =>
    rw [scanAt]
    split
    · exact ih s
    · refine .trans (.trans ?_ (frontSame_eccAt _ o false)) (ih _)
      exact ⟨rfl, rfl, filter_nil_of_nil _⟩
    · exact frontSame_eccAt s o true

theorem frontSame_eccScan (s : State) (clu : Nat) (ws : List Nat) : FrontSame s (eccScan s clu ws).1 := frontSame_scanAt ..

/-! Writes at homes (08 R170, R173, R180, R181). -/

theorem frontSame_softLeave (s : State) (who attr line : Nat) (back : Bool) : FrontSame s (softLeave s who attr line back) := by
  refine ⟨softLeave_keeps State.front (fun _ _ => rfl) .., softLeave_keeps State.tset (fun _ _ => rfl) .., fun h => ?_⟩
  simp only [softLeave, h, List.any_nil, Bool.false_eq_true, if_false]

theorem frontSame_hcPut (s : State) (who line : Nat) (x : Option (Moesi × List Byte)) : FrontSame s (hcPut s who line x) := by
  unfold hcPut
  split
  · exact frontSame_updClu ..
  · split <;> exact .of_eq rfl rfl rfl

theorem frontSame_recallLine (s : State) (line : Nat) : FrontSame s (recallLine s line) := by
  unfold recallLine
  dsimp only
  generalize hm : s.withMem _ = m
  have hsm : FrontSame s m := hm ▸ frontSame_withMem s _
  generalize hh : List.foldl _ m _ = u
  have hmu : FrontSame m u :=
    hh ▸ .foldl (fun t w => (frontSame_hcPut t w line none).trans (frontSame_softLeave ..)) _ _
  have h := hsm.trans hmu
  exact ⟨h.front, h.tset, h.soft⟩

theorem frontSame_cohPutByte (s : State) (pa : Nat) (b : Byte) : FrontSame s (cohPutByte s pa b) := by
  unfold cohPutByte
  split
  · exact .refl s
  · refine FrontSame.trans ?_ (frontSame_withMem ..)
    split
    · exact frontSame_recallLine ..
    · exact .refl s

theorem frontSame_cohPutBytes (s : State) (pa : Nat) (bs : List Byte) : FrontSame s (cohPutBytes s pa bs) := by
  induction bs generalizing s pa with
  | nil => exact .refl s
  | cons b bs ih => exact (frontSame_cohPutByte s pa b).trans (ih ..)

theorem frontSame_cohWrite (s : State) (pa : Nat) (bs : List Byte) : FrontSame s (cohWrite s pa bs) :=
  (frontSame_softClear s pa _).trans (frontSame_cohPutBytes ..)

theorem frontSame_cohPutNat (s : State) (pa n v : Nat) : FrontSame s (cohPutNat s pa n v) := frontSame_cohWrite ..

theorem frontSame_countConflict (s : State) (line : Nat) : FrontSame s (countConflict s line) := by
  unfold countConflict
  dsimp only
  split
  · exact (((frontSame_regPut s _ _).trans (frontSame_regPut ..)).trans (frontSame_regFld ..)).trans (frontSame_send ..)
  · exact (frontSame_regPut s _ _).trans (frontSame_regPut ..)

theorem frontSame_untrack (s : State) (line : Nat) : FrontSame s (untrack s line) := by
  unfold untrack
  split
  · exact (frontSame_recallLine s line).trans (frontSame_countConflict ..)
  · exact .refl s

theorem frontSame_homePut (s : State) (pa : Nat) (bs : List (Option Byte)) : FrontSame s (homePut s pa bs) := by
  unfold homePut
  split
  · exact .refl s
  · refine (frontSame_untrack s (lineOf pa)).trans (FrontSame.trans ?_ (frontSame_withMem ..))
    split
    · exact frontSame_softClear ..
    · exact .refl _

theorem frontSame_homePutAll (s : State) (pa : Nat) (bs : List (Option Byte)) : FrontSame s (writeAt.homePutAll s pa bs) := by
  unfold writeAt.homePutAll
  refine .foldl (fun t i => ?_) _ s
  generalize (if i = 0 then 0 else 128 * i - pa % 128) = lo
  dsimp only
  split
  · exact .refl t
  · exact frontSame_homePut ..

theorem frontSame_cpWriteBack (s : State) (line : Nat) (l : CLine) : FrontSame s (cpWriteBack s line l) := by
  unfold cpWriteBack
  split
  · exact .refl s
  · exact frontSame_homePut ..

/-! Lines that a cluster's cache takes and drops (08 R168, R170). -/

theorem frontSame_dropHc (s : State) (who line : Nat) : FrontSame s (dropHc s who line) := by
  unfold dropHc
  split
  · exact .refl s
  · next st data _ =>
    generalize hm : (if st.dirty = true then s.withMem (writeBytes s.mem (128 * line) data) else s) = m
    have hsm : FrontSame s m := by
      rw [← hm]
      split
      · exact frontSame_withMem ..
      · exact .refl s
    have hleft := hsm.trans ((frontSame_hcPut m who line none).trans (frontSame_softLeave _ who 0 line st.dirty))
    dsimp only
    split
    · exact ⟨hleft.front, hleft.tset, hleft.soft⟩
    · exact ⟨hleft.front, hleft.tset, hleft.soft⟩

theorem frontSame_dropLine (s : State) (who key : Nat) : FrontSame s (dropLine s who key) := by
  unfold dropLine
  split
  · exact frontSame_dropHc ..
  · split
    · next l _ =>
      split
      · exact frontSame_dropHc ..
      · refine FrontSame.trans ?_ ((frontSame_softLeave _ who (key % 4) (key / 4) _).trans (frontSame_updClu ..))
        split
        · exact frontSame_cpWriteBack ..
        · exact .refl s
    · exact .refl s

theorem frontSame_roomIn (s : State) (who key : Nat) : FrontSame s (roomIn s who key) := by
  unfold roomIn
  dsimp only
  generalize (if who < 192 then (s.clu (cluOfIndex who)).lines.map (·.1)
    else (s.hcx.filter (fun e => who = 192 && e.1 % 2 = 0)).map (·.1 / 2)) = keys
  generalize (if who < 192 then cluLines else sysLines) = room
  split
  · exact .refl s
  · exact .trans (t := s.free.2) (.of_eq rfl rfl rfl) (frontSame_dropLine s.free.2 _ _)

theorem frontSame_setCluLine (s : State) (clu attr line : Nat) (l : CLine) : FrontSame s (setCluLine s clu attr line l) :=
  (frontSame_roomIn s _ _).trans (frontSame_updClu ..)

theorem frontSame_cpFill (s : State) (clu line : Nat) : FrontSame s (cpFill s clu line).2 := by
  unfold cpFill
  split
  · exact .refl s
  · exact frontSame_setCluLine ..

theorem frontSame_cpWrite (s : State) (clu pa : Nat) (bs : List (Option Byte)) : FrontSame s (cpWrite s clu pa bs) :=
  (frontSame_cpFill s clu (lineOf pa)).trans (frontSame_setCluLine ..)

theorem frontSame_scUpdate (s : State) (clu pa : Nat) (bs : List (Option Byte)) : FrontSame s (scUpdate s clu pa bs) := by
  unfold scUpdate
  split
  · exact frontSame_setCluLine ..
  · exact .refl s

/-! Notices to a cluster's supervisor (13 R275). -/

theorem frontSame_noticeFull (s : State) (clu : Nat) (p : Packet) : FrontSame s (noticeFull s clu p) := by
  unfold noticeFull
  split
  · exact frontSame_regFld ..
  · exact frontSame_updClu ..

theorem frontSame_frStore (s : State) (clu n : Nat) (p : Packet) : FrontSame s (frStore s clu n p) := by
  unfold frStore
  dsimp only
  refine .trans ?_ (frontSame_send _ _)
  split
  · exact (((frontSame_cohWrite s _ _).trans (frontSame_unitRelease _)).trans (frontSame_regFld ..)).trans
      (frontSame_updClu ..)
  · exact ((frontSame_cohWrite s _ _).trans (frontSame_unitRelease _)).trans (frontSame_regFld ..)

theorem frontSame_frFill (s : State) (clu n : Nat) (ps : List Packet) : FrontSame s (frFill s clu n ps).1 := by
  induction ps generalizing s with
  | nil => exact .refl s
  | cons p ps ih =>
    rw [frFill]
    split
    · exact (frontSame_frStore s clu n p).trans (ih _)
    · split
      · exact .refl s
      · exact (frontSame_noticeFull s clu p).trans (ih _)

theorem frontSame_frStuck (s : State) (clu : Nat) (new ps : List Packet) : FrontSame s (frStuck s clu new ps).1 :=
  .foldl (fun t p => by
    split
    · exact .refl t
    · exact frontSame_noticeFull ..) ps s

theorem frontSame_frMove (s : State) (clu : Nat) (new : List Packet) (ls : List Nat) (ps : List Packet) :
    FrontSame s (frMove s clu new ls ps).1 := by
  induction ls generalizing s ps with
  | nil => exact frontSame_frStuck ..
  | cons n rest ih =>
    have hnext (t : State) (l : List Packet) : FrontSame t (if rest.any (frEnabled t clu) = true then
        frMove (t.updClu clu (fun c => { c with freezes := c.freezes.filter (fun f => f.1 != n) })) clu new rest (frPending t clu n ++ l)
        else frStuck t clu new l).1 := by
      split
      · exact (frontSame_updClu t clu _).trans (ih ..)
      · exact frontSame_frStuck ..
    rw [frMove]
    dsimp only
    split
    · have hfill := (frontSame_regFld s (offFLTSTAT clu) 1 0 n).trans (frontSame_frFill _ clu n ps)
      split
      · next h => rw [h] at hfill; exact hfill
      · next h => rw [h] at hfill; exact hfill.trans (hnext ..)
    · exact hnext s ps

theorem frontSame_heldFlush (n : Nat) (s : State) (clu : Nat) : FrontSame s (heldFlush n s clu) := by
  induction n generalizing s with
  | zero => exact .refl s
  | succ n ih =>
    rw [heldFlush]
    split
    · split
      · exact ((frontSame_updClu s clu _).trans (frontSame_frStore ..)).trans (ih _)
      · exact .refl s
    · exact .refl s

theorem frontSame_frSend (s : State) (clu : Nat) (ps : List Packet) : FrontSame s (frSend s clu ps).1 := by
  have hmove : FrontSame s (frDeliver s clu (frLevels s clu) ps).1 := frontSame_frMove ..
  unfold frSend
  dsimp only
  split
  · exact hmove
  · exact hmove.trans (frontSame_heldFlush ..)

theorem frontSame_notice (s : State) (clu : Nat) (p : Packet) : FrontSame s (notice s clu p) := by
  unfold notice
  split
  · exact frontSame_frSend ..
  · exact frontSame_updClu ..

end Sys2Proof.Machine

/-! Replays, walks of units, shootdowns and page copies leave the Front's own state (07 R153 to R162; 03 R75). -/

namespace Sys2Proof.Machine

open Sys2Proof

/-! Replays of side logs (07 R153, R155, R162). -/

theorem frontSame_slRequest (s : State) (clu tenant va core slot : Nat) (pc : Word) :
    FrontSame s (slRequest s clu tenant va core slot pc) := by
  unfold slRequest
  split
  · exact .refl s
  · exact .trans (frontSame_updClu s clu _) (frontSame_notice ..)

theorem frontSame_slBytes {f : State → Nat → List (Option Byte) → State} (h : ∀ s a b, FrontSame s (f s a b))
    (s : State) (pa : Nat) (bs : List Byte) : FrontSame s (slBytes f s pa bs) := by
  induction bs generalizing s pa with
  | nil => exact .refl s
  | cons b bs ih => exact (h s pa [some b]).trans (ih ..)

theorem frontSame_slVis (s : State) (e : SlEntry) : FrontSame s (if e.gone then s else noteVis s e.core e.slot (ccnt s + 1)) := by
  split
  · exact .refl s
  · exact frontSame_noteVis ..

theorem frontSame_slApply (clu : Nat) (t : TlbEntry) (s : State) (e : SlEntry) : FrontSame s (slApply clu t s e) := by
  unfold slApply
  dsimp only
  generalize (fun old : List Byte => match e.op with
    | .st => e.data
    | op => toBytes e.data.length (op.apply (fromBytes old) (fromBytes e.data))) = new
  split
  · exact .trans (frontSame_cohWrite s _ _) (frontSame_slVis ..)
  · split
    · refine .trans ?_ (frontSame_slVis ..)
      refine .trans ?_ (frontSame_slBytes (fun t a b => frontSame_scUpdate t clu a b) ..)
      exact .trans ((frontSame_untrack s _).trans (frontSame_untrack ..)) (frontSame_homePutAll ..)
    · exact .trans (frontSame_cpFill s clu _) (frontSame_slBytes (fun t a b => frontSame_cpWrite t clu a b) ..)

theorem frontSame_poisonIf {s u : State} {b : Option Word} (k : Nat) (h : FrontSame s u) (hb : s.soft = [] → b.isSome = false) :
    FrontSame s (if b.isSome then { u with soft := fset u.soft k true } else u) := by
  split
  · next hbad => exact ⟨h.front, h.tset, fun hs => absurd ((hb hs).symm.trans hbad) Bool.false_ne_true⟩
  · exact h

theorem frontSame_slPerform (clu : Nat) (t : TlbEntry) (s : State) (e : SlEntry) : FrontSame s (slPerform clu t s e) := by
  unfold slPerform
  split
  · exact frontSame_slApply ..
  · dsimp only
    refine frontSame_poisonIf _ ((frontSame_eccScan s clu _).trans (frontSame_slApply clu t _ e)) fun hs => ?_
    rw [eccScan, scanAt_nil hs]
    rfl

theorem frontSame_setAD (s : State) (a : Nat) (d : Bool) : FrontSame s (setAD s a d) := frontSame_cohPutNat ..

theorem frontSame_slReplay (s : State) (clu tenant gran : Nat) : FrontSame s (slReplay s clu tenant gran) := by
  unfold slReplay
  dsimp only
  split
  · exact .refl s
  · next e es _ =>
    have hscan := frontSame_eccScan s clu (walkKeys s tenant e.va)
    split
    · exact .refl s
    · split
      · refine .trans ?_ (frontSame_updClu _ _ _)
        exact (hscan.trans (frontSame_setAD ..)).trans (.foldl (fun s e => frontSame_slPerform clu _ s e) ..)
      · split
        · exact hscan.trans (frontSame_slRequest ..)
        · split
          · exact hscan
          · exact hscan.trans (.trans (frontSame_updClu _ clu _) (frontSame_notice ..))
      · exact hscan

theorem frontSame_kick (s : State) (tenant va size : Nat) : FrontSame s (kick s tenant va size) := by
  have h : FrontSame s (s.clusters.foldl (fun s c => (slGranules c.2).foldl (fun s g =>
      if g.1 = tenant ∧ (g.2 * 65536 / pageBytes size == va / pageBytes size) = true then slReplay s c.1 g.1 g.2 else s) s) s) := by
    refine .foldl (fun s c => .foldl (fun s g => ?_) _ s) _ s
    split
    · exact frontSame_slReplay ..
    · exact .refl s
  exact ⟨h.front, h.tset, h.soft⟩

/-! Walks of units, shootdowns and page copies (07 R148, R162; 03 R75). -/

theorem frontSame_unitXlate (s : State) (tenant va : Nat) (acc : AccKind) : FrontSame s (unitXlate s tenant va acc).2 := by
  unfold unitXlate
  split
  · exact frontSame_setAD ..
  · exact .refl s

theorem frontSame_unitWrite {s u : State} {tenant va : Nat} {bs : List Byte} (h : unitWrite s tenant va bs = some u) :
    FrontSame s u := by
  induction bs generalizing s va with
  | nil => exact Option.some.inj h ▸ .refl s
  | cons b bs ih =>
    rw [unitWrite] at h
    split at h
    · next pa s' hx =>
      have hs' : FrontSame s s' := by simpa only [hx] using frontSame_unitXlate s tenant va .store
      exact (hs'.trans (frontSame_cohPutByte ..)).trans (ih h)
    · exact absurd h (Option.some_ne_none _).symm

theorem frontSame_servWrite (s : State) (va : Nat) (bs : List Byte) : FrontSame s (servWrite s va bs) := by
  unfold servWrite
  cases h : unitWrite s (servTenant s) va bs with
  | none => exact .refl s
  | some u => exact frontSame_unitWrite h

theorem frontSame_bothDown (s : State) (tenant va pa size : Nat) : FrontSame s (bothDown s tenant va pa size) :=
  .of_eq rfl rfl rfl

theorem frontSame_putPtes (s : State) (tenant va : Nat) (f : Nat → Nat) : FrontSame s (putPtes s tenant va f) := by
  unfold putPtes
  split
  · exact .refl s
  · exact .foldl (fun s i => frontSame_cohPutNat ..) _ s

theorem frontSame_flushPage (s : State) (pa size : Nat) : FrontSame s (flushPage s pa size) := by
  unfold flushPage
  dsimp only
  refine .trans ?_ (frontSame_updClusters _ _)
  refine .trans (.foldl (fun s l => ?_) _ s) (.foldl (fun s c => .foldl (fun s e => ?_) _ s) _ _)
  · split
    · exact frontSame_recallLine ..
    · exact .refl s
  · split
    · exact frontSame_cpWriteBack ..
    · exact .refl s

theorem softCopy_front (s : State) (src dst n : Nat) : (softCopy s src dst n).front = s.front := by
  unfold softCopy
  refine foldl_keeps _ State.front (fun s e => ?_) _ _
  rfl

theorem softCopy_tset (s : State) (src dst n : Nat) : (softCopy s src dst n).tset = s.tset := by
  unfold softCopy
  refine foldl_keeps _ State.tset (fun s e => ?_) _ _
  rfl

theorem frontSame_softCopy (s : State) (src dst n : Nat) : FrontSame s (softCopy s src dst n) := by
  refine ⟨softCopy_front .., softCopy_tset .., fun h => ?_⟩
  simp only [softCopy, h, List.filter_nil, List.foldl_nil]

end Sys2Proof.Machine

/-! ### The publication of a step (03 R50, R70, R71; 05 R139) -/

namespace Sys2Proof.Machine

open Sys2Proof

/-! Waiters of full/empty words: where no soft error is, what they do leaves the Front as it is. -/

theorem frontSame_putReg {s : State} (hs : s.soft = []) (core slot : Nat) (r : SReg) (w : Word) :
    FrontSame s (s.putReg core slot r w) :=
  ⟨rfl, rfl, fun _ => filter_nil_of_nil _ hs⟩

theorem frontSame_boundary (s : State) (core slot : Nat) : FrontSame s (boundary s core slot) := by
  unfold boundary
  dsimp only
  split
  · exact .trans (frontSame_setStrand s core slot _) (frontSame_notice ..)
  · exact frontSame_setStrand ..

theorem frontSame_retire (s : State) (core slot : Nat) : FrontSame s (retire s core slot) :=
  .trans (frontSame_updStrand s core slot _) (frontSame_boundary ..)

theorem frontSame_dropWait (s : State) (bank core slot : Nat) : FrontSame s (dropWait s bank core slot) := .of_eq rfl rfl rfl

theorem frontSame_feData {s : State} (hs : s.soft = []) (core slot : Nat) (f : FeForm) (sd : SReg) (word : Nat) :
    FrontSame s (feData s core slot f sd word) := by
  unfold feData
  cases f with
  | ldfe => exact frontSame_putReg hs ..
  | ldff => exact frontSame_putReg hs ..
  | stef => exact frontSame_memPut ..
  | stff => exact frontSame_memPut ..
  | feq => exact frontSame_putReg hs ..
  | feset => exact .refl s

theorem frontSame_performWait {s : State} (hs : s.soft = []) (e : WaitEnt) : FrontSame s (performWait s e) := by
  have hdrop := frontSame_dropWait s (bankOf e.word) e.core e.slot
  unfold performWait
  extract_lets u
  have hu : u.soft = [] := hs
  split
  · exact hdrop.trans (frontSame_retire ..)
  · split
    · split
      · next f sd _ =>
        have hscan : (if f.readsWord then eccScan u (cluOfCore e.core) [e.word] else (u, none)) = (u, none) := by
          rw [eccScan, scanAt_nil hu, ite_self]
        rw [hscan]
        exact hdrop.trans ((frontSame_feData hu ..).trans ((frontSame_feSet ..).trans (frontSame_retire ..)))
      · exact hdrop
    · exact hdrop

theorem frontSame_passOnce {s : State} (hs : s.soft = []) (word : Nat) (l : List WaitEnt) : FrontSame s (passOnce s word l).1 := by
  induction l generalizing s with
  | nil => exact .refl s
  | cons e es ih =>
    rw [passOnce]
    split
    · have h := frontSame_performWait hs e
      exact h.trans (ih (h.soft hs))
    · exact ih hs

theorem frontSame_passes {s : State} (hs : s.soft = []) (word n : Nat) : FrontSame s (passes s word n) := by
  induction n generalizing s with
  | zero => exact .refl s
  | succ n ih =>
    have h := frontSame_passOnce hs word (waitsOf s (bankOf word))
    rw [passes]
    split
    · next t ht => rw [ht] at h; exact h.trans (ih (h.soft hs))
    · next t ht => rw [ht] at h; exact h

theorem frontSame_feChange {s : State} (hs : s.soft = []) (word : Nat) (full : Bool) : FrontSame s (feChange s word full) := by
  unfold feChange
  split
  · exact .refl s
  · exact (frontSame_feSet s word full).trans (frontSame_passes (s := feSet s word full) hs word 17)

theorem frontSame_writeStep {s : State} (hs : s.soft = []) (n clu : Nat) : FrontSame s (writeStep n s clu) := by
  have h := frontSame_memPut s (shrKey clu (fld (regGet s (offSERV + 0x30)) 21 0)) (toBytes 8 n)
  exact h.trans (frontSame_feChange (h.soft hs) ..)

theorem frontSame_writeSteps {s : State} (hs : s.soft = []) (n : Nat) (l : List Nat) : FrontSame s (l.foldl (writeStep n) s) := by
  induction l generalizing s with
  | nil => exact .refl s
  | cons c l ih =>
    have h := frontSame_writeStep hs n c
    exact h.trans (ih (h.soft hs))

/-! Publication with every slot empty. -/

/-- The Front once a step is published. -/
def Front.published (f : Front) (n : Nat) (active : List Nat) (drain : Bool) : Front :=
  { f with step := n, ending := true, doneCores := [], active := active, faulted := [], faultAt := [], plan := none, drainPub := drain }

theorem publishStep_front {s : State} {p : Plan} (hs : s.soft = []) (hslots : s.front.slots = []) :
    ∃ drain, (publishStep s p).front = s.front.published (s.front.step + 1) (p.rows.foldl (fun l r => insertAsc r.slot l) []) drain := by
  unfold publishStep
  rw [hslots, List.foldl_nil]
  extract_lets n u0 base active k fresh hdr u1 u2 u3 u4 u5
  have h3 : FrontSame s u3 := ((frontSame_servWrite s _ _).trans (frontSame_servWrite ..)).trans (frontSame_genInc ..)
  have h5 := frontSame_writeSteps (s := u5) (h3.soft hs) n (servClusters u5)
  refine ⟨servDrain u3, h5.front.trans ?_⟩
  change Front.published u3.front n active (servDrain u3) = _
  rw [h3.front]

end Sys2Proof.Machine

/-! ### Steps and pages (O54; 03 R50, R67, R70, R75, R76) -/

namespace Sys2Proof.Machine

open Sys2Proof

/-! Serving control (03 R73). -/

theorem servCtl_servFld (s : State) (hi lo v : Nat) : servCtl (servFld s hi lo v) = putFld (servCtl s) hi lo v :=
  (regGet_regFld s offSERV offSERV hi lo v).trans (if_pos rfl)

theorem getLsbD_servFld (s : State) (v i : Nat) {hi lo : Nat} (h : lo ≤ hi) (hh : hi < 64) :
    (servCtl (servFld s hi lo v)).getLsbD i = if lo ≤ i ∧ i ≤ hi then v.testBit (i - lo) else (servCtl s).getLsbD i := by
  rw [servCtl_servFld, getLsbD_putFld _ _ h hh]

theorem servBusy_servFld_busy (s : State) : servBusy (servFld s 3 3 1) = true := getLsbD_servFld s 1 3 (by decide) (by decide)

/-! Requests where no tenant has records. -/

theorem allRequests_eq_nil {s : State} (h : ∀ i, i < 64 → tset s setRQCOUNT i = 0) : allRequests s = [] := by
  refine List.flatMap_eq_nil_iff.mpr fun i hi => ?_
  rw [recordsOf, h i (List.mem_range.mp hi)]
  rfl

/-- The state with every deficit 0. -/
def State.noDeficits (s : State) : State := s.updFront (fun f => { f with deficit := [] })

/-- Admission before its first class. -/
def Admit.start : Admit := { live := [], cands := [], kept := [], fresh := [], full := false }

theorem admitLoop_noTenant (n : Nat) (s : State) {a : Admit} (h : a.live = []) : admitLoop n s a = (s, a) := by
  cases n with
  | zero => rfl
  | succ n =>
    rw [admitLoop, h]
    cases freeSlot s <;> rfl

theorem admitClass_none {s : State} (ok : State → Nat → Bool) (cls : Nat) (h : allRequests s = []) :
    admitClass ok (s, Admit.start) cls = (s.noDeficits, Admit.start) := by
  rw [admitClass, if_neg (by decide), h]
  exact admitLoop_noTenant 1 s.noDeficits (a := Admit.start) rfl

theorem admission_none {s : State} (ok : State → Nat → Bool) (h : ∀ i, i < 64 → tset s setRQCOUNT i = 0) :
    admission ok s = (s.noDeficits, []) := by
  have hall (t : State) (ht : t.tset = s.tset) : allRequests t = [] :=
    allRequests_eq_nil fun i hi => by rw [tset, ht]; exact h i hi
  have hfold : [3, 2, 1, 0].foldl (admitClass ok) (s, Admit.start) = (s.noDeficits, Admit.start) := by
    have hagain (cls : Nat) : admitClass ok (s.noDeficits, Admit.start) cls = (s.noDeficits, Admit.start) :=
      admitClass_none ok cls (hall s.noDeficits rfl)
    simp only [List.foldl_cons, List.foldl_nil, admitClass_none ok 3 (hall s rfl), hagain]
  unfold admission
  rw [← Admit.start, hfold]
  rfl

/-! A boundary with nothing to end. -/

theorem boundaryReads_quiet {s : State} (hl : s.front.leaving = []) (hs : s.soft = []) : boundaryReads s = s := by
  rw [boundaryReads, hl, List.foldl_nil, hs]
  rfl

theorem freeDead_quiet {s : State} (hp : s.front.deadPages = []) (hf : s.futures = []) :
    freeDead s = s.updFront (fun f => { f with deadSlots := [], deadPages := [] }) := by
  rw [freeDead, hp, List.foldl_nil, hf, List.map_nil, ← hf]

theorem applyCancels_quiet {s : State} (h : s.front.cancels = []) :
    applyCancels s = (s.updFront (fun f => { f with cancels := [] }), []) := by
  rw [applyCancels, h]
  rfl

theorem outcomes_quiet {s : State} (fresh : List Nat) (h : s.front.slots = []) : outcomes s fresh = s := by
  rw [outcomes, h]
  rfl

theorem writeToolEntries_quiet {s : State} (h : s.futures = []) : writeToolEntries s = s := by
  rw [writeToolEntries, h]
  rfl

theorem returns_quiet {s : State} (h : s.front.slots = []) : returns s = s := by
  rw [returns, h]
  rfl

/-- The Front after items 1 to 4 of a boundary that has nothing to end. -/
def Front.boundaryDone (f : Front) : Front := { f with ending := false, deadSlots := [], deadPages := [], cancels := [] }

theorem exec_stepBoundary_quiet {s : State} (hend : s.front.ending = true) (hact : servActive s = true) (hplan : s.front.plan = none)
    (hall : allDone s = true) (hslots : s.front.slots = []) (hcan : s.front.cancels = []) (hpages : s.front.deadPages = [])
    (hfut : s.futures = []) (hleave : s.front.leaving = []) (hsoft : s.soft = []) :
    exec .stepBoundary s = .next (if s.front.drainPub = true then
      (servFld (admission mayReturn (s.updFront Front.boundaryDone)).1 3 3 1).updFront (fun f => { f with drained := true })
      else planStep (s.updFront Front.boundaryDone)) := by
  have hexec : exec .stepBoundary s = execStepBoundary s := rfl
  rw [hexec, execStepBoundary, if_pos (by rw [hend, hact, hplan, hall]; rfl), boundaryReads_quiet (by exact hleave) (by exact hsoft),
    freeDead_quiet (by exact hpages) (by exact hfut)]
  dsimp only
  rw [applyCancels_quiet (by exact hcan)]
  dsimp only
  rw [outcomes_quiet [] (by exact hslots), writeToolEntries_quiet (by exact hfut), returns_quiet (by exact hslots)]
  have hfront : ((s.updFront fun f => { f with ending := false }).updFront (fun f => { f with deadSlots := [], deadPages := [] })).updFront
      (fun f => { f with cancels := [] }) = s.updFront Front.boundaryDone := rfl
  rw [hfront]
  split
  · next h => rw [if_pos (show s.front.drainPub = true from h)]
  · next h => rw [if_neg (show ¬ s.front.drainPub = true from h)]

/-! A step with no rows. -/

theorem rowReqs_quiet {s : State} (h : s.front.slots = []) : rowReqs s = [] := by rw [rowReqs, h]; rfl

theorem chooseRows_quiet {s : State} (h : s.front.slots = []) : chooseRows s = [] := by
  rw [chooseRows, rowReqs_quiet h]
  rfl

theorem draftScan_quiet {s : State} (h : s.front.slots = []) : draftScan s = s := by rw [draftScan, h]; rfl

theorem carryOn_done {s : State} {p : Plan} (hp : s.front.plan = some p) (ht : p.todo = []) (hm : s.front.moves = []) :
    carryOn s = publishStep s p := by
  have hmap : mapTodo (p.todo.length + 1) s = s := by rw [mapTodo, hp]; dsimp only; rw [ht]
  rw [carryOn, hp]
  dsimp only
  rw [hmap, hp]
  dsimp only
  rw [ht, hm]
  rfl

theorem planStep_quiet {s : State} (h : ∀ i, i < 64 → tset s setRQCOUNT i = 0) (hslots : s.front.slots = [])
    (hm : s.front.moves = []) (hsoft : s.soft = []) :
    ∃ drain, (planStep s).front = s.noDeficits.front.published (s.front.step + 1) [] drain := by
  have hslots' : s.noDeficits.front.slots = [] := hslots
  have heq : planStep s = carryOn (s.noDeficits.updFront (fun f => { f with plan := some { rows := [], fresh := [], todo := [] } })) := by
    rw [planStep, admission_none isCandidate h]
    dsimp only
    rw [draftScan_quiet hslots', chooseRows_quiet hslots']
    rfl
  rw [heq, carryOn_done rfl rfl (by exact hm)]
  exact publishStep_front (by exact hsoft) (by exact hslots)

/-- Serving mode as it begins to turn off (R73). -/
def State.drainEnded (s : State) : State := (servFld s 3 3 1).updFront (fun f => { f with drained := true })

theorem drainEnded_front (s : State) : s.drainEnded.front = { s.front with drained := true } := rfl

theorem drainEnded_busy (s : State) : servBusy s.drainEnded = true := servBusy_servFld_busy s

theorem drainEnded_mem (s : State) : s.drainEnded.mem = s.mem := regPut_mem s offSERV (putFld (servCtl s) 3 3 1)

/-- A boundary with nothing to end ends serving after a published DRAIN, and publishes the next step otherwise (R50, R70). -/
theorem stepBoundary_quiet {s : State} (hend : s.front.ending = true) (hact : servActive s = true) (hplan : s.front.plan = none)
    (hall : allDone s = true) (hslots : s.front.slots = []) (hcan : s.front.cancels = []) (hpages : s.front.deadPages = [])
    (hfut : s.futures = []) (hleave : s.front.leaving = []) (hsoft : s.soft = [])
    (hrq : ∀ i, i < 64 → tset s setRQCOUNT i = 0) :
    (s.front.drainPub = true → ∃ t, exec .stepBoundary s = .next t ∧ t.front.drained = true ∧ t.front.ending = false ∧
      servBusy t = true ∧ t.mem = s.mem) ∧
    (s.front.drainPub = false → s.front.moves = [] →
      ∃ t, exec .stepBoundary s = .next t ∧ t.front.step = s.front.step + 1 ∧ t.front.ending = true ∧ t.front.doneCores = [] ∧
        t.front.active = [] ∧ t.front.faulted = [] ∧ t.front.plan = none) := by
  have hexec := exec_stepBoundary_quiet hend hact hplan hall hslots hcan hpages hfut hleave hsoft
  refine ⟨fun hpub => ?_, fun hpub hm => ?_⟩
  · rw [if_pos hpub, admission_none mayReturn (by exact hrq)] at hexec
    have hfront := drainEnded_front (s.updFront Front.boundaryDone).noDeficits
    exact ⟨(s.updFront Front.boundaryDone).noDeficits.drainEnded, hexec, congrArg Front.drained hfront, congrArg Front.ending hfront,
      drainEnded_busy _, drainEnded_mem _⟩
  · rw [if_neg (by rw [hpub]; exact Bool.false_ne_true)] at hexec
    obtain ⟨drain, hfront⟩ := planStep_quiet (s := s.updFront Front.boundaryDone) (by exact hrq) (by exact hslots) (by exact hm) (by exact hsoft)
    refine ⟨_, hexec, ?_⟩
    rw [hfront]
    exact ⟨rfl, rfl, rfl, rfl, rfl, rfl⟩

end Sys2Proof.Machine

/-! ### Pages freed and moved (03 R67, R75) -/

namespace Sys2Proof.Machine

open Sys2Proof

/-- A state has the slots, the faulted-slot mask, the requests' pages and the plan of another, and its tenant settings. -/
structure RosterSame (s t : State) : Prop where
  slots : t.front.slots = s.front.slots
  faulted : t.front.faulted = s.front.faulted
  reqs : t.front.reqs = s.front.reqs
  plan : t.front.plan = s.front.plan
  tset : t.tset = s.tset

namespace RosterSame

theorem refl (s : State) : RosterSame s s := ⟨rfl, rfl, rfl, rfl, rfl⟩

theorem trans {s t u : State} (h : RosterSame s t) (h' : RosterSame t u) : RosterSame s u :=
  ⟨h'.slots.trans h.slots, h'.faulted.trans h.faulted, h'.reqs.trans h.reqs, h'.plan.trans h.plan, h'.tset.trans h.tset⟩

theorem of_front {s t : State} (h : FrontSame s t) : RosterSame s t :=
  ⟨congrArg Front.slots h.front, congrArg Front.faulted h.front, congrArg Front.reqs h.front, congrArg Front.plan h.front, h.tset⟩

theorem foldl {α : Type} {f : State → α → State} (h : ∀ s a, RosterSame s (f s a)) (l : List α) (s : State) :
    RosterSame s (l.foldl f s) := by
  induction l generalizing s with
  | nil => exact refl s
  | cons a l ih => exact (h s a).trans (ih _)

theorem frontReq_eq {s t : State} (h : RosterSame s t) (r : Nat) : frontReq t r = frontReq s r := by rw [frontReq, frontReq, h.reqs]

theorem tset_eq {s t : State} (h : RosterSame s t) (i k : Nat) : Machine.tset t i k = Machine.tset s i k := by
  rw [Machine.tset, Machine.tset, h.tset]

end RosterSame

theorem pushFree_front_eq (s : State) (pa : Nat) :
    (pushFree s pa).front = if (servActive s || servBusy s) = true then { s.front with free := pa :: s.front.free } else s.front := by
  unfold pushFree
  split
  · rfl
  · exact ((frontSame_cohPutNat s _ _ _).trans (frontSame_regFld ..)).front

theorem rosterSame_pushFree (s : State) (pa : Nat) : RosterSame s (pushFree s pa) := by
  unfold pushFree
  split
  · exact ⟨rfl, rfl, rfl, rfl, rfl⟩
  · exact .of_front ((frontSame_cohPutNat s _ _ _).trans (frontSame_regFld ..))

theorem pushFree_moves (s : State) (pa : Nat) : (pushFree s pa).front.moves = s.front.moves := by
  rw [pushFree_front_eq]
  split <;> rfl

theorem rosterSame_freePage (tenant : Nat) (s : State) (p : KvPage) : RosterSame s (freePage tenant s p) := by
  have h := (frontSame_putPtes s tenant (winVa s tenant p.win) (fun _ => 0)).trans
    (frontSame_bothDown _ tenant (winVa s tenant p.win) p.pa 0)
  have h' := RosterSame.of_front h
  exact ⟨h'.slots, h'.faulted, h'.reqs, h'.plan, h'.tset⟩

theorem rosterSame_startMove (s : State) (r idx dst : Nat) (spill : Bool) (p : KvPage) :
    RosterSame s (startMove s r idx dst spill p) := by
  have h := ((frontSame_putPtes s (reqTenant r) (winVa s (reqTenant r) p.win) migPte).trans (frontSame_genInc _ 4)).trans
    (frontSame_bothDown _ (reqTenant r) (winVa s (reqTenant r) p.win) p.pa 0)
  have h' := RosterSame.of_front h
  exact ⟨h'.slots, h'.faulted, h'.reqs, h'.plan, h'.tset⟩

theorem rosterSame_spillOut (s : State) (r : Nat) (ps : List (Nat × KvPage)) : RosterSame s (spillOut s r ps) :=
  .foldl (fun _ _ => rosterSame_startMove ..) _ s

theorem rosterSame_dropMoves (s : State) (mine : PageMove → Bool) : RosterSame s (dropMoves s mine) := by
  unfold dropMoves
  refine .trans (t := s.updFront (fun f => { f with moves := f.moves.filter (fun m => !mine m) })) ⟨rfl, rfl, rfl, rfl, rfl⟩
    (.foldl (fun s m => ?_) _ _)
  split
  · exact .refl s
  · exact rosterSame_pushFree ..

theorem rosterSame_undoMoves (s : State) (r : Nat) : RosterSame s (undoMoves s r) := by
  unfold undoMoves
  refine (rosterSame_dropMoves s _).trans (.foldl (fun s m => ?_) _ _)
  split
  · exact .of_front (((frontSame_putPtes s ..).trans (frontSame_genInc ..)).trans (frontSame_kick ..))
  · exact .refl s

theorem dropMoves_none {s : State} (mine : PageMove → Bool) (h : s.front.moves = []) : dropMoves s mine = s := by
  have hsame : s.updFront (fun f => { f with moves := f.moves.filter (fun m => !mine m) }) = s := by
    have : ({ s.front with moves := s.front.moves.filter (fun m => !mine m) } : Front) = s.front := by
      rw [h, List.filter_nil, ← h]
    rw [State.updFront, this]
  rw [dropMoves, h, hsame]
  rfl

theorem undoMoves_none {s : State} (r : Nat) (h : s.front.moves = []) : undoMoves s r = s := by
  rw [undoMoves, dropMoves_none _ h, h]
  rfl

/-! The pages that the Front notes of a request. -/

theorem fget_noneIf {m : FMap FrontReq} (r : Nat) (x : FrontReq) :
    fget { pages := [], rebuild := none } (if (x.pages.isEmpty && x.rebuild.isNone) = true then fdel m r else fset m r x) r = x := by
  split
  · next h =>
    obtain ⟨pages, rebuild⟩ := x
    obtain ⟨hp, hr⟩ := (Bool.and_eq_true ..).mp h
    obtain rfl := List.isEmpty_iff.mp hp
    obtain rfl := Option.isNone_iff_eq_none.mp hr
    rw [fget_fdel, if_pos rfl]
  · exact fget_fset_self ..

@[simp] theorem frontReq_setFrontReq (s : State) (r : Nat) (x : FrontReq) : frontReq (setFrontReq s r x) r = x := fget_noneIf r x

theorem rosterSame_rqPut (s : State) (r f v : Nat) : RosterSame s (rqPut s r f v) := by
  have h := rqPut_front s r f v
  exact ⟨by rw [h], by rw [h], by rw [h], by rw [h], eq_of_besideLines State.tset (fun _ => rfl) (rqPut_besideLines ..)⟩

theorem rosterSame_rqPuts (s : State) (r : Nat) (l : List (Nat × Nat)) : RosterSame s (rqPuts s r l) := by
  have h : (rqPuts s r l).front = s.front := eq_of_besideLines State.front (fun _ => rfl) (rqPuts_besideLines ..)
  exact ⟨by rw [h], by rw [h], by rw [h], by rw [h], eq_of_besideLines State.tset (fun _ => rfl) (rqPuts_besideLines ..)⟩

theorem rosterSame_rqSetFlag (s : State) (r i : Nat) (b : Bool) : RosterSame s (rqSetFlag s r i b) := rosterSame_rqPut ..

/-- Once its pages are freed, a request has none. -/
theorem freePages_roster (s : State) (r : Nat) :
    RosterSame (setFrontReq s r { frontReq s r with pages := [] }) (freePages s r) := by
  have hd := rosterSame_dropMoves s (fun m => m.req == r)
  unfold freePages
  extract_lets x0 u x v
  refine .trans ?_ (rosterSame_rqPut v r _ _)
  refine .trans ?_ (.foldl (fun s p => rosterSame_freePage (reqTenant r) s p) _ _)
  have hx : x = x0 := hd.frontReq_eq r
  rw [hx]
  refine ⟨hd.slots, hd.faulted, ?_, hd.plan, hd.tset⟩
  exact congrArg (fun m => if (([] : List KvPage).isEmpty && (frontReq s r).rebuild.isNone) = true then fdel m r
    else fset m r { frontReq s r with pages := [] }) hd.reqs

theorem frontReq_freePages (s : State) (r : Nat) : frontReq (freePages s r) r = { frontReq s r with pages := [] } := by
  rw [(freePages_roster s r).frontReq_eq, frontReq_setFrontReq]

end Sys2Proof.Machine

/-! ### A page's copy, a page's freeing and a faulted slot's bit end (O54; 03 R67, R75, R76) -/

namespace Sys2Proof.Machine

open Sys2Proof

theorem carryOn_noPlan {s : State} (h : s.front.plan = none) : carryOn s = s := by rw [carryOn, h]

/-- What a move leaves of a request's pages once its copy has ended. -/
def FrontReq.moved (x : FrontReq) (m : PageMove) (p : KvPage) : FrontReq :=
  { x with pages := x.pages.set m.idx { p with pa := m.dst, spill := m.spill } }

/-- The end of a move past the request's new page: the old one rejoins the pool, and SPILLED is set or cleared after the last. -/
def State.moveClosed (s : State) (m : PageMove) (pa : Nat) : State :=
  let t := if m.spill then pushFree s pa else s
  if t.front.moves.any (·.req == m.req) then t else rqSetFlag t m.req flSpilled m.spill

theorem moveClosed_roster (s : State) (m : PageMove) (pa : Nat) : RosterSame s (s.moveClosed m pa) := by
  have hfree : RosterSame s (if m.spill then pushFree s pa else s) := by
    split
    · exact rosterSame_pushFree ..
    · exact .refl s
  unfold State.moveClosed
  extract_lets t
  split
  · exact hfree
  · exact hfree.trans (rosterSame_rqSetFlag ..)

theorem moveClosed_moves (s : State) (m : PageMove) (pa : Nat) : (s.moveClosed m pa).front.moves = s.front.moves := by
  have hfree : (if m.spill then pushFree s pa else s).front.moves = s.front.moves := by
    split
    · exact pushFree_moves ..
    · rfl
  unfold State.moveClosed
  extract_lets t
  split
  · exact hfree
  · exact (congrArg Front.moves (rqPut_front ..)).trans hfree

/-- The end of a move: the page's copy keeps the Front, which then notes the new page. -/
theorem endMove_eq {s : State} {m : PageMove} {p : KvPage} (hp : (frontReq s m.req).pages[m.idx]? = some p) :
    ∃ u, FrontSame (s.updFront (fun f => { f with moves := f.moves.filter (·.id != m.id) })) u ∧
      endMove s m = (setFrontReq u m.req ((frontReq s m.req).moved m p)).moveClosed m p.pa := by
  unfold endMove
  extract_lets x t u0
  rw [hp]
  refine ⟨_, ?_, rfl⟩
  refine .trans ?_ (frontSame_kick ..)
  refine .trans ?_ (frontSame_genInc ..)
  refine .trans ?_ (frontSame_putPtes ..)
  exact (frontSame_flushPage u0 ..).trans ((frontSame_softCopy ..).trans (frontSame_withMem ..))

/-- A page moved takes its new place (R67, R75). -/
theorem kvSpillCopyDone_moves {s : State} {m : PageMove} {p : KvPage} (hm : s.front.moves = [m]) (hplan : s.front.plan = none)
    (hd : drained s m.ids = true) (hp : (frontReq s m.req).pages[m.idx]? = some p) :
    ∃ t, exec (.kvSpillCopyDone m.id) s = .next t ∧ t.front.moves = [] ∧
      (frontReq t m.req).pages[m.idx]? = some { p with pa := m.dst, spill := m.spill } := by
  obtain ⟨u, hu, heq⟩ := endMove_eq hp
  have hroster := moveClosed_roster (setFrontReq u m.req ((frontReq s m.req).moved m p)) m p.pa
  have hfind : s.front.moves.find? (·.id == m.id) = some m := by rw [hm]; simp
  have hexec : exec (.kvSpillCopyDone m.id) s = .next (carryOn (endMove s m)) := by
    have h : exec (.kvSpillCopyDone m.id) s = execKvSpillCopyDone m.id s := rfl
    rw [h, execKvSpillCopyDone, hfind]
    exact if_pos hd
  have hmoves : (endMove s m).front.moves = [] := by
    rw [heq, moveClosed_moves]
    refine (congrArg Front.moves hu.front).trans ?_
    change s.front.moves.filter (·.id != m.id) = []
    rw [hm]
    simp
  have hnone : (endMove s m).front.plan = none := by
    rw [heq, hroster.plan]
    exact (congrArg Front.plan hu.front).trans hplan
  refine ⟨_, hexec, ?_, ?_⟩ <;> rw [carryOn_noPlan hnone]
  · exact hmoves
  · rw [heq, hroster.frontReq_eq, frontReq_setFrontReq]
    exact List.getElem?_set_self (List.getElem?_eq_some_iff.mp hp).1

/-- A page freed rejoins the free pool, unless it is a spill page (R75). -/
theorem kvPageFreeDone_frees {s : State} {x : PageFree} (hx : s.front.frees = [x]) (hplan : s.front.plan = none)
    (hd : drained s x.ids = true) (hact : servActive s = true) :
    ∃ t, exec (.kvPageFreeDone x.id) s = .next t ∧ t.front.frees = [] ∧ t.mem = s.mem ∧
      t.front.free = if x.page.spill = true then s.front.free else x.page.pa :: s.front.free := by
  have hfind : s.front.frees.find? (·.id == x.id) = some x := by rw [hx]; simp
  have hfrees : s.front.frees.filter (·.id != x.id) = [] := by rw [hx]; simp
  have hexec : exec (.kvPageFreeDone x.id) s = .next (carryOn (freeDone s x)) := by
    have h : exec (.kvPageFreeDone x.id) s = execKvPageFreeDone x.id s := rfl
    rw [h, execKvPageFreeDone, hfind]
    exact if_pos hd
  have hdone : freeDone s x = s.updFront (fun f => { f with
      frees := f.frees.filter (·.id != x.id), free := if x.page.spill = true then f.free else x.page.pa :: f.free }) := by
    unfold freeDone
    extract_lets u
    have hu : servActive u = true := hact
    split
    · rfl
    · rw [pushFree, if_pos (by rw [hu]; rfl)]
      rfl
  rw [hdone, carryOn_noPlan (by exact hplan)] at hexec
  exact ⟨_, hexec, hfrees, rfl, rfl⟩

theorem rqGet_updClu_quiet {s : State} {r k : Nat} (c : Nat) (f : Cluster → Cluster) (h : RecordQuiet s r) (hk : k ≤ 43) :
    rqGet (s.updClu c f) r k = rqGet s r k := by
  have h' : RecordQuiet (s.updClu c f) r := h
  rw [rqGet_quiet h' hk, rqGet_quiet h hk]
  rfl

/-- A faulted slot's bit reaches a cluster, and clears what an ACCEPT has set since (R76, R96). -/
theorem faultedSlotArrival_sets {s : State} {slot : Nat} (clu : Nat) (h : slot ∈ s.front.faulted) :
    ∃ t, exec (.faultedSlotArrival clu slot) s = .next t ∧ slotMasked t clu slot = true ∧ t.strands = s.strands ∧
      (slotReq s slot = none → t.mem = s.mem) ∧
      ∀ r, slotReq s slot = some r → RecordQuiet s r → rqFlag t r flCommit = false := by
  have hexec : exec (.faultedSlotArrival clu slot) s = execFaultedSlotArrival clu slot s := rfl
  rw [execFaultedSlotArrival, if_pos (List.contains_iff_mem.mpr h)] at hexec
  have hmask (u : State) : slotMasked (u.updClu clu (fun c => { c with fslots := insertAsc slot c.fslots })) clu slot = true := by
    rw [slotMasked, State.clu, State.updClu, State.setClu, fget_fset_self]
    exact List.contains_iff_mem.mpr (mem_insertAsc.mpr (Or.inl rfl))
  refine ⟨_, hexec, hmask _, ?_, ?_, ?_⟩
  · cases slotReq s slot with
    | none => rfl
    | some r => exact rqPut_strands ..
  · intro hnone
    rw [hnone]
    rfl
  · intro r hr hq
    rw [hr]
    have hq' : RecordQuiet (rqSetFlag s r flCommit false) r := (recordQuiet_rqPut hq (by decide)).mpr hq
    rw [rqFlag, rqGet_updClu_quiet _ _ hq' (by decide)]
    exact rqFlag_rqSetFlag false hq (by decide)

theorem stepsAndPages : StepsAndPages := by
  intro s m x p clu slot f quietFront
  refine ⟨?boundary, ?idle, ?moved, ?freed, ?faulted, ?healthy⟩
  case boundary =>
    rintro hend hact hplan hall ⟨hslots, hcan, _, hpages, hfut, _, hleave, hsoft⟩ hrq
    exact stepBoundary_quiet hend hact hplan hall hslots hcan hpages hfut hleave hsoft hrq
  case idle =>
    intro h
    have hexec : exec .stepBoundary s = execStepBoundary s := rfl
    rw [hexec, execStepBoundary, if_neg]
    rcases h with h | h
    · rw [show s.front.ending = false from h, Bool.false_and, Bool.false_and, Bool.false_and]
      decide
    · rw [h, Bool.and_false]
      decide
  case moved => exact kvSpillCopyDone_moves
  case freed => exact kvPageFreeDone_frees
  case faulted => exact faultedSlotArrival_sets clu
  case healthy =>
    intro h
    have hexec : exec (.faultedSlotArrival clu slot) s = execFaultedSlotArrival clu slot s := rfl
    rw [hexec, execFaultedSlotArrival, if_neg (fun hc => h (List.contains_iff_mem.mp hc))]

end Sys2Proof.Machine

/-! ### Serving control and deferred records (O54; 03 R73, R74, R110) -/

namespace Sys2Proof.Machine

open Sys2Proof

/-! GO, and the activation that follows it (R74). -/

theorem exec_servectlGo_refused {s : State} (hr : fnReady s 28 = true) (hg : goRefused s = true) :
    exec .servectlGo s = .next (servFld s 4 4 1) := by
  have h : exec .servectlGo s = execServectlGo s := rfl
  rw [h, execServectlGo, if_neg (by rw [hr]; decide), if_pos hg]

/-- Serving mode while it turns on: BUSY set, the free pool read, the step words of every masked cluster emptied, and the
resident descriptor scanned. -/
def State.goBegun (s : State) : State :=
  let pool := (List.range (kvFreeCnt s)).map (fun i => bitsN (cohNat s (kvFreeBase s + 8 * i) 8) 55 16 * 65536)
  let s1 := (servFld s 3 3 1).updFront (fun f => { f with free := pool.reverse })
  let off := regGet s1 (offSERV + 0x30)
  let words := fld off 21 0 :: (List.range 16).map (fun c => fld off 53 32 + 8 * c)
  (servClusters s1).foldl (fun s c => words.foldl (emptyWord c) s) s1

section Go
variable {s : State} (hr : fnReady s 28 = true) (hg : goRefused s = false)
include hr hg

theorem exec_servectlGo_unread
    (hread : unitRead (unitScan s.goBegun (servTenant s.goBegun) (tset s.goBegun setRESIDENT (servTenant s.goBegun)) 64)
      (servTenant s.goBegun) (tset (unitScan s.goBegun (servTenant s.goBegun) (tset s.goBegun setRESIDENT (servTenant s.goBegun)) 64)
        setRESIDENT (servTenant s.goBegun)) 64 = none) :
    exec .servectlGo s = .next (goFailed
      (unitScan s.goBegun (servTenant s.goBegun) (tset s.goBegun setRESIDENT (servTenant s.goBegun)) 64)) := by
  have h : exec .servectlGo s = execServectlGo s := rfl
  rw [h, execServectlGo, if_neg (by rw [hr]; decide), if_neg (by rw [hg]; decide)]
  dsimp only [State.goBegun] at hread ⊢
  rw [hread]

theorem exec_servectlGo_read {bs : List Byte} {w : Word} {u : State}
    (hread : unitRead (unitScan s.goBegun (servTenant s.goBegun) (tset s.goBegun setRESIDENT (servTenant s.goBegun)) 64)
      (servTenant s.goBegun) (tset (unitScan s.goBegun (servTenant s.goBegun) (tset s.goBegun setRESIDENT (servTenant s.goBegun)) 64)
        setRESIDENT (servTenant s.goBegun)) 64 = some bs)
    (hsub : submitLaunch (unitScan s.goBegun (servTenant s.goBegun) (tset s.goBegun setRESIDENT (servTenant s.goBegun)) 64)
      (servTenant s.goBegun) ((List.range 8).map (fun i => w64 (fromBytes (slice bs (8 * i) 8)))) true none = (w, u)) :
    exec .servectlGo s = if fld w 7 0 ≠ 0 then .next (goFailed u)
      else .next (u.updFront (fun f => { f with launch := some (launchKey (servTenant s.goBegun) (fld w 63 32)) })) := by
  have h : exec .servectlGo s = execServectlGo s := rfl
  rw [h, execServectlGo, if_neg (by rw [hr]; decide), if_neg (by rw [hg]; decide)]
  dsimp only [State.goBegun] at hread hsub ⊢
  rw [hread]
  dsimp only
  rw [hsub]

end Go

theorem exec_servingActivate {s : State} {k : Nat} {l : Launch} (hk : s.front.launch = some k) (hl : s.launch k = some l)
    (hb : servBusy s = true) (ha : servActive s = false) :
    exec .servingActivate s = if l.placed < l.tasks then .next (if l.outcome ≠ 0 then goFailed s else s)
      else .next (planStep (returns (applyCancels (freeDead (boundaryReads (servFld s 3 2 1)))).1)) := by
  have h : exec .servingActivate s = execServingActivate s := rfl
  have hbind : s.front.launch.bind s.launch = some l := by rw [hk]; exact hl
  rw [h, execServingActivate, hbind]
  exact if_neg (by rw [hb, ha]; decide)

/-! Serving mode ends (R74). -/

theorem regGet_servFld_other {s : State} {o : Nat} (h : offSERV ≠ o) (hi lo v : Nat) : regGet (servFld s hi lo v) o = regGet s o :=
  (regGet_regFld s offSERV o hi lo v).trans (if_neg h)

theorem kvFreeCnt_writeBackPool (s : State) : kvFreeCnt (writeBackPool s) = s.front.free.length % 2 ^ 25 := by
  unfold writeBackPool
  extract_lets ps u
  rw [kvFreeCnt, regGet_regFld, if_pos rfl, fld_putFld _ _ _ _ (by decide) (by decide), List.length_reverse]

/-- The state once serving mode is off. -/
def State.servedOff (s : State) : State :=
  (servFld (writeBackPool s) 3 1 0).updFront (fun f => { f with drained := false, drainPub := false })

theorem servedOff_ctl (s : State) {i : Nat} (hi : 1 ≤ i ∧ i ≤ 3) : (servCtl s.servedOff).getLsbD i = false :=
  (getLsbD_servFld (writeBackPool s) 0 i (by decide) (by decide)).trans ((if_pos hi).trans (Nat.zero_testBit _))

theorem kvFreeCnt_servedOff (s : State) : kvFreeCnt s.servedOff = s.front.free.length % 2 ^ 25 :=
  (congrArg (fun w => fld w 24 0) (regGet_servFld_other (s := writeBackPool s) (by decide) 3 1 0)).trans (kvFreeCnt_writeBackPool s)

theorem exec_servingOff {s : State} {k : Nat} {l : Launch} (ha : servActive s = true) (hd : s.front.drained = true)
    (hk : s.front.launch = some k) (hl : s.launch k = some l) (hlive : l.live = 0) :
    exec .servingOff s = .next s.servedOff := by
  have h : exec .servingOff s = execServingOff s := rfl
  have hbind : s.front.launch.bind s.launch = some l := by rw [hk]; exact hl
  rw [h, execServingOff, hbind]
  exact if_pos (by simp [ha, hd, hlive])

/-! The core mask (R73). -/

theorem servemask_rw {die : Nat} (h : die < 4) : (regInfo (offSERV + 0x40 + 8 * die)).rw = maskB 47 0 := by
  interval_cases die <;> rfl

theorem maskB_low_testBit {i : Nat} (h : i < 48) : (maskB 47 0).testBit i = true := by
  rw [maskB, pow_zero, Nat.mul_one, Nat.testBit_two_pow_sub_one]
  exact decide_eq_true h

theorem servemaskWrite_bits {s : State} {die : Nat} (v : Word) (h : die < 4) :
    ∃ u, exec (.servemaskWrite die v) s = .next u ∧ u.mem = s.mem ∧ u.strands = s.strands ∧ ∀ i, i < 48 →
      (regGet u (offSERV + 0x40 + 8 * die)).getLsbD i =
        (v.getLsbD i && (!servActive s || (regGet s (offSERV + 0x40 + 8 * die)).getLsbD i)) := by
  have hexec : exec (.servemaskWrite die v) s = execServemaskWrite die v s := rfl
  have hbits (w : Word) {i : Nat} (hi : i < 48) :
      (regGet (regWrite s (offSERV + 0x40 + 8 * die) w) (offSERV + 0x40 + 8 * die)).getLsbD i = w.getLsbD i :=
    getLsbD_regWrite (by rw [servemask_rw h]; decide) (by rw [servemask_rw h]; exact maskB_low_testBit hi)
  rw [execServemaskWrite, if_neg (Nat.not_le.mpr h)] at hexec
  cases ha : servActive s with
  | true =>
    rw [if_pos ha] at hexec
    refine ⟨_, hexec, regWrite_mem .., regWrite_strands .., fun i hi => ?_⟩
    rw [hbits _ hi, BitVec.getLsbD_and, Bool.not_true, Bool.false_or]
  | false =>
    rw [if_neg (by rw [ha]; decide)] at hexec
    refine ⟨_, hexec, regWrite_mem .., regWrite_strands .., fun i hi => ?_⟩
    rw [hbits _ hi, Bool.not_false, Bool.true_or, Bool.and_true]

theorem servingTurnsOnAndOff : ServingTurnsOnAndOff := by
  intro s die v k l pool s1 off words s2 t s3
  refine ⟨?notReady, ?refused, ?read, ?unread, ?activate, ?drain, ?off, servemaskWrite_bits v⟩
  case notReady =>
    intro hr
    have h : exec .servectlGo s = execServectlGo s := rfl
    rw [h, execServectlGo, if_pos (by rw [hr]; rfl)]
  case refused =>
    intro hr hg
    exact ⟨_, exec_servectlGo_refused hr hg, getLsbD_servFld s 1 4 (by decide) (by decide), rfl, rfl⟩
  case read =>
    intro hr hg bs w u hread hsub
    have hexec := exec_servectlGo_read hr hg hread hsub
    exact ⟨fun h0 => hexec.trans (if_neg (not_not.mpr h0)), fun h0 => hexec.trans (if_pos h0)⟩
  case unread => exact exec_servectlGo_unread
  case activate =>
    intro hk hl hb ha
    have hexec := exec_servingActivate hk hl hb ha
    refine ⟨fun hout hp => ?_, fun hout hp => ?_, fun hp => ?_⟩
    · rw [hexec, if_pos hp, if_pos hout]
    · rw [hexec, if_pos hp, if_neg (not_not.mpr hout)]
    · rw [hexec, if_neg (Nat.not_lt.mpr hp)]
  case drain =>
    intro ha
    have h : exec .servectlDrain s = execServectlDrain s := rfl
    rw [execServectlDrain, if_pos ha] at h
    exact ⟨_, h, getLsbD_servFld s 1 1 (by decide) (by decide), rfl, rfl⟩
  case off =>
    intro ha hd hk hl hlive
    exact ⟨_, exec_servingOff ha hd hk hl hlive, servedOff_ctl s (by decide), servedOff_ctl s (by decide), rfl, rfl,
      kvFreeCnt_servedOff s⟩

/-! Deferred completion records (R110). -/

theorem resetRecordOut_other {s : State} {data : List Byte} (h : data.getD 0 0 ≠ 7#8) : resetRecordOut s data = s := if_neg h

/-- What is left once a deferred record that answers no request has been written or discarded. -/
def State.undefer (s : State) (d : Deferred) : State := { s with deferred := s.deferred.erase d }

theorem undefer_single {s : State} {d : Deferred} (h : s.deferred = [d]) : s.undefer d = { s with deferred := [] } := by
  rw [State.undefer, h, List.erase_cons_head]

theorem execDeferred_single {s : State} {d : Deferred} (hd : s.deferred = [d]) (hring : d.ring < 2 ^ 16) (hreq : d.req = none)
    (hkind : d.data.getD 0 0 ≠ 7#8) :
    execDeferredRingWrite d.ring s = if (!cqOwned s d.ring d.tenant d.sys) = true then .next (s.undefer d)
      else match cqStore s d.ring d.data with
        | some u => .next (u.undefer d)
        | none => .next s := by
  have hfind : s.deferred.find? (·.ring == d.ring) = some d := by rw [hd]; simp
  unfold execDeferredRingWrite
  rw [if_neg (Nat.not_le.mpr hring)]
  split
  case h_1 hnone => exact absurd (hnone.symm.trans hfind) (Option.some_ne_none d).symm
  case h_2 e hsome =>
  obtain rfl : d = e := Option.some.inj (hfind.symm.trans hsome)
  extract_lets done
  have hdone (t : State) : done t = t.undefer d := by
    change (match d.req with
      | some r => freeRequest (t.undefer d) r
      | none => resetRecordOut (t.undefer d) d.data) = t.undefer d
    rw [hreq]
    exact resetRecordOut_other hkind
  simp only [hdone] <;> rfl

theorem deferredRecordsAreRetried : DeferredRecordsAreRetried := by
  intro s u d hd hring hreq hkind
  have hexec : exec (.deferredRingWrite d.ring) s = execDeferredRingWrite d.ring s := rfl
  rw [hexec, execDeferred_single hd hring hreq hkind]
  refine ⟨fun howned => ?_, fun howned hstore hkept => ?_, fun howned hstore => ?_⟩
  · rw [if_pos (by rw [howned]; rfl), undefer_single hd]
  · rw [if_neg (by rw [howned]; decide), hstore]
    exact congrArg _ (undefer_single hkept)
  · rw [if_neg (by rw [howned]; decide), hstore]

end Sys2Proof.Machine

/-! ### The outcome of a slot's request (O54; 03 R56, R61) -/

namespace Sys2Proof.Machine

open Sys2Proof

/-- The request's lost commit of R56: COMMIT_PENDING is set, and it has no code of its own of a fault of this step (R96). -/
def CommitLost (s : State) (slot r : Nat) : Prop :=
  rqFlag s r flCommit = true ∧ ¬ (slot ∈ s.front.faulted ∧ rqGet s r rqFCODE ≠ 0)

theorem commitLost_iff (s : State) (slot r : Nat) : CommitLost s slot r ↔
    (rqFlag s r flCommit = true ∧ (!(s.front.faulted.contains slot && rqGet s r rqFCODE != 0)) = true) := by
  simp only [CommitLost, Bool.not_eq_true', Bool.and_eq_false_iff, List.contains_eq_mem, decide_eq_false_iff_not, bne_eq_false_iff_eq,
    not_and_or, not_not, ne_eq]

theorem slotOutcome_eq {s : State} {fresh : List Nat} {slot r : Nat} (hst : rqGet s r rqSTATE < stRETIRED) :
    slotOutcome fresh s (slot, r) =
    if rqFlag s r flCommit = true ∧ (!(s.front.faulted.contains slot && rqGet s r rqFCODE != 0)) = true then
      endRequest (rqPuts s.free.2 r [(rqFCODE, fcCOMMIT_LOST), (rqFINFO, s.free.1.toNat)]) r stFAULTED 5
    else if rqGet s r rqFCODE ≠ 0 then endRequest s r stFAULTED 5
    else if rqFlag s r flCancel = true ∧ (!fresh.contains r) = true then endRequest s r stCANCELLED 4
    else if bitsN (rqGet s r rqFLAGS) 4 3 ≠ 0 then endRequest s r stRETIRED (bitsN (rqGet s r rqFLAGS) 4 3)
    else if rqGet s r rqSTATE = stADMITTED ∧ s.front.active.contains slot = true then
      rqPut s r rqSTATE (if (rqFuture s r).isSome = true then stBLOCKED else stRUNNING)
    else s := by
  have hended : ¬ hasEnded s r = true := by
    rw [hasEnded, decide_eq_true_eq]
    exact Nat.not_le.mpr hst
  exact if_neg hended

/-! A request that ends. -/

theorem recordQuiet_updFront {s : State} {r : Nat} (f : Front → Front) : RecordQuiet (s.updFront f) r ↔ RecordQuiet s r := Iff.rfl

@[simp] theorem rqGet_setFrontReq (s : State) (q : Nat) (x : FrontReq) (r k : Nat) : rqGet (setFrontReq s q x) r k = rqGet s r k :=
  rqGet_updFront ..

theorem recordQuiet_setFrontReq {s : State} {r q : Nat} (x : FrontReq) : RecordQuiet (setFrontReq s q x) r ↔ RecordQuiet s r := Iff.rfl

theorem rqFuture_congr {s t : State} {r : Nat} (h : rqGet t r rqFUT = rqGet s r rqFUT) : rqFuture t r = rqFuture s r := by
  rw [rqFuture, rqFuture, h]

theorem reclaimOf_none {s : State} {r : Nat} (h : rqFuture s r = none) : reclaimOf s r = s := by rw [reclaimOf, h]

theorem freePages_none {s : State} {r : Nat} (hm : s.front.moves = []) (hp : (frontReq s r).pages = []) :
    freePages s r = rqPut (setFrontReq s r { frontReq s r with pages := [] }) r rqKVPAGES 0 := by
  rw [freePages, dropMoves_none _ hm]
  dsimp only
  rw [hp, List.foldl_nil]

/-- The Front forgets a request: it holds no slot, page or rebuild row. -/
def unslotted (s : State) (r : Nat) : State :=
  (setFrontReq s r { pages := [], rebuild := none }).updFront (fun f => { f with slots := f.slots.filter (·.2 != r) })

theorem vacate_eq (s : State) (r : Nat) : vacate s r = rqPut (unslotted (freePages s r) r) r rqSLOT 0xFFFF := rfl

section Vacated
variable {u : State} {r : Nat} (hm : u.front.moves = []) (hp : (frontReq u r).pages = []) (hq : RecordQuiet u r)
include hm hp hq

theorem recordQuiet_freePages : RecordQuiet (freePages u r) r := by
  rw [freePages_none hm hp]
  exact (recordQuiet_rqPut (recordQuiet_setFrontReq _ |>.mpr hq) (by decide)).mpr hq

theorem rqGet_freePages {k : Nat} (hk : k ≤ 43) (hne : k ≠ rqKVPAGES) : rqGet (freePages u r) r k = rqGet u r k := by
  rw [freePages_none hm hp, rqGet_rqPut_ne (recordQuiet_setFrontReq _ |>.mpr hq) (by decide) hk hne, rqGet_setFrontReq]

/-- A request that holds no page leaves its slot: what is put into the record, and what the slots are. -/
theorem vacate_none : RecordQuiet (vacate u r) r ∧ rqGet (vacate u r) r rqSLOT = 0xFFFF ∧ rqFuture (vacate u r) r = rqFuture u r ∧
    ∀ x ∈ (vacate u r).front.slots, x.2 ≠ r := by
  have hfree := recordQuiet_freePages hm hp hq
  have hq' : RecordQuiet (unslotted (freePages u r) r) r := (recordQuiet_updFront _).mpr ((recordQuiet_setFrontReq _).mpr hfree)
  rw [vacate_eq]
  refine ⟨(recordQuiet_rqPut hq' (by decide)).mpr hq', rqGet_rqPut_same hq' (by decide), rqFuture_congr ?_, fun x hx => ?_⟩
  · rw [rqGet_rqPut_ne hq' (by decide) (by decide) (by decide), unslotted, rqGet_updFront, rqGet_setFrontReq]
    exact rqGet_freePages hm hp hq (by decide) (by decide)
  · rw [rqPut_front] at hx
    simpa using (List.mem_filter.mp hx).2

theorem freeRequest_none (hf : rqFuture u r = none) : rqGet (freeRequest u r) r rqSTATE = stFREE ∧
    rqGet (freeRequest u r) r rqSLOT = 0xFFFF ∧ ∀ x ∈ (freeRequest u r).front.slots, x.2 ≠ r := by
  obtain ⟨hq', hslot, hfut, hslots⟩ := vacate_none hm hp hq
  unfold freeRequest leave
  rw [reclaimOf_none ((rqFuture_congr (rqGet_updFront ..)).trans (hfut.trans hf))]
  dsimp only
  have hquiet := (recordQuiet_updFront (fun f : Front => { f with leaving := f.leaving.filter (· != r) })).mpr hq'
  refine ⟨rqGet_rqPut_same hquiet (by decide), ?_, fun x hx => ?_⟩
  · rw [rqGet_rqPut_ne hquiet (by decide) (by decide) (by decide), rqGet_updFront, hslot]
  · rw [rqPut_front] at hx
    exact hslots x hx

end Vacated

/-- The end of a request without a future: its state, a release, its completion record. -/
theorem endRequest_noFuture {s : State} {r : Nat} (state reason : Nat) (hf : rqFuture s r = none) :
    endRequest s r state reason = match cqPut (unitRelease (rqPut s r rqSTATE state))
        (bitsN (rqGet (unitRelease (rqPut s r rqSTATE state)) r rqCQ) 12 0) (reqTenant r)
        (bitN (rqGet (unitRelease (rqPut s r rqSTATE state)) r rqCQ) 13)
        (endRecord (unitRelease (rqPut s r rqSTATE state)) r state reason) (some r) with
      | (u, true) => if (rqFuture u r).any (fun i => (futOf u i).state == fuCANCELLED) then
          (vacate u r).updFront (fun f => { f with leaving := f.leaving ++ [r] }) else freeRequest u r
      | (u, false) => u := by
  unfold endRequest
  extract_lets v
  have hv : v = s := by simp only [v, hf, reclaimOf_none hf, ite_self]
  clear_value v
  subst hv
  rfl

theorem outcomesComeInOrder : OutcomesComeInOrder := by
  intro s fresh slot r t st code stop lost cancelled first
  refine ⟨fun hst => ?_, fun state reason u b hf => ?_⟩
  · have heq : t = _ := slotOutcome_eq (fresh := fresh) (slot := slot) hst
    have hlost : lost ↔ _ := commitLost_iff s slot r
    have hcancelled : cancelled ↔ (rqFlag s r flCancel = true ∧ (!fresh.contains r) = true) := by
      simp only [cancelled, Bool.not_eq_true', List.contains_eq_mem, decide_eq_false_iff_not]
    have hfirst : first ↔ (rqGet s r rqSTATE = stADMITTED ∧ s.front.active.contains slot = true) := by
      simp only [first, st, List.contains_iff_mem]
    refine ⟨fun hl => ?_, fun hl hc => ?_, fun hl hc hca => ?_, fun hl hc hca hs => ?_, fun hl hc hca hs => ⟨fun hfi hq => ?_, fun hfi => ?_⟩⟩
    · refine ⟨_, heq.trans (if_pos (hlost.mp hl)), fun hq => ?_⟩
      exact rqGet_rqPuts_some (s := s.free.2) (k := rqFCODE) (l := [(rqFCODE, fcCOMMIT_LOST), (rqFINFO, s.free.1.toNat)]) hq
        (by simp [rqFCODE, rqFINFO]) (by decide) rfl
    all_goals rw [if_neg (fun h => hl (hlost.mpr h))] at heq
    · exact heq.trans (if_pos hc)
    all_goals rw [if_neg (not_not.mpr hc)] at heq
    · exact heq.trans (if_pos (hcancelled.mp hca))
    all_goals rw [if_neg (fun h => hca (hcancelled.mpr h))] at heq
    · exact heq.trans (if_pos hs)
    all_goals rw [if_neg (not_not.mpr hs)] at heq
    · rw [heq, if_pos (hfirst.mp hfi), rqGet_rqPut_same hq (by decide)]
      split <;> rfl
    · exact heq.trans (if_neg (fun h => hfi (hfirst.mpr h)))
  · intro s1 cq e hcq
    have heq : e = _ := endRequest_noFuture state reason hf
    refine ⟨fun hb => ?_, fun hb hfu hm hp hq => ?_⟩
    · rw [heq, hcq, hb]
    · have hfree : e = freeRequest u r := by
        rw [heq, hcq, hb]
        dsimp only
        rw [hfu]
        rfl
      rw [hfree]
      exact freeRequest_none hm hp hq hfu

end Sys2Proof.Machine

/-! ### The rows of a step (O54; 03 R68) -/

namespace Sys2Proof.Machine

open Sys2Proof

/-! The three passes of R68, by name. -/

/-- Pass 1: a decode row for a request that the quotas leave one. -/
def takeDecode (s : State) (a : List (Nat × Nat) × RowRoom) (x : Nat × Nat) : List (Nat × Nat) × RowRoom :=
  if 1 ≤ a.2.for s (reqTenant x.2) then (a.1 ++ [x], a.2.take (reqTenant x.2) 1) else a

/-- Pass 2: the draft rows of a request that has a decode row. -/
def takeDraft (s : State) (a : List Row × RowRoom) (x : Nat × Nat) : List Row × RowRoom :=
  let ds := draftRows s x.1 x.2
  if ds.length ≤ a.2.for s (reqTenant x.2) then (a.1 ++ ds, a.2.take (reqTenant x.2) ds.length) else a

/-- A request put behind the older ones. -/
def insertOld (s : State) (l : List (Nat × Nat)) (x : Nat × Nat) : List (Nat × Nat) :=
  let (a, b) := l.span (fun y => rqGet s y.2 rqAGE < rqGet s x.2 rqAGE || (rqGet s y.2 rqAGE == rqGet s x.2 rqAGE && y.2 < x.2))
  a ++ x :: b

/-- The prefill rows that a request gets from what is left. -/
def prefillOf (s : State) (q : RowRoom) (x : Nat × Nat) : List Row :=
  (List.range (min (min (pendingRows s x.2) (tset s setPFCHUNK (reqTenant x.2))) (q.for s (reqTenant x.2)))).map
    (fun i => { slot := x.1, pos := (pending s x.2).1 + i, node := 0, kind := 0, parent := 0 })

/-- Pass 3. -/
def takePrefill (s : State) (a : List Row × RowRoom) (x : Nat × Nat) : List Row × RowRoom :=
  (a.1 ++ prefillOf s a.2 x,
    a.2.take (reqTenant x.2) (min (min (pendingRows s x.2) (tset s setPFCHUNK (reqTenant x.2))) (a.2.for s (reqTenant x.2))))

def decodePass (s : State) : List (Nat × Nat) × RowRoom :=
  ((rowReqs s).filter (fun x => pendingRows s x.2 = 0 && 1 ≤ rqGet s x.2 rqGEN)).foldl (takeDecode s)
    ([], { left := 16384, used := [] })
def draftPass (s : State) : List Row × RowRoom := (decodePass s).1.foldl (takeDraft s) ([], (decodePass s).2)
def prefillOrder (s : State) : List (Nat × Nat) := ((rowReqs s).filter (fun x => pendingRows s x.2 ≠ 0)).foldl (insertOld s) []
def prefillPass (s : State) : List Row × RowRoom := (prefillOrder s).foldl (takePrefill s) ([], (draftPass s).2)

/-- The decode row of a request. -/
def decodeRow (s : State) (x : Nat × Nat) : Row := { slot := x.1, pos := rqGet s x.2 rqPOS, node := 0, kind := 1, parent := 0 }

/-- The rows of one slot, in the order of the row table. -/
def rowsOfSlot (s : State) (x : Nat × Nat) : List Row :=
  (prefillPass s).1.filter (·.slot == x.1) ++ (if (decodePass s).1.contains x then [decodeRow s x] else []) ++
    (draftPass s).1.filter (·.slot == x.1)

theorem chooseRows_eq (s : State) : chooseRows s = (rowReqs s).flatMap (rowsOfSlot s) := rfl

/-! Where the rows come from. -/

theorem mem_decodePass {s : State} {x : Nat × Nat} (h : x ∈ (decodePass s).1) :
    x ∈ rowReqs s ∧ pendingRows s x.2 = 0 ∧ 1 ≤ rqGet s x.2 rqGEN := by
  have hall : ∀ y ∈ (decodePass s).1, y ∈ (rowReqs s).filter (fun x => pendingRows s x.2 = 0 && 1 ≤ rqGet s x.2 rqGEN) := by
    refine List.foldlRecOn (motive := fun a : List (Nat × Nat) × RowRoom => ∀ y ∈ a.1, y ∈ _) _ _
      (fun y hy => absurd hy List.not_mem_nil) fun a ha x hx => ?_
    unfold takeDecode
    split
    · intro y hy
      rcases List.mem_append.mp hy with hy | hy
      · exact ha y hy
      · rw [List.mem_singleton.mp hy]
        exact hx
    · exact ha
  simpa using hall x h

theorem kind_draftRows {s : State} {slot r : Nat} {y : Row} (h : y ∈ draftRows s slot r) : y.kind = 2 := by
  unfold draftRows at h
  dsimp only at h
  split at h
  · exact absurd h List.not_mem_nil
  · split at h
    · exact absurd h List.not_mem_nil
    · split at h
      · exact absurd h List.not_mem_nil
      · obtain ⟨x, -, rfl⟩ := List.mem_map.mp h
        rfl

theorem kind_draftPass {s : State} {y : Row} (h : y ∈ (draftPass s).1) : y.kind = 2 := by
  have hall : ∀ y ∈ (draftPass s).1, y.kind = 2 := by
    refine List.foldlRecOn (motive := fun a : List Row × RowRoom => ∀ y ∈ a.1, y.kind = 2) _ _
      (fun y hy => absurd hy List.not_mem_nil) fun a ha x hx => ?_
    unfold takeDraft
    dsimp only
    split
    · intro y hy
      rcases List.mem_append.mp hy with hy | hy
      · exact ha y hy
      · exact kind_draftRows hy
    · exact ha
  exact hall y h

theorem mem_insertOld {s : State} {l : List (Nat × Nat)} {x y : Nat × Nat} : y ∈ insertOld s l x ↔ y = x ∨ y ∈ l := by
  unfold insertOld
  rw [List.span_eq_takeWhile_dropWhile]
  dsimp only
  rw [List.mem_append, List.mem_cons, or_left_comm, ← List.mem_append, List.takeWhile_append_dropWhile]

theorem mem_prefillOrder {s : State} {x : Nat × Nat} (h : x ∈ prefillOrder s) : x ∈ rowReqs s ∧ pendingRows s x.2 ≠ 0 := by
  have hall : ∀ y ∈ prefillOrder s, y ∈ (rowReqs s).filter (fun x => pendingRows s x.2 ≠ 0) := by
    refine List.foldlRecOn (motive := fun l : List (Nat × Nat) => ∀ y ∈ l, y ∈ _) _ _
      (fun y hy => absurd hy List.not_mem_nil) fun l hl x hx y hy => ?_
    rcases mem_insertOld.mp hy with rfl | hy
    · exact hx
    · exact hl y hy
  simpa using hall x h

theorem mem_prefillPass {s : State} {y : Row} (h : y ∈ (prefillPass s).1) : y.kind = 0 ∧ ∃ x ∈ prefillOrder s, y.slot = x.1 := by
  have hall : ∀ y ∈ (prefillPass s).1, y.kind = 0 ∧ ∃ x ∈ prefillOrder s, y.slot = x.1 := by
    refine List.foldlRecOn (motive := fun a : List Row × RowRoom => ∀ y ∈ a.1, y.kind = 0 ∧ ∃ x ∈ prefillOrder s, y.slot = x.1) _ _
      (fun y hy => absurd hy List.not_mem_nil) fun a ha x hx y hy => ?_
    rcases List.mem_append.mp hy with hy | hy
    · exact ha y hy
    · obtain ⟨i, -, rfl⟩ := List.mem_map.mp hy
      exact ⟨rfl, x, hx, rfl⟩
  exact hall y h

/-- Every row is of a request that may have rows, a decode row of one with no pending prefill, a prefill row of one with some. -/
theorem mem_chooseRows {s : State} {y : Row} (h : y ∈ chooseRows s) : ∃ r, (y.slot, r) ∈ rowReqs s ∧
    (y.kind = 1 → pendingRows s r = 0 ∧ 1 ≤ rqGet s r rqGEN ∧ y.pos = rqGet s r rqPOS) ∧
    (y.kind = 0 → pendingRows s r ≠ 0) := by
  rw [chooseRows_eq] at h
  obtain ⟨x, hx, hy⟩ := List.mem_flatMap.mp h
  rcases List.mem_append.mp hy with hy | hy
  · rcases List.mem_append.mp hy with hy | hy
    · obtain ⟨hkind, z, hz, hslot⟩ := mem_prefillPass (List.mem_of_mem_filter hy)
      obtain ⟨hreq, hpend⟩ := mem_prefillOrder hz
      refine ⟨z.2, by rw [hslot]; exact hreq, fun hk => ?_, fun _ => hpend⟩
      rw [hkind] at hk
      cases hk
    · split at hy
      · next hc =>
        obtain rfl := List.mem_singleton.mp hy
        obtain ⟨-, hpend, hgen⟩ := mem_decodePass (List.contains_iff_mem.mp hc)
        exact ⟨x.2, hx, fun _ => ⟨hpend, hgen, rfl⟩, fun hk => absurd hk (by decide : ¬ (1 : Nat) = 0)⟩
      · exact absurd hy List.not_mem_nil
  · obtain ⟨hdraft, hslot⟩ := List.mem_filter.mp hy
    have hkind := kind_draftPass hdraft
    refine ⟨x.2, by rw [eq_of_beq hslot]; exact hx, fun hk => ?_, fun hk => ?_⟩ <;> rw [hkind] at hk <;> cases hk

/-! The rows of a single request. -/

section Single
variable {s : State} {slot r : Nat} (hreq : rowReqs s = [(slot, r)])
include hreq

theorem chooseRows_single : chooseRows s = rowsOfSlot s (slot, r) := by rw [chooseRows_eq, hreq, List.flatMap_singleton]

theorem decodePass_idle (h : ¬ (pendingRows s r = 0 ∧ 1 ≤ rqGet s r rqGEN)) :
    decodePass s = ([], { left := 16384, used := [] }) := by
  have hfilter : (rowReqs s).filter (fun x => pendingRows s x.2 = 0 && 1 ≤ rqGet s x.2 rqGEN) = [] := by
    rw [hreq]
    simpa using h
  rw [decodePass, hfilter, List.foldl_nil]

theorem decodePass_row (hp : pendingRows s r = 0) (hg : 1 ≤ rqGet s r rqGEN) :
    (decodePass s).1 = if min 16384 (tset s setROWQ (reqTenant r)) = 0 then [] else [(slot, r)] := by
  have hfilter : (rowReqs s).filter (fun x => pendingRows s x.2 = 0 && 1 ≤ rqGet s x.2 rqGEN) = [(slot, r)] := by
    rw [hreq]
    simp [hp, hg]
  have hfor : (RowRoom.for { left := 16384, used := [] } s (reqTenant r)) = min 16384 (tset s setROWQ (reqTenant r)) := rfl
  rw [decodePass, hfilter, List.foldl_cons, List.foldl_nil, takeDecode, hfor]
  by_cases hq : min 16384 (tset s setROWQ (reqTenant r)) = 0
  · rw [if_neg (by omega), if_pos hq]
  · rw [if_pos (by omega), if_neg hq]
    rfl

theorem prefillPass_idle (h : pendingRows s r = 0) : (prefillPass s).1 = [] := by
  have horder : prefillOrder s = [] := by
    rw [prefillOrder, hreq]
    simp [h]
  rw [prefillPass, horder, List.foldl_nil]

theorem prefillOrder_row (h : pendingRows s r ≠ 0) : prefillOrder s = [(slot, r)] := by
  have hfilter : (rowReqs s).filter (fun x => pendingRows s x.2 ≠ 0) = [(slot, r)] := by
    rw [hreq]
    simp [h]
  rw [prefillOrder, hfilter]
  rfl

theorem chooseRows_none (hp : pendingRows s r = 0) (hg : rqGet s r rqGEN = 0) : chooseRows s = [] := by
  have hdec := decodePass_idle hreq (fun h => by omega)
  rw [chooseRows_single hreq, rowsOfSlot, prefillPass_idle hreq hp, draftPass, hdec]
  rfl

theorem chooseRows_decode (hp : pendingRows s r = 0) (hg : 1 ≤ rqGet s r rqGEN) (hd : draftRows s slot r = []) :
    chooseRows s = if min 16384 (tset s setROWQ (reqTenant r)) = 0 then [] else [decodeRow s (slot, r)] := by
  have hdec := decodePass_row hreq hp hg
  have hdraft : (draftPass s).1 = [] := by
    rw [draftPass, hdec]
    split
    · rfl
    · rw [List.foldl_cons, List.foldl_nil, takeDraft, hd]
      rfl
  rw [chooseRows_single hreq, rowsOfSlot, prefillPass_idle hreq hp, hdraft, hdec]
  split
  · rfl
  · simp

theorem chooseRows_prefill (hp : pendingRows s r ≠ 0) :
    chooseRows s = prefillOf s { left := 16384, used := [] } (slot, r) := by
  have hdec := decodePass_idle hreq (fun h => hp h.1)
  have hdraft : draftPass s = ([], { left := 16384, used := [] }) := by
    rw [draftPass, hdec]
    rfl
  have hpre : (prefillPass s).1 = prefillOf s { left := 16384, used := [] } (slot, r) := by
    rw [prefillPass, prefillOrder_row hreq hp, hdraft, List.foldl_cons, List.foldl_nil, takePrefill, List.nil_append]
  have hall : (prefillOf s { left := 16384, used := [] } (slot, r)).filter (·.slot == slot) =
      prefillOf s { left := 16384, used := [] } (slot, r) := by
    refine List.filter_eq_self.mpr fun y hy => ?_
    obtain ⟨i, -, rfl⟩ := List.mem_map.mp hy
    exact beq_self_eq_true slot
  rw [chooseRows_single hreq, rowsOfSlot, hpre, hdec, hdraft, hall]
  exact (List.append_nil _).trans (List.append_nil _)

end Single

theorem rowsAreChosen : RowsAreChosen :=
  ⟨fun _ _ hy => mem_chooseRows hy, fun _ _ _ hreq =>
    ⟨chooseRows_none hreq, chooseRows_decode hreq, chooseRows_prefill hreq⟩⟩

end Sys2Proof.Machine

/-! ### Admission (O54; 03 R64) -/

namespace Sys2Proof.Machine

open Sys2Proof

/-! The first element of the least key. -/

/-- A pass that keeps the better of two ends with a first element of the least key. -/
theorem foldl_least {α κ : Type} [LinearOrder κ] (k : α → κ) {p : α → α → Bool} (hp : ∀ b y, p b y = true ↔ k y < k b)
    {r : α → α → Prop} (hr : ∀ a b c, r a b → r b c → r a c) (l : List α) (x : α) :
    l.foldl (fun b y => if p b y then y else b) x ∈ x :: l ∧ ∀ y ∈ x :: l,
      k (l.foldl (fun b y => if p b y then y else b) x) ≤ k y ∧
      ((x :: l).Pairwise r → k y = k (l.foldl (fun b y => if p b y then y else b) x) →
        l.foldl (fun b y => if p b y then y else b) x = y ∨ r (l.foldl (fun b y => if p b y then y else b) x) y) := by
  induction l generalizing x with
  | nil => simp
  | cons z l ih =>
    rw [List.foldl_cons]
    obtain ⟨hmem, hleast⟩ := ih (if p x z then z else x)
    generalize hm : l.foldl (fun b y => if p b y then y else b) (if p x z then z else x) = m at hmem hleast
    by_cases h : p x z = true
    · rw [if_pos h] at hmem hleast
      have hz := (hleast z (List.mem_cons_self ..)).1
      refine ⟨List.mem_cons_of_mem x hmem, fun y hy => ?_⟩
      rcases List.mem_cons.mp hy with rfl | hy
      · have hlt : k m < k y := hz.trans_lt ((hp y z).mp h)
        exact ⟨hlt.le, fun _ heq => absurd heq hlt.ne'⟩
      · obtain ⟨hle, htie⟩ := hleast y hy
        exact ⟨hle, fun hpair => htie hpair.of_cons⟩
    · rw [if_neg h] at hmem hleast
      have hxz : k x ≤ k z := not_lt.mp (fun hlt => h ((hp x z).mpr hlt))
      obtain ⟨hx, hxtie⟩ := hleast x (List.mem_cons_self ..)
      have hsub : (x :: l).Sublist (x :: z :: l) := (List.sublist_cons_self z l).cons_cons x
      refine ⟨hsub.subset hmem, fun y hy => ?_⟩
      by_cases hyz : y ∈ x :: l
      · obtain ⟨hle, htie⟩ := hleast y hyz
        exact ⟨hle, fun hpair => htie (hpair.sublist hsub)⟩
      · obtain rfl : y = z := by
          simp only [List.mem_cons, not_or] at hy hyz
          tauto
        refine ⟨hx.trans hxz, fun hpair heq => ?_⟩
        have hrel : r x y := (List.pairwise_cons.mp hpair).1 y (List.mem_cons_self ..)
        rcases hxtie (hpair.sublist hsub) (le_antisymm (hxz.trans heq.le) hx) with hmx | hmx
        · exact Or.inr (hmx ▸ hrel)
        · exact Or.inr (hr m x y hmx hrel)

theorem foldl_least_nat {κ : Type} [LinearOrder κ] (k : Nat → κ) {p : Nat → Nat → Bool} (hp : ∀ b y, p b y = true ↔ k y < k b)
    (l : List Nat) (x : Nat) {m : Nat} (hm : l.foldl (fun b y => if p b y then y else b) x = m) :
    m ∈ x :: l ∧ ∀ y ∈ x :: l, k m ≤ k y ∧ ((x :: l).Pairwise (· < ·) → k y = k m → m ≤ y) := by
  subst hm
  obtain ⟨hmem, hleast⟩ := foldl_least k hp (r := (· < ·)) (fun _ _ _ => lt_trans) l x
  exact ⟨hmem, fun y hy => ⟨(hleast y hy).1, fun hpair heq => ((hleast y hy).2 hpair heq).elim le_of_eq le_of_lt⟩⟩

theorem largest_most {d : Nat → Int} {l : List Nat} {t : Nat} (h : largest d l = some t) :
    t ∈ l ∧ ∀ u ∈ l, d u ≤ d t ∧ (l.Pairwise (· < ·) → d u = d t → t ≤ u) := by
  cases l with
  | nil => exact absurd h (Option.some_ne_none t).symm
  | cons x l =>
    obtain ⟨hmem, hleast⟩ := foldl_least_nat (fun u => -d u) (p := fun b u => decide (d b < d u))
      (fun b u => by rw [decide_eq_true_iff, neg_lt_neg_iff]) l x
      (m := t) (by simpa only [largest, Option.some.injEq, decide_eq_true_eq] using h)
    exact ⟨hmem, fun u hu => ⟨neg_le_neg_iff.mp (hleast u hu).1, fun hpair heq => (hleast u hu).2 hpair (by rw [heq])⟩⟩

theorem oldestReq_oldest {s : State} {l : List Nat} {r : Nat} (h : oldestReq s l = some r) :
    r ∈ l ∧ ∀ q ∈ l, rqGet s r rqAGE ≤ rqGet s q rqAGE ∧ (l.Pairwise (· < ·) → rqGet s q rqAGE = rqGet s r rqAGE → r ≤ q) := by
  cases l with
  | nil => exact absurd h (Option.some_ne_none r).symm
  | cons x l =>
    exact foldl_least_nat (fun q => rqGet s q rqAGE) (p := fun b q => decide (rqGet s q rqAGE < rqGet s b rqAGE))
      (fun b q => decide_eq_true_iff) l x (by simpa only [oldestReq, Option.some.injEq, decide_eq_true_eq] using h)

/-! A request takes a slot. -/

theorem settleFrees_none {s : State} (h : s.front.frees = []) : settleFrees s = s := by
  rw [settleFrees, h]
  rfl

theorem spillBack_none {s : State} {r : Nat} (h : spilledPages s r = 0) : spillBack s r = s := by
  unfold spillBack
  dsimp only
  refine List.foldlRecOn (motive := (· = s)) _ _ rfl fun t ht x hx => ?_
  have hpage : x.2 ∈ (frontReq s r).pages := (List.of_mem_zip hx).2
  rw [if_neg (List.countP_eq_zero.mp h x.2 hpage)]
  exact ht

theorem freeSlot_lt {s : State} {slot : Nat} (h : freeSlot s = some slot) : slot < 4096 := by
  have hmem := List.mem_range.mp (List.mem_of_find?_eq_some h)
  omega

/-- The record of a request that takes a slot. -/
def slotted (s : State) (r slot : Nat) : State :=
  (rqPuts s r [(rqSTATE, stADMITTED), (rqSLOT, slot), (rqPROG, ccnt s)]).updFront (fun f => { f with slots := fset f.slots slot r })

theorem slotted_front (s : State) (r slot : Nat) : (slotted s r slot).front = { s.front with slots := fset s.front.slots slot r } := by
  have h : (rqPuts s r [(rqSTATE, stADMITTED), (rqSLOT, slot), (rqPROG, ccnt s)]).front = s.front :=
    eq_of_besideLines State.front (fun _ => rfl) (rqPuts_besideLines ..)
  rw [slotted, State.updFront, h]

theorem admitOne_queued {s : State} {r slot : Nat} (hst : rqGet s r rqSTATE = stQUEUED) (hsp : spilledPages s r = 0) :
    admitOne s r slot = slotted s r slot := by
  have hpages : spilledPages (slotted s r slot) r = 0 := by
    rw [spilledPages, frontReq, slotted_front]
    exact hsp
  unfold admitOne
  rw [if_neg (by rw [hst]; decide)]
  exact spillBack_none hpages

theorem slotted_fields {s : State} {r slot : Nat} (hq : RecordQuiet s r) (hslot : slot < 4096) :
    rqGet (slotted s r slot) r rqSTATE = stADMITTED ∧ rqGet (slotted s r slot) r rqSLOT = slot ∧
    rqGet (slotted s r slot) r rqPROG = ccnt s % 2 ^ 64 := by
  have hl : ∀ x ∈ [(rqSTATE, stADMITTED), (rqSLOT, slot), (rqPROG, ccnt s)], x.1 ≤ 43 := by
    simp [rqSTATE, rqSLOT, rqPROG]
  simp only [slotted, rqGet_updFront]
  refine ⟨rqGet_rqPuts_some (k := rqSTATE) hq hl (by decide) rfl, ?_, rqGet_rqPuts_some (k := rqPROG) hq hl (by decide) rfl⟩
  exact (rqGet_rqPuts_some (k := rqSLOT) hq hl (by decide) rfl).trans (Nat.mod_eq_of_lt (by
    change slot < 2 ^ 16
    omega))

/-! The loop of a class. -/

section Loop
variable {n : Nat} {s : State} {a : Admit} {slot t c : Nat}

/-- A tenant without a candidate leaves the class. -/
theorem admitLoop_noCandidate (hl : a.live = [t]) (hc : a.cands = []) :
    ∃ l, admitLoop (n + 1) s a = (s, { a with live := l }) := by
  obtain ⟨live, cands, kept, fresh, full⟩ := a
  obtain rfl : live = [t] := hl
  obtain rfl : cands = [] := hc
  rw [admitLoop]
  cases freeSlot s with
  | none => exact ⟨[t], rfl⟩
  | some slot => exact ⟨_, admitLoop_noTenant n s (by simp)⟩

/-- What admission keeps in mind once a candidate has a slot. -/
def Admit.took (a : Admit) (t c slot want : Nat) : Admit :=
  { a with cands := a.cands.filter (· != c), kept := fset a.kept t want, fresh := a.fresh ++ [slot] }

theorem admitLoop_only (hslot : freeSlot s = some slot) (hl : a.live = [t]) (hc : a.cands = [c]) (hten : reqTenant c = t)
    (hk : a.kept = []) (hf : s.front.frees = []) (hsp : spilledPages s c = 0) :
    admitLoop (n + 1) s a =
      if slotsHeld s t ≥ tset s setSLOTQ t ∨ tset s setPAGEQ t < (tenantPages s t).length + wantPages s c then
        (s, { a with live := [] })
      else if s.front.free.length < wantPages s c then (s, { a with full := true })
      else admitLoop n ((admitOne s c slot).updFront (fun f => { f with deficit := fset f.deficit t (fget 0 f.deficit t - 256) }))
        (a.took t c slot (wantPages s c)) := by
  obtain ⟨live, cands, kept, fresh, full⟩ := a
  obtain rfl : live = [t] := hl
  obtain rfl : cands = [c] := hc
  obtain rfl : kept = [] := hk
  have hlarge : largest (deficitOf s) [t] = some t := rfl
  have hold : oldestReq s ([c].filter (fun r => reqTenant r == t)) = some c := by simp [hten, oldestReq]
  rw [admitLoop]
  split
  case h_2 hno => exact absurd hlarge (hno slot t hslot)
  case h_1 slot' t' hslot' ht' =>
  obtain rfl := Option.some.inj (hslot.symm.trans hslot')
  obtain rfl := Option.some.inj (hlarge.symm.trans ht')
  split
  case h_1 hnone => exact absurd (hold.symm.trans hnone) (Option.some_ne_none c)
  case h_2 c' hc' =>
  obtain rfl := Option.some.inj (hold.symm.trans hc')
  rw [settleFrees_none hf]
  extract_lets drop u want mine all v w
  have hmine : (tenantPages u t).length + mine + want = (tenantPages u t).length + want :=
    congrArg (· + want) (Nat.add_zero (tenantPages u t).length)
  have hall : all + want + spilledPages u c = want := by
    rw [hsp]
    exact (Nat.add_zero _).trans (Nat.zero_add want)
  have hlive : drop.live = [] := by simp [drop]
  have hdrop : drop = { live := [], cands := [c], kept := [], fresh := fresh, full := full } := congrArg (Admit.mk · [c] [] fresh full) hlive
  have hkept : mine + want = want := Nat.zero_add want
  rw [admitLoop_noTenant n u hlive, hmine, hall, hdrop, hkept]
  rfl

end Loop

end Sys2Proof.Machine

/-! ### Admission of a class (O54; 03 R64) -/

namespace Sys2Proof.Machine

open Sys2Proof

/-! A class with a single candidate (03 R64). -/

/-- The deficit that a tenant has in a class in which it alone has a candidate. -/
def deficitNow (s : State) (t : Nat) : Int := min (fget 0 s.front.deficit t + (tset s setWEIGHT t : Int)) 65535

/-- The state in which the class of that tenant is admitted. -/
def State.withDeficit (s : State) (t : Nat) : State := s.updFront (fun f => { f with deficit := fset [] t (deficitNow s t) })

/-- What the loop of a class starts from. -/
def Admit.only (a : Admit) (t r : Nat) : Admit := { a with live := [t], cands := [r] }

/-- The state once the request of that tenant has a slot: the slot has cost its tenant 256 of its deficit. -/
def State.admitted (s : State) (r slot : Nat) : State :=
  (slotted (s.withDeficit (reqTenant r)) r slot).updFront
    (fun f => { f with deficit := fset f.deficit (reqTenant r) (fget 0 f.deficit (reqTenant r) - 256) })

theorem admitted_slots (s : State) (r slot : Nat) : (s.admitted r slot).front.slots = fset s.front.slots slot r := by
  have h := slotted_front (s.withDeficit (reqTenant r)) r slot
  rw [State.admitted, State.updFront, h]
  rfl

theorem admitted_deficit (s : State) (r slot : Nat) :
    fget 0 (s.admitted r slot).front.deficit (reqTenant r) = deficitNow s (reqTenant r) - 256 := by
  have h := slotted_front (s.withDeficit (reqTenant r)) r slot
  rw [State.admitted, State.updFront, h]
  dsimp only [State.withDeficit, State.updFront]
  rw [fget_fset_self, fget_fset_self]

theorem admitted_fields {s : State} {r slot : Nat} (hq : RecordQuiet s r) (hslot : slot < 4096) :
    rqGet (s.admitted r slot) r rqSTATE = stADMITTED ∧ rqGet (s.admitted r slot) r rqSLOT = slot ∧
    rqGet (s.admitted r slot) r rqPROG = ccnt s % 2 ^ 64 := by
  have hq' : RecordQuiet (s.withDeficit (reqTenant r)) r := (recordQuiet_updFront _).mpr hq
  have h := slotted_fields hq' hslot
  simp only [State.admitted, rqGet_updFront]
  exact h

section Single
variable {s : State} {a : Admit} {r slot cls : Nat}
  (hcand : (allRequests s).filter (fun q => isCandidate s q && rqGet s q rqPRIO == cls) = [r])
  (hslot : freeSlot s = some slot) (hfrees : s.front.frees = []) (hsp : spilledPages s r = 0) (hkept : a.kept = [])
  (hfull : a.full = false)

include hcand hfull in
theorem admitClass_only : admitClass isCandidate (s, a) cls = admitLoop 3 (s.withDeficit (reqTenant r)) (a.only (reqTenant r) r) := by
  rw [admitClass, if_neg (by rw [hfull]; decide), hcand]
  rfl

/-- A tenant has room for a request: a slot and pages of its own are left (R64). -/
def TenantRoom (s : State) (r : Nat) : Prop :=
  slotsHeld s (reqTenant r) < tset s setSLOTQ (reqTenant r) ∧
    (tenantPages s (reqTenant r)).length + wantPages s r ≤ tset s setPAGEQ (reqTenant r)

include hcand hslot hfrees hsp hkept hfull

theorem admitClass_cases : admitClass isCandidate (s, a) cls =
    if slotsHeld s (reqTenant r) ≥ tset s setSLOTQ (reqTenant r) ∨
        tset s setPAGEQ (reqTenant r) < (tenantPages s (reqTenant r)).length + wantPages s r then
      (s.withDeficit (reqTenant r), { a.only (reqTenant r) r with live := [] })
    else if s.front.free.length < wantPages s r then
      (s.withDeficit (reqTenant r), { a.only (reqTenant r) r with full := true })
    else admitLoop 2 ((admitOne (s.withDeficit (reqTenant r)) r slot).updFront
        (fun f => { f with deficit := fset f.deficit (reqTenant r) (fget 0 f.deficit (reqTenant r) - 256) }))
      ((a.only (reqTenant r) r).took (reqTenant r) r slot (wantPages s r)) :=
  (admitClass_only hcand hfull).trans
    (admitLoop_only (n := 2) (s := s.withDeficit (reqTenant r)) (a := a.only (reqTenant r) r) hslot rfl rfl rfl hkept hfrees hsp)

theorem admitClass_noRoom (h : ¬ TenantRoom s r) : admitClass isCandidate (s, a) cls =
    (s.withDeficit (reqTenant r), { a.only (reqTenant r) r with live := [] }) := by
  rw [admitClass_cases hcand hslot hfrees hsp hkept hfull, if_pos]
  rw [TenantRoom, not_and_or, Nat.not_lt, Nat.not_le] at h
  exact h

theorem admitClass_full (h : TenantRoom s r) (hfree : s.front.free.length < wantPages s r) : admitClass isCandidate (s, a) cls =
    (s.withDeficit (reqTenant r), { a.only (reqTenant r) r with full := true }) := by
  obtain ⟨hslots, hpages⟩ := h
  rw [admitClass_cases hcand hslot hfrees hsp hkept hfull, if_neg (not_or.mpr ⟨Nat.not_le.mpr hslots, Nat.not_lt.mpr hpages⟩), if_pos hfree]

theorem admitClass_admits (h : TenantRoom s r) (hfree : wantPages s r ≤ s.front.free.length) (hst : rqGet s r rqSTATE = stQUEUED) :
    ∃ l, admitClass isCandidate (s, a) cls = (s.admitted r slot,
      { (a.only (reqTenant r) r).took (reqTenant r) r slot (wantPages s r) with live := l }) := by
  obtain ⟨hslots, hpages⟩ := h
  rw [admitClass_cases hcand hslot hfrees hsp hkept hfull, if_neg (not_or.mpr ⟨Nat.not_le.mpr hslots, Nat.not_lt.mpr hpages⟩),
    if_neg (Nat.not_lt.mpr hfree), admitOne_queued (by rw [State.withDeficit, rqGet_updFront]; exact hst) (by exact hsp)]
  exact admitLoop_noCandidate (n := 1) rfl (by simp [Admit.took, Admit.only])

end Single

theorem admissionTakesTheOldest : AdmissionTakesTheOldest := by
  refine ⟨fun _ _ _ => largest_most, fun _ _ _ => oldestReq_oldest, ?_⟩
  intro s a r slot cls t out room d hcand hst hslot hfrees hsp hkept hfull
  refine ⟨fun hroom hfree => ?_, fun hroom hfree => ?_, fun hroom => ?_⟩
  · obtain ⟨l, hout⟩ := admitClass_admits hcand hslot hfrees hsp hkept hfull hroom hfree hst
    have hout : out = _ := hout
    rw [hout]
    exact ⟨rfl, hfull, admitted_slots s r slot, admitted_deficit s r slot, fun hq => admitted_fields hq (freeSlot_lt hslot)⟩
  · have hout : out = _ := admitClass_full hcand hslot hfrees hsp hkept hfull hroom hfree
    rw [hout]
    exact ⟨rfl, rfl, rfl, rfl⟩
  · have hout : out = _ := admitClass_noRoom hcand hslot hfrees hsp hkept hfull hroom
    rw [hout]
    exact ⟨hfull, rfl, rfl, rfl⟩

end Sys2Proof.Machine

/-! ### Pages found by eviction (O54; 03 R65 to R67) -/

namespace Sys2Proof.Machine

open Sys2Proof

/-! Which requests may be evicted, and in which order. -/

theorem evictable_iff (s : State) (x : Nat × Nat) : evictable s x = true ↔
    (rqGet s x.2 rqSTATE = stADMITTED ∨ rqGet s x.2 rqSTATE = stRUNNING ∨ rqGet s x.2 rqSTATE = stBLOCKED) ∧
    rqGet s x.2 rqEVCLASS ≠ 0 ∧ rqFlag s x.2 flCommit = false ∧ rqFlag s x.2 flCancel = false := by
  simp only [evictable, Bool.and_eq_true, Bool.or_eq_true, beq_iff_eq, decide_eq_true_eq, Bool.not_eq_true', and_assoc, or_assoc]

/-- The place of a request in the order of eviction: EVCLASS descending, PRIO, PROG and slot ascending. -/
def evictKey (s : State) (x : Nat × Nat) : ℕ ×ₗ ℕ ×ₗ ℕ ×ₗ ℕ :=
  toLex (15 - rqGet s x.2 rqEVCLASS, toLex (rqGet s x.2 rqPRIO, toLex (rqGet s x.2 rqPROG, x.1)))

theorem evictBefore_iff (s : State) (y b : Nat × Nat) : evictBefore s y b = true ↔ evictKey s y < evictKey s b := by
  simp only [evictBefore, evictKey, Prod.Lex.toLex_lt_toLex, Bool.or_eq_true, Bool.and_eq_true, decide_eq_true_eq, beq_iff_eq]

theorem rqEVCLASS_lt (s : State) (r : Nat) : rqGet s r rqEVCLASS < 16 := by
  rw [rqGet_eq]
  exact bitsN_lt _ 31 28

theorem evictKey_le_iff (s : State) (x y : Nat × Nat) : evictKey s x ≤ evictKey s y ↔
    rqGet s y.2 rqEVCLASS < rqGet s x.2 rqEVCLASS ∨ (rqGet s y.2 rqEVCLASS = rqGet s x.2 rqEVCLASS ∧
      (rqGet s x.2 rqPRIO < rqGet s y.2 rqPRIO ∨ (rqGet s x.2 rqPRIO = rqGet s y.2 rqPRIO ∧
      (rqGet s x.2 rqPROG < rqGet s y.2 rqPROG ∨ (rqGet s x.2 rqPROG = rqGet s y.2 rqPROG ∧ x.1 ≤ y.1))))) := by
  have hx := rqEVCLASS_lt s x.2
  have hy := rqEVCLASS_lt s y.2
  have hlt : 15 - rqGet s x.2 rqEVCLASS < 15 - rqGet s y.2 rqEVCLASS ↔ rqGet s y.2 rqEVCLASS < rqGet s x.2 rqEVCLASS := by omega
  have heq : 15 - rqGet s x.2 rqEVCLASS = 15 - rqGet s y.2 rqEVCLASS ↔ rqGet s y.2 rqEVCLASS = rqGet s x.2 rqEVCLASS := by omega
  rw [evictKey, evictKey, Prod.Lex.toLex_le_toLex, Prod.Lex.toLex_le_toLex, Prod.Lex.toLex_le_toLex, hlt, heq]

theorem firstEvicted_least {s : State} {l : List (Nat × Nat)} {x : Nat × Nat} (h : firstEvicted s l = some x) :
    x ∈ l ∧ ∀ y ∈ l, evictKey s x ≤ evictKey s y := by
  cases l with
  | nil => exact absurd h (Option.some_ne_none x).symm
  | cons z l =>
    obtain rfl := Option.some.inj h
    obtain ⟨hmem, hleast⟩ := foldl_least (evictKey s) (fun b y => evictBefore_iff s y b) (r := fun _ _ => True)
      (fun _ _ _ _ _ => trivial) l z
    exact ⟨hmem, fun y hy => (hleast y hy).1⟩

/-! What an eviction leaves (R67). -/

/-- A request out of its slot, its moves undone. -/
def evictBegun (s : State) (slot r : Nat) : State :=
  undoMoves (rqPuts ((dropRows s slot).updFront (fun f => { f with slots := fdel f.slots slot })) r
    [(rqSTATE, stSUSPENDED), (rqSLOT, 0xFFFF)]) r

/-- All of an evicted request's pages dropped: it is rebuilt from its first position. -/
def evictDropped (s : State) (r : Nat) : State :=
  let t := rqSetFlag (freePages s r) r flSpilled false
  setFrontReq t r { frontReq t r with rebuild := if rqGet t r rqPOS = 0 then none else some 0 }

/-- A request's pages outside the spill pool, with their indices. -/
def hbmPages (s : State) (r : Nat) : List (Nat × KvPage) :=
  (List.zip (List.range (frontReq s r).pages.length) (frontReq s r).pages).filter (fun x => !x.2.spill)

theorem evict_eq (s : State) (slot r : Nat) : evict s slot r =
    if (tset (evictBegun s slot r) setEVPOL (reqTenant r) = 0 && Config.isModule &&
        (hbmPages (evictBegun s slot r) r).length ≤ (freeSpill (evictBegun s slot r) (reqTenant r)).length) = true then
      spillOut (evictBegun s slot r) r (hbmPages (evictBegun s slot r) r)
    else evictDropped (evictBegun s slot r) r := rfl

theorem evictBegun_roster (s : State) (slot r : Nat) :
    RosterSame ((dropRows s slot).updFront (fun f => { f with slots := fdel f.slots slot })) (evictBegun s slot r) :=
  (rosterSame_rqPuts ..).trans (rosterSame_undoMoves ..)

theorem evictDropped_slots (s : State) (r : Nat) : (evictDropped s r).front.slots = s.front.slots :=
  ((freePages_roster s r).trans (rosterSame_rqSetFlag ..)).slots

theorem evictDropped_pages (s : State) (r : Nat) : (frontReq (evictDropped s r) r).pages = [] := by
  unfold evictDropped
  extract_lets t
  rw [frontReq_setFrontReq]
  have ht : frontReq t r = frontReq (freePages s r) r := (rosterSame_rqSetFlag ..).frontReq_eq r
  exact congrArg FrontReq.pages (ht.trans (frontReq_freePages s r))

theorem evict_slots (s : State) (slot r : Nat) : (evict s slot r).front.slots = fdel s.front.slots slot := by
  have hbegun : (evictBegun s slot r).front.slots = fdel s.front.slots slot := (evictBegun_roster s slot r).slots
  rw [evict_eq]
  split
  · exact (rosterSame_spillOut ..).slots.trans hbegun
  · exact (evictDropped_slots ..).trans hbegun

theorem evict_drops {s : State} {r : Nat} (slot : Nat) (h : tset s setEVPOL (reqTenant r) ≠ 0) :
    (frontReq (evict s slot r) r).pages = [] := by
  have hpol : tset (evictBegun s slot r) setEVPOL (reqTenant r) ≠ 0 := by
    rw [(evictBegun_roster s slot r).tset_eq]
    exact h
  rw [evict_eq, if_neg (by simp [hpol])]
  exact evictDropped_pages ..

section Suspended
variable {s : State} {r : Nat} (slot : Nat) (hm : s.front.moves = []) (hp : (frontReq s r).pages = []) (hq : RecordQuiet s r)
include hm hp hq

theorem evictBegun_idle : (evictBegun s slot r).front.moves = [] ∧ (frontReq (evictBegun s slot r) r).pages = [] ∧
    RecordQuiet (evictBegun s slot r) r ∧ rqGet (evictBegun s slot r) r rqSTATE = stSUSPENDED ∧
    rqGet (evictBegun s slot r) r rqSLOT = 0xFFFF := by
  have hroster := evictBegun_roster s slot r
  have hq' : RecordQuiet ((dropRows s slot).updFront (fun f => { f with slots := fdel f.slots slot })) r := hq
  have hm' : ((dropRows s slot).updFront (fun f => { f with slots := fdel f.slots slot })).front.moves = [] := hm
  have hmoves (l : List (Nat × Nat)) :
      (rqPuts ((dropRows s slot).updFront (fun f => { f with slots := fdel f.slots slot })) r l).front.moves = [] := by
    rw [eq_of_besideLines State.front (fun _ => rfl) (rqPuts_besideLines ..)]
    exact hm'
  have hl : ∀ x ∈ [(rqSTATE, stSUSPENDED), (rqSLOT, 0xFFFF)], x.1 ≤ 43 := by decide
  have hbegun : evictBegun s slot r = rqPuts _ r _ := undoMoves_none r (hmoves _)
  refine ⟨?_, (congrArg FrontReq.pages (hroster.frontReq_eq r)).trans hp, ?_⟩ <;> rw [hbegun]
  · exact hmoves _
  · exact ⟨(recordQuiet_rqPuts hq' hl).mpr hq', rqGet_rqPuts_some (k := rqSTATE) hq' hl (by decide) rfl,
      rqGet_rqPuts_some (k := rqSLOT) hq' hl (by decide) rfl⟩

/-- An evicted request without pages is SUSPENDED and holds no slot. -/
theorem evict_suspends : rqGet (evict s slot r) r rqSTATE = stSUSPENDED ∧ rqGet (evict s slot r) r rqSLOT = 0xFFFF := by
  obtain ⟨hm', hp', hq', hstate, hslot⟩ := evictBegun_idle slot hm hp hq
  rw [evict_eq]
  split
  · have hnone : hbmPages (evictBegun s slot r) r = [] := by rw [hbmPages, hp']; rfl
    rw [hnone]
    exact ⟨hstate, hslot⟩
  · have hfree := recordQuiet_freePages hm' hp' hq'
    have hkeep {k : Nat} (hk : k ≤ 43) (hpages : k ≠ rqKVPAGES) (hflags : k ≠ rqFLAGS) :
        rqGet (evictDropped (evictBegun s slot r) r) r k = rqGet (evictBegun s slot r) r k := by
      rw [evictDropped, rqGet_setFrontReq, rqSetFlag, rqGet_rqPut_ne hfree (by decide) hk hflags, rqGet_freePages hm' hp' hq' hk hpages]
    rw [hkeep (by decide) (by decide) (by decide), hkeep (by decide) (by decide) (by decide)]
    exact ⟨hstate, hslot⟩

end Suspended

/-! A request's pages found (R66). -/

/-- A tenant's page quota falls short of pages that a request needs. -/
def quotaShort (s : State) (r need : Nat) : Bool :=
  decide (tset s setPAGEQ (reqTenant r) < (tenantPages s (reqTenant r)).length + need)

/-- The requests that may be evicted for the pages of a request. -/
def victims (s : State) (r need : Nat) : List (Nat × Nat) :=
  (s.front.slots.filter (evictable s)).filter (fun x => !quotaShort s r need || reqTenant x.2 == reqTenant r)

section Pages
variable {s : State} {slot r n : Nat} {p : Plan} (hplan : s.front.plan = some p) (hslot : slotReq s slot = some r)
  (hfrees : s.front.frees = []) (hmoves : s.front.moves = []) (hneed : needPages s p.rows slot r ≠ 0)
include hplan hslot hfrees hmoves hneed

theorem getPages_eq : getPages slot r (n + 1) s =
    if (!quotaShort s r (needPages s p.rows slot r) && decide (needPages s p.rows slot r ≤ s.front.free.length)) = true then
      (mapPages slot r (needPages s p.rows slot r) s, false)
    else match firstEvicted s (victims s r (needPages s p.rows slot r)) with
      | some v => getPages slot r n (evict s v.1 v.2)
      | none => (freePages (dropRows (slotFault s.free.2 slot fcKV_EXHAUSTED s.free.1) slot) r, false) := by
  rw [getPages]
  split
  case h_2 hno => exact absurd hslot (hno p r hplan)
  case h_1 plan r' hplan' hslot' =>
  obtain rfl := Option.some.inj (hplan.symm.trans hplan')
  obtain rfl := Option.some.inj (hslot.symm.trans hslot')
  extract_lets need u t short
  rw [if_neg (not_or.mpr ⟨not_not.mpr rfl, hneed⟩)]
  have hu : u = s := settleFrees_none hfrees
  clear_value u
  subst hu
  split
  · next h => exact (if_pos h).symm
  · next h =>
    rw [if_neg (by
      intro hmore
      rw [hmoves] at hmore
      exact h hmore)]
    refine .trans ?_ (if_neg h).symm
    rfl

include hslot in
omit hplan hfrees hmoves hneed in
/-- A request that gets no page is faulted, and its pages are freed. -/
theorem exhausted_front (info : Word) : (frontReq (freePages (dropRows (slotFault s.free.2 slot fcKV_EXHAUSTED info) slot) r) r).pages = [] ∧
    slot ∈ (freePages (dropRows (slotFault s.free.2 slot fcKV_EXHAUSTED info) slot) r).front.faulted := by
  refine ⟨congrArg FrontReq.pages (frontReq_freePages ..), ?_⟩
  rw [(freePages_roster _ r).faulted]
  obtain ⟨at_, hfault⟩ := slotFault_held (s := s.free.2) fcKV_EXHAUSTED info hslot
  change slot ∈ (slotFault s.free.2 slot fcKV_EXHAUSTED info).front.faulted
  rw [hfault]
  exact mem_insertAsc.mpr (Or.inl rfl)

end Pages

theorem pagesAreFoundByEviction : PagesAreFoundByEviction := by
  refine ⟨evictable_iff, fun s l x h => ?_, fun s slot r n p v => ?_⟩
  · obtain ⟨hmem, hleast⟩ := firstEvicted_least h
    exact ⟨hmem, fun y hy => (evictKey_le_iff s x y).mp (hleast y hy)⟩
  · intro t need short cands out e
    refine ⟨⟨evict_slots s slot r, evict_drops slot, evict_suspends slot⟩, fun hplan hslot hfrees hmoves hneed => ?_⟩
    have heq : out = _ := getPages_eq (n := n) hplan hslot hfrees hmoves hneed
    refine ⟨fun hs hf => heq.trans (if_pos ?_), fun hno => ⟨fun hv => ?_, fun hv => ?_⟩⟩
    · rw [show quotaShort s r need = false from hs, decide_eq_true hf]
      rfl
    all_goals
      rw [if_neg (by
        intro hyes
        obtain ⟨hshort, hfree⟩ := (Bool.and_eq_true ..).mp hyes
        rcases hno with hs | hs
        · rw [show quotaShort s r need = true from hs] at hshort
          exact Bool.false_ne_true hshort
        · exact absurd (of_decide_eq_true hfree) (Nat.not_le.mpr hs)),
        show firstEvicted s (victims s r need) = _ from hv] at heq
    · exact heq
    · rw [heq]
      exact ⟨rfl, exhausted_front hslot _⟩

/-- Settles O54, part by part: steps and pages, serving control, deferred records, outcomes, admission, rows, evictions. -/
theorem theFrontRunsSteps : Obligations.TheFrontRunsSteps :=
  ⟨stepsAndPages, servingTurnsOnAndOff, deferredRecordsAreRetried, outcomesComeInOrder, admissionTakesTheOldest, rowsAreChosen,
    pagesAreFoundByEviction⟩

end Sys2Proof.Machine

/-! ### The candidate order (O32; 04 R83) -/

namespace Sys2Proof.Machine

open Sys2Proof

/-- What candidates are ordered by: their values descending, then their tokens ascending. -/
def candRank (c : Cand) : Int ×ₗ Nat := toLex (candKey c.1, c.2)

theorem candLt_iff (a b : Cand) : candLt a b = true ↔ candRank a < candRank b := by
  simp [candLt, candRank, Prod.Lex.toLex_lt_toLex]

theorem candLt_eq_false_iff (a b : Cand) : candLt a b = false ↔ candRank b ≤ candRank a := by
  rw [← not_lt, ← candLt_iff, Bool.not_eq_true]

/-- Two candidates of which neither comes before the other. -/
def candTies (a b : Cand) : Bool := !candLt a b && !candLt b a

theorem candTies_iff (a b : Cand) : candTies a b = true ↔ candRank a = candRank b := by
  rw [candTies, Bool.and_eq_true, Bool.not_eq_true', Bool.not_eq_true', candLt_eq_false_iff, candLt_eq_false_iff, and_comm,
    le_antisymm_iff]

theorem candInsert_perm (c : Cand) (l : List Cand) : (candInsert c l).Perm (c :: l) := by
  induction l with
  | nil => exact .refl _
  | cons a t ih =>
    rw [candInsert]
    split
    · exact .refl _
    · exact (ih.cons a).trans (.swap c a t)

/-- A list in the candidate order. -/
def CandOrdered (l : List Cand) : Prop := l.Pairwise (fun x y => candRank x ≤ candRank y)

theorem candInsert_ordered {l : List Cand} (c : Cand) (h : CandOrdered l) : CandOrdered (candInsert c l) := by
  induction l with
  | nil => exact List.pairwise_singleton ..
  | cons a t ih =>
    obtain ⟨ha, ht⟩ := List.pairwise_cons.mp h
    rw [candInsert]
    split
    · next hlt =>
      have hca : candRank c ≤ candRank a := ((candLt_iff c a).mp hlt).le
      refine List.pairwise_cons.mpr ⟨fun y hy => ?_, h⟩
      rcases List.mem_cons.mp hy with rfl | hy
      · exact hca
      · exact hca.trans (ha y hy)
    · next hnlt =>
      have hac : candRank a ≤ candRank c := (candLt_eq_false_iff c a).mp (Bool.eq_false_iff.mpr hnlt)
      refine List.pairwise_cons.mpr ⟨fun y hy => ?_, ih ht⟩
      rcases List.mem_cons.mp ((candInsert_perm c t).mem_iff.mp hy) with rfl | hy
      · exact hac
      · exact ha y hy

/-- A candidate is placed after those that it ties with. -/
theorem candInsert_filter_ties {l : List Cand} (c x : Cand) (h : CandOrdered l) :
    (candInsert x l).filter (candTies c) = l.filter (candTies c) ++ [x].filter (candTies c) := by
  induction l with
  | nil => rfl
  | cons a t ih =>
    obtain ⟨ha, ht⟩ := List.pairwise_cons.mp h
    rw [candInsert]
    split
    case isFalse => rw [List.filter_cons, List.filter_cons, ih ht]; split <;> rfl
    case isTrue hlt =>
      rw [List.filter_cons]
      split
      case isFalse hx => simp [hx]
      case isTrue hx =>
        have hafter : ∀ y ∈ a :: t, ¬ candTies c y = true := fun y hy htie => by
          have hay : candRank a ≤ candRank y := by
            rcases List.mem_cons.mp hy with rfl | hy
            · exact le_rfl
            · exact ha y hy
          have hxa := (candLt_iff x a).mp hlt
          rw [← (candTies_iff c x).mp hx, (candTies_iff c y).mp htie] at hxa
          exact absurd hay (not_le.mpr hxa)
        rw [List.filter_eq_nil_iff.mpr hafter, List.filter_singleton, hx]
        rfl

theorem candSort_concat (l : List Cand) (c : Cand) : candSort (l ++ [c]) = candInsert c (candSort l) := by
  rw [candSort, List.foldl_append]
  rfl

theorem candSort_perm (l : List Cand) : (candSort l).Perm l := by
  induction l using List.reverseRecOn with
  | nil => exact .refl _
  | append_singleton l c ih =>
    rw [candSort_concat]
    exact (candInsert_perm c _).trans ((ih.cons c).trans (List.perm_append_singleton c l).symm)

theorem candSort_ordered (l : List Cand) : CandOrdered (candSort l) := by
  induction l using List.reverseRecOn with
  | nil => exact List.Pairwise.nil
  | append_singleton l c ih =>
    rw [candSort_concat]
    exact candInsert_ordered c ih

/-- Sorting keeps the order of candidates that tie. -/
theorem candSort_filter_ties (c : Cand) (l : List Cand) : (candSort l).filter (candTies c) = l.filter (candTies c) := by
  induction l using List.reverseRecOn with
  | nil => rfl
  | append_singleton l x ih => rw [candSort_concat, candInsert_filter_ties c x (candSort_ordered l), ih, List.filter_append]

end Sys2Proof.Machine

/-! ### Lanes of a register made of elements (19 R435) -/

namespace Sys2Proof.Machine

open Sys2Proof

theorem packW_element (w : Nat) (l : List Nat) (i : Nat) : packW w l / 2 ^ (w * i) % 2 ^ w = l.getD i 0 % 2 ^ w := by
  induction l generalizing i with
  | nil => simp [packW]
  | cons x xs ih =>
    have hx : x % 2 ^ w < 2 ^ w := Nat.mod_lt _ (Nat.two_pow_pos w)
    cases i with
    | zero => simp [packW]
    | succ i =>
      rw [packW, Nat.mul_succ, Nat.add_comm (w * i), Nat.pow_add, ← Nat.div_div_eq_div_mul, Nat.add_mul_div_left _ _ (Nat.two_pow_pos w),
        Nat.div_eq_of_lt hx, Nat.zero_add, ih]
      rfl

/-- An element within a register that was made of a list. -/
theorem elem_vregOf {w i : Nat} (l : List Nat) (hw : 0 < w) (hi : w * i + w ≤ 512) : elem w (vregOf w l) i = l.getD i 0 % 2 ^ w := by
  have hwidth : w * i + w - 1 + 1 - w * i = w := by omega
  have hfit : 512 = w * i + (512 - w * i) := by omega
  rw [elem, bitsN, hwidth, vregOf, BitVec.toNat_ofNat, hfit, Nat.pow_add, Nat.mod_mul_right_div_self,
    Nat.mod_mod_of_dvd _ (Nat.pow_dvd_pow 2 (by omega)), packW_element]

theorem lane_vregOf {i : Nat} (l : List Nat) (hi : i < 16) : lane (vregOf 32 l) i = l.getD i 0 % 2 ^ 32 :=
  elem_vregOf l (by decide) (by omega)

theorem lane_lt (v : VReg) (i : Nat) : lane v i < 2 ^ 32 := by
  have h := bitsN_lt v.toNat (32 * i + 32 - 1) (32 * i)
  rwa [show 32 * i + 32 - 1 + 1 - 32 * i = 32 by omega] at h

/-! Vector registers written leave the issuing strand as it is. -/

theorem quiet_wV {s : State} (h : s.quiet) (n : Nat) (v : VReg) : (s.wV n v).quiet := h

theorem quiet_wVs {s : State} (h : s.quiet) (n : Nat) (vs : List VReg) : (s.wVs n vs).quiet := by
  induction vs generalizing s n with
  | nil => exact h
  | cons v vs ih => exact ih (quiet_wV h n v) (n + 1)

theorem wVs_cur (s : State) (n : Nat) (vs : List VReg) : (s.wVs n vs).cur = s.cur := by
  induction vs generalizing s n with
  | nil => rfl
  | cons v vs ih => exact ih (s.wV n v) (n + 1)

end Sys2Proof.Machine

/-! ### VTOPK (O32; 19 R443) -/

namespace Sys2Proof.Machine

open Sys2Proof

/-- A candidate whose value and token are 32-bit words. -/
def CandFits (c : Cand) : Prop := c.1 < 2 ^ 32 ∧ c.2 < 2 ^ 32

/-- The record that stands where a list has no more candidates. -/
def emptyCand : Cand := (0, 0xFFFFFFFF)

theorem emptyCand_fits : CandFits emptyCand := ⟨by decide, by decide⟩

theorem candsOf_fits {vs : List VReg} {c : Cand} (h : c ∈ candsOf vs) : CandFits c := by
  obtain ⟨v, -, hv⟩ := List.mem_flatMap.mp (List.mem_filter.mp h).1
  obtain ⟨q, -, rfl⟩ := List.mem_map.mp hv
  exact ⟨lane_lt v _, lane_lt v _⟩

/-- The candidates of the active lanes that VTOPK takes: those of a finite value and a token that is not the empty record's. -/
def newCands (va vb : VReg) (m : BitVec 16) : List Cand :=
  ((List.range 16).filter (fun l => m.getLsbD l)).filterMap (fun l =>
    let v := lane va l
    let tok := lane vb l
    if v % 2 ^ 31 < 0x7F800000 ∧ tok ≠ 0xFFFFFFFF then some (v, tok) else none)

theorem newCands_fits {va vb : VReg} {m : BitVec 16} {c : Cand} (h : c ∈ newCands va vb m) : CandFits c := by
  obtain ⟨l, -, hl⟩ := List.mem_filterMap.mp h
  obtain ⟨-, hc⟩ := Option.ite_none_right_eq_some.mp hl
  obtain rfl := Option.some.inj hc
  exact ⟨lane_lt va l, lane_lt vb l⟩

theorem newCands_eq (va vb : VReg) (m : BitVec 16) :
    newCands va vb m = (((List.range 16).filter (fun l => m.getLsbD l)).map (fun l => (lane va l, lane vb l))).filter
      (fun c => !notFinite32 c.1 && c.2 != 0xFFFFFFFF) := by
  rw [newCands]
  generalize (List.range 16).filter (fun l => m.getLsbD l) = active
  rw [← List.filterMap_eq_filter, List.filterMap_map]
  refine List.filterMap_congr fun l _ => ?_
  simp [notFinite32, Option.guard]

/-- The registers that hold the first 64 records of a list, empty records after its last. -/
def topkRegs (l : List Cand) : List VReg :=
  (List.range 8).map (fun j => vregOf 32
    ((slice ((List.range 64).map (fun q => l.getD q emptyCand)) (8 * j) 8).flatMap (fun c => [c.1, c.2])))

/-- VTOPK leaves the records sorted in its eight registers. -/
theorem opVtopk_eq (vd va vb : VNum) (km : KReg) (s : State) : opVtopk vd va vb km s = .done (s.wVs vd.toNat (topkRegs
    (candSort (candsOf ((List.range 8).map (fun j => s.rV (vd.toNat + j))) ++ newCands (s.rV va.toNat) (s.rV vb.toNat) (s.rK km))))) := by
  rw [newCands_eq]
  rfl

theorem getD_pairs (l : List Cand) (r : Nat) :
    (l.flatMap (fun c => [c.1, c.2])).getD (2 * r) 0 = (l.getD r (0, 0)).1 ∧
    (l.flatMap (fun c => [c.1, c.2])).getD (2 * r + 1) 0 = (l.getD r (0, 0)).2 := by
  induction l generalizing r with
  | nil => exact ⟨rfl, rfl⟩
  | cons c l ih =>
    cases r with
    | zero => exact ⟨rfl, rfl⟩
    | succ r => exact ih r

theorem slice_records (l : List Cand) {q : Nat} (hq : q < 64) :
    (slice ((List.range 64).map (fun q => l.getD q emptyCand)) (8 * (q / 8)) 8).getD (q % 8) (0, 0) = l.getD q emptyCand := by
  have hplace : 8 * (q / 8) + q % 8 = q := Nat.div_add_mod q 8
  have hin : q % 8 < 8 := Nat.mod_lt _ (by decide)
  rw [List.getD_eq_getElem?_getD, slice, List.getElem?_take_of_lt hin, List.getElem?_drop, hplace, List.getElem?_map,
    List.getElem?_range hq]
  rfl

/-- Record `q` of the registers is the list's record `q`. -/
theorem topkRegs_record {l : List Cand} (h : ∀ c ∈ l, CandFits c) {q : Nat} (hq : q < 64) :
    (lane ((topkRegs l).getD (q / 8) 0#512) (2 * (q % 8)), lane ((topkRegs l).getD (q / 8) 0#512) (2 * (q % 8) + 1)) =
      l.getD q emptyCand := by
  obtain ⟨hvalue, htoken⟩ : CandFits (l.getD q emptyCand) := by
    rw [List.getD_eq_getElem?_getD]
    cases hl : l[q]? with
    | none => exact emptyCand_fits
    | some c => exact h c (List.mem_of_getElem? hl)
  have hj : q / 8 < 8 := by omega
  rw [topkRegs, List.getD_eq_getElem?_getD, List.getElem?_map, List.getElem?_range hj, Option.map_some, Option.getD_some,
    lane_vregOf _ (by omega), lane_vregOf _ (by omega), (getD_pairs _ _).1, (getD_pairs _ _).2, slice_records l hq,
    Nat.mod_eq_of_lt hvalue, Nat.mod_eq_of_lt htoken]

/-- Settles O32: insertion after the candidates that tie is a stable sort, and the registers hold the sorted list's first records. -/
theorem topKKeepsTheBestCandidates : Obligations.TopKKeepsTheBestCandidates := by
  refine ⟨fun l => ⟨candSort_perm l, ?ordered, fun c => candSort_filter_ties c l⟩, ?regs⟩
  case ordered => exact (candSort_ordered l).imp (fun {x y} h => (candLt_eq_false_iff y x).mpr h)
  case regs =>
    intro s g vd va vb km hquiet hruns old new
    have hfits : ∀ c ∈ candSort (old ++ new), CandFits c := fun c hc =>
      (List.mem_append.mp ((candSort_perm _).mem_iff.mp hc)).elim candsOf_fits newCands_fits
    refine ⟨topkRegs (candSort (old ++ new)), rfl, ?_, fun q hq => topkRegs_record hfits hq⟩
    change issue _ g (opVtopk vd va vb km) s = _
    rw [issue_runs _ hruns, opVtopk_eq, settle_done_gone _ (wVs_cur ..) (quiet_wVs hquiet ..)]
    rfl

end Sys2Proof.Machine

/-! ### Reads of near memory that park (15 R342; 17 R385) -/

namespace Sys2Proof.Machine

open Sys2Proof

/-- A piece that lies in near memory of the issuing strand's cluster. -/
def Piece.inNearBank (p : Piece) : Prop := ∃ key, p.place = .bank key false

theorem askFor_nearBank {s : State} {ps : List Piece} (h : ∀ p ∈ ps, p.inNearBank) : askFor s ps = s := by
  induction ps with
  | nil => rfl
  | cons p ps ih =>
    obtain ⟨key, hplace⟩ := h p (List.mem_cons_self ..)
    rw [askFor]
    simp only [hplace]
    exact ih (fun q hq => h q (List.mem_cons_of_mem _ hq))

/-- Near memory of which no piece has been read ahead is read as it is. -/
theorem piecesRead_nearBank {s : State} {ps : List Piece} (n : Nat) (hparts : s.me.pparts = []) (h : ∀ p ∈ ps, p.inNearBank) :
    piecesRead s n ps = (s, some (nearRead s ps)) := by
  induction ps generalizing n with
  | nil => rfl
  | cons p ps ih =>
    obtain ⟨key, hplace⟩ := h p (List.mem_cons_self ..)
    have hone : partRead s n p = (s, some (memGet s key p.len)) := by
      simp [partRead, hparts, fget?, pieceRead, hplace]
    simp only [piecesRead, hone, ih (n + 1) (fun q hq => h q (List.mem_cons_of_mem _ hq)), nearRead, List.map_cons, hplace]

theorem unboard_free {s : State} {ps : List Piece} (h : ∀ p ∈ ps, p.onBoard s = false) : unboard s ps = .ok ps := by
  have hnone : ps.any (fun p => p.onBoard s) = false := List.any_eq_false.mpr (fun p hp => Bool.eq_false_iff.mp (h p hp))
  rw [unboard, hnone, if_neg Bool.false_ne_true]

theorem readBytes_add (m : Memory) (a n k : Nat) : readBytes m a (n + k) = readBytes m a n ++ readBytes m (a + n) k := by
  induction n generalizing a with
  | zero => rw [Nat.zero_add]; rfl
  | succ n ih => rw [Nat.succ_add, readBytes, ih, readBytes, List.cons_append, Nat.add_assoc a, Nat.add_comm 1]

/-- Bytes read as words one after another. -/
theorem readBytes_words (m : Memory) (a n : Nat) :
    (List.range n).flatMap (fun j => readBytes m (a + 8 * j) 8) = readBytes m a (8 * n) := by
  induction n with
  | zero => rfl
  | succ n ih => rw [List.range_succ, List.flatMap_append, ih, List.flatMap_singleton, Nat.mul_succ, readBytes_add]

/-- A reply whose operation completes. -/
theorem accessReply_done {s t : State} {i : Instr} {f : State → Res} (rp : Reply) (hrep : Replied s i)
    (hop : replyOp (some rp) i = some f) (hdone : f s = .done t) (hcur : t.cur = s.cur) (hquiet : t.quiet) :
    exec (.accessReply s.coreId s.slotId rp) s = .next t.gone := by
  obtain ⟨hscur, hwaits⟩ := hrep
  rw [accessReply_settles rp hscur hwaits hop, hdone, settle_done_gone _ hcur hquiet]

end Sys2Proof.Machine

/-! ### SAMPLE (O46; 04 R85; 19 R422, R423) -/

namespace Sys2Proof.Machine

open Sys2Proof

/-- The words of a candidate list in near memory. -/
theorem listPieces_bank (key : Nat) : listPieces (.bank key false) =
    (List.range 64).map (fun j => { off := 8 * j, len := 8, place := .bank (key + 8 * j) false }) := rfl

theorem listPieces_inNearBank (key : Nat) : ∀ p ∈ listPieces (.bank key false), p.inNearBank := by
  intro p hp
  obtain ⟨j, -, rfl⟩ := List.mem_map.mp hp
  exact ⟨_, rfl⟩

theorem nearRead_listPieces (s : State) (key : Nat) : (nearRead s (listPieces (.bank key false))).flatMap (·.2) = memGet s key 512 := by
  rw [nearRead, listPieces_bank, List.map_map, List.flatMap_map]
  exact readBytes_words s.mem key 64

theorem listPieces_clean {s : State} {key : Nat} (h : ∀ a, key ≤ a → a < key + 512 → fget? s.soft (wordOf a) = none) :
    ∀ w ∈ (listPieces (.bank key false)).flatMap (·.words s), fget? s.soft w = none := by
  intro w hw
  obtain ⟨p, hp, hw⟩ := List.mem_flatMap.mp hw
  obtain ⟨j, hj, rfl⟩ := List.mem_map.mp hp
  have hj : j < 64 := List.mem_range.mp hj
  rw [List.mem_singleton.mp hw]
  exact h _ (by omega) (by omega)

theorem lookupKeys_sample {s : State} (g : Guard) (pd : PReg) (sd sa sb sc : SReg) (h : fget? s.soft (maskKey s.cluId) = none) :
    ∀ k ∈ lookupKeys s (.sample g pd sd sa sb sc), fget? s.soft k = none := by
  intro k hk
  rw [lookupKeys] at hk
  split at hk
  · nomatch hk
  · rwa [List.mem_singleton.mp hk]

theorem exec_sample {s : State} {g : Guard} (pd : PReg) (sd sa sb sc : SReg) (h : s.guarded g)
    (hmask : fget? s.soft (maskKey s.cluId) = none) : exec (.sample g pd sd sa sb sc) s =
      .next (settle s ((encodeTile (.sample g pd sd sa sb sc)).getD 0) (opSample pd sd sa sb sc none s)) :=
  issue_scalar (i := .sample g pd sd sa sb sc) _ rfl (readKeys_clean h rfl rfl rfl rfl (lookupKeys_sample g pd sd sa sb sc hmask)) h.1

/-- A candidate list passes the checks of SAMPLE and lies in near memory from `key` on, and no comparator meets it (R423). -/
def ListPasses (s : State) (p c : Word) (key : Nat) : Prop :=
  checkSpace s (fun t => t == 1 || t == 2 || t == 3) p = none ∧ p.toNat % 8 = 0 ∧ boundsStop s p 512 p = none ∧
  localPlace s p 512 = some (.bank key false) ∧ fld c 63 24 = 0 ∧ dataMatch s true false p.toNat 512 = none

theorem opSample_passes {s : State} {sa sb sc : SReg} {r key : Nat} (pd : PReg) (sd : SReg) (rp : Option Reply)
    (hheld : SlotHeld s (s.rS sa).toNat r) (h : ListPasses s (s.rS sb) (s.rS sc) key) :
    opSample pd sd sa sb sc rp s = loadThen rp true (listPieces (.bank key false)) s
      (fun _ l s => sampleDo pd sd r (fld (s.rS sc) 23 0) (candRecords 64 (l.flatMap (·.2))) s) := by
  obtain ⟨hspace, halign, hbounds, hplace, hpos, hmatch⟩ := h
  have hstop : firstStop [checkSpace s (fun t => t == 1 || t == 2 || t == 3) (s.rS sb), alignStop (s.rS sb) 8,
      boundsStop s (s.rS sb) 512 (s.rS sb)] = none := by
    rw [hspace, alignStop, if_neg (not_not.mpr halign), hbounds]
    rfl
  rw [opSample, onSlot_held hheld]
  simp only [hstop, hpos, hmatch, hplace, ne_eq, not_true_eq_false, if_false, Option.map_some, Option.getD_some]

/-- Words that hold no soft error are read, and what follows goes on. -/
theorem recThen_clean {s : State} {r : Nat} {fs : List Nat} (k : State → Res) (h : ∀ f ∈ fs, fget? s.soft (rqWord s r f) = none) :
    recThen s r fs k = k s := by
  rw [recThen, eccScan_clean s s.cluId _ (List.forall_mem_map.mpr h)]

/-- SAMPLE's answer: its status and a token. -/
def sampleAnswer (s : State) (pd : PReg) (sd : SReg) (st tok : Nat) : State :=
  (s.wS sd (w64 (st * 2 ^ 32 + tok % 2 ^ 32))).wP pd (st == 0)

section Records

variable {s : State} {r pos : Nat} {recs : List (Nat × Nat)} (pd : PReg) (sd : SReg)

theorem sampleDo_bad (h : (recs.any (fun x => !fFinite x.1) || !candSorted recs) = true) :
    sampleDo pd sd r pos recs s = .done (sampleAnswer s pd sd 2 0xFFFFFFFF) := if_pos h

theorem sampleDo_empty : sampleDo pd sd r pos [] s = .done (sampleAnswer s pd sd 1 0xFFFFFFFF) := rfl

theorem sampleDo_token (hgood : (recs.any (fun x => !fFinite x.1) || !candSorted recs) = false) (hsome : recs ≠ [])
    (hfields : sampleFieldsOk (rqGet s r rqTEMP) (rqGet s r rqTOPK) (rqGet s r rqTOPP) = true)
    (hclean : ∀ f ∈ [rqTEMP, rqTOPP, rqTOPK, rqSEED, rqID], fget? s.soft (rqWord s r f) = none) :
    sampleDo pd sd r pos recs s = .done (sampleAnswer s pd sd 0 (sampleToken recs (rqGet s r rqTEMP) (rqGet s r rqTOPK)
      (rqGet s r rqTOPP) (rqGet s r rqSEED) (rqGet s r rqID) pos)) := by
  have hne : recs.isEmpty = false := List.isEmpty_eq_false_iff.mpr hsome
  simp only [sampleDo, hgood, hne, recThen_clean _ hclean, hfields, Bool.false_eq_true, if_false, if_true]
  rfl

end Records

/-- At its reply SAMPLE acts on the records of its list. -/
theorem opSample_replied {s : State} {sa sb sc : SReg} {r key : Nat} (pd : PReg) (sd : SReg) (rp : Reply)
    (hheld : SlotHeld s (s.rS sa).toNat r) (hlist : ListPasses s (s.rS sb) (s.rS sc) key) (htx : myTxs s s.coreId s.slotId = [])
    (hclean : ∀ a, key ≤ a → a < key + 512 → fget? s.soft (wordOf a) = none) (hparts : s.me.pparts = []) (hpart : s.part = none) :
    opSample pd sd sa sb sc (some rp) s = sampleDo pd sd r (fld (s.rS sc) 23 0) (candRecords 64 (memGet s key 512)) s := by
  rw [opSample_passes pd sd _ hheld hlist, loadThen_replied rp true _ hpart htx
    (piecesRead_nearBank 0 hparts (listPieces_inNearBank key)) (listPieces_clean hclean) htx, nearRead_listPieces]

/-- Settles O46: the issue parks on the 64 words of the list, and the reply answers by the records before its end record. -/
theorem sampleAnswersAToken : Obligations.SampleAnswersAToken := by
  intro s g pd sd sa sb sc r key rp hg hquiet i p recs ps bad rq ans hheld hspace halign hbounds hplace hpos hmatch htx _ hmask
  have hlist : ListPasses s (s.rS sb) (s.rS sc) key := ⟨hspace, halign, hbounds, hplace, hpos, hmatch⟩
  refine ⟨fun hboard => ?issue, fun hclean hrep hparts hpart => ?reply⟩
  case issue =>
    rw [exec_sample pd sd sa sb sc hg hmask, opSample_passes pd sd none hheld hlist, loadThen_parks _ rfl (unboard_free hboard) htx,
      askFor_nearBank (listPieces_inNearBank key), settle_awaitReply _ _ rfl]
  case reply =>
    have answered : ∀ st tok, sampleDo pd sd r (fld (s.rS sc) 23 0) recs s = .done (ans st tok) →
        exec (.accessReply s.coreId s.slotId rp) s = .next (ans st tok).gone := fun st tok h =>
      accessReply_done rp hrep rfl ((opSample_replied pd sd rp hheld hlist htx hclean hparts hpart).trans h) rfl
        (quiet_wP (quiet_wS hquiet ..) ..)
    refine ⟨fun hbad => answered _ _ (sampleDo_bad pd sd hbad), fun hnone => answered _ _ ?_, fun hgood hsome hfields hrec =>
      answered _ _ (sampleDo_token pd sd hgood hsome hfields hrec)⟩
    rw [hnone]
    exact sampleDo_empty pd sd

end Sys2Proof.Machine

/-! ### The Isobar engine (O47; 04 R89 to R92; 17 R375, R376) -/

namespace Sys2Proof.Machine

open Sys2Proof

/-! How the engine answers where nothing that it reads stops it. -/

section Answer

variable {α : Type} {s : State} {f : State → Except Stop α} {x : α}

theorem isoRun_ok (n : Nat) (h : f s = .ok x) : isoRun f n s = (s, .ok x) := by
  cases n with
  | zero => rw [isoRun, h]
  | succ n => rw [isoRun, h]

theorem isoReply_parks (k : State → α → Res) (h : f s = .ok x) : isoReply none s f k = .wait 0 .access s := by
  simp only [isoReply, h]

theorem isoReply_answers (rp : Reply) (k : State → α → Res) (h : f s = .ok x) : isoReply (some rp) s f k = k s x := by
  simp only [isoReply, isoRun_ok _ h]

end Answer

/-! A mask (R90, R92). -/

section Mask

variable {s : State} {a x t0 : Nat} {e : Automaton} (v : VReg)

theorem isoMask_absent (h : automaton s a = none) : isoMask s a x t0 v = .ok (List.replicate 16 0xFF800000, false) := by
  rw [isoMask, h]

theorem isoMask_beyond (h : automaton s a = some e) (hx : e.nstates ≤ x) :
    isoMask s a x t0 v = .ok (List.replicate 16 0xFF800000, false) := by
  simp only [isoMask, h, hx, if_true]

/-- The lane of a token that is allowed or not. -/
def maskedLane (v : VReg) (ok : Nat → Bool) (i : Nat) : Nat := if ok i then lane v i else 0xFF800000

theorem isoLanes_ok {base form : Nat} {ok : Nat → Bool} (n i : Nat)
    (h : ∀ j, j < n → isoAllowed s e base form (t0 + (i + j)) = .ok (ok (i + j))) :
    isoLanes s e base form t0 v n i = .ok ((List.range' i n).map (maskedLane v ok)) := by
  induction n generalizing i with
  | zero => rfl
  | succ n ih =>
    have hlane : isoAllowed s e base form (t0 + i) = .ok (ok i) := h 0 (Nat.zero_lt_succ n)
    have hrest := ih (i + 1) (fun j hj => by rw [Nat.add_right_comm i 1 j]; exact h (j + 1) (by omega))
    rw [isoLanes, hlane, hrest]
    rfl

theorem isoMask_state {lo hi : Nat} {ok : Nat → Bool} (h : automaton s a = some e) (hx : x < e.nstates)
    (hstate : isoState s e x = .ok (lo, hi))
    (hok : ∀ i, i < 16 → isoAllowed s e (e.masks + 8 * bitsN lo 63 32) (bitsN hi 57 56) (t0 + i) = .ok (ok i)) :
    isoMask s a x t0 v = .ok ((List.range 16).map (maskedLane v ok), true) := by
  have hlanes := isoLanes_ok v 16 0 (fun j hj => (Nat.zero_add j).symm ▸ hok j hj)
  rw [← List.range_eq_range'] at hlanes
  simp only [isoMask, h, Nat.not_le.mpr hx, if_false, hstate]
  exact congrArg (· >>= fun l => pure (l, true)) hlanes

theorem lane_maskedLanes (ok : Nat → Bool) {i : Nat} (hi : i < 16) :
    lane (vregOf 32 ((List.range 16).map (maskedLane v ok))) i = maskedLane v ok i := by
  have hlt : maskedLane v ok i < 2 ^ 32 := by
    unfold maskedLane
    split
    · exact lane_lt v i
    · decide
  rw [lane_vregOf _ hi, List.getD_eq_getElem?_getD, List.getElem?_map, List.getElem?_range hi, Option.map_some, Option.getD_some,
    Nat.mod_eq_of_lt hlt]

end Mask

/-! A step (R91, R376). -/

section Step

variable {s : State} {a x tok : Nat} {e : Automaton}

theorem isoStep_absent (h : automaton s a = none) : isoStep s a x tok = .ok (3, x, 0) := by
  rw [isoStep, h]

theorem isoStep_beyond (h : automaton s a = some e) (hx : e.nstates ≤ x) : isoStep s a x tok = .ok (2, x, 0) := by
  simp only [isoStep, h, hx, if_true]

variable {lo hi : Nat} {f : Option Nat} (h : automaton s a = some e) (hx : x < e.nstates) (hstate : isoState s e x = .ok (lo, hi))
  (hfind : isoFind s (e.trans + 8 * bitsN hi 31 0) tok 25 0 (bitsN hi 55 32) = .ok f)

include h hx hstate hfind

theorem isoStep_dead (hnx : f.getD (bitsN lo 31 0) = 0xFFFFFFFF) : isoStep s a x tok = .ok (1, x, 0) := by
  simp only [isoStep, h, Nat.not_le.mpr hx, if_false, hstate]
  simp only [bind, Except.bind, hfind, hnx, if_true]
  rfl

theorem isoStep_next {l w : Nat} (hnx : f.getD (bitsN lo 31 0) ≠ 0xFFFFFFFF)
    (hnext : isoState s e (f.getD (bitsN lo 31 0)) = .ok (l, w)) : isoStep s a x tok =
      .ok (0, f.getD (bitsN lo 31 0), b2n (tok == e.opn) + 2 * b2n (tok == e.cls) + 4 * bitsN w 58 58) := by
  simp only [isoStep, h, Nat.not_le.mpr hx, if_false, hstate]
  simp only [bind, Except.bind, hfind, hnx, hnext, if_false]
  rfl

end Step

/-! The two instructions, once the engine's work is known. -/

section Instructions

variable {s : State} {g : Guard} {pd : PReg} {sa sb sc : SReg} (rp : Reply)

theorem exec_isomask {vd : VNum} (h : Runs (.isomask g pd vd sa sb sc) g s) : exec (.isomask g pd vd sa sb sc) s =
    .next (settle s ((encodeTile (.isomask g pd vd sa sb sc)).getD 0) (opIsomask pd vd sa sb sc none s)) := issue_runs _ h

theorem exec_isostep {sd : SReg} (h : Runs (.isostep g pd sd sa sb sc) g s) : exec (.isostep g pd sd sa sb sc) s =
    .next (settle s ((encodeTile (.isostep g pd sd sa sb sc)).getD 0) (opIsostep pd sd sa sb sc none s)) := issue_runs _ h

theorem isomask_completes {vd : VNum} {l : List Nat} {b : Bool} (hquiet : s.quiet) (hdir : isoDir s (s.rS sa).toNat = .ok ())
    (hmask : isoMask s (s.rS sa).toNat (fld (s.rS sb) 31 0) (fld (s.rS sc) 31 0) (s.rV vd.toNat) = .ok (l, b)) :
    (Runs (.isomask g pd vd sa sb sc) g s →
      exec (.isomask g pd vd sa sb sc) s = .next (s.parkedOn (.isomask g pd vd sa sb sc) 0 .access)) ∧
    (Replied s (.isomask g pd vd sa sb sc) →
      exec (.accessReply s.coreId s.slotId rp) s = .next ((s.wV vd.toNat (vregOf 32 l)).wP pd b).gone) := by
  have hparks : opIsomask pd vd sa sb sc none s = .wait 0 .access s := isoReply_parks _ (x := (l, b)) (by rw [hdir]; exact hmask)
  have hanswers : opIsomask pd vd sa sb sc (some rp) s = .done ((s.wV vd.toNat (vregOf 32 l)).wP pd b) :=
    isoReply_answers rp _ (x := (l, b)) (by rw [hdir]; exact hmask)
  refine ⟨fun hruns => ?_, fun hrep => accessReply_done rp hrep rfl hanswers rfl (quiet_wP (quiet_wV hquiet ..) ..)⟩
  rw [exec_isomask hruns, hparks]
  rfl

theorem isostep_completes {sd : SReg} {st nx fl : Nat} (hquiet : s.quiet) (hdir : isoDir s (s.rS sa).toNat = .ok ())
    (hstep : isoStep s (s.rS sa).toNat (fld (s.rS sb) 31 0) (fld (s.rS sc) 31 0) = .ok (st, nx, fl)) :
    (Runs (.isostep g pd sd sa sb sc) g s →
      exec (.isostep g pd sd sa sb sc) s = .next (s.parkedOn (.isostep g pd sd sa sb sc) 0 .access)) ∧
    (Replied s (.isostep g pd sd sa sb sc) → exec (.accessReply s.coreId s.slotId rp) s =
      .next ((s.wS sd (w64 (st * 2 ^ 40 + fl * 2 ^ 32 + nx))).wP pd (st == 0)).gone) := by
  have hparks : opIsostep pd sd sa sb sc none s = .wait 0 .access s :=
    isoReply_parks _ (x := (st, nx, fl)) (by rw [hdir]; exact hstep)
  have hanswers : opIsostep pd sd sa sb sc (some rp) s = .done ((s.wS sd (w64 (st * 2 ^ 40 + fl * 2 ^ 32 + nx))).wP pd (st == 0)) :=
    isoReply_answers rp _ (x := (st, nx, fl)) (by rw [hdir]; exact hstep)
  refine ⟨fun hruns => ?_, fun hrep => accessReply_done rp hrep rfl hanswers rfl (quiet_wP (quiet_wS hquiet ..) ..)⟩
  rw [exec_isostep hruns, hparks]
  rfl

end Instructions

/-- Settles O47, by what the engine answers in each case and how an answer completes its instruction. -/
theorem automatonEnginesMaskAndStep : Obligations.AutomatonEnginesMaskAndStep := by
  intro s g pd vd sd sa sb sc rp hquiet im is a x t0 v none' maskAns stepAns hdir
  refine ⟨fun habsent => ⟨?_, ?_⟩, fun e he => ⟨fun hbeyond => ⟨?_, ?_⟩,
    fun hx lo hi hstate => ⟨fun ok hok => ?_, fun f hfind => ?_⟩⟩⟩
  · exact isomask_completes rp hquiet hdir (isoMask_absent v habsent)
  · exact isostep_completes rp hquiet hdir (isoStep_absent habsent)
  · exact isomask_completes rp hquiet hdir (isoMask_beyond v he hbeyond)
  · exact isostep_completes rp hquiet hdir (isoStep_beyond he hbeyond)
  · exact ⟨_, isomask_completes rp hquiet hdir (isoMask_state v he hx hstate hok), fun i hi => lane_maskedLanes v ok hi⟩
  · exact ⟨fun hdead => isostep_completes rp hquiet hdir (isoStep_dead he hx hstate hfind hdead),
      fun l h hlive hnext => isostep_completes rp hquiet hdir (isoStep_next he hx hstate hfind hlive hnext)⟩

end Sys2Proof.Machine

/-! ### Forecast entries (05 R103, R104, R113) -/

namespace Sys2Proof.Machine

open Sys2Proof

/-- Words without a soft error are read as they are, at whatever agent they are counted. -/
theorem scanAt_clean {s : State} (o : Nat) {ws : List Nat} (h : ∀ w ∈ ws, fget? s.soft w = none) : scanAt s o ws = (s, none) := by
  induction ws with
  | nil => rfl
  | cons w ws ih =>
    rw [scanAt, h w (List.mem_cons_self ..)]
    exact ih (fun v hv => h v (List.mem_cons_of_mem _ hv))

theorem softDrop_clean {s : State} {k : Nat} (h : fget? s.soft k = none) : softDrop s k (k + 1) = s := by
  have hfilter (m : FMap Bool) (hm : fget? m k = none) : m.filter (fun e => !(k ≤ e.1 && e.1 < k + 1)) = m := by
    induction m with
    | nil => rfl
    | cons e m ih =>
      obtain ⟨a, b⟩ := e
      by_cases ha : a = k
      · rw [fget?, if_pos ha] at hm
        nomatch hm
      · rw [fget?, if_neg ha] at hm
        rw [List.filter_cons_of_pos, ih hm]
        simp only [Bool.not_eq_true', Bool.and_eq_false_iff, decide_eq_false_iff_not]
        omega
  rw [softDrop, hfilter s.soft h]

@[simp] theorem futOf_putFut (s : State) (i : Nat) (f : Future) : futOf (putFut s i f) i = f := fget_fset_self ..

/-- The table at the present cycle, where the entry holds no soft error and its deadline is not overdue. -/
theorem futNow_onTime {s : State} {i : Nat} (hot : OnTime s i) (hsoft : fget? s.soft (futKey i) = none) : futNow s i = s := by
  have hscan : scanAt s offECCAD [futKey i] = (s, none) := scanAt_clean _ (fun w hw => List.mem_singleton.mp hw ▸ hsoft)
  simp only [futNow, hscan]
  cases hpast : pastDeadline s (futOf s i) with
  | none => rfl
  | some d => exact if_neg (Nat.not_lt.mpr (hot d hpast))

/-- A key names the entry that its index has. -/
theorem futMatch_some {s : State} {key : Word} {i : Nat} {f : Future} (h : futMatch s key = some (i, f)) :
    i = fld key 15 0 ∧ f = futOf s i := by
  rw [futMatch] at h
  split at h
  · obtain ⟨rfl, rfl⟩ := Prod.mk.inj (Option.some.inj h)
    exact ⟨rfl, rfl⟩
  · nomatch h

theorem live_iff {f : Future} : f.live = true ↔ f.state = fuARMED ∨ f.state = fuRUNNING := by
  simp [Future.live, fuARMED, fuRUNNING]

/-- The lowest IDLE entry is the one found. -/
theorem firstIdle_lowest {m : FMap Future} {n j i : Nat} (hlt : i < j + n) (hge : j ≤ i) (hidle : (fget .init m i).state = 0)
    (hbusy : ∀ k, j ≤ k → k < i → (fget .init m k).state ≠ 0) : firstIdle m n j = some i := by
  induction n generalizing j with
  | zero => omega
  | succ n ih =>
    rw [firstIdle]
    rcases Nat.eq_or_lt_of_le hge with rfl | hlater
    · exact if_pos hidle
    · rw [if_neg (hbusy j le_rfl hlater)]
      exact ih (by omega) hlater (fun k hk => hbusy k (by omega))

theorem firstIdle_table {s : State} {i : Nat} (hi : i < 65536) (hidle : (futOf s i).state = 0)
    (hbusy : ∀ j, j < i → (futOf s j).state ≠ 0) : firstIdle s.futures 65536 0 = some i := by
  have hentry : ∀ j, j ≤ i → futOf s j = fget .init s.futures j := fun j hj => by rw [futOf, Nat.mod_eq_of_lt (by omega)]
  refine firstIdle_lowest (by omega) (Nat.zero_le i) (hentry i le_rfl ▸ hidle) (fun k _ hk => ?_)
  exact hentry k (Nat.le_of_lt hk) ▸ hbusy k hk

/-- A deadline that has come resolves a live future (R113). -/
theorem futExpire_live {s : State} {i : Nat} (h : (futOf s i).live = true) : futExpire s i =
    putFut (inject s (futOf s i).req (seqToks (futOf s i).toSeq)) i { futOf s i with state := fuTIMEDOUT, result := 0 } := if_pos h

theorem exec_futureDeadline (i : Nat) (s : State) : exec (.futureDeadline i) s = execFutureDeadline i s := rfl

theorem exec_futureDeadline_past {s : State} {i d : Nat} (h : pastDeadline s (futOf s i) = some d) :
    exec (.futureDeadline i) s = .next (futExpire s i) := by
  rw [exec_futureDeadline, execFutureDeadline, h]
  rfl

theorem exec_futureDeadline_ahead {s : State} {i : Nat} (h : pastDeadline s (futOf s i) = none) :
    exec (.futureDeadline i) s = .next s := by
  rw [exec_futureDeadline, execFutureDeadline, h]
  rfl

end Sys2Proof.Machine

/-! ### FUTCALL, FUTQRY and FUTWAIT (O49; 05 R106, R115; 17 R370 to R372) -/

namespace Sys2Proof.Machine

open Sys2Proof

/-- A state with the strands and the issuing strand of a quiet one is quiet. -/
theorem quiet_congr {s t : State} (hcur : t.cur = s.cur) (hstrands : t.strands = s.strands) (h : s.quiet) : t.quiet := by
  have hme : t.me = s.me := by rw [State.me, State.me, State.meKey, State.meKey, State.at, State.at, hcur, hstrands]
  rwa [State.quiet, hme]

/-- A reply whose operation completes by a scalar answer and a predicate. -/
theorem accessReply_answers {s u : State} {i : Instr} {f : State → Res} {sd : SReg} {w : Word} {pd : PReg} {b : Bool} (rp : Reply)
    (hrep : Replied s i) (hop : replyOp (some rp) i = some f) (hdone : f s = .done ((u.wS sd w).wP pd b)) (hcur : u.cur = s.cur)
    (hquiet : u.quiet) : exec (.accessReply s.coreId s.slotId rp) s = .next ((u.wS sd w).wP pd b).gone :=
  accessReply_done rp hrep hop hdone hcur (quiet_wP (quiet_wS hquiet ..) ..)

section Call

variable {s : State} {g : Guard} {pd : PReg} {sd sa sb sc : SReg} {r i slot queue argpos : Nat}

theorem lookupKeys_futcall (s : State) (g : Guard) (pd : PReg) (sd sa sb sc : SReg) : lookupKeys s (.futcall g pd sd sa sb sc) = [] := by
  simp [lookupKeys, firstPtr]

theorem exec_futcall (h : s.guarded g) : exec (.futcall g pd sd sa sb sc) s =
    .next (settle s ((encodeTile (.futcall g pd sd sa sb sc)).getD 0) (opFutcall pd sd sa sb sc none s)) :=
  issue_scalar (i := .futcall g pd sd sa sb sc) _ rfl (readKeys_clean h rfl rfl rfl rfl (lookup_nothing (lookupKeys_futcall ..))) h.1

/-- FUTCALL passes its checks: the slot is held, and the queue is valid and its tenant's (R370). -/
theorem opFutcall_passes (rp : Option Reply) (hheld : SlotHeld s (s.rS sa).toNat r) (hq : (s.rS sb).toNat ≤ 255)
    (hvalid : (tqDesc s (s.rS sb).toNat).valid = true) (hten : (tqDesc s (s.rS sb).toNat).tenant = s.tenantId) :
    opFutcall pd sd sa sb sc rp s = atReplyOf rp s (fun s => futcallWords s r)
      (futCall r (s.rS sa).toNat (s.rS sb).toNat (fld (s.rS sc) 23 0) pd sd) := by
  rw [opFutcall, onSlot_held hheld]
  simp only [Nat.not_lt.mpr hq, hvalid, hten, decide_false, Bool.not_true, Bool.or_self, Bool.false_eq_true, ne_eq, not_true_eq_false,
    if_false]

theorem futCall_stopped (h : slotMasked s s.cluId slot = true ∨ rqFlag s r flCancel = true) :
    futCall r slot queue argpos pd sd s = .done ((s.wS sd 0xFFFFFFFF#64).wP pd false) :=
  if_pos (Bool.or_eq_true_iff.mpr h)

section Running

variable (hmask : slotMasked s s.cluId slot = false) (hcancel : rqFlag s r flCancel = false)
include hmask hcancel

theorem futCall_again (hfut : bitN (rqGet s r rqFUT) 16 = true) :
    futCall r slot queue argpos pd sd s = .done ((s.wS sd (w64 (bitsN (rqGet s r rqFUT) 15 0))).wP pd true) := by
  simp only [futCall, hmask, hcancel, hfut, Bool.or_self, Bool.false_eq_true, if_false, if_true]

variable (hfut : bitN (rqGet s r rqFUT) 16 = false)
include hfut

theorem futCall_exhausted (hquota : tset s setFUTQUOTA s.tenantId ≤ futCount s s.tenantId) :
    futCall r slot queue argpos pd sd s = .fault cFUT_EXHAUSTED (w64 (2 ^ 16 + slot)) := by
  simp only [futCall, hmask, hcancel, hfut, hquota, Bool.or_self, Bool.false_eq_true, if_false, if_true]

/-- The future that FUTCALL arms in entry `i` (R106). -/
def armedFuture (s : State) (r i queue argpos : Nat) (nonce : BitVec 32) : Future :=
  { record := r % 2 ^ 20, gen := (futOf s i).gen, tenant := s.tenantId, result := 0, queued := false, state := fuARMED,
    deadline := (ccnt s + tset s setFUTTO s.tenantId) % 2 ^ 64,
    key := nonce.toNat * 2 ^ 32 + (futOf s i).gen * 2 ^ 16 + i, fcode := 0, queue := queue,
    argpos := argpos, step := s.front.step,
    toSeq := seqOf s setTOSEQ s.tenantId, failSeq := seqOf s setFAILSEQ s.tenantId, trunc := tset s setTRUNCTOK s.tenantId }

/-- The table and the record with a future armed: the record names it, and a request that runs is BLOCKED (R106). -/
def armed (s : State) (r i : Nat) (f : Future) : State :=
  let u := rqPut (putFut { s with freeNo := s.freeNo + 1 } i f) r rqFUT (2 ^ 16 + i)
  if rqGet u r rqSTATE = stRUNNING then rqPut u r rqSTATE stBLOCKED else u

theorem futCall_arms (hquota : futCount s s.tenantId < tset s setFUTQUOTA s.tenantId)
    (hfirst : firstIdle s.futures 65536 0 = some i) (hsoft : fget? s.soft (futKey i) = none) :
    ∃ nonce : BitVec 32, futCall r slot queue argpos pd sd s =
      .done (((armed s r i (armedFuture s r i queue argpos nonce)).wS sd (w64 i)).wP pd true) := by
  refine ⟨BitVec.ofNat 32 (fld s.free.1 31 0), ?_⟩
  have hnonce : (BitVec.ofNat 32 (fld s.free.1 31 0)).toNat = fld s.free.1 31 0 := Nat.mod_eq_of_lt (bitsN_lt _ 31 0)
  have hdrop : softDrop s.free.2 (futKey i) (futKey i + 1) = s.free.2 := softDrop_clean hsoft
  rw [armedFuture, hnonce]
  simp only [futCall, hmask, hcancel, hfut, Nat.not_le.mpr hquota, hfirst, hdrop, Bool.or_self, Bool.false_eq_true, if_false]
  rfl

end Running

theorem armed_beside (s : State) (r i : Nat) (f : Future) : (armed s r i f).strands = s.strands ∧ (armed s r i f).cur = s.cur := by
  rw [armed]
  split <;> simp only [rqPut_strands, rqPut_cur] <;> exact ⟨rfl, rfl⟩

/-- What FUTCALL reads at the table: the record's fields and the entry that it takes. -/
theorem futKey_mem_futcallWords (hfirst : firstIdle s.futures 65536 0 = some i) : futKey i ∈ futcallWords s r := by
  rw [futcallWords, hfirst]
  simp

end Call

section Query

variable {s : State} {g : Guard} {sd sa : SReg}

theorem lookupKeys_futqry (g : Guard) (sd sa : SReg) (hrel : s.me.prel = false) :
    lookupKeys s (.futqry g sd sa) = [futKey (fld (s.rS sa) 15 0)] := by
  simp [lookupKeys, hrel]

theorem lookupKeys_futwait (g : Guard) (sa : SReg) (hrel : s.me.prel = false) :
    lookupKeys s (.futwait g sa) = [futKey (fld (s.rS sa) 15 0)] := by
  simp [lookupKeys, hrel]

variable (hg : s.guarded g) (hrel : s.me.prel = false) (hsoft : fget? s.soft (futKey (fld (s.rS sa) 15 0)) = none)

section Issued
include hg hrel hsoft

theorem exec_futqry : exec (.futqry g sd sa) s =
    .next (settle s ((encodeTile (.futqry g sd sa)).getD 0) (opFutqry sd sa none s)) := by
  refine issue_scalar (i := .futqry g sd sa) _ rfl (readKeys_clean hg rfl rfl rfl rfl fun k hk => ?_) hg.1
  rw [lookupKeys_futqry g sd sa hrel] at hk
  rwa [List.mem_singleton.mp hk]

theorem exec_futwait : exec (.futwait g sa) s = .next (settle s ((encodeTile (.futwait g sa)).getD 0) (opFutwait sa s)) := by
  refine issue_scalar (i := .futwait g sa) _ rfl (readKeys_clean hg rfl rfl rfl rfl fun k hk => ?_) hg.1
  rw [lookupKeys_futwait g sa hrel] at hk
  rwa [List.mem_singleton.mp hk]

end Issued

theorem futPriv_own {i : Nat} (h : (futOf s i).state = 0 ∨ (futOf s i).tenant = s.tenantId) : futPriv s i = false := by
  rcases h with h | h <;> simp [futPriv, h]

variable (hown : futPriv s (fld (s.rS sa) 15 0) = false)

include hown in
theorem opFutqry_own (rp : Option Reply) : opFutqry sd sa rp s = atReply rp s (fun s =>
    .done ((futNow s (fld (s.rS sa) 15 0)).wS sd (futWord0 (futOf (futNow s (fld (s.rS sa) 15 0)) (fld (s.rS sa) 15 0))))) := by
  rw [opFutqry, hown]
  rfl

variable (hnow : futNow s (fld (s.rS sa) 15 0) = s) (hfresh : s.me.pkind ≠ 2 ∨ s.me.pcap = [])

section Wait
include hown hnow hfresh

/-- A FUTWAIT that has captured no GEN goes by the future alone (R372). -/
theorem opFutwait_first : opFutwait sa s = if (futOf s (fld (s.rS sa) 15 0)).live = true
    then .wait 2 .cond (s.setMe { s.me with pcap := [(futOf s (fld (s.rS sa) 15 0)).gen] }) else .done s := by
  have hcap : (s.me.pkind = 2 && !s.me.pcap.isEmpty && s.me.pcap != [(futOf s (fld (s.rS sa) 15 0)).gen]) = false := by
    rcases hfresh with h | h
    · simp only [h, decide_false, Bool.false_and]
    · rw [h, List.isEmpty_nil, Bool.not_true, Bool.and_false, Bool.false_and]
  simp only [opFutwait, hnow, hcap, hown, Bool.false_eq_true, if_false]

theorem opFutwait_live (hlive : (futOf s (fld (s.rS sa) 15 0)).live = true) : opFutwait sa s =
    .wait 2 .cond (s.setMe { s.me with pcap := [(futOf s (fld (s.rS sa) 15 0)).gen] }) := by
  rw [opFutwait_first hown hnow hfresh, if_pos hlive]

theorem opFutwait_resolved (hlive : (futOf s (fld (s.rS sa) 15 0)).live = false) : opFutwait sa s = .done s := by
  rw [opFutwait_first hown hnow hfresh, if_neg (by rw [hlive]; exact Bool.false_ne_true)]

end Wait

end Query

/-- Settles O49: the answers of FUTCALL at the table, the read of an entry that is not overdue, and the deadline event. -/
theorem futuresAreArmedReadAndExpire : Obligations.FuturesAreArmedReadAndExpire := by
  intro s g pd sd sa sb sc r i rp hg hquiet slot q ic t ans
  refine ⟨fun hheld hq hvalid hten => ?call, ?table, fun _ hlive d hpast => ?past, exec_futureDeadline_ahead⟩
  case past => rw [exec_futureDeadline_past hpast, futExpire_live hlive]
  case call =>
    have hop (rp : Option Reply) : opFutcall pd sd sa sb sc rp s = _ := opFutcall_passes rp hheld hq hvalid hten
    refine ⟨?_, fun hrep hclean => ?_⟩
    · rw [exec_futcall hg, hop]
      rfl
    have hreply : opFutcall pd sd sa sb sc (some rp) s = futCall r slot q (fld (s.rS sc) 23 0) pd sd s :=
      (hop _).trans (atReplyOf_replied rp _ hclean)
    have answered {u : State} {w : Word} {b : Bool} (h : futCall r slot q (fld (s.rS sc) 23 0) pd sd s = .done ((u.wS sd w).wP pd b))
        (hcur : u.cur = s.cur) (hu : u.quiet) : ans ((u.wS sd w).wP pd b) :=
      accessReply_answers rp hrep rfl (hreply.trans h) hcur hu
    refine ⟨fun hstop => answered (futCall_stopped hstop) rfl hquiet, fun hmask hcancel =>
      ⟨fun hfut => answered (futCall_again hmask hcancel hfut) rfl hquiet, fun hfut =>
        ⟨fun hquota => ?_, fun hquota hi hidle hbusy => ?_⟩⟩⟩
    · obtain ⟨hcur, hwaits⟩ := hrep
      rw [accessReply_settles rp hcur hwaits (f := opFutcall pd sd sa sb sc (some rp)) rfl, hreply,
        futCall_exhausted hmask hcancel hfut hquota, settle_fault]
    · have hfirst := firstIdle_table hi hidle hbusy
      obtain ⟨nonce, harms⟩ := futCall_arms (pd := pd) (sd := sd) (queue := q) (argpos := fld (s.rS sc) 23 0) hmask hcancel hfut hquota
        hfirst (hclean _ (futKey_mem_futcallWords hfirst))
      obtain ⟨hstrands, hcur⟩ := armed_beside s r i (armedFuture s r i q (fld (s.rS sc) 23 0) nonce)
      exact ⟨nonce, answered harms hcur (quiet_congr hcur hstrands hquiet)⟩
  case table =>
    rintro rfl hot hsoft hrel hten
    have hnow := futNow_onTime hot hsoft
    have hown := futPriv_own hten
    refine ⟨?_, fun hrep => ?_, fun hfresh => ⟨fun hlive => ?_, fun hlive => ?_⟩⟩
    · rw [exec_futqry hg hrel hsoft, opFutqry_own hown]
      rfl
    · have hreply : opFutqry sd sa (some rp) s = .done (s.wS sd (futWord0 (futOf s (fld (s.rS sa) 15 0)))) := by
        rw [opFutqry_own hown, atReply, hnow]
      exact accessReply_done rp hrep rfl hreply rfl (quiet_wS hquiet ..)
    · rw [exec_futwait hg hrel hsoft, opFutwait_live hown hnow hfresh hlive]
      rfl
    · rw [exec_futwait hg hrel hsoft, opFutwait_resolved hown hnow hfresh hlive, settle_done_gone _ rfl hquiet]

end Sys2Proof.Machine

/-! ### Capabilities and the sandbox of a hart (O53; 05 R117, R119; 17 R381, R382) -/

namespace Sys2Proof.Machine

open Sys2Proof

theorem exec_kwCapld (cd : BitVec 4) (rs1 : BitVec 5) (s : State) : exec (.kwCapld cd rs1) s = execKwCapld cd rs1 s := rfl
theorem exec_kwCapnar (cd ca : BitVec 4) (rs1 rs2 : BitVec 5) (s : State) :
    exec (.kwCapnar cd ca rs1 rs2) s = execKwCapnar cd ca rs1 rs2 s := rfl
theorem exec_kwSbxent (rs1 : BitVec 5) (s : State) : exec (.kwSbxent rs1) s = execKwSbxent rs1 s := rfl
theorem exec_kwSbxret (s : State) : exec .kwSbxret s = execKwSbxret s := rfl
theorem exec_kwTqpop (rd : BitVec 5) (cd : BitVec 4) (rs1 rs2 : BitVec 5) (s : State) :
    exec (.kwTqpop rd cd rs1 rs2) s = execKwTqpop rd cd rs1 rs2 s := rfl
theorem exec_kwFutarg (rd : BitVec 5) (ca : BitVec 4) (rs1 : BitVec 5) (s : State) :
    exec (.kwFutarg rd ca rs1) s = execKwFutarg rd ca rs1 s := rfl
theorem exec_kwFutcpl (rd : BitVec 5) (ca : BitVec 4) (rs1 rs2 : BitVec 5) (s : State) :
    exec (.kwFutcpl rd ca rs1 rs2) s = execKwFutcpl rd ca rs1 rs2 s := rfl
theorem exec_kwFutfail (rd : BitVec 5) (ca : BitVec 4) (rs1 : BitVec 5) (s : State) :
    exec (.kwFutfail rd ca rs1) s = execKwFutfail rd ca rs1 s := rfl

section Capabilities

variable {s : State} {cd ca : BitVec 4} {rs1 rs2 : BitVec 5}

theorem exec_kwCapld_user (h : s.myHart.priv = 0) : exec (.kwCapld cd rs1) s = .next (hartIllegal (.kwCapld cd rs1) s) := by
  rw [exec_kwCapld, execKwCapld]
  exact if_pos h

theorem exec_kwCapld_misaligned (h : s.myHart.priv ≠ 0) (ha : (s.myHart.rX rs1).toNat % 32 ≠ 0) :
    exec (.kwCapld cd rs1) s = .next (hartTrap s xLoadMisaligned (s.myHart.rX rs1)) := by
  simp only [exec_kwCapld, execKwCapld, h, ha, ne_eq, not_false_eq_true, if_false, if_true]

section Load

variable (h : s.myHart.priv ≠ 0) (ha : (s.myHart.rX rs1).toNat % 32 = 0)
include h ha

theorem exec_kwCapld_loads {bs : List Byte} {u : State} (hload : hartLoad s s.myHart .load (s.myHart.rX rs1) 32 = .ok (bs, u)) :
    exec (.kwCapld cd rs1) s = .next (hartCap u s.myHart cd (capOf bs)) := by
  simp only [exec_kwCapld, execKwCapld, h, ha, hload, ne_eq, not_true_eq_false, if_false]

theorem exec_kwCapld_stops {e : HStop} (hload : hartLoad s s.myHart .load (s.myHart.rX rs1) 32 = .error e) :
    exec (.kwCapld cd rs1) s = .next (hartStop s e) := by
  simp only [exec_kwCapld, execKwCapld, h, ha, hload, ne_eq, not_true_eq_false, if_false, hartFail]

end Load

/-- An unsealed capability covers the range that it is to be narrowed to (R382). -/
def Cap.covers (c : Cap) (a : Word) (n : Nat) : Prop :=
  c.sealed = false ∧ c.base.toNat ≤ a.toNat ∧ a.toNat + n ≤ min (c.base.toNat + c.length.toNat) (2 ^ 64)

theorem covers_iff (c : Cap) (a : Word) (n : Nat) : c.covers a n ↔
    (!c.sealed && decide (c.base.toNat ≤ a.toNat) && decide (a.toNat + n ≤ min (c.base.toNat + c.length.toNat) (2 ^ 64))) = true := by
  rw [Bool.and_eq_true, Bool.and_eq_true, Bool.not_eq_true', decide_eq_true_eq, decide_eq_true_eq, and_assoc, Cap.covers]

theorem exec_kwCapnar_within (h : (s.myHart.cap ca).covers (s.myHart.rX rs1) (fld (s.myHart.rX rs2) 59 0)) :
    exec (.kwCapnar cd ca rs1 rs2) s = .next (hartCap s s.myHart cd
      { base := s.myHart.rX rs1, length := w64 (fld (s.myHart.rX rs2) 59 0), sealed := false,
        perm := (s.myHart.cap ca).perm &&& BitVec.ofNat 4 ((s.myHart.rX rs2).toNat / 2 ^ 60) }) := by
  have hperm : BitVec.ofNat 4 (fld (s.myHart.rX rs2) 63 60) = BitVec.ofNat 4 ((s.myHart.rX rs2).toNat / 2 ^ 60) :=
    BitVec.eq_of_toNat_eq (Nat.mod_mod _ _)
  rw [exec_kwCapnar, execKwCapnar, ← hperm]
  exact if_pos ((covers_iff ..).mp h)

theorem exec_kwCapnar_beyond (h : ¬ (s.myHart.cap ca).covers (s.myHart.rX rs1) (fld (s.myHart.rX rs2) 59 0)) :
    exec (.kwCapnar cd ca rs1 rs2) s = .next (hartTrap s xCapFault (s.myHart.rX rs1)) := by
  rw [exec_kwCapnar, execKwCapnar]
  exact if_neg (mt (covers_iff ..).mpr h)

end Capabilities

theorem sandboxed_iff {h : Hart} : h.sandboxed = true ↔ h.priv = 0 ∧ h.sbx = true := by
  rw [Hart.sandboxed, Bool.and_eq_true, beq_iff_eq, and_comm]

theorem capabilitiesAndSandbox : CapabilitiesAndSandbox := by
  intro s cd ca rs1 rs2 h a c n within
  refine ⟨exec_kwCapld_user, exec_kwCapld_misaligned, fun hp ha => ⟨fun bs u => exec_kwCapld_loads hp ha,
    fun e => exec_kwCapld_stops hp ha⟩, exec_kwCapnar_within, exec_kwCapnar_beyond, rfl, fun hp => ?enter, fun hp => ?noEntry,
    fun hp hs => ?leave, fun hout => ?noReturn⟩
  case enter =>
    rw [exec_kwSbxent, execKwSbxent]
    exact if_neg (not_not.mpr hp)
  case noEntry =>
    rw [exec_kwSbxent, execKwSbxent]
    exact if_pos hp
  case leave =>
    rw [exec_kwSbxret, execKwSbxret]
    exact if_pos (sandboxed_iff.mpr ⟨hp, hs⟩)
  case noReturn =>
    rw [exec_kwSbxret, execKwSbxret]
    refine if_neg fun hin => ?_
    obtain ⟨hp, hs⟩ := sandboxed_iff.mp hin
    exact hout.elim (· hp) (fun hs' => Bool.false_ne_true (hs'.symm.trans hs))

end Sys2Proof.Machine

/-! ### Tool queues and futures on a hart (O53; 05 R112, R119, R120; 17 R382) -/

namespace Sys2Proof.Machine

open Sys2Proof

section Pop

variable {s u : State} {rd rs1 rs2 : BitVec 5} {cd : BitVec 4} {places : List (Nat × Nat)}

theorem exec_kwTqpop_uncovered (h : capRangeFails s.myHart .store (s.myHart.rX rs2).toNat 64 = true) :
    exec (.kwTqpop rd cd rs1 rs2) s = .next (hartTrap s xCapFault (s.myHart.rX rs2)) := by
  rw [exec_kwTqpop, execKwTqpop]
  exact if_pos h

variable (hcap : capRangeFails s.myHart .store (s.myHart.rX rs2).toNat 64 = false)
include hcap

theorem exec_kwTqpop_misaligned (ha : (s.myHart.rX rs2).toNat % 64 ≠ 0) :
    exec (.kwTqpop rd cd rs1 rs2) s = .next (hartTrap s xStoreMisaligned (s.myHart.rX rs2)) := by
  simp only [exec_kwTqpop, execKwTqpop, hcap, ha, Bool.false_eq_true, ne_eq, not_false_eq_true, if_false, if_true]

variable (ha : (s.myHart.rX rs2).toNat % 64 = 0)
include ha

theorem exec_kwTqpop_unreached {e : HStop}
    (hreach : hartReach s s.myHart (s.myHart.mode .store) .store (s.myHart.rX rs2).toNat 64 = .error e) :
    exec (.kwTqpop rd cd rs1 rs2) s = .next (hartStop s e) := by
  simp only [exec_kwTqpop, execKwTqpop, hcap, ha, hreach, Bool.false_eq_true, ne_eq, not_true_eq_false, if_false, hartFail]

variable (hreach : hartReach s s.myHart (s.myHart.mode .store) .store (s.myHart.rX rs2).toNat 64 = .ok (places, u))
include hreach

/-- Once its 64 bytes are reached, KW.TQPOP goes by the queue's descriptor (R382). -/
theorem exec_kwTqpop_reached : exec (.kwTqpop rd cd rs1 rs2) s =
    if 255 < (s.myHart.rX rs1).toNat ∨ (tqDesc u (s.myHart.rX rs1).toNat).valid = false ∨
      (tqDesc u (s.myHart.rX rs1).toNat).remote = true ∨ (tqDesc u (s.myHart.rX rs1).toNat).tenant ≠ fld s.myHart.kwtenant 5 0
    then .next (hartSet u s.myHart rd 3) else .next (tqPopTo rd cd (s.myHart.rX rs1).toNat places u) := by
  simp only [exec_kwTqpop, execKwTqpop, hcap, ha, hreach, Bool.false_eq_true, ne_eq, not_true_eq_false, if_false, Bool.or_eq_true,
    decide_eq_true_eq, Bool.not_eq_true', or_assoc]

end Pop

section PopTo

variable {s u t : State} {rd : BitVec 5} {cd : BitVec 4} {q j : Nat} {places : List (Nat × Nat)} {e : List Byte}

theorem tqPopTo_empty (h : tqPop unitRead s q = (none, u)) : tqPopTo rd cd q places s = hartSet u s.myHart rd 1#64 := by
  simp only [tqPopTo, h]
  rfl

theorem tqPopTo_entry (h : tqPop unitRead s q = (some (e, j), u)) (hwrite : writePieces u u.hartId places e = .ok t) :
    tqPopTo rd cd q places s = hartSet (hartWrote t (capReg cd.toNat))
      (s.myHart.setCap cd { base := w64 (fromBytes (e.take 8)), length := 0, sealed := true, perm := 8#4 }) rd 0#64 := by
  simp only [tqPopTo, h, hwrite]
  rfl

end PopTo

section Argument

variable {s : State} {key : Word} {n i : Nat} {f : Future}

theorem futArg_unknown (h : futMatch s key = none) : futArg s key n = BitVec.allOnes 64 := by simp only [futArg, h]

theorem futArgScan_unknown (h : futMatch s key = none) : futArgScan s key n = s := by simp only [futArgScan, h]

theorem unitScan_clean (h : s.soft = []) (tenant va n : Nat) : unitScan s tenant va n = s := by rw [unitScan, h]; rfl

/-- Nothing is read of an argument token that is not there (R119). -/
theorem argument_absent (hm : futMatch s key = some (i, f)) (h : f.live = false ∨ argLen s f ≤ n) :
    futArgScan s key n = s ∧ futArg s key n = BitVec.allOnes 64 := by
  have hno : (f.live && decide (n < argLen s f)) = false := by
    rw [Bool.and_eq_false_iff, decide_eq_false_iff_not, Nat.not_lt]
    exact h
  constructor
  · simp only [futArgScan, hm, hno, Bool.false_eq_true, if_false]
  · simp only [futArg, hm, hno, Bool.false_eq_true, if_false]

theorem argument_read (hm : futMatch s key = some (i, f)) (hlive : f.live = true) (hn : n < argLen s f) (hsoft : s.soft = [])
    {bs : List Byte} (hread : unitRead s f.tenant (rqGet s f.req rqHIST + 4 * (f.argpos + n)) 4 = some bs) :
    futArgScan s key n = s ∧ futArg s key n = w64 (fromBytes bs) := by
  constructor
  · simp only [futArgScan, hm, hlive, hn, decide_true, Bool.and_self, if_true, unitScan_clean hsoft]
  · simp only [futArg, hm, hlive, hn, decide_true, Bool.and_self, if_true, hread]

/-- The tokens that a completion of a live future injects, as memory holds them. -/
theorem futTokens_live {h : Hart} {va : Word} {bs : List Byte} {u : State}
    (hm : futMatch s key = some (i, f)) (hlive : f.live = true) (hn : n ≤ rqGet s f.req rqPFQSIZE)
    (hload : hartLoad s h .load va (4 * n) = .ok (bs, u)) :
    futTokens s h key va n = .ok ((List.range n).map (fun j => fromBytes (slice bs (4 * j) 4)), u) := by
  simp only [futTokens, hm, hlive, Nat.not_lt.mpr hn, hload, if_true, if_false]

end Argument

section Resolve

variable {s : State} {rd rs1 rs2 : BitVec 5} {ca : BitVec 4}

section NoFuture

variable (h : (s.myHart.cap ca).future = false)
include h

theorem exec_kwFutarg_noFuture : exec (.kwFutarg rd ca rs1) s = .next (hartSet s s.myHart rd (BitVec.allOnes 64)) := by
  simp only [exec_kwFutarg, execKwFutarg, h, Bool.false_eq_true, if_false]

theorem exec_kwFutcpl_noFuture : exec (.kwFutcpl rd ca rs1 rs2) s = .next (hartTrap s xCapFault 0) := by
  simp only [exec_kwFutcpl, execKwFutcpl, h, Bool.not_false, if_true]

theorem exec_kwFutfail_noFuture : exec (.kwFutfail rd ca rs1) s = .next (hartTrap s xCapFault 0) := by
  simp only [exec_kwFutfail, execKwFutfail, h, Bool.not_false, if_true]

end NoFuture

variable (h : (s.myHart.cap ca).future = true)
include h

theorem exec_kwFutfail_acts {st : Nat} {v : State}
    (hres : futComplete (unitRelease s) (s.myHart.cap ca).base none (fld (s.myHart.rX rs1) 31 0) = (st, v)) :
    exec (.kwFutfail rd ca rs1) s = .next (hartSet (hartWrote v (capReg ca.toNat)) (s.myHart.setCap ca .null) rd (w64 st)) := by
  simp only [exec_kwFutfail, execKwFutfail, h, hres, Bool.not_true, Bool.false_eq_true, if_false]

variable (hnow : futNow s (fld (s.myHart.cap ca).base 15 0) = s)
include hnow

theorem exec_kwFutarg_answers {w : Word} (harg : futArgScan s (s.myHart.cap ca).base (s.myHart.rX rs1).toNat = s ∧
    futArg s (s.myHart.cap ca).base (s.myHart.rX rs1).toNat = w) : exec (.kwFutarg rd ca rs1) s = .next (hartSet s s.myHart rd w) := by
  obtain ⟨hscan, harg⟩ := harg
  simp only [exec_kwFutarg, execKwFutarg, h, hnow, hscan, harg, if_true]

theorem exec_kwFutcpl_acts {toks : List Nat} {st : Nat} {u v : State} (ha : (s.myHart.rX rs1).toNat % 4 = 0)
    (hcap : (s.myHart.rX rs2).toNat = 0 ∨
      capRangeFails s.myHart .load (s.myHart.rX rs1).toNat (4 * (s.myHart.rX rs2).toNat) = false)
    (htoks : futTokens s s.myHart (s.myHart.cap ca).base (s.myHart.rX rs1) (s.myHart.rX rs2).toNat = .ok (toks, u))
    (hres : futComplete (unitRelease u) (s.myHart.cap ca).base (some toks) 0 = (st, v)) : exec (.kwFutcpl rd ca rs1 rs2) s =
      .next (hartSet (hartWrote v (capReg ca.toNat)) (s.myHart.setCap ca .null) rd (w64 st)) := by
  have hrange : ((s.myHart.rX rs2).toNat ≠ 0 &&
      capRangeFails s.myHart .load (s.myHart.rX rs1).toNat (4 * (s.myHart.rX rs2).toNat)) = false := by
    rw [Bool.and_eq_false_iff, decide_eq_false_iff_not, not_not]
    exact hcap
  simp only [exec_kwFutcpl, execKwFutcpl, h, ha, hrange, hnow, htoks, hres, Bool.not_true, Bool.false_eq_true, ne_eq, not_true_eq_false,
    if_false]

end Resolve

theorem toolInstructions : ToolInstructions := by
  intro s rd rs1 rs2 cd ca h q a b n c key
  refine ⟨exec_kwTqpop_misaligned, fun hcap ha e => exec_kwTqpop_unreached hcap ha, fun hcap ha places u hreach => ?pop,
    exec_kwTqpop_uncovered, fun hc => ⟨exec_kwFutarg_noFuture hc, exec_kwFutcpl_noFuture hc, exec_kwFutfail_noFuture hc⟩,
    fun hc hot hsoft => ?future, rfl⟩
  case pop =>
    intro d
    have hpop := exec_kwTqpop_reached (rd := rd) (cd := cd) (rs1 := rs1) hcap ha hreach
    refine ⟨fun hbad => hpop.trans (if_pos hbad), fun hq hvalid hremote hten hme => ?_⟩
    have hgood : exec (.kwTqpop rd cd rs1 rs2) s = .next (tqPopTo rd cd q places u) := by
      refine hpop.trans (if_neg ?_)
      rintro (hbad | hbad | hbad | hbad)
      · exact Nat.not_lt.mpr hq hbad
      · exact Bool.false_ne_true (hbad.symm.trans hvalid)
      · exact Bool.false_ne_true (hremote.symm.trans hbad)
      · exact hbad hten
    refine ⟨fun v hempty => ?_, fun v e j t hentry hwrite => ?_⟩
    · rw [hgood, tqPopTo_empty hempty, hme]
    · rw [hgood, tqPopTo_entry hentry hwrite, hme]
  case future =>
    have hnow := futNow_onTime hot hsoft
    refine ⟨fun hm => exec_kwFutarg_answers hc hnow ⟨futArgScan_unknown hm, futArg_unknown hm⟩, fun i f hm =>
      ⟨fun hlive hb hclean bs hread => exec_kwFutarg_answers hc hnow (argument_read hm hlive hb hclean hread),
        fun habsent => exec_kwFutarg_answers hc hnow (argument_absent hm habsent),
        fun ha hcap hlive hn bs u v st hload hres => exec_kwFutcpl_acts hc hnow ha hcap (futTokens_live hm hlive hn hload) hres⟩,
      fun v st hres => exec_kwFutfail_acts hc hres⟩

end Sys2Proof.Machine

/-! ### Sandbox accesses (O53; 05 R118) -/

namespace Sys2Proof.Machine

open Sys2Proof

/-- The bytes that a hart's capabilities cover from an address on, one more of them taken into account. -/
def reachStep (h : Hart) (k : HartAccess) (va b i : Nat) : Nat :=
  if (fget .null h.caps i).grants k then max b ((fget .null h.caps i).prefixLen va) else b

section Fail

variable {h : Hart} {k : HartAccess} {va len : Nat}

theorem sandboxFail_eq (hs : h.sbx = true) : sandboxFail h k va len =
    if len ≤ (List.range 16).foldl (reachStep h k va) 0 then none
    else some ((va + (List.range 16).foldl (reachStep h k va) 0) % 2 ^ 64) := by
  rw [sandboxFail, hs]
  rfl

theorem le_reachStep (h : Hart) (k : HartAccess) (va b i : Nat) : b ≤ reachStep h k va b i := by
  rw [reachStep]
  split
  · exact le_max_left ..
  · exact le_rfl

theorem le_foldl_reachStep (l : List Nat) (b : Nat) : b ≤ l.foldl (reachStep h k va) b := by
  induction l generalizing b with
  | nil => exact le_rfl
  | cons i l ih => exact (le_reachStep h k va b i).trans (ih _)

/-- A capability that grants the access covers as much as it covers alone. -/
theorem prefixLen_le_foldl {l : List Nat} {i : Nat} (hi : i ∈ l) (hgrants : (fget .null h.caps i).grants k = true) (b : Nat) :
    (fget .null h.caps i).prefixLen va ≤ l.foldl (reachStep h k va) b := by
  induction l generalizing b with
  | nil => nomatch hi
  | cons j l ih =>
    rw [List.foldl_cons]
    rcases List.mem_cons.mp hi with rfl | hl
    · have hstep : (fget .null h.caps i).prefixLen va ≤ reachStep h k va b i := by
        rw [reachStep, if_pos hgrants]
        exact le_max_right ..
      exact hstep.trans (le_foldl_reachStep l _)
    · exact ih hl _

theorem sandboxFail_covered (hs : h.sbx = true) {i : Nat} (hi : i < 16) (hgrants : (fget .null h.caps i).grants k = true)
    (hlo : (fget .null h.caps i).base.toNat ≤ va)
    (hhi : va + len ≤ (fget .null h.caps i).base.toNat + (fget .null h.caps i).length.toNat) : sandboxFail h k va len = none := by
  have hcovers : len ≤ (fget .null h.caps i).prefixLen va := by
    rw [Cap.prefixLen, if_pos hlo]
    omega
  rw [sandboxFail_eq hs, if_pos (hcovers.trans (prefixLen_le_foldl (List.mem_range.mpr hi) hgrants 0))]

theorem sandboxFail_ungranted (hs : h.sbx = true) (hlen : 0 < len) (hnone : ∀ i, i < 16 → (fget .null h.caps i).grants k = false) :
    sandboxFail h k va len = some (va % 2 ^ 64) := by
  have hreach : (List.range 16).foldl (reachStep h k va) 0 = 0 := by
    rw [List.foldl_ext (reachStep h k va) (fun b _ => b) 0, List.foldl_fixed]
    intro b i hi
    rw [reachStep, hnone i (List.mem_range.mp hi)]
    rfl
  rw [sandboxFail_eq hs, hreach, if_neg (Nat.not_le.mpr hlen), Nat.add_zero]

end Fail

section Reach

variable {s : State} {h : Hart} {m : HMode} {k : HartAccess} {va len : Nat}

theorem hartReach_uncovered {a : Nat} (hfail : sandboxFail h k (hartPtr h m k va) len = some a) :
    hartReach s h m k va len = .error (.trap xCapFault (w64 a) 0 m.virt s) := by
  simp only [hartReach, hfail]

variable (hfail : sandboxFail h k (hartPtr h m k va) len = none)
include hfail

theorem hartReach_unmapped {x : Word} {ga b : Nat} (hpages : hartPages h m k (len / 4096 + 2) s (hartPtr h m k va) len =
    .error ((x, ga), b)) (hx : x ≠ xHardware) : hartReach s h m k va len = .error (.trap x (w64 b) (w64 ga) m.virt s) := by
  simp only [hartReach, hfail, hpages, hx, if_false]

theorem hartReach_mapped {r : List (Nat × Nat) × State} (hpages : hartPages h m k (len / 4096 + 2) s (hartPtr h m k va) len = .ok r) :
    hartReach s h m k va len = .ok r := by
  simp only [hartReach, hfail, hpages]

end Reach

/-- The state with a hart as the one that acts. -/
def State.asHart (s : State) (hart : Nat) : State := { s with cur := .hart hart }

theorem mode_virt_user {h : Hart} (hp : h.priv = 0) (k : HartAccess) : (h.mode k).virt = h.virt := by
  simp [Hart.mode, hp]

section Access

variable {s : State} {hart len : Nat} {k : HartAccess} {va : Word} (hin : (s.hart hart).sandboxed = true)
include hin

theorem exec_sandboxAccess_stops {e : HStop}
    (hreach : hartReach (s.asHart hart) (s.hart hart) ((s.hart hart).mode k) k va.toNat len = .error e) :
    exec (.sandboxAccess hart k va len) s = .next (hartStop (s.asHart hart) e) := by
  change execSandboxAccess hart k va len s = _
  rw [State.asHart] at hreach
  cases k with
  | store => simp only [execSandboxAccess, hin, hreach, if_true, hartFail, State.asHart]
  | fetch | load | amo => simp only [execSandboxAccess, hin, hartLoad, hartLoadM, hreach, if_true, hartFail, State.asHart]

theorem exec_sandboxAccess_store {l : List (Nat × Nat)} {u : State} (hk : k = .store)
    (hreach : hartReach (s.asHart hart) (s.hart hart) ((s.hart hart).mode k) k va.toNat len = .ok (l, u)) :
    exec (.sandboxAccess hart k va len) s = .next u := by
  subst hk
  change execSandboxAccess hart .store va len s = _
  rw [State.asHart] at hreach
  simp only [execSandboxAccess, hin, hreach, if_true]

theorem exec_sandboxAccess_reads {bs : List Byte} {u : State} (hk : k ≠ .store)
    (hload : hartLoad (s.asHart hart) (s.hart hart) k va len = .ok (bs, u)) : exec (.sandboxAccess hart k va len) s = .next u := by
  change execSandboxAccess hart k va len s = _
  rw [State.asHart] at hload
  cases k with
  | store => exact absurd rfl hk
  | fetch | load | amo => simp only [execSandboxAccess, hin, hload, if_true]

theorem exec_sandboxTrap_taken (cause tval : Word) :
    exec (.sandboxTrap hart cause tval) s = .next (s.setHart hart ((s.hart hart).trap cause tval)) := by
  change execSandboxTrap hart cause tval s = _
  rw [execSandboxTrap]
  exact if_pos hin

end Access

end Sys2Proof.Machine

/-! ### Traps of harts and of the management controller (O53; 05 R116, R118; 13 R290, R302) -/

namespace Sys2Proof.Machine

open Sys2Proof

section Trap

variable (h : Hart) (cause tval gpa : Word) (gv : Bool)

/-- A trap copies SBX to PSBX and clears it, wherever it is taken (R118). -/
theorem trapAt_sandbox : (h.trapAt cause tval gpa gv).psbx = h.sbx ∧ (h.trapAt cause tval gpa gv).sbx = false := by
  rw [Hart.trapAt]
  cases h.trapTo cause <;> exact ⟨rfl, rfl⟩

/-- A trap from M-mode is taken there. -/
theorem trapTo_machine (hp : h.priv = 3) : h.trapTo cause = .m := by
  rw [Hart.trapTo, hp]
  rfl

/-- What a trap taken in M-mode writes of the trap registers, and what it leaves. -/
theorem trapAt_machine (hto : h.trapTo cause = .m) :
    let t := h.trapAt cause tval gpa gv
    t.rCsr 0x341 = h.pc ∧ t.rCsr 0x342 = cause ∧ t.rCsr 0x343 = tval ∧ t.priv = 3 ∧
      t.pc = trapVector (h.rCsr 0x305) cause ∧ t.x = h.x ∧ t.caps = h.caps := by
  simp [Hart.trapAt, hto, Hart.rCsr, fget_fset]

end Trap

/-- An exception goes to the base of its vector. -/
theorem trapVector_exception (tvec : Word) {cause : Word} (h : cause.getLsbD 63 = false) : trapVector tvec cause = tvec &&& ~~~3#64 := by
  rw [trapVector, h, Bool.and_false, if_neg Bool.false_ne_true, Nat.add_zero]
  refine BitVec.eq_of_getLsbD_eq fun i hi => ?_
  have hmul : tvec.toNat / 4 * 4 = tvec.toNat >>> 2 <<< 2 := by rw [Nat.shiftRight_eq_div_pow, Nat.shiftLeft_eq]
  have hthree : (3#64).getLsbD i = decide (i < 2) := by
    rw [BitVec.getLsbD_ofNat, decide_eq_true hi, Bool.true_and]
    exact Nat.testBit_two_pow_sub_one 2 i
  rw [w64, BitVec.getLsbD_ofNat, hmul, Nat.testBit_shiftLeft, Nat.testBit_shiftRight, BitVec.getLsbD_and, BitVec.getLsbD_not, hthree,
    BitVec.getLsbD]
  by_cases h2 : 2 ≤ i
  · simp [hi, h2, Nat.not_lt.mpr h2]
  · simp [h2, Nat.not_le.mp h2]

section Return

variable (h : Hart)

/-- SRET to U-mode restores SBX (R118). -/
theorem sret_sbx : h.sret.sbx = if h.sret.priv = 0 then h.psbx else h.sbx := by
  cases hv : h.virt <;> simp [Hart.sret, hv]

/-- SRET is not allowed in U-mode. -/
theorem sretTrap_user (hp : h.priv = 0) : h.sretTrap = some (if h.virt = true then xVirtual else xIllegal) := by
  simp only [Hart.sretTrap, hp, decide_true, Bool.true_or, if_true]
  split <;> rfl

theorem sretTrap_machine (hp : h.priv = 3) (hv : h.virt = false) : h.sretTrap = none := by
  simp only [Hart.sretTrap, hp, hv]
  rfl

end Return

section Returned

variable {s : State}

theorem exec_sret_returns (h : s.myHart.sretTrap = none) : exec .sret s = .next (s.setHart s.hartId s.myHart.sret) := by
  change execSret s = _
  simp only [execSret, h]

theorem exec_sret_traps {c : Word} (h : s.myHart.sretTrap = some c) :
    exec .sret s = .next (hartTrap s c (sretWord.zeroExtend 64)) := by
  change execSret s = _
  simp only [execSret, h]

end Returned

section Controller

variable {s : State} (pc cause tval st : Word)

/-- A trap fills the next bank while one is free (R290). -/
theorem exec_mcTrap_banked (h : s.mc.banks.length < 2) : exec (.mcTrap pc cause tval st) s = .next { s with mc := { s.mc with
    banks := s.mc.banks ++ [{ mepc := pc, mcause := cause, mtval := tval, mstatus := st }] } } := by
  change execMcTrap pc cause tval st s = _
  rw [execMcTrap]
  split
  · next b0 b1 l hb =>
    rw [hb] at h
    simp at h
  · rfl

/-- The state that a third trap leaves: the crash record written, and the controller's READY bit clear (R290, R302). -/
def mcCrashed (s : State) (b0 b1 : McBank) (pc cause : Word) : State :=
  regFld { s with mc := { s.mc with banks := [], crash := crashRecord s.mc.crash b0 b1 pc cause } } offREADY 30 30 0

theorem exec_mcTrap_third {b0 b1 : McBank} (h : s.mc.banks = [b0, b1]) :
    exec (.mcTrap pc cause tval st) s = .next (mcCrashed s b0 b1 pc cause) := by
  change execMcTrap pc cause tval st s = _
  simp only [execMcTrap, h]
  rfl

theorem mcCrashed_ready (s : State) (b0 b1 : McBank) : (regGet (mcCrashed s b0 b1 pc cause) offREADY).getLsbD 30 = false := by
  rw [mcCrashed, regGet_regFld, if_pos rfl, getLsbD_putFld _ _ le_rfl (by decide)]
  rfl

/-- The crash record begins with its mark. -/
theorem crashRecord_mark (old : List Word) (b0 b1 : McBank) : fld ((crashRecord old b0 b1 pc cause).getD 0 0) 31 0 = 0x4B435231 := by
  rw [crashRecord, List.getD_cons_zero, fld_low, w64, BitVec.toNat_ofNat]
  omega

end Controller

theorem sandboxChecksAndTraps : SandboxChecksAndTraps := by
  intro s hart len k va cause tval pc st w h me s' a ends traps bank
  refine ⟨fun hp hs => ?sandbox, ⟨(trapAt_sandbox ..).1, (trapAt_sandbox ..).2, fun hp => ?machine⟩, rfl, exec_sret_returns,
    sret_sbx me, fun c => exec_sret_traps, sretTrap_user me, sretTrap_machine me, exec_mcTrap_banked pc cause tval st,
    fun b0 b1 hb => ⟨_, exec_mcTrap_third pc cause tval st hb, rfl, mcCrashed_ready .., rfl, crashRecord_mark .., rfl⟩, rfl⟩
  case machine =>
    intro t
    obtain ⟨hepc, hcause, htval, hpriv, hpc, hx, hcaps⟩ :=
      trapAt_machine h cause tval 0 (h.virt && addressCause cause) (trapTo_machine h cause hp)
    exact ⟨hepc, hcause, htval, hpriv, fun hexc => hpc.trans (trapVector_exception _ hexc), hx, hcaps⟩
  case sandbox =>
    have hin : (s.hart hart).sandboxed = true := sandboxed_iff.mpr ⟨hp, hs⟩
    have hvirt := mode_virt_user hp k
    refine ⟨fun hlen hnone => ?_, fun i c hi hc hgrants hlo hhi => ?_, exec_sandboxTrap_taken hin cause tval⟩
    · have hfail : sandboxFail h k a len = some (a % 2 ^ 64) := sandboxFail_ungranted hs hlen hnone
      have hreach := hartReach_uncovered (s := s.asHart hart) hfail
      rw [hvirt] at hreach
      exact exec_sandboxAccess_stops hin hreach
    · subst hc
      have hfail : sandboxFail h k a len = none := sandboxFail_covered hs hi hgrants hlo hhi
      refine ⟨fun x ga b hpages hx => ?_, fun hk l u hpages => ?_, fun hk bs u => exec_sandboxAccess_reads hin hk⟩
      · have hreach := hartReach_unmapped (s := s.asHart hart) hfail hpages hx
        rw [hvirt] at hreach
        exact exec_sandboxAccess_stops hin hreach
      · exact exec_sandboxAccess_store hin hk (hartReach_mapped (s := s.asHart hart) hfail hpages)

/-- Settles O53: the capability instructions, the tool instructions, and the sandbox with the traps. -/
theorem hartsCapabilitiesToolsAndTraps : Obligations.HartsCapabilitiesToolsAndTraps :=
  ⟨capabilitiesAndSandbox, toolInstructions, sandboxChecksAndTraps⟩

end Sys2Proof.Machine

/-! ### The doorbell of the endpoint (O56; 10 R227, R228) -/

namespace Sys2Proof.Machine

open Sys2Proof

theorem exec_epdbArm (tenant : Nat) (v : Word) (s : State) : exec (.epdbArm tenant v) s = execEpdbArm tenant v s := rfl
theorem exec_epdbDisarm (tenant : Nat) (v : Word) (s : State) : exec (.epdbDisarm tenant v) s = execEpdbDisarm tenant v s := rfl

/-- The 8 words of an entry of the table. -/
def entryWords (bs : List Byte) : List Word := (List.range 8).map (fun j => w64 (fromBytes (slice bs (8 * j) 8)))

/-- The request that an entry of the table gives. -/
def entryReq (id tenant index : Nat) (bs : List Byte) : EpReq :=
  { id := id, tenant := tenant, index := index, words := entryWords bs, armed := true, fired := false, spent := false,
    stall := none, msg := none }

/-- A request that is armed enters the list and goes by its trigger (R227). -/
def epEnter (s : State) (x : EpReq) : State :=
  let t : State := { s with nextId := s.nextId + 1, epReqs := epInsert x s.epReqs }
  if x.trig = 0 then epFire t x else if x.trig = 1 then t else epWatch t x

section Doorbell

variable {s : State} {tenant : Nat} {v : Word}

theorem exec_epdbArm_ignored (h : v.getLsbD 12 = true ∨ tset s setEPWRCNT tenant ≤ fld v 11 0) :
    exec (.epdbArm tenant v) s = .next s := by
  rw [exec_epdbArm, execEpdbArm]
  exact if_pos (by rwa [Bool.or_eq_true_iff, decide_eq_true_eq])

theorem exec_epdbDisarm_ignored (h : v.getLsbD 12 = false ∨ tset s setEPWRCNT tenant ≤ fld v 11 0) :
    exec (.epdbDisarm tenant v) s = .next s := by
  rw [exec_epdbDisarm, execEpdbDisarm]
  exact if_pos (by rwa [Bool.or_eq_true_iff, decide_eq_true_eq, Bool.not_eq_true'])

theorem exec_epdbDisarm_acts (hbit : v.getLsbD 12 = true) (hi : fld v 11 0 < tset s setEPWRCNT tenant) :
    exec (.epdbDisarm tenant v) s = .next (epDisarm (unitRelease s) tenant (fld v 11 0)) := by
  rw [exec_epdbDisarm, execEpdbDisarm]
  exact if_neg (by rw [hbit, decide_eq_false (Nat.not_le.mpr hi)]; exact Bool.false_ne_true)

section Arm

variable (hbit : v.getLsbD 12 = false) (hi : fld v 11 0 < tset s setEPWRCNT tenant) {bs : List Byte} {u : State}
  (hread : epRead (epDisarm (unitRelease s) tenant (fld v 11 0)) tenant
    (tset (epDisarm (unitRelease s) tenant (fld v 11 0)) setEPWRBASE tenant + 64 * fld v 11 0) 64 = (some bs, u))
include hbit hi hread

theorem exec_epdbArm_malformed (hbad : epEntryOk ((entryWords bs).getD 0 0) = false) : exec (.epdbArm tenant v) s = .next u := by
  rw [entryWords] at hbad
  simp only [exec_epdbArm, execEpdbArm, hbit, Nat.not_le.mpr hi, decide_false, Bool.or_self, Bool.false_eq_true, if_false, hread, hbad]

theorem exec_epdbArm_arms (hok : epEntryOk ((entryWords bs).getD 0 0) = true) :
    exec (.epdbArm tenant v) s = .next (epEnter u (entryReq u.nextId tenant (fld v 11 0) bs)) := by
  rw [entryWords] at hok
  simp only [exec_epdbArm, execEpdbArm, hbit, Nat.not_le.mpr hi, decide_false, Bool.or_self, Bool.false_eq_true, if_false, hread, hok,
    if_true, ← apply_ite Host.Outcome.next]
  rfl

end Arm

/-- The one request of an entry leaves, but a transfer that has started finishes disarmed (R228). -/
theorem epDisarm_single {q : EpReq} (h : s.epReqs = [q]) (ht : q.tenant = tenant) {i : Nat} (hi : q.index = i) :
    (epDisarm s tenant i).epReqs = if q.fired = false ∨ 3 ≤ q.kind then [] else [{ q with armed := false }] := by
  have hmine : (q.tenant == tenant && q.index == i) = true := by rw [ht, hi, beq_self_eq_true, beq_self_eq_true, Bool.and_self]
  simp only [epDisarm, h]
  by_cases hleaves : q.fired = false ∨ 3 ≤ q.kind
  · rw [if_pos hleaves, List.filter_cons_of_neg, List.filter_nil, List.map_nil]
    rcases hleaves with hf | hk
    · simp [hmine, hf]
    · simp [hmine, hk]
  · rw [if_neg hleaves, List.filter_cons_of_pos, List.filter_nil, List.map_singleton, if_pos hmine]
    obtain ⟨hf, hk⟩ := not_or.mp hleaves
    simp [hmine, Bool.eq_true_of_not_eq_false hf, Nat.lt_of_not_le hk]

end Doorbell

end Sys2Proof.Machine

/-! ### Requests that fire, receive and complete (O56; 10 R227 to R229) -/

namespace Sys2Proof.Machine

open Sys2Proof

section Fire

variable {s u u1 : State} {q : EpReq} {pa : Nat} {bs : List Byte}

/-- A request marked as fired. -/
def epFired (s : State) (q : EpReq) : State := epUpd s q.id (fun x => { x with fired := true, spent := true, stall := none })

theorem epFire_send (hk : q.kind ≤ 1) (hctr : epXlate s q.tenant (ctrVa s q.tenant q.ctr) .store = (some pa, u1))
    (hread : epRead u1 q.tenant q.laddr q.len = (some bs, u)) :
    epFire s q = (epFired u q).send (.epSend q.kind q.peer (q.word 6) bs) := by
  have h2 : ¬ 2 < q.kind := by omega
  have hne : q.kind ≠ 2 := by omega
  simp only [epFire, h2, hne, hctr, hread, if_false]
  rfl

theorem epFire_read (hk : q.kind = 2) (hctr : epXlate s q.tenant (ctrVa s q.tenant q.ctr) .store = (some pa, u)) :
    epFire s q = (epFired u q).send (.epRead q.peer (q.word 6) q.len) := by
  simp only [epFire, hk, hctr, lt_irrefl, if_false, if_true]
  rfl

theorem epFire_unmapped (hk : q.kind ≤ 2) (hctr : epXlate s q.tenant (ctrVa s q.tenant q.ctr) .store = (none, u)) :
    epFire s q = epStall (epUpd u q.id (fun x => { x with spent := true })) q none := by
  simp only [epFire, Nat.not_lt.mpr hk, hctr, if_false]

end Fire

section End

variable {s u u1 : State} {q : EpReq} {m : EpMsg} {pa : Nat}

/-- A counter that is not mapped stalls the request (R229). -/
theorem epEnd_unmapped (hctr : epXlate s q.tenant (ctrVa s q.tenant q.ctr) .store = (none, u)) :
    epEnd s q m = (epStall u q (some m), false) := by
  rw [epEnd, hctr]

/-- A payload that is written, or that there is none of, completes the request (R228). -/
theorem epEnd_done (hctr : epXlate s q.tenant (ctrVa s q.tenant q.ctr) .store = (some pa, u1)) (hpay : epPayload u1 q m = some u) :
    epEnd s q m = (epCount (epLeave u q) q pa, true) := by
  simp only [epEnd, hctr, hpay]

theorem epPayload_sent (hk : q.kind ≤ 1) : epPayload s q m = some s := by
  have hkind : q.kind = 0 ∨ q.kind = 1 := by omega
  rcases hkind with h0 | h1
  · simp only [epPayload, h0]
  · simp only [epPayload, h1]

theorem epPayload_received (hk : q.kind = 2 ∨ q.kind = 3 ∨ q.kind = 5) :
    epPayload s q m = epWrite s q.tenant q.laddr (m.data.take q.len) := by
  rcases hk with h2 | h3 | h5
  · simp only [epPayload, h2]
  · simp only [epPayload, h3]
  · simp only [epPayload, h5]

end End

/-! A message that meets the one request there is. -/

section Arrival

variable {s u : State} {q : EpReq} {m : EpMsg}

theorem epTrigger_fired (h : s.epReqs = [q]) (hf : q.fired = true) (sends : Bool) : epTrigger sends s m = s := by
  rw [epTrigger, h, List.foldl_cons, List.foldl_nil, if_neg]
  simp [hf]

/-- The request stands ready to receive. -/
def EpReq.ready (q : EpReq) : Prop := q.armed = true ∧ q.fired = true ∧ q.stall = none

variable (h : s.epReqs = [q])

include h in
theorem epReceiver_other (hm : q.matches m = false) : epReceiver s m = none := by
  rw [epReceiver, h, List.find?_cons_of_neg, List.find?_nil]
  simp [hm]

variable (hready : q.ready)
include h hready

theorem epReceiver_matching (hk : q.kind = 3 ∨ q.kind = 5) (hm : q.matches m = true) : epReceiver s m = some q := by
  obtain ⟨ha, hf, hs⟩ := hready
  rw [epReceiver, h, List.find?_cons_of_pos]
  rcases hk with hk | hk <;> simp [ha, hf, hs, hk, hm]

theorem exec_epMessageArrival_matching (hk : q.kind = 3) (hm : q.matches m = true) :
    exec (.epMessageArrival m) s = .next (epTrigger true (epReceive s q m) m) := by
  change execEpMessageArrival m s = _
  simp only [execEpMessageArrival, epTrigger_fired h hready.2.1 false, epReceiver_matching h hready (.inl hk) hm, hk, if_true]
  rfl

theorem exec_epMessageArrival_other (hm : q.matches m = false) : exec (.epMessageArrival m) s = .next (epTrigger true s m) := by
  change execEpMessageArrival m s = _
  simp only [execEpMessageArrival, epTrigger_fired h hready.2.1 false, epReceiver_other h hm]
  rfl

theorem exec_futureCompletionMessage_matching (hk : q.kind = 5) (hm : q.matches m = true) :
    exec (.futureCompletionMessage m) s = .next (epTrigger true (epReceive s q m) m) := by
  change execFutureCompletionMessage m s = _
  simp only [execFutureCompletionMessage, epTrigger_fired h hready.2.1 false, epReceiver_matching h hready (.inr hk) hm, hk, if_true]
  rfl

end Arrival

/-- A KIND 3 request hands its message on to nobody; what a KIND 5 request receives is applied to its future. -/
theorem epReceive_plain {s u : State} {q : EpReq} {m : EpMsg} {b : Bool} (hk : q.kind = 3) (hend : epEnd s q m = (u, b)) :
    epReceive s q m = u := by
  cases b <;> simp [epReceive, hend, hk]

theorem epReceive_completion {s u t : State} {q : EpReq} {m : EpMsg} {st : Nat} (hk : q.kind = 5) (hend : epEnd s q m = (u, true))
    (happly : applyCompletion u m = (st, t)) : epReceive s q m = t.send (.epStatus m.peer st) := by
  simp only [epReceive, hend, hk, happly, if_true]

/-! A transfer that ends. -/

section Transfer

variable {s u u1 : State} {q : EpReq} {pa : Nat} {d : List Byte}

/-- What a response brings, as a message. -/
def EpReq.answer (q : EpReq) (d : List Byte) : EpMsg := { tenant := q.tenant, peer := q.peer, tag := 0, data := d }

/-- A request that waits for its counter, and is not answered "resend later" any more. -/
def EpReq.patient (q : EpReq) : EpReq := { q with words := q.words.set 0 (putFld (q.word 0) 6 6 0) }

theorem patient_word (q : EpReq) : q.patient.word 0 = putFld (q.word 0) 6 6 0 := by
  cases hwords : q.words with
  | nil => simp only [EpReq.word, EpReq.patient, hwords, List.set_nil, List.getD_nil]; rfl
  | cons w ws => simp only [EpReq.word, EpReq.patient, hwords, List.set_cons_zero, List.getD_cons_zero]

theorem patient_kind (q : EpReq) : q.patient.kind = q.kind := by
  rw [EpReq.kind, patient_word, fld_putFld_apart _ _ (by decide) (by decide) (by decide), EpReq.kind]

theorem patient_ctr (q : EpReq) : q.patient.ctr = q.ctr := by
  rw [EpReq.ctr, patient_word, fld_putFld_apart _ _ (by decide) (by decide) (by decide), EpReq.ctr]

theorem patient_odp (q : EpReq) : q.patient.odp = false := by
  rw [EpReq.odp, patient_word, getLsbD_putFld _ _ (by decide) (by decide)]
  rfl

/-- A stall without ODP holds the request, whatever its other words. -/
theorem epStall_held {q q' : EpReq} (s : State) (m : Option EpMsg) (hid : q'.id = q.id) (ho : q.odp = false) (ho' : q'.odp = false) :
    epStall s q' m = epStall s q m := by
  rw [epStall, epStall, ho, ho', hid]
  rfl

theorem accessed_iff {q : EpReq} (hf : q.fired = true) : q.accessed = decide (q.kind ≤ 1) := by
  rw [EpReq.accessed, hf, Bool.true_and]

theorem epFinish_sent (hf : q.fired = true) (hk : q.kind ≤ 1) : epFinish s q d = (epEnd s q.patient (q.answer d)).1 := by
  have hacc : q.accessed = true := by rw [accessed_iff hf, decide_eq_true hk]
  rw [epFinish, hacc, if_pos rfl]
  cases hend : epEnd s q.patient (q.answer d) with
  | mk t b =>
    rw [EpReq.patient, EpReq.answer] at hend
    rw [hend]
    cases b <;> simp

theorem epFinish_sent_done (hf : q.fired = true) (hk : q.kind ≤ 1)
    (hctr : epXlate s q.tenant (ctrVa s q.tenant q.ctr) .store = (some pa, u)) : epFinish s q d = epCount (epLeave u q) q pa := by
  have hk' : q.patient.kind ≤ 1 := by rwa [patient_kind]
  have hend : epEnd s q.patient (q.answer d) = _ := epEnd_done (by rw [patient_ctr]; exact hctr) (epPayload_sent hk')
  have hleave : epLeave u q.patient = epLeave u q := by
    have h4 : ¬ 4 ≤ q.kind := by omega
    have h3 : q.kind ≠ 3 := by omega
    simp only [epLeave, patient_kind, h4, h3, decide_false, beq_iff_eq, Bool.false_or, Bool.and_eq_true, false_and, if_false]
    rfl
  rw [epFinish_sent hf hk, hend, hleave, epCount, epCount, patient_ctr]
  rfl

theorem epFinish_sent_unmapped (hf : q.fired = true) (hk : q.kind ≤ 1) (ho : q.odp = false)
    (hctr : epXlate s q.tenant (ctrVa s q.tenant q.ctr) .store = (none, u)) : epFinish s q d = epStall u q (some (q.answer d)) := by
  rw [epFinish_sent hf hk, epEnd_unmapped (by rw [patient_ctr]; exact hctr)]
  exact epStall_held u _ rfl ho (patient_odp q)

theorem epFinish_read_done (hf : q.fired = true) (hk : q.kind = 2)
    (hctr : epXlate s q.tenant (ctrVa s q.tenant q.ctr) .store = (some pa, u1))
    (hwrite : epWrite u1 q.tenant q.laddr (d.take q.len) = some u) : epFinish s q d = epCount (epLeave u q) q pa := by
  have hacc : q.accessed = false := by rw [accessed_iff hf, hk]; rfl
  have hend : epEnd s q (q.answer d) = _ := epEnd_done hctr ((epPayload_received (.inl hk)).trans hwrite)
  rw [EpReq.answer] at hend
  simp only [epFinish, hacc, hend, Bool.false_eq_true, if_false]

theorem epFinish_read_unmapped (hf : q.fired = true) (hk : q.kind = 2) (ho : q.odp = false)
    (hctr : epXlate s q.tenant (ctrVa s q.tenant q.ctr) .store = (none, u)) : epFinish s q d = epStall u q (some (q.answer d)) := by
  have hacc : q.accessed = false := by rw [accessed_iff hf, hk]; rfl
  have hend : epEnd s q (q.answer d) = _ := epEnd_unmapped hctr
  rw [EpReq.answer] at hend
  simp only [epFinish, hacc, ho, hend, Bool.false_and, Bool.false_eq_true, if_false]
  rfl

theorem epFind_single (h : s.epReqs = [q]) : epFind s q.id = some q := by
  rw [epFind, h, List.find?_cons_of_pos]
  exact beq_self_eq_true _

theorem exec_epTransferComplete_good {r : Reply} (h : s.epReqs = [q]) (hf : q.fired = true) (hs : q.stall = none) (hk : q.kind ≤ 2)
    (hr : r.code = 0) : exec (.epTransferComplete q.id r) s = .next (epFinish s q r.data) := by
  change execEpTransferComplete q.id r s = _
  simp only [execEpTransferComplete, epFind_single h, hf, hs, hk, hr, decide_true, Option.isNone_none, Bool.and_self, if_true]

theorem exec_epTransferComplete_failed {r : Reply} (h : s.epReqs = [q]) (hr : r.code ≠ 0) :
    exec (.epTransferComplete q.id r) s = .next s := by
  change execEpTransferComplete q.id r s = _
  simp only [execEpTransferComplete, epFind_single h, hr, decide_false, Bool.and_false, Bool.false_eq_true, if_false]

end Transfer

/-! A stall that ends, or goes on (R229). -/

section Stall

variable {s : State} {q : EpReq} {t0 : Nat} (h : s.epReqs = [q]) (hs : q.stall = some t0)
include h hs

theorem exec_epOdpTimeout_mapped (hend : ((epFind (epRetry s q) q.id).bind (·.stall)).isNone = true) :
    exec (.epOdpTimeout q.id) s = .next (epRetry s q) := by
  change execEpOdpTimeout q.id s = _
  simp only [execEpOdpTimeout, epFind_single h, hs, hend, if_true]

variable (hend : ((epFind (epRetry s q) q.id).bind (·.stall)).isNone = false)
include hend

theorem exec_epOdpTimeout_early (ht : s.cycle < t0 + 320000) : exec (.epOdpTimeout q.id) s = .next s := by
  change execEpOdpTimeout q.id s = _
  simp only [execEpOdpTimeout, epFind_single h, hs, hend, Nat.not_le.mpr ht, decide_false, Bool.false_and, Bool.false_eq_true, if_false]

theorem exec_epOdpTimeout_late (ht : t0 + 320000 ≤ s.cycle) (hacc : q.accessed = false) : exec (.epOdpTimeout q.id) s =
    .next ((epUpd s q.id (fun x => { x with stall := none, msg := none, fired := x.fired && 3 ≤ x.kind })).send
      (.epResend ((q.msg.map (·.peer)).getD q.peer))) := by
  change execEpOdpTimeout q.id s = _
  simp only [execEpOdpTimeout, epFind_single h, hs, hend, ht, hacc, decide_true, Bool.not_false, Bool.and_self, Bool.false_eq_true,
    if_false, if_true]

end Stall

/-! ### REMOTE tool queues (O56; 05 R121) -/

/-- The one request there is forwards a queue, which is valid and its tenant's. -/
structure Forwards (s : State) (q : EpReq) (n : Nat) : Prop where
  only : s.epReqs = [q]
  ready : q.ready
  kind : q.kind = 4
  queue : q.laddr = n
  known : n ≤ 255
  valid : (tqDesc s n).valid = true
  remote : (tqDesc s n).remote = true
  tenant : q.tenant = (tqDesc s n).tenant

section Forward

variable {s u t : State} {q : EpReq} {n pa : Nat} (h : Forwards s q n)
include h

/-- A queue is looked at by the request that forwards it. -/
theorem forwarder_found : s.epReqs.find? (fun r => r.armed && r.fired && r.kind == 4 && r.stall.isNone && r.laddr == n &&
    r.tenant == (tqDesc s n).tenant) = some q := by
  obtain ⟨ha, hf, hs⟩ := h.ready
  rw [h.only, List.find?_cons_of_pos]
  simp [ha, hf, hs, h.kind, h.queue, h.tenant]

theorem exec_toolQueueForward_empty (he : (tqDesc s n).head = (tqDesc s n).tail) : exec (.toolQueueForward n) s = .next s := by
  change execToolQueueForward n s = _
  simp only [execToolQueueForward, forwarder_found h, he, beq_self_eq_true, Bool.or_true, if_true]

variable (hne : (tqDesc s n).head ≠ (tqDesc s n).tail)
include hne

/-- The checks of a queue that is not empty pass. -/
theorem forward_passes : (255 < n || !(tqDesc s n).valid || !(tqDesc s n).remote || (tqDesc s n).head == (tqDesc s n).tail) = false := by
  simp [h.known, h.valid, h.remote, hne]

theorem exec_toolQueueForward_unmapped (hctr : epXlate s q.tenant (ctrVa s q.tenant q.ctr) .store = (none, u)) :
    exec (.toolQueueForward n) s = .next (epStall u q none) := by
  change execToolQueueForward n s = _
  simp only [execToolQueueForward, forwarder_found h, forward_passes h hne, hctr, Bool.false_eq_true, if_false]

variable (hctr : epXlate s q.tenant (ctrVa s q.tenant q.ctr) .store = (some pa, u))
include hctr

theorem exec_toolQueueForward_faults (hfault : tqFaults u (tqDesc s n) = true) :
    exec (.toolQueueForward n) s = .next (epStall u q none) := by
  change execToolQueueForward n s = _
  simp only [execToolQueueForward, forwarder_found h, forward_passes h hne, hctr, hfault, Bool.false_eq_true, if_false, if_true]

variable (hread : tqFaults u (tqDesc s n) = false)
include hread

theorem exec_toolQueueForward_pops {e : List Byte} {f : Nat}
    (hpop : tqPop (fun s t a n => (epRead s t a n).1) u n = (some (e, f), t)) : exec (.toolQueueForward n) s =
      .next (epCount ((epLeave t q).send (.epSend 4 q.peer (q.word 6) e)) q pa) := by
  change execToolQueueForward n s = _
  simp only [execToolQueueForward, forwarder_found h, forward_passes h hne, hctr, hread, hpop, Bool.false_eq_true, if_false]

theorem exec_toolQueueForward_nothing (hpop : tqPop (fun s t a n => (epRead s t a n).1) u n = (none, t)) :
    exec (.toolQueueForward n) s = .next t := by
  change execToolQueueForward n s = _
  simp only [execToolQueueForward, forwarder_found h, forward_passes h hne, hctr, hread, hpop, Bool.false_eq_true, if_false]

end Forward

theorem endpointRequestsFireAndComplete : EndpointRequestsFireAndComplete := by
  intro s tenant v q m r i n s1 words ctr answer
  refine ⟨exec_epdbArm_ignored, fun hbit hi bs u hread => ⟨exec_epdbArm_malformed hbit hi hread, exec_epdbArm_arms hbit hi hread⟩,
    fun hbit hi hq ht hindex => ?disarm, exec_epdbDisarm_ignored, fun hk pa u1 bs u hctr => epFire_send hk hctr,
    fun hk pa u => epFire_read hk, fun hk u => epFire_unmapped hk, fun hq ha hf hs => ?single, fun t0 hq hs => ?stalled,
    fun n hq ha hf hs hk hqueue hn => ?forward⟩
  case disarm =>
    exact ⟨_, exec_epdbDisarm_acts hbit hi, rfl, epDisarm_single (s := unitRelease s) hq ht hindex⟩
  case single =>
    have hready : q.ready := ⟨ha, hf, hs⟩
    refine ⟨fun hk hm pa u1 u hctr hwrite => ?_, fun hk hm _ u1 hctr => ?_, fun _ => exec_epMessageArrival_other hq hready,
      fun hk hr pa u hctr => ?_, fun hk hr pa u1 u hctr hwrite => ?_, fun hk hr ho u hctr => ?_,
      exec_epTransferComplete_failed hq⟩
    · rw [exec_epMessageArrival_matching hq hready hk hm,
        epReceive_plain hk (epEnd_done hctr ((epPayload_received (.inr (.inl hk))).trans hwrite))]
    · rw [exec_epMessageArrival_matching hq hready hk hm, epReceive_plain hk (epEnd_unmapped hctr)]
    · rw [exec_epTransferComplete_good hq hf hs (by omega) hr, epFinish_sent_done hf hk hctr]
    · rw [exec_epTransferComplete_good hq hf hs (by omega) hr, epFinish_read_done hf hk hctr hwrite]
    · rw [exec_epTransferComplete_good hq hf hs hk hr]
      rcases Nat.lt_or_eq_of_le hk with hsent | hread
      · rw [epFinish_sent_unmapped hf (Nat.le_of_lt_succ hsent) ho hctr]
        rfl
      · rw [epFinish_read_unmapped hf hread ho hctr]
        rfl
  case stalled =>
    refine ⟨exec_epOdpTimeout_mapped hq hs, fun hend => ⟨exec_epOdpTimeout_early hq hs hend, fun ht hacc => ?_⟩⟩
    exact ⟨_, exec_epOdpTimeout_late hq hs hend ht hacc, rfl, rfl⟩
  case forward =>
    intro d hvalid hremote htenant
    have h : Forwards s q n := ⟨hq, ⟨ha, hf, hs⟩, hk, hqueue, hn, hvalid, hremote, htenant⟩
    exact ⟨exec_toolQueueForward_empty h, fun hne pa u hctr => ⟨exec_toolQueueForward_faults h hne hctr, fun hread e f t =>
      ⟨exec_toolQueueForward_pops h hne hctr hread, exec_toolQueueForward_nothing h hne hctr hread⟩⟩,
      fun hne u => exec_toolQueueForward_unmapped h hne⟩

end Sys2Proof.Machine

/-! ### Completion messages (O56; 05 R111, R112, R122; 10 R230) -/

namespace Sys2Proof.Machine

open Sys2Proof

/-- Numbers written four bytes each are read back from their places. -/
theorem tokens_read (l : List (BitVec 32)) : (List.range l.length).map (fun j => fromBytes
    (slice (l.flatMap (fun t => toBytes 4 t.toNat)) (4 * j) 4)) = l.map (·.toNat) := by
  induction l with
  | nil => rfl
  | cons t l ih =>
    have hlen : (toBytes 4 t.toNat).length = 4 := toBytes_length ..
    have hfirst : slice (toBytes 4 t.toNat ++ l.flatMap (fun t => toBytes 4 t.toNat)) (4 * 0) 4 = toBytes 4 t.toNat := by
      rw [slice, Nat.mul_zero, List.drop_zero, List.take_left' hlen]
    have hrest (j : Nat) : slice (toBytes 4 t.toNat ++ l.flatMap (fun t => toBytes 4 t.toNat)) (4 * (j + 1)) 4 =
        slice (l.flatMap (fun t => toBytes 4 t.toNat)) (4 * j) 4 := by
      rw [slice, slice, Nat.mul_succ, Nat.add_comm, ← List.drop_drop, List.drop_left' hlen]
    rw [List.length_cons, List.range_succ_eq_map, List.map_cons, List.map_map, List.flatMap_cons, hfirst, List.map_cons, ← ih,
      fromBytes_toBytes, Nat.mod_eq_of_lt t.isLt]
    exact congrArg _ (List.map_congr_left fun j _ => by rw [Function.comp_apply, hrest])

/-- The key that a completion message names, and its kind. -/
def msgKey (m : EpMsg) : Word := w64 (fromBytes (slice m.data 0 8))
def msgKind (m : EpMsg) : Nat := fromBytes (slice m.data 8 1)

/-- Whether a key names a future of another tenant. -/
def foreignKey (s : State) (m : EpMsg) : Bool :=
  match futMatch s (msgKey m) with
  | some (_, f) => f.tenant != m.tenant
  | none => false

section Message

variable {s : State} {m : EpMsg}

theorem foreignKey_unknown (h : futMatch s (msgKey m) = none) : foreignKey s m = false := by simp only [foreignKey, h]

theorem foreignKey_known {i : Nat} {f : Future} (h : futMatch s (msgKey m) = some (i, f)) :
    foreignKey s m = (f.tenant != m.tenant) := by simp only [foreignKey, h]

theorem applyCompletion_malformed (h : m.data.length < 16 ∨ m.data.length % 4 ≠ 0 ∨ 1 < msgKind m) :
    applyCompletion s m = (4, s) := by
  rw [msgKind] at h
  rw [applyCompletion]
  refine if_pos ?_
  rcases h with h | h | h <;> simp [h]

/-- A completion message of whole tokens. -/
structure Carries (m : EpMsg) (toks : List (BitVec 32)) : Prop where
  tokens : m.data.drop 16 = toks.flatMap (fun t => toBytes 4 t.toNat)
  length : 16 ≤ m.data.length
  few : toks.length ≤ 2 ^ 20
  kind : msgKind m ≤ 1

variable {toks : List (BitVec 32)} (h : Carries m toks)
include h

theorem carries_length : m.data.length = 16 + 4 * toks.length := by
  have hlen := congrArg List.length h.tokens
  rw [List.length_drop, List.length_flatMap] at hlen
  simp only [toBytes_length, List.map_const', List.sum_replicate, smul_eq_mul] at hlen
  have := h.length
  omega

theorem carries_tokens : (List.range ((m.data.length - 16) / 4)).map (fun j => fromBytes (slice m.data (16 + 4 * j) 4)) =
    toks.map (·.toNat) := by
  have hcount : (m.data.length - 16) / 4 = toks.length := by rw [carries_length h]; omega
  rw [hcount, ← tokens_read, ← h.tokens]
  exact List.map_congr_left fun j _ => by rw [slice, slice, List.drop_drop]

variable (hnow : futNow s (fld (msgKey m) 15 0) = s)
include hnow

/-- What is applied of a message that is well formed (R230). -/
theorem applyCompletion_carries : applyCompletion s m = if foreignKey s m = true then (4, s)
    else if msgKind m = 0 then futComplete s (msgKey m) (some (toks.map (·.toNat))) 0
    else futComplete s (msgKey m) none (fromBytes (slice m.data 12 4)) := by
  have hlen := carries_length h
  have hfew := h.few
  have hkind := h.kind
  have hgood : (m.data.length < 16 || m.data.length % 4 ≠ 0 || 1 < msgKind m || 2 ^ 20 < (toks.map (·.toNat)).length) = false := by
    simp only [Bool.or_eq_false_iff, decide_eq_false_iff_not, List.length_map]
    omega
  rw [msgKind] at hgood
  rw [msgKey] at hnow
  simp only [applyCompletion, carries_tokens h, hgood, hnow, Bool.false_eq_true, if_false]
  rfl

end Message

section Complete

variable {s : State} {key : Word} {toks : Option (List Nat)} {code i : Nat} {f : Future} (hnow : futNow s (fld key 15 0) = s)
include hnow

theorem futComplete_unknown (hm : futMatch s key = none) : futComplete s key toks code = (2, s) := by
  simp only [futComplete, hnow, hm]

variable (hm : futMatch s key = some (i, f))
include hm

theorem futComplete_done (h : f.state = fuCOMPLETED ∨ f.state = fuTIMEDOUT) : futComplete s key toks code = (2, s) := by
  rw [fuCOMPLETED, fuTIMEDOUT] at h
  simp only [futComplete, hnow, hm, h, if_true]

theorem futComplete_ended (h : f.state = fuFAILED ∨ f.state = fuCANCELLED) : futComplete s key toks code = (3, s) := by
  rw [fuFAILED, fuCANCELLED] at h
  have hother : ¬ (f.state = 3 ∨ f.state = 4) := by omega
  simp only [futComplete, hnow, hm, hother, h, if_false, if_true]

variable (hlive : f.live = true)
include hlive

/-- A live future takes what a completion brings (R111). -/
theorem futComplete_tokens {ts : List Nat} (hfit : ts.length ≤ rqGet s f.req rqPFQSIZE) : futComplete s key (some ts) code =
    (0, putFut (inject s f.req ts) i { f with state := fuCOMPLETED, result := 1 }) := by
  obtain ⟨-, rfl⟩ := futMatch_some hm
  have hstate := live_iff.mp hlive
  rw [fuARMED, fuRUNNING] at hstate
  have hdone : ¬ ((futOf s i).state = 3 ∨ (futOf s i).state = 4) := by omega
  have hended : ¬ ((futOf s i).state = 5 ∨ (futOf s i).state = 6) := by omega
  simp only [futComplete, hnow, hm, hdone, hended, Nat.not_lt.mpr hfit, if_false]
  rfl

theorem futComplete_failure : ∃ t, futComplete s key none code = (0, t) ∧ (futOf t i).state = fuFAILED ∧ (futOf t i).result = 3 ∧
    (futOf t i).fcode = code % 2 ^ 32 := by
  have hstate := live_iff.mp hlive
  rw [fuARMED, fuRUNNING] at hstate
  have hdone : ¬ (f.state = 3 ∨ f.state = 4) := by omega
  have hended : ¬ (f.state = 5 ∨ f.state = 6) := by omega
  refine ⟨_, by simp only [futComplete, hnow, hm, hdone, hended, if_false]; rfl, ?_⟩
  rw [resolveFut, futOf_putFut, futOf_putFut]
  exact ⟨rfl, rfl, rfl⟩

end Complete

theorem completionMessagesResolveFutures : CompletionMessagesResolveFutures := by
  intro s m i f toks key kind
  refine ⟨applyCompletion_malformed, fun htoks hlen hfew hkind hot hsoft => ?apply,
    fun q hq ha hf hk hs hm pa u1 u t st hctr hwrite happly => ?arrival⟩
  case apply =>
    have hnow := futNow_onTime hot hsoft
    have happly := applyCompletion_carries (s := s) ⟨htoks, hlen, hfew, hkind⟩ hnow
    refine ⟨fun hm => ?_, fun hm ht => ?_, fun hm ht => ?_⟩
    · rw [happly, foreignKey_unknown hm, if_neg Bool.false_ne_true]
      split <;> exact futComplete_unknown hnow hm
    · rw [happly, foreignKey_known hm, if_pos (bne_iff_ne.mpr ht)]
    · have hforeign : foreignKey s m = false := by rw [foreignKey_known hm, ht, bne_self_eq_false]
      rw [happly, hforeign, if_neg Bool.false_ne_true]
      refine ⟨fun h => ?_, fun h => ?_, fun hlive h0 hfit => ?_, fun hlive h1 => ?_⟩
      · split <;> exact futComplete_done hnow hm h
      · split <;> exact futComplete_ended hnow hm h
      · have hcompleted : msgKind m = 0 := h0
        rw [if_pos hcompleted]
        exact futComplete_tokens hnow hm hlive (by rwa [List.length_map])
      · have hcode : fromBytes (slice m.data 12 4) < 2 ^ 32 := (fromBytes_lt _).trans_le
          (Nat.pow_le_pow_right (by decide) (Nat.mul_le_mul_left 8 (List.length_take_le ..)))
        have hfailed : msgKind m = 1 := h1
        obtain ⟨t, hnext, hstate, hresult, hfcode⟩ := futComplete_failure (code := fromBytes (slice m.data 12 4)) hnow hm hlive
        rw [if_neg (by rw [hfailed]; decide)]
        exact ⟨t, hnext, hstate, hresult, by rw [hfcode, Nat.mod_eq_of_lt hcode]⟩
  case arrival =>
    have hend := epEnd_done (m := m) hctr ((epPayload_received (.inr (.inr hk))).trans hwrite)
    rw [exec_futureCompletionMessage_matching hq ⟨ha, hf, hs⟩ hk hm, epReceive_completion hk hend happly]

/-- Settles O56: the work requests clause by clause, and the completions that arrive. -/
theorem endpointRequestsAndCompletions : Obligations.EndpointRequestsAndCompletions :=
  ⟨endpointRequestsFireAndComplete, completionMessagesResolveFutures⟩

end Sys2Proof.Machine

/-! ### The checks of a pointer to local memory (O19; 06 R124, R128, R136) -/

namespace Sys2Proof.Machine

open Sys2Proof

section CheckSpace

variable {s : State} {tags : Nat → Bool} {p : Word}

theorem checkSpace_refused (h : 8 ≤ ptrTag p ∨ tags (ptrTag p) = false) : checkSpace s tags p = some (.bad cSPACE p) := by
  have hrefused : (ptrTag p < 8 && tags (ptrTag p)) = false := by
    rcases h with h | h <;> simp [h]
  rw [checkSpace, hrefused, Bool.not_false, if_pos rfl]

variable (hlocal : ptrTag p ≤ 4) (htags : tags (ptrTag p) = true)
include hlocal htags

theorem checkSpace_local : checkSpace s tags p =
    if fieldsOk p = false then some (.bad cBOUNDS p)
    else if ptrTag p = 2 ∧ fld p 59 48 ≠ s.coreId then some (.bad cFOREIGN (foreignInfo s p)) else none := by
  have h8 : ptrTag p < 8 := by omega
  have h6 : ptrTag p ≠ 6 := by omega
  simp only [checkSpace, h8, h6, htags, decide_true, decide_false, Bool.and_self, Bool.not_true, Bool.false_and, Bool.false_eq_true,
    if_false, Bool.not_eq_true', Bool.and_eq_true, decide_eq_true_eq]

theorem checkSpace_fields (h : fieldsOk p = false) : checkSpace s tags p = some (.bad cBOUNDS p) := by
  rw [checkSpace_local hlocal htags, if_pos h]

theorem checkSpace_foreign (h : fieldsOk p = true) (h2 : ptrTag p = 2) (hcore : fld p 59 48 ≠ s.coreId) :
    checkSpace s tags p = some (.bad cFOREIGN (foreignInfo s p)) := by
  rw [checkSpace_local hlocal htags, if_neg (by simp [h]), if_pos ⟨h2, hcore⟩]

theorem checkSpace_passes (h : fieldsOk p = true) (hcore : ptrTag p = 2 → fld p 59 48 = s.coreId) :
    checkSpace s tags p = none := by
  rw [checkSpace_local hlocal htags, if_neg (by simp [h]), if_neg fun hf => hf.2 (hcore hf.1)]

end CheckSpace

/-! The fields of a pointer, by its tag. -/

theorem fieldsOk_priv {p : Word} (h : ptrTag p = 1) : fieldsOk p = true ↔ fld p 59 18 = 0 := by
  rw [fieldsOk, h]
  exact beq_iff_eq

theorem fieldsOk_absolute {p : Word} (h : ptrTag p = 2) :
    fieldsOk p = true ↔ fld p 47 18 = 0 ∧ coreExists (fld p 59 48) = true := by
  rw [fieldsOk, h]
  exact Bool.and_eq_true_iff.trans (and_congr_left' beq_iff_eq)

theorem fieldsOk_shared {p : Word} (h : ptrTag p = 3) :
    fieldsOk p = true ↔ fld p 51 22 = 0 ∧ cluExists (fld p 59 52) = true := by
  rw [fieldsOk, h]
  exact Bool.and_eq_true_iff.trans (and_congr_left' beq_iff_eq)

theorem ownedRange_iff {s : State} {off : Nat → Nat} {gran o n tenant : Nat} (hn : 0 < n) :
    ownedRange s off gran o n tenant = true ↔
      ∀ j, o / gran ≤ j → j ≤ (o + n - 1) / gran → (fget 0#8 s.own (off j)).toNat = 0x80 + tenant := by
  have hsome : (n == 0) = false := beq_eq_false_iff_ne.mpr hn.ne'
  simp only [ownedRange, hsome, Bool.false_or, List.all_eq_true, List.mem_range, beq_iff_eq]
  constructor
  · intro h j hlo hhi
    have := h (j - o / gran) (by omega)
    rwa [Nat.add_sub_cancel' hlo] at this
  · exact fun h j hj => h _ (by omega) (by omega)

/-! Where a pointer of local memory leads, by its tag (check 5 of R124). -/

section Place

variable {s : State} {p : Word} {n : Nat}

theorem localPlace_priv (h : ptrTag p = 1) : localPlace s p n =
    if fld p 17 0 + n ≤ s.me.privlen then some (.bank (scrKey s.coreId (s.me.privbase + fld p 17 0)) false) else none := by
  simp only [localPlace, h]

theorem localPlace_absolute (h : ptrTag p = 2) : localPlace s p n =
    if (fld p 17 0 + n ≤ 2 ^ 18 && ownedRange s (offSCROWN s.coreId) 256 (fld p 17 0) n s.tenantId) = true then
      some (.bank (scrKey s.coreId (fld p 17 0)) false) else none := by
  simp only [localPlace, h]

theorem localPlace_shared (h : ptrTag p = 3) (hown : fld p 59 52 = s.cluId) : localPlace s p n =
    if (fld p 21 0 + n ≤ 2 ^ 22 && ownedRange s (offCSHOWN s.cluId) 4096 (fld p 21 0) n s.tenantId) = true then
      some (.bank (shrKey s.cluId (fld p 21 0)) false) else none := by
  rw [localPlace, h]
  simp only [hown, bne_self_eq_false]

end Place

section Resolve

variable {s : State} {q : Ask} {p : Word} {n base : Nat}

theorem resolvePtr_stopped {e : Stop} (h : checkSpace s q.tags p = some e) : resolvePtr s q p n base = .error e := by
  rw [resolvePtr, h]

variable (hspace : checkSpace s q.tags p = none) (htag : ptrTag p ≠ 0)
include hspace htag

theorem resolvePtr_misaligned (h : p.toNat % n ≠ 0) : resolvePtr s q p n base = .error (.bad cALIGN p) := by
  simp only [resolvePtr, hspace, htag, h, if_false, ne_eq, not_false_eq_true, decide_true, Bool.true_or, if_true]

variable (h64 : q.off64 = false) (halign : p.toNat % n = 0)
include h64 halign

theorem resolvePtr_placed {pl : Place} (hplace : localPlace s p n = some pl) (hmatch : dataMatch s q.ld q.st p.toNat n = none) :
    resolvePtr s q p n base = .ok [{ off := base, len := n, place := pl }] := by
  simp only [resolvePtr, hspace, htag, halign, h64, hplace, hmatch, if_false, ne_eq, not_true_eq_false, decide_false, Bool.or_self,
    Bool.false_eq_true]

theorem resolvePtr_beyond (hplace : localPlace s p n = none) : resolvePtr s q p n base = .error (.bad cBOUNDS p) := by
  simp only [resolvePtr, hspace, htag, halign, h64, hplace, if_false, ne_eq, not_true_eq_false, decide_false, Bool.or_self,
    Bool.false_eq_true]

end Resolve

/-- Settles O19: the five checks come one after another, each with the outcome of the first that fails. -/
theorem nearPointerIsCheckedInOrder : Obligations.NearPointerIsCheckedInOrder := by
  intro s q p n base h64 bad ok owned
  have howned (off : Nat → Nat) (gran o : Nat) (hn : 0 < n) : ownedRange s off gran o n s.tenantId = true ↔ owned off gran o :=
    ownedRange_iff hn
  refine ⟨fun h => resolvePtr_stopped (checkSpace_refused h),
    fun htags hn => ⟨fun h1 => ?priv, fun h2 => ?abs, fun h3 => ?shared⟩⟩
  case priv =>
    have hfields := fieldsOk_priv h1
    have hbad (h : fieldsOk p = false) := checkSpace_fields (s := s) (by omega) htags h
    refine ⟨fun hf => resolvePtr_stopped (hbad ?_), fun hf hm => ?_, fun hf hm => ?_⟩
    · rwa [← Bool.not_eq_true, hfields]
    all_goals have hspace := checkSpace_passes (s := s) (by omega) htags (hfields.mpr hf) (by omega)
    · exact resolvePtr_misaligned hspace (by omega) hm
    · refine ⟨fun hlen hmatch => resolvePtr_placed hspace (by omega) h64 hm ?_ hmatch,
        fun hlen => resolvePtr_beyond hspace (by omega) h64 hm ?_⟩
      · rw [localPlace_priv h1, if_pos hlen]
      · rw [localPlace_priv h1, if_neg (by omega)]
  case abs =>
    have hfields := fieldsOk_absolute h2
    have hbad (h : fieldsOk p = false) := checkSpace_fields (s := s) (by omega) htags h
    refine ⟨fun hf => resolvePtr_stopped (hbad ?_), fun hf hex => ?_⟩
    · rw [← Bool.not_eq_true, hfields]
      rintro ⟨hz, hex⟩
      rcases hf with hf | hf
      · exact hf hz
      · exact Bool.false_ne_true (hf.symm.trans hex)
    have hok := hfields.mpr ⟨hf, hex⟩
    refine ⟨fun hcore => resolvePtr_stopped (checkSpace_foreign (by omega) htags hok h2 hcore), fun hcore hm => ?_,
      fun hcore hm hlen hown hmatch => ?_⟩
    all_goals have hspace := checkSpace_passes (s := s) (by omega) htags hok fun _ => hcore
    · exact resolvePtr_misaligned hspace (by omega) hm
    · refine resolvePtr_placed hspace (by omega) h64 hm ?_ hmatch
      rw [localPlace_absolute h2, if_pos (Bool.and_eq_true_iff.mpr ⟨decide_eq_true hlen, (howned _ _ _ hn).mpr hown⟩)]
  case shared =>
    intro hz hclu hex hm
    have hok := (fieldsOk_shared h3).mpr ⟨hz, hclu ▸ hex⟩
    have hspace := checkSpace_passes (s := s) (by omega) htags hok (by omega)
    refine ⟨fun hlen hown hmatch => resolvePtr_placed hspace (by omega) h64 hm ?_ hmatch,
      fun hout => resolvePtr_beyond hspace (by omega) h64 hm ?_⟩
    · rw [localPlace_shared h3 hclu, if_pos (Bool.and_eq_true_iff.mpr ⟨decide_eq_true hlen, (howned _ _ _ hn).mpr hown⟩)]
    · rw [localPlace_shared h3 hclu, if_neg]
      rw [Bool.and_eq_true, decide_eq_true_eq, howned _ _ _ hn]
      rintro ⟨hlen, hown⟩
      rcases hout with hout | hout
      · omega
      · exact hout hown

end Sys2Proof.Machine

/-! ### Full/empty forms (O25, O26; 06 R138 to R140; 17 R367; 19 R430) -/

namespace Sys2Proof.Machine

open Sys2Proof

/-- The instruction of a full/empty form. -/
def FeForm.instr (f : FeForm) (g : Guard) (sd sa : SReg) (imm : W32) : Instr :=
  match f with
  | .ldfe => .ldfe g sd sa imm
  | .ldff => .ldff g sd sa imm
  | .stef => .stef g sd sa imm
  | .stff => .stff g sd sa imm
  | .feset => .feset g sd sa imm
  | .feq => .feq g sd sa imm

theorem lookupKeys_fe (s : State) (f : FeForm) (g : Guard) (sd sa : SReg) (imm : W32) :
    lookupKeys s (f.instr g sd sa imm) = [] := by
  cases f <;> simp [FeForm.instr, lookupKeys, firstPtr]

theorem exec_fe {s : State} {g : Guard} (f : FeForm) (sd sa : SReg) (imm : W32) (h : s.guarded g) :
    exec (f.instr g sd sa imm) s =
      .next (settle s ((encodeTile (f.instr g sd sa imm)).getD 0) (opFe f sd sa imm none s)) := by
  have hclean : ∀ k ∈ guardKeys s g ++ readKeys s (f.instr g sd sa imm), fget? s.soft k = none := by
    refine readKeys_clean h ?_ ?_ ?_ ?_ (lookup_nothing (lookupKeys_fe ..)) <;> cases f <;> rfl
  have hissue := issue_scalar (opFe f sd sa imm none) (by cases f <;> rfl) hclean h.1
  rw [← hissue]
  cases f <;> rfl

theorem exec_fe_near {s : State} {g : Guard} {f : FeForm} {sd sa : SReg} {imm : W32} {key : Nat} (h : s.guarded g)
    (hnear : NearAt s (askFe f) (.ptr (s.rS sa + imm.signExtend 64)) 8 key) :
    exec (f.instr g sd sa imm) s = .next (settle s ((encodeTile (f.instr g sd sa imm)).getD 0)
      (feAttempt f sd key (s.rS sa + imm.signExtend 64) s)) := by
  rw [exec_fe f sd sa imm h, opFe_near hnear sd sa imm rfl]

/-- A word for which nobody waits changes its state, and that is all (R139). -/
theorem feChange_free {s : State} {word : Nat} (full : Bool) (h : waitsOf s (bankOf word) = []) :
    feChange s word full = if feFull s word = full then s else feSet s word full := by
  rw [feChange, passes_nil (by rwa [waits_feSet])]

/-- A form whose condition holds is performed at once on a word for which nobody waits (R138). -/
theorem feAttempt_free {s : State} {f : FeForm} {key : Nat} (sd : SReg) (ptr : Word) (hw : waitsOf s (bankOf key) = [])
    (hc : ∀ w, f.awaits = some w → feFull s key = w) : feAttempt f sd key ptr s = .done (feDo f sd key s) := by
  rw [feAttempt]
  cases ha : f.awaits with
  | none => rfl
  | some w => simp [hw, hc w ha]

section Data

variable (s : State) (f : FeForm) (sd : SReg) (key : Nat)

theorem feData_waits : (feData s s.coreId s.slotId f sd key).waits = s.waits := by cases f <;> rfl

theorem feData_fe : (feData s s.coreId s.slotId f sd key).fe = s.fe := by cases f <;> rfl

theorem feData_cur : (feData s s.coreId s.slotId f sd key).cur = s.cur := by cases f <;> rfl

theorem feData_quiet (h : s.quiet) : (feData s s.coreId s.slotId f sd key).quiet := by
  cases f
  case ldfe | ldff | feq => exact quiet_wS h ..
  case stef | stff | feset => exact h

end Data

theorem feFull_congr {s t : State} (h : t.fe = s.fe) (key : Nat) : feFull t key = feFull s key := by rw [feFull, h, feFull]

/-- A form performed on a word for which nobody waits: its data, then the word's new state. -/
theorem feDo_free {s : State} {key : Nat} (f : FeForm) (sd : SReg) (hw : waitsOf s (bankOf key) = []) :
    feDo f sd key s = if feFull s key = feAfter s s.coreId s.slotId f sd key then feData s s.coreId s.slotId f sd key
      else feSet (feData s s.coreId s.slotId f sd key) key (feAfter s s.coreId s.slotId f sd key) := by
  rw [feDo, feChange_free _ (by rwa [waitsOf, feData_waits]), feFull_congr (feData_fe ..)]

theorem settle_feDo {s : State} {key : Nat} (f : FeForm) (sd : SReg) (w : Word) (hq : s.quiet)
    (hw : waitsOf s (bankOf key) = []) :
    settle s w (.done (feDo f sd key s)) = (feDo f sd key s).gone := by
  have hkept : (feDo f sd key s).cur = s.cur ∧ (feDo f sd key s).quiet := by
    rw [feDo_free f sd hw]
    split <;> exact ⟨feData_cur .., feData_quiet _ _ _ _ hq⟩
  exact settle_done_gone w hkept.1 hkept.2

/-- Settles O25: a form whose condition holds is performed at its issue, and no list is there to be examined. -/
theorem fullEmptyFormsOnAFreeWord : Obligations.FullEmptyFormsOnAFreeWord := by
  intro s g sd sa imm key hg hq _ hw a near word stored
  have hdone (f : FeForm) (hn : near f) (hc : ∀ w, f.awaits = some w → feFull s key = w) :
      exec (f.instr g sd sa imm) s = .next (if feFull s key = feAfter s s.coreId s.slotId f sd key
        then feData s s.coreId s.slotId f sd key
        else feSet (feData s s.coreId s.slotId f sd key) key (feAfter s s.coreId s.slotId f sd key)).gone := by
    rw [exec_fe_near hg hn, feAttempt_free sd _ hw hc, settle_feDo f sd _ hq hw, feDo_free f sd hw]
  refine ⟨fun hfull => ⟨fun hn => ?ldfe, fun hn => ?ldff⟩, fun hempty hn => ?stef, fun hn => ?stff,
    fun hn => ?feset, fun hn => ?feq⟩
  case ldfe =>
    have h := hdone .ldfe hn fun w hw => by cases hw; exact hfull
    rw [hfull] at h
    exact h
  case ldff =>
    have h := hdone .ldff hn fun w hw => by cases hw; exact hfull
    rw [feAfter, if_pos rfl] at h
    exact h
  case stef =>
    have h := hdone .stef hn fun w hw => by cases hw; exact hempty
    rw [hempty] at h
    exact h
  case stff => exact hdone .stff hn nofun
  case feset => exact hdone .feset hn nofun
  case feq =>
    have h := hdone .feq hn nofun
    rw [feAfter, if_pos rfl] at h
    exact h

end Sys2Proof.Machine

/-! ### Full/empty waits (O26; 06 R139, R140) -/

namespace Sys2Proof.Machine

open Sys2Proof

/-- A form whose condition does not hold: FEMAX 0 faults, another bound lets it join the list of its bank. -/
theorem feAttempt_fails {s : State} {f : FeForm} {w : Bool} {key : Nat} (sd : SReg) (ptr : Word) (ha : f.awaits = some w)
    (hc : feFull s key ≠ w) : feAttempt f sd key ptr s =
      if s.me.bound = 0 then .fault cFE_TIMEOUT ptr
      else joinList s { core := s.coreId, slot := s.slotId, word := key, full := w, bar := none } := by
  simp only [feAttempt, ha, hc, decide_false, Bool.false_and, Bool.false_eq_true, if_false, ne_eq, not_false_eq_true, decide_true,
    Bool.true_and, decide_eq_true_eq]

theorem joinList_room {s : State} {e : WaitEnt} (h : (waitsOf s (bankOf e.word)).length < 16) :
    joinList s e = .wait 1 .listed (setWaits s (bankOf e.word) (waitsOf s (bankOf e.word) ++ [e])) := by
  rw [joinList, if_pos h]

theorem joinList_full {s : State} {e : WaitEnt} (h : 16 ≤ (waitsOf s (bankOf e.word)).length) :
    joinList s e = .wait 1 .retry s := by
  rw [joinList, if_neg (Nat.not_lt.mpr h)]

/-- The core and slot of a strand that is the issuing one. -/
theorem issuing_of_cur {s : State} {core slot : Nat} (h : s.cur = .strand core slot) : core = s.coreId ∧ slot = s.slotId := by
  simp [State.coreId, State.slotId, State.at, h]

theorem asStrand_self {s : State} (h : s.cur = .strand s.coreId s.slotId) : s.asStrand s.coreId s.slotId = s := by
  rw [State.asStrand, ← h]

/-! The turn of a retry is counted in the strand, and nothing that resolves an access depends on it. -/

/-- The issuing strand, its next retry not before a cycle. -/
def State.retryFrom (s : State) (cycle : Nat) : State := s.setMe { s.me with issueAt := cycle }

section RetryFrom

variable (s : State) (cycle : Nat)

theorem retryFrom_me : (s.retryFrom cycle).me = { s.me with issueAt := cycle } := State.setMe_me ..

theorem tenantId_retryFrom : (s.retryFrom cycle).tenantId = s.tenantId := by rw [State.tenantId, retryFrom_me, State.tenantId]

theorem rS_retryFrom (r : SReg) : (s.retryFrom cycle).rS r = s.rS r := by
  rw [State.rS, retryFrom_me]
  rfl

theorem checkSpace_retryFrom (tags : Nat → Bool) (p : Word) : checkSpace (s.retryFrom cycle) tags p = checkSpace s tags p := by
  rw [checkSpace, tenantId_retryFrom]
  rfl

theorem localPlace_retryFrom (p : Word) (n : Nat) : localPlace (s.retryFrom cycle) p n = localPlace s p n := by
  rw [localPlace, tenantId_retryFrom, retryFrom_me]
  rfl

theorem dataMatch_retryFrom (ld st : Bool) (a n : Nat) : dataMatch (s.retryFrom cycle) ld st a n = dataMatch s ld st a n := by
  rw [dataMatch, retryFrom_me]
  rfl

theorem globalPlace_retryFrom (k : AccKind) (va n : Nat) : globalPlace (s.retryFrom cycle) k va n = globalPlace s k va n := by
  rw [globalPlace, tenantId_retryFrom, retryFrom_me]
  rfl

theorem resolvePtr_retryFrom (q : Ask) (p : Word) (n base : Nat) :
    resolvePtr (s.retryFrom cycle) q p n base = resolvePtr s q p n base := by
  simp only [resolvePtr, checkSpace_retryFrom, localPlace_retryFrom, dataMatch_retryFrom, globalPlace_retryFrom]

theorem placed_retryFrom (f : Except Stop (List Piece)) : placed none (s.retryFrom cycle) f = placed none s f := by
  rw [placed, retryFrom_me]
  rfl

variable {s}

theorem nearAt_retryFrom {q : Ask} {p : Word} {n key : Nat} (h : NearAt s q (.ptr p) n key) :
    NearAt (s.retryFrom cycle) q (.ptr p) n key := by
  obtain ⟨hplace, hboard, hsoft⟩ := h
  refine ⟨?_, hboard, hsoft⟩
  rwa [resolve, placed_retryFrom, resolvePtr_retryFrom]

end RetryFrom

/-- A retry of a form that reads its word, on near memory. -/
theorem retryFe_near {s : State} {f : FeForm} {sa : SReg} {imm : W32} {key : Nat} (sd : SReg)
    (h : NearAt s (askFe f) (.ptr (s.rS sa + imm.signExtend 64)) 8 key) :
    retryFe f sd sa imm s = if f.awaits = some (feFull s key) then .done (feDo f sd key s) else .wait 1 .retry s := by
  obtain ⟨hplace, hboard, hsoft⟩ := h
  rw [resolve] at hplace
  rw [retryFe, hplace]
  simp only [List.any_cons, hboard, List.any_nil, Bool.or_false, Bool.false_eq_true, if_false, eccThen_one hsoft, ite_self]

/-- A retry whose turn has come is executed, its next turn being a cycle later at the soonest. -/
theorem exec_feRetry {s : State} {i : Instr} (hcur : s.cur = .strand s.coreId s.slotId) (hw : Waits s s.coreId s.slotId .retry i)
    (hstart : s.me.pstart < s.cycle) (hissue : s.me.issueAt ≤ s.cycle) (hturn : (s.cycle - s.me.pstart) % 64 = 0) :
    exec (.feRetry s.coreId s.slotId) s =
      .next (settle (s.retryFrom (s.cycle + 1)) s.me.pinstr (retryOf i (s.retryFrom (s.cycle + 1)))) := by
  obtain ⟨hstatus, hphase, hdec⟩ := hw
  have hself : ({ s with cur := .strand s.coreId s.slotId } : State) = s := asStrand_self hcur
  change execFeRetry s.coreId s.slotId s = _
  rw [State.strand_me] at hstatus hphase hdec
  simp only [execFeRetry, State.strand_me, hstatus, hphase, hstart, hissue, hturn, and_self, if_true, hself, hdec]
  rfl

/-- A listed or retrying full/empty wait that has counted its bound leaves its list and faults (R140). -/
theorem exec_feTimeout_ldfe {s : State} {g : Guard} {sd sa : SReg} {imm : W32} (hcur : s.cur = .strand s.coreId s.slotId)
    (hw : Waits s s.coreId s.slotId .listed (.ldfe g sd sa imm)) (hkind : s.me.pkind = 1) (hlimit : s.me.plimit ≤ waited s s.me) :
    exec (.feTimeout s.coreId s.slotId) s = .next (freeze (dropWaits s s.coreId s.slotId) s.coreId s.slotId cFE_TIMEOUT
      (s.rS sa + imm.signExtend 64)) := by
  obtain ⟨hstatus, hphase, hdec⟩ := hw
  have hself : ({ s with cur := .strand s.coreId s.slotId } : State) = s := asStrand_self hcur
  change execFeTimeout s.coreId s.slotId s = _
  rw [State.strand_me] at hstatus hphase hdec
  have hbounds : femaxBounds s.me = true := by
    rw [femaxBounds, hphase, hkind]
    rfl
  simp only [execFeTimeout, State.strand_me, hstatus, hbounds, hlimit, decide_true, Bool.and_self, if_true, hself, hdec]
  rfl

/-- Settles O26: the condition's failure leads to the fault, the list or the retry, and a retry repeats the choice. -/
theorem fullEmptyWaitsAreListedBoundedAndRetried : Obligations.FullEmptyWaitsAreListedBoundedAndRetried := by
  intro s g sd sa imm key _ p i e
  refine ⟨fun hg hempty hnear => ?_, fun core slot hcur => ?_, fun core slot hcur => ?_⟩
  · have hexec := exec_fe_near (sd := sd) hg hnear
    rw [feAttempt_fails sd _ rfl (by rw [hempty]; exact Bool.false_ne_true)] at hexec
    refine ⟨fun h0 => ?_, fun h0 hroom => ?_, fun h0 hfull => ?_⟩
    · rw [if_pos h0] at hexec
      exact hexec
    · rw [if_neg h0, joinList_room hroom] at hexec
      exact hexec
    · rw [if_neg h0, joinList_full hfull] at hexec
      exact hexec
  · obtain ⟨rfl, rfl⟩ := issuing_of_cur hcur
    exact exec_feTimeout_ldfe hcur
  · obtain ⟨rfl, rfl⟩ := issuing_of_cur hcur
    intro hw hstart hissue hturn hnear t
    have hexec := exec_feRetry hcur hw hstart hissue hturn
    have hnear' : NearAt (s.retryFrom (s.cycle + 1)) (askFe .ldfe)
        (.ptr ((s.retryFrom (s.cycle + 1)).rS sa + imm.signExtend 64)) 8 key := by
      rw [rS_retryFrom]
      exact nearAt_retryFrom _ hnear
    have hword : feFull (s.retryFrom (s.cycle + 1)) key = feFull s key := rfl
    rw [retryOf, retryFe_near sd hnear', hword] at hexec
    refine ⟨fun hempty => ?_, fun hfull hq hnobody => ?_⟩
    · rw [hempty] at hexec
      exact hexec
    · have hquiet : (s.retryFrom (s.cycle + 1)).quiet := quiet_setMe hq rfl rfl
      have hlist : waitsOf (s.retryFrom (s.cycle + 1)) (bankOf key) = [] := hnobody
      rw [hfull, FeForm.awaits, if_pos rfl, settle_feDo .ldfe sd _ hquiet hlist,
        feDo_free .ldfe sd hlist, hword, hfull] at hexec
      exact hexec

end Sys2Proof.Machine

/-! ### Pointers, handles and walks (O51; 06 R126; 07 R148 to R153, R158, R159; 17 R373; 19 R427, R448) -/

namespace Sys2Proof.Machine

open Sys2Proof

/-- A scalar instruction runs where no register of its strand holds a soft error and nothing that it looks up does. -/
theorem issue_guarded {s : State} {g : Guard} {i : Instr} (op : State → Res) (h : s.guarded g) (hg : i.guard? = some g)
    (hr : i.vregs = []) (hv : vsrcs i = []) (hp : psrcs i = []) (hk : keptKeys s i = [])
    (hl : ∀ k ∈ lookupKeys s i, fget? s.soft k = none) : issue i g op s = .next (settle s ((encodeTile i).getD 0) (op s)) :=
  issue_scalar op hr (readKeys_clean h hg hv hp hk hl) h.1

theorem ptrTag_eq (p : Word) : ptrTag p = p.toNat / 2 ^ 60 := Nat.mod_eq_of_lt (by have := p.isLt; omega)

theorem fld_from_zero (p : Word) (n : Nat) : fld p n 0 = p.toNat % 2 ^ (n + 1) := by
  rw [fld, bitsN, Nat.pow_zero, Nat.div_one, Nat.sub_zero]

section Pointers

variable {s : State} {g : Guard} (sd sa : SReg) (hg : s.guarded g) (hq : s.quiet)
include hg

theorem exec_sptest (hq : s.quiet) : exec (.sptest g sd sa) s = .next (s.wS sd (w64 (ptrTag (s.rS sa)))).gone := by
  have hrun := issue_guarded (i := .sptest g sd sa) (opSptest sd sa) hg rfl rfl rfl rfl rfl
    (lookup_nothing (by simp [lookupKeys, firstPtr]))
  rw [opSptest, settle_done_wS _ _ _ hq] at hrun
  exact hrun

theorem exec_spcast (f : CastForm) :
    exec (.spcast g f sd sa) s = .next (settle s ((encodeTile (.spcast g f sd sa)).getD 0) (opSpcast f sd sa s)) :=
  issue_guarded (i := .spcast g f sd sa) (opSpcast f sd sa) hg rfl rfl rfl rfl rfl
    (lookup_nothing (by simp [lookupKeys, firstPtr]))

variable {sd sa} {f : CastForm}

theorem spcast_answers {w : Word} (hq : s.quiet) (h : opSpcast f sd sa s = .done (s.wS sd w)) :
    exec (.spcast g f sd sa) s = .next (s.wS sd w).gone := by
  rw [exec_spcast sd sa hg, h, settle_done_wS _ _ _ hq]

theorem spcast_freezes {c : BitVec 8} {w : Word} (h : opSpcast f sd sa s = .fault c w) :
    exec (.spcast g f sd sa) s = .next (freeze s s.coreId s.slotId c w) := by
  rw [exec_spcast sd sa hg, h, settle_fault]

end Pointers

theorem pointerTagsAndCasts : PointerTagsAndCasts := by
  intro s g sd sa t hg hq p tag o lo ans frz
  have htag : ptrTag (s.rS sa) = tag := ptrTag_eq _
  have ho : fld (s.rS sa) 17 0 = o := fld_from_zero ..
  have done (f : CastForm) (w : Word) : opSpcast f sd sa s = .done (s.wS sd w) → ans f w := spcast_answers hg hq
  have stop (f : CastForm) (c : BitVec 8) (w : Word) : opSpcast f sd sa s = .fault c w → frz f c w := spcast_freezes hg
  refine ⟨?test, fun h1 hz hlen => done _ _ ?_, fun h1 hbad => stop _ _ _ ?_, fun h1 => done _ _ ?_, fun h1 => done _ _ ?_,
    fun h2 hcore hz hlo hhi => done _ _ ?_, fun h2 hcore => stop _ _ _ ?_, fun h2 hcore hbad => stop _ _ _ ?_,
    fun h1 h2 => stop _ _ _ ?_, fun h => done _ _ ?_, fun h => stop _ _ _ ?_⟩
  case test => exact htag ▸ exec_sptest sd sa hg hq
  all_goals simp only [opSpcast, htag, ho]
  · rw [if_pos h1, if_neg (not_or.mpr ⟨Nat.not_le.mpr hlen, not_not.mpr hz⟩)]
  · rw [if_pos h1, if_pos hbad.symm]
  · rw [if_neg h1]
  · rw [if_neg (by omega), if_pos h1]
  · rw [if_pos h2, if_neg (not_not.mpr hcore),
      if_neg (not_or.mpr ⟨not_not.mpr hz, not_or.mpr ⟨Nat.not_lt.mpr hlo, Nat.not_le.mpr hhi⟩⟩)]
  · rw [if_pos h2, if_pos hcore, foreignInfo, ho]
  · rw [if_pos h2, if_neg (not_not.mpr hcore), if_pos hbad]
  · rw [if_neg h2, if_neg h1]
  · rw [if_pos h]
  · rw [if_neg h]

/-! Handles -/

theorem fdel_of_none {α : Type} {m : FMap α} {k : Nat} (h : fget? m k = none) : fdel m k = m := by
  induction m with
  | nil => rfl
  | cons e m ih =>
    obtain ⟨a, x⟩ := e
    rw [fget?] at h
    split at h
    · exact absurd h nofun
    · rename_i hne
      rw [fdel, List.filter_cons, if_pos (bne_iff_ne.mpr hne)]
      exact congrArg _ (ih h)

/-- A handle register written, where no soft error is in it. -/
theorem wH_of_guarded {s : State} {g : Guard} (hg : s.guarded g) (h : HReg) (v : Handle) : s.wH h v = s.setMe (s.me.wH h v) := by
  obtain ⟨-, -, hp⟩ := hg
  rw [State.wH, fdel_of_none (hp (16 + h.toNat) (by have := h.isLt; omega))]
  rfl

theorem rH_wH (x : Strand) (h : HReg) (v : Handle) : (x.wH h v).rH h = v := by rw [Strand.rH, Strand.wH, fget_fset, if_pos rfl]

theorem rH_wP (x : Strand) (h : HReg) (pd : PReg) (b : Bool) : (x.wP pd b).rH h = x.rH h := by
  rw [Strand.rH, Strand.wP_h, Strand.rH]

theorem rP_wP_false (x : Strand) (pd : PReg) : (x.wP pd false).rP pd = decide (pd = 0#3) := by
  by_cases h : pd = 0#3
  · subst h
    rfl
  · rw [Strand.rP_wP _ _ _ _ h, if_pos rfl, decide_eq_false h]

theorem wP_me (s : State) (pd : PReg) (b : Bool) : (s.wP pd b).me = s.me.wP pd b := State.setMe_me ..

section SlotFault

variable {s : State} {slot r : Nat} (code : Nat) (info : Word)

theorem slotFault_cur : (slotFault s slot code info).cur = s.cur := by
  rw [slotFault]
  cases slotReq s slot with
  | none => rfl
  | some r =>
    have hkept := eq_of_besideLines State.cur (fun _ => rfl) (reqFault_besideLines s r code info)
    exact hkept

theorem slotFault_strands : (slotFault s slot code info).strands = s.strands := by
  rw [slotFault]
  cases slotReq s slot with
  | none => rfl
  | some r =>
    have hkept := eq_of_besideLines State.strands (fun _ => rfl) (reqFault_besideLines s r code info)
    exact hkept

theorem mem_slotFault (h : slotReq s slot = some r) : slot ∈ (slotFault s slot code info).front.faulted := by
  simp only [slotFault, h]
  exact mem_insertAsc.mpr (.inl rfl)

end SlotFault

section Xlate

variable {s : State} {g : Guard} {pd : PReg} {h : HReg} {sa ss : SReg} (hg : s.guarded g)
  (hclean : fget? s.soft (tlbKey s.cluId) = none)
include hg hclean

theorem exec_xlate : exec (.xlate g h sa) s = .next (settle s ((encodeTile (.xlate g h sa)).getD 0) (opXlate h sa s)) := by
  refine issue_guarded (i := .xlate g h sa) (opXlate h sa) hg rfl rfl rfl rfl rfl fun k hk => ?_
  rw [lookupKeys] at hk
  split at hk
  · exact absurd hk (List.not_mem_nil)
  · rwa [List.mem_singleton.mp hk]

theorem exec_xlateSlot : exec (.xlateSlot g pd h sa ss) s =
    .next (settle s ((encodeTile (.xlateSlot g pd h sa ss)).getD 0) (opXlateSlot pd h sa ss s)) := by
  refine issue_guarded (i := .xlateSlot g pd h sa ss) (opXlateSlot pd h sa ss) hg rfl rfl rfl rfl rfl fun k hk => ?_
  rw [lookupKeys] at hk
  split at hk
  · exact absurd hk (List.not_mem_nil)
  · rwa [List.mem_singleton.mp hk]

end Xlate

section XlateHit

variable {s : State} {slot : Option (Word × PReg × HReg)} {h : HReg} {p : Word}

theorem xlateHit_misses (hfind : hcacheFind (s.clu s.cluId) s.tenantId (fld p 56 0) = none) :
    xlateHit slot h p s = .wait 6 .walk (s.setMe { s.me with pva := w64 (fld p 56 0), pacc := .xlate }) := by
  rw [xlateHit, hfind]
  rfl

variable {e : TlbEntry} (hfind : hcacheFind (s.clu s.cluId) s.tenantId (fld p 56 0) = some e)
include hfind

theorem xlateHit_unpinned (hpin : e.pin = false) : xlateHit slot h p s = xlateFail slot cGPF_PERM p s := by
  simp only [xlateHit, hfind, hpin, Bool.not_false, if_true]

theorem xlateHit_plain (hpin : e.pin = true) : xlateHit none h p s = .done (s.wH h e.handle) := by
  simp only [xlateHit, hfind, hpin, Bool.not_true, Bool.false_eq_true, if_false]

theorem xlateHit_slot (hpin : e.pin = true) {ss : Word} {pd : PReg} {hd : HReg} :
    xlateHit (some (ss, pd, hd)) h p s = .done ((s.wH h e.handle).wP pd true) := by
  simp only [xlateHit, hfind, hpin, Bool.not_true, Bool.false_eq_true, if_false]

end XlateHit

theorem setMe_wP_cur (s : State) (x : Strand) (pd : PReg) (b : Bool) : ((s.setMe x).wP pd b).cur = s.cur := rfl

theorem setMe_wP_front (s : State) (x : Strand) (pd : PReg) (b : Bool) : ((s.setMe x).wP pd b).front = s.front := rfl

/-- The slot form's failure, as its strand goes on: the request faulted, the handle not valid, the predicate false. -/
def xlateSlotFailed (s : State) (slot : Nat) (pd : PReg) (h : HReg) (va : Word) : State :=
  let u := slotFault s slot fcRQ_PAGE va
  (u.setMe (u.me.wH h { u.me.rH h with valid := false })).wP pd false

section SlotFailed

variable {s : State} {slot : Nat} {pd : PReg} {h : HReg} {va : Word}

theorem xlateSlotFailed_me : (xlateSlotFailed s slot pd h va).me = (s.me.wH h { s.me.rH h with valid := false }).wP pd false := by
  have hme : (slotFault s slot fcRQ_PAGE va).me = s.me := by
    rw [State.me, State.me, State.meKey, State.meKey, State.at, State.at, slotFault_cur, slotFault_strands]
  rw [xlateSlotFailed, wP_me, State.setMe_me, hme]

theorem xlateSlotFailed_cur : (xlateSlotFailed s slot pd h va).cur = s.cur := by
  rw [xlateSlotFailed, setMe_wP_cur, slotFault_cur]

theorem mem_xlateSlotFailed {r : Nat} (hreq : slotReq s slot = some r) :
    slot ∈ (xlateSlotFailed s slot pd h va).front.faulted := by
  rw [xlateSlotFailed, setMe_wP_front]
  exact mem_slotFault _ _ hreq

theorem settle_xlateSlotFailed (w : Word) (hq : s.quiet) :
    settle s w (.done (xlateSlotFailed s slot pd h va)) = (xlateSlotFailed s slot pd h va).gone := by
  refine settle_done_gone w xlateSlotFailed_cur ?_
  rw [State.quiet, xlateSlotFailed_me]
  simpa [State.quiet] using hq

end SlotFailed

/-- A handle that its strand has released. -/
def Handle.released (v : Handle) : Handle := { v with valid := false }

/-- A strand that has released every handle. -/
def Strand.released (x : Strand) : Strand := { x with h := x.h.map (fun e => (e.1, e.2.released)) }

theorem released_rH (x : Strand) (j : HReg) : (x.released.rH j).valid = false := by
  have hmap : fget? x.released.h j.toNat = (fget? x.h j.toNat).map Handle.released := fget?_map _ _ _
  rw [Strand.rH, fget, hmap]
  cases fget? x.h j.toNat <;> rfl

theorem exec_hrel {s : State} {g : Guard} (hg : s.guarded g) (h : Option HReg) :
    exec (.hrel g h) s = .next (settle s ((encodeTile (.hrel g h)).getD 0) (opHrel h s)) :=
  issue_guarded (i := .hrel g h) (opHrel h) hg rfl rfl (by cases h <;> rfl) (by cases h <;> rfl) (by cases h <;> rfl)
    (lookup_nothing (by simp [lookupKeys, firstPtr]))

theorem settle_done_setMe {s : State} {x : Strand} (w : Word) (hq : s.quiet) (h1 : x.stepping = s.me.stepping)
    (h2 : x.haltReq = s.me.haltReq) : settle s w (.done (s.setMe x)) = (s.setMe x).gone :=
  settle_done_gone w rfl (quiet_setMe hq h1 h2)

theorem handlesAreMadeAndReleased : HandlesAreMadeAndReleased := by
  intro s g pd h sa ss r e hg hq p va ix iy frz walks found clean
  refine ⟨fun hclean h0 => ?space, fun hclean h0 hz => ?bounds, fun hclean h0 hz => ?passes, ?release, ?releaseAll⟩
  case space =>
    have hstop : xlateStop (s.rS sa) = some cSPACE := if_pos h0
    constructor
    · exact (exec_xlate hg hclean).trans (by rw [opXlate, hstop]; rfl)
    · exact (exec_xlateSlot hg hclean).trans (by rw [opXlateSlot, hstop]; rfl)
  case bounds =>
    have hstop : xlateStop (s.rS sa) = some cBOUNDS := by rw [xlateStop, if_neg (not_not.mpr h0), if_pos hz]
    constructor
    · exact (exec_xlate hg hclean).trans (by rw [opXlate, hstop]; rfl)
    · exact (exec_xlateSlot hg hclean).trans (by rw [opXlateSlot, hstop]; rfl)
  case passes =>
    have hstop : xlateStop (s.rS sa) = none := by rw [xlateStop, if_neg (not_not.mpr h0), if_neg (not_not.mpr hz)]
    have hplain : exec ix s = _ := exec_xlate hg hclean
    have hslot : exec iy s = _ := exec_xlateSlot hg hclean
    rw [opXlate, hstop] at hplain
    rw [opXlateSlot, hstop] at hslot
    simp only at hplain hslot
    refine ⟨fun hf => ?_, fun hf hpin => ?_, fun hf hpin => ?_, fun hnone => ?_, fun hheld => ⟨fun hf => ?_, fun hf hpin => ?_,
      fun hf hpin => ?_⟩⟩
    · exact hplain.trans (by rw [xlateHit_misses hf]; rfl)
    · rw [hplain, xlateHit_plain hf hpin, wH_of_guarded hg]
      exact congrArg _ (settle_done_setMe _ hq rfl rfl)
    · exact hplain.trans (by rw [xlateHit_unpinned hf hpin]; rfl)
    · exact hslot.trans (by rw [onSlot_empty hnone]; rfl)
    all_goals rw [onSlot_held hheld] at hslot
    · exact hslot.trans (by rw [xlateHit_misses hf]; rfl)
    · rw [hslot, xlateHit_slot hf hpin, wH_of_guarded hg]
      exact congrArg _ (settle_done_gone _ rfl (quiet_wP (quiet_setMe (x := s.me.wH h e.handle) hq rfl rfl) ..))
    · refine ⟨xlateSlotFailed s (s.rS ss).toNat pd h p, ?_, mem_xlateSlotFailed hheld.1, ?_, ?_⟩
      · rw [hslot, xlateHit_unpinned hf hpin]
        exact congrArg _ (settle_xlateSlotFailed _ hq)
      · rw [xlateSlotFailed_me, rH_wP, rH_wH]
      · rw [State.rP, xlateSlotFailed_me, rP_wP_false]
  case release =>
    rw [exec_hrel hg, opHrel]
    exact congrArg _ (settle_done_setMe _ hq rfl rfl)
  case releaseAll =>
    refine ⟨s.setMe s.me.released, ?_, rfl, fun j => ?_⟩
    · rw [exec_hrel hg, opHrel]
      exact congrArg _ (settle_done_setMe _ hq rfl rfl)
    · rw [State.setMe_me, released_rH]

/-! Walks -/

section Leaf

variable {s : State} {tenant va clu a pte comp lvl : Nat} {acc : AccKind}
  (hwalk : walk s tenant va = .leaf a pte comp lvl)
include hwalk

theorem xlateWalk_noFetch (hf : acc = .fetch) (h : bitN pte 3 = false) :
    xlateWalk s tenant va acc clu = (.bad cIFETCH_NX, none) := by
  simp only [xlateWalk, hwalk, hf, h, decide_true, Bool.not_false, Bool.and_self, if_true]

variable (hfetch : acc = .fetch → bitN pte 3 = true)
include hfetch

theorem xlateWalk_noPage (h : leafPage pte lvl = none) : xlateWalk s tenant va acc clu = (.bad cGPF_PERM, none) := by
  have hf : (decide (acc = .fetch) && !bitN pte 3) = false := by simpa using hfetch
  simp only [xlateWalk, hwalk, hf, h, Bool.false_eq_true, if_false]

variable {size pa : Nat} (hpage : leafPage pte lvl = some (size, pa))
include hpage

theorem xlateWalk_notUser (h : bitN pte 4 = false) : xlateWalk s tenant va acc clu = (.bad cGPF_PERM, none) := by
  have hf : (decide (acc = .fetch) && !bitN pte 3) = false := by simpa using hfetch
  simp only [xlateWalk, hwalk, hf, hpage, h, Bool.not_false, Bool.false_eq_true, if_false, if_true]

variable (huser : bitN pte 4 = true)
include huser

theorem xlateWalk_refused {c : BitVec 8} (h : checkEntry (leafEntry tenant va pte comp size pa acc) acc clu = some c) :
    xlateWalk s tenant va acc clu = (.bad c, none) := by
  have hf : (decide (acc = .fetch) && !bitN pte 3) = false := by simpa using hfetch
  simp only [xlateWalk, hwalk, hf, hpage, huser, h, Bool.not_true, Bool.false_eq_true, if_false]

theorem xlateWalk_granted (h : checkEntry (leafEntry tenant va pte comp size pa acc) acc clu = none) :
    xlateWalk s tenant va acc clu =
      if bitsN comp 49 48 = 3 ∨ bitsN comp 63 51 ≠ 0 ∨ physOk pa = false then (.bad cATTR, none)
      else (.ok (leafEntry tenant va pte comp size pa acc), some a) := by
  have hf : (decide (acc = .fetch) && !bitN pte 3) = false := by simpa using hfetch
  simp only [xlateWalk, hwalk, hf, hpage, huser, h, Bool.not_true, Bool.false_eq_true, if_false, Bool.not_eq_true', Bool.or_eq_true,
    decide_eq_true_eq, or_assoc]

end Leaf

theorem accPerm_lt (acc : AccKind) : acc.perm < 3 := by cases acc <;> decide

theorem cluGroup_lt {clu : Nat} (h : cluExists clu = true) : cluGroup clu < 48 := by
  simp only [cluExists, Bool.and_eq_true, decide_eq_true_eq] at h
  rw [cluGroup]
  omega

section CheckLeaf

variable {tenant va pte comp size pa clu : Nat} {acc : AccKind}

theorem leafEntry_perm : (leafEntry tenant va pte comp size pa acc).perm.getLsbD acc.perm = bitN pte (1 + acc.perm) := by
  simp only [leafEntry, BitVec.getLsbD_ofNat, testBit_bitsN, bitN_eq_testBit, accPerm_lt, Nat.add_sub_cancel, decide_true,
    Bool.true_and]

theorem leafEntry_group (h : cluExists clu = true) :
    (leafEntry tenant va pte comp size pa acc).groups.getLsbD (cluGroup clu) = bitN comp (cluGroup clu) := by
  simp only [leafEntry, BitVec.getLsbD_ofNat, bitN_eq_testBit, cluGroup_lt h, decide_true, Bool.true_and]

/-- Where an instruction fetch has passed X, a failure of the permissions is that of a data access. -/
theorem checkEntry_leaf (h : cluExists clu = true) (hfetch : acc = .fetch → bitN pte 3 = true) :
    checkEntry (leafEntry tenant va pte comp size pa acc) acc clu =
      if acc = .xlate ∨ bitN pte (1 + acc.perm) = true then (if bitN comp (cluGroup clu) = true then none else some cGROUPMASK)
      else some cGPF_PERM := by
  rw [checkEntry, leafEntry_perm, leafEntry_group h]
  by_cases hperm : acc = .xlate ∨ bitN pte (1 + acc.perm) = true
  · rw [if_pos hperm, if_neg (by simpa [← imp_iff_not_or, or_iff_not_imp_left] using hperm)]
    cases bitN comp (cluGroup clu) <;> rfl
  · have hdata : acc ≠ .fetch := fun hf => hperm (.inr (by subst hf; exact hfetch rfl))
    rw [if_neg hperm, if_pos (by simpa [not_or] using hperm), if_neg hdata]

end CheckLeaf

section WalkComplete

variable {s : State} (hcur : s.cur = .strand s.coreId s.slotId) (hstatus : s.me.status = .parked) (hphase : s.me.phase = .walk)
  (hacc : s.me.pacc ≠ .xlate) (hclean : ∀ k ∈ walkKeys s s.tenantId (s.me.pva.toNat % 2 ^ 57), fget? s.soft k = none)
include hcur hstatus hphase hacc hclean

/-- The end of the walk of an access whose words hold no soft error. -/
theorem exec_walkComplete : exec (.walkComplete s.coreId s.slotId) s = .next (accessWalked s s.coreId s.slotId) := by
  have hself : ({ s with cur := .strand s.coreId s.slotId } : State) = s := by rw [← hcur]
  change execWalkComplete s.coreId s.slotId s = _
  simp only [execWalkComplete, State.strand_me, hstatus, hphase, and_self, if_true, hself, eccScan_clean _ _ _ hclean, hacc,
    if_false]

end WalkComplete

/-- A store whose page is not there goes to the side log: the strand notes the page and issues again (R153). -/
theorem wake_plog (s : State) (core slot page : Nat) :
    wake (s.updStrand core slot (fun y => { y with plog := page :: y.plog })) core slot =
      s.updStrand core slot (fun x => { x with plog := page :: x.plog, status := .ready }) := by
  rw [wake, State.updStrand, State.updStrand, State.setStrand_strand, State.setStrand_setStrand, State.updStrand]

section AccessWalked

variable {s u : State}

theorem accessWalked_ok {e : TlbEntry} (h : walkAD s s.tenantId s.me.pva.toNat s.me.pacc s.cluId = (.ok e, u)) :
    accessWalked s s.coreId s.slotId =
      (u.updClu s.cluId (fun k => tlbFill k e)).updStrand s.coreId s.slotId (fun x => { x with status := .ready }) := by
  rw [State.cluId] at h
  simp only [accessWalked, State.strand_me, h]
  rfl

theorem accessWalked_migrating (h : walkAD s s.tenantId s.me.pva.toNat s.me.pacc s.cluId = (.migrating, u)) :
    accessWalked s s.coreId s.slotId = if s.me.pacc = .store
      then u.updStrand s.coreId s.slotId (fun x => { x with plog := s.me.pva.toNat / 65536 :: x.plog, status := .ready })
      else u.updStrand s.coreId s.slotId (fun x => { x with phase := .migrate }) := by
  rw [State.cluId] at h
  simp only [accessWalked, State.strand_me, h, wake_plog]

theorem accessWalked_bad {c : BitVec 8} (h : walkAD s s.tenantId s.me.pva.toNat s.me.pacc s.cluId = (.bad c, u)) :
    accessWalked s s.coreId s.slotId = if s.me.pacc = .store ∧ c = cGPF_NP
      then u.updStrand s.coreId s.slotId (fun x => { x with plog := s.me.pva.toNat / 65536 :: x.plog, status := .ready })
      else freeze u s.coreId s.slotId c (gpfInfo false s.me.pacc s.me.pva.toNat) := by
  rw [State.cluId] at h
  simp only [accessWalked, State.strand_me, h, wake_plog]

end AccessWalked

theorem walksCheckAndFill : WalksCheckAndFill := by
  refine ⟨?checks, ?ends⟩
  case checks =>
    intro s tenant va clu a pte comp lvl acc hclu hwalk bad perm
    refine ⟨fun hf hx => congrArg Prod.fst (xlateWalk_noFetch hwalk hf hx),
      fun hf hn => congrArg Prod.fst (xlateWalk_noPage hwalk hf hn),
      fun hf size pa hpage => ?_⟩
    have hcheck := checkEntry_leaf (tenant := tenant) (va := va) (comp := comp) (size := size) (pa := pa) hclu hf
    refine ⟨fun h4 => congrArg Prod.fst (xlateWalk_notUser hwalk hf hpage h4), fun h4 hperm => ?_, fun h4 hperm hgroup => ?_,
      fun h4 hperm hgroup => ?_⟩
    · rw [if_neg hperm] at hcheck
      exact congrArg Prod.fst (xlateWalk_refused hwalk hf hpage h4 hcheck)
    · rw [if_pos hperm, hgroup] at hcheck
      exact congrArg Prod.fst (xlateWalk_refused hwalk hf hpage h4 hcheck)
    · rw [if_pos hperm, if_pos hgroup] at hcheck
      have hres := xlateWalk_granted hwalk hf hpage h4 hcheck
      refine ⟨fun hattr => ?_, fun h3 hz hphys => ⟨leafEntry tenant va pte comp size pa acc, ?_, rfl, rfl, rfl⟩⟩
      · rw [if_pos hattr] at hres
        exact congrArg Prod.fst hres
      · rw [if_neg (by simp [h3, hz, hphys])] at hres
        exact congrArg Prod.fst hres
  case ends =>
    intro s u e c hcur hstatus hphase core slot va acc ends toLog hacc hclean
    have hexec := exec_walkComplete hcur hstatus hphase hacc hclean
    exact ⟨fun h => hexec.trans (congrArg _ (accessWalked_ok h)), fun h => hexec.trans (congrArg _ (accessWalked_migrating h)),
      fun h => hexec.trans (congrArg _ (accessWalked_bad h))⟩

/-- Settles O51: the casts and tags, the handles, and the walks, each by its own equations. -/
theorem pointersHandlesAndWalks : Obligations.PointersHandlesAndWalks :=
  ⟨pointerTagsAndCasts, handlesAreMadeAndReleased, walksCheckAndFill⟩

end Sys2Proof.Machine

/-! ### Posted writes to a bank (O23; 06 R130, R133, R135; 17 R429) -/

namespace Sys2Proof.Machine

open Sys2Proof

/-! An access that lands in a bank has looked no VA up. -/

theorem globalPlace_not_bank {s : State} {k : AccKind} {va n key : Nat} {far : Bool} :
    globalPlace s k va n ≠ .ok (.bank key far) := by
  simp only [globalPlace]
  intro h
  split at h
  · nomatch h
  · split at h
    · nomatch h
    · split at h
      · split at h <;> nomatch h
      · split at h <;> nomatch h

/-- Every piece of an access in parts is the place of one of its parts. -/
theorem placeAll_places {f : Nat → Nat → Except Stop Place} {off : Nat} {parts : List (Nat × Nat × Nat)} {ps : List Piece}
    (h : placeAll f off parts = .ok ps) : ∀ p ∈ ps, ∃ a n, f a n = .ok p.place := by
  induction parts generalizing ps with
  | nil =>
    cases h
    nofun
  | cons part parts ih =>
    obtain ⟨a, o, n⟩ := part
    rw [placeAll] at h
    cases hf : f a n with
    | error e => rw [hf] at h; nomatch h
    | ok place =>
      rw [hf] at h
      cases hrest : placeAll f off parts with
      | error e => rw [hrest] at h; nomatch h
      | ok rest =>
        rw [hrest] at h
        cases h
        intro p hp
        rcases List.mem_cons.mp hp with rfl | hp
        · exact ⟨a, n, hf⟩
        · exact ih hrest p hp

theorem resolvePtr_bank {s : State} {q : Ask} {ptr : Word} {n base key : Nat} {far : Bool} {ps : List Piece} {p : Piece}
    (h : resolvePtr s q ptr n base = .ok ps) (hp : p ∈ ps) (hbank : p.place = .bank key far) : ptrTag ptr ≠ 0 := by
  intro h0
  unfold resolvePtr at h
  split at h
  · nomatch h
  · simp only [h0, if_true] at h
    split at h
    · nomatch h
    · split at h
      · nomatch h
      · obtain ⟨a, m, hplace⟩ := placeAll_places h p hp
        rw [hbank] at hplace
        exact globalPlace_not_bank hplace

theorem lookupKeys_st_bank {s : State} (g : Guard) (sz : Size) (sd sa : SReg) (imm : W32) {n key : Nat} {far : Bool}
    (h : placed none s (resolve s (askStore 1) (.ptr (s.rS sa + imm.signExtend 64)) n 0) =
      .ok [{ off := 0, len := n, place := .bank key far }]) : lookupKeys s (.st g sz none sd sa imm) = [] := by
  simp only [lookupKeys]
  rw [placed] at h
  split
  · rfl
  · rename_i hkept
    rw [if_neg hkept, resolve] at h
    have htag : fld (s.rS sa + imm.signExtend 64) 63 60 ≠ 0 := resolvePtr_bank h (List.mem_singleton_self _) rfl
    simp only [firstPtr, Option.any_some, htag, decide_false, Bool.false_eq_true, if_false]

/-- The write of the bytes of one word of a bank, as its strand posts it. -/
def farPosted (s : State) (key : Nat) (bs : List Byte) : Posted :=
  { id := s.nextId, core := s.coreId, slot := s.slotId, clu := s.cluId, kind := .bank, key := wordOf key, op := .st,
    data := List.replicate (key % 8) none ++ bs.map some ++ List.replicate (8 - key % 8 - bs.length) none, done := false, vis := 0 }

theorem onBoard_outside {s : State} {key off n : Nat} {far : Bool}
    (h : key < scrKey s.coreId 0 ∨ scrKey s.coreId 0 + 2 ^ 18 ≤ key) :
    Piece.onBoard s { off := off, len := n, place := .bank key far } = false := by
  rw [Piece.onBoard]
  simp only [Bool.and_eq_false_iff, decide_eq_false_iff_not]
  omega

/-- A store of one piece of another cluster's memory, or of staging, is posted and its instruction ends. -/
theorem storeAt_far {s : State} {a : Addr} {n key : Nat} (sd : SReg)
    (hplace : placed none s (resolve s (askStore 1) a n 0) = .ok [{ off := 0, len := n, place := .bank key true }])
    (hout : key < scrKey s.coreId 0 ∨ scrKey s.coreId 0 + 2 ^ 18 ≤ key) :
    storeAt n none sd a none s = .done
      { s with nextId := s.nextId + 1, posted := s.posted ++ [farPosted s key (toBytes n (s.rS sd).toNat)] } := by
  rw [storeAt_pieces (rl := none) sd hplace (unboard_one (onBoard_outside hout)) rfl (.inl rfl)]
  have hbytes : slice (toBytes n (s.rS sd).toNat) 0 n = toBytes n (s.rS sd).toNat := by
    rw [slice, List.drop_zero, List.take_of_length_le (toBytes_length ..).le]
  simp only [pwordsOf, List.foldl_cons, List.foldl_nil, hbytes]
  rfl

/-! The acknowledgement -/

section PutOpt

variable (m : Memory)

theorem putOpt_nones (a k : Nat) (bs : List (Option Byte)) :
    homePut.putOpt m a (List.replicate k none ++ bs) = homePut.putOpt m (a + k) bs := by
  induction k generalizing a with
  | zero => rfl
  | succ k ih =>
    rw [List.replicate_succ, List.cons_append, homePut.putOpt, ih, Nat.add_right_comm, Nat.add_assoc]

theorem putOpt_somes (a : Nat) (bs : List Byte) (rest : List (Option Byte)) :
    homePut.putOpt m a (bs.map some ++ rest) = homePut.putOpt (writeBytes m a bs) (a + bs.length) rest := by
  induction bs generalizing m a with
  | nil => rfl
  | cons b bs ih =>
    rw [List.map_cons, List.cons_append, homePut.putOpt, ih, writeBytes, List.length_cons, Nat.add_right_comm, Nat.add_assoc]

theorem putOpt_word (key : Nat) (bs : List Byte) (k : Nat) :
    homePut.putOpt m (wordOf key) (List.replicate (key % 8) none ++ bs.map some ++ List.replicate k none) =
      writeBytes m key bs := by
  have hword : wordOf key + key % 8 = key := by rw [wordOf]; omega
  rw [List.append_assoc, putOpt_nones, hword, putOpt_somes, ← List.append_nil (List.replicate k none), putOpt_nones,
    homePut.putOpt]

end PutOpt

section Ack

variable (s : State) (key : Nat) (bs : List (Option Byte))

theorem memPutOpt_mem : (memPutOpt s key bs).mem = homePut.putOpt s.mem key bs := by
  rw [memPutOpt]
  split <;> rfl

theorem memPutOpt_beside : (memPutOpt s key bs).strands = s.strands ∧ (memPutOpt s key bs).posted = s.posted ∧
    ccnt (memPutOpt s key bs) = ccnt s := by
  rw [memPutOpt]
  split <;> exact ⟨rfl, rfl, rfl⟩

variable (core slot v : Nat)

theorem noteVis_posted : (noteVis s core slot v).posted = s.posted := by
  rw [noteVis]
  split <;> rfl

variable {s}

theorem noteVis_strands_congr {t : State} (hstrands : t.strands = s.strands) (hccnt : ccnt t = ccnt s) :
    (noteVis t core slot v).strands = (noteVis s core slot v).strands := by
  rw [noteVis, noteVis]
  split
  · rw [State.updStrand, State.updStrand, State.setStrand, State.setStrand, State.strand, State.strand, hstrands, hccnt]
  · exact hstrands

end Ack

/-- A write to a bank that is the only one posted is performed at its acknowledgement, and is visible a cycle later. -/
theorem ack_bank {t : State} {p : Posted} (r : Reply) (hposted : t.posted = [p]) (htx : t.fabTx = []) (hkind : p.kind = .bank)
    (hop : p.op = .st) : exec (.postedWriteAck p.id r) t =
      .next (noteVis (dropPosted (memPutOpt t p.key p.data) p.id) p.core p.slot (ccnt t + 1)) := by
  change execPostedWriteAck p.id r t = _
  have hfind : t.posted.find? (·.id == p.id) = some p := by simp [hposted]
  have hfirst : postedFirst t p = true := by simp [postedFirst, ownPending, htx, hposted]
  have hperform : performPosted t p = (memPutOpt t p.key p.data, true) := by rw [performPosted, if_pos hop, doPosted, hkind]
  obtain ⟨-, -, hccnt⟩ := memPutOpt_beside t p.key p.data
  simp only [execPostedWriteAck, hfind, hkind, hfirst, hperform, Bool.not_true, Bool.false_eq_true, if_false, hccnt]

/-- Settles O23: the store only posts its bytes, and the acknowledgement of the one posted write puts them in memory. -/
theorem farStoreIsPostedThenPerformed : Obligations.FarStoreIsPostedThenPerformed := by
  intro s g sz sd sa imm key r hg hq n p hfit
  have hp : p = farPosted s key (toBytes n (s.rS sd).toNat) := by rw [farPosted, toBytes_length]
  refine ⟨fun hplace hout => ?issue, fun t hposted htx => ?ack⟩
  case issue =>
    have hexec := issue_scalar (i := .st g sz none sd sa imm) (opSt sz none sd sa imm none) rfl
      (readKeys_clean hg rfl rfl rfl rfl (lookup_nothing (lookupKeys_st_bank g sz sd sa imm hplace))) hg.1
    rw [opSt, State.addrImm, storeAt_far sd hplace hout, ← hp] at hexec
    exact hexec.trans (congrArg _ (settle_done_beside _ rfl rfl hq))
  case ack =>
    obtain ⟨hstrands, hkept, hccnt⟩ := memPutOpt_beside t p.key p.data
    refine ⟨_, ack_bank r hposted htx rfl rfl, ?_, ?_, ?_, fun a ha => ?_⟩
    · rw [noteVis_posted, dropPosted, hkept, hposted]
      simp
    · exact noteVis_strands_congr p.core p.slot _ hstrands hccnt
    all_goals
      have hmem : (noteVis (dropPosted (memPutOpt t p.key p.data) p.id) p.core p.slot (ccnt t + 1)).mem =
          writeBytes t.mem key (toBytes n (s.rS sd).toNat) := by
        rw [noteVis_mem]
        exact (memPutOpt_mem ..).trans (putOpt_word ..)
    · rw [memGet, hmem]
      simpa using readBytes_writeBytes t.mem key (toBytes n (s.rS sd).toNat)
    · rw [hmem, readByte_writeBytes_outside _ _ _ _ (by rwa [toBytes_length])]

end Sys2Proof.Machine

/-! ### The issue of matrix commands (O34; 06 R143; 12 R254, R255, R270; 18 R390 to R405) -/

namespace Sys2Proof.Machine

open Sys2Proof

/-! Scoreboard entries of a command -/

/-- The scoreboard entries of a command's ranges, named from a number on. -/
def sbEntries (id slot : Nat) (ranges : List (Nat × Nat)) : List SbEntry :=
  (List.range ranges.length).map fun j =>
    { id := id + j, lo := (ranges.getD j (0, 0)).1, hi := (ranges.getD j (0, 0)).2, slot := slot }

theorem sbEntries_cons (id slot lo hi : Nat) (ranges : List (Nat × Nat)) :
    sbEntries id slot ((lo, hi) :: ranges) = { id := id, lo := lo, hi := hi, slot := slot } :: sbEntries (id + 1) slot ranges := by
  rw [sbEntries, List.length_cons, List.range_succ_eq_map, List.map_cons, List.map_map, sbEntries]
  refine congrArg _ (List.map_congr_left fun j _ => ?_)
  simp only [Function.comp_apply, List.getD_cons_succ, Nat.succ_eq_add_one, Nat.add_assoc, Nat.add_comm 1]

/-- Two changes of a core are one. -/
theorem updCore_updCore (s : State) (core : Nat) (f g : Core → Core) :
    (s.updCore core f).updCore core g = s.updCore core (fun c => g (f c)) := by
  rw [State.updCore, State.updCore, State.setCore_core, State.setCore_setCore, State.updCore]

/-- The device with its next number set. -/
def State.numbered (s : State) (id : Nat) : State := { s with nextId := id }

/-- The device with one more scoreboard entry of a core. -/
def State.boarded (s : State) (core : Nat) (e : SbEntry) : State := s.updCore core (fun c => { c with sb := c.sb ++ [e] })

theorem numbered_nextId (s : State) (id : Nat) : (s.numbered id).nextId = id := rfl

theorem numbered_numbered (s : State) (id id' : Nat) : (s.numbered id).numbered id' = s.numbered id' := rfl

theorem boarded_nextId (s : State) (core : Nat) (e : SbEntry) : (s.boarded core e).nextId = s.nextId := rfl

theorem boarded_numbered (s : State) (core : Nat) (e : SbEntry) (id : Nat) :
    (s.boarded core e).numbered id = (s.numbered id).boarded core e := rfl

section SbAdd

variable (s : State) (core slot : Nat) (ranges : List (Nat × Nat))

theorem sbAdd_cons (lo hi : Nat) : sbAdd s core slot ((lo, hi) :: ranges) =
    let u := (s.numbered (s.nextId + 1)).boarded core { id := s.nextId, lo := lo, hi := hi, slot := slot }
    (s.nextId :: (sbAdd u core slot ranges).1, (sbAdd u core slot ranges).2) := rfl

theorem sbAdd_ids : (sbAdd s core slot ranges).1 = (List.range ranges.length).map (fun j => s.nextId + j) := by
  induction ranges generalizing s with
  | nil => rfl
  | cons r ranges ih =>
    obtain ⟨lo, hi⟩ := r
    rw [sbAdd_cons, List.length_cons, List.range_succ_eq_map, List.map_cons, List.map_map]
    refine congrArg _ ((ih _).trans (List.map_congr_left fun j _ => ?_))
    exact (Nat.add_right_comm ..).trans (Nat.add_assoc ..)

/-- Entries and a change of the core that follows are one change of the core. -/
theorem sbAdd_updCore (f : Core → Core) : (sbAdd s core slot ranges).2.updCore core f =
    (s.numbered (s.nextId + ranges.length)).updCore core (fun c => f { c with sb := c.sb ++ sbEntries s.nextId slot ranges }) := by
  induction ranges generalizing s with
  | nil =>
    rw [sbEntries, List.length_nil, List.range_zero, List.map_nil]
    simp only [List.append_nil]
    rfl
  | cons r ranges ih =>
    obtain ⟨lo, hi⟩ := r
    rw [sbAdd_cons, sbEntries_cons, ih, boarded_nextId, boarded_numbered, numbered_nextId, numbered_numbered, State.boarded,
      updCore_updCore, List.length_cons, Nat.add_right_comm, Nat.add_assoc]
    simp only [List.append_assoc, List.singleton_append]

/-- What entries leave as it was. -/
theorem sbAdd_keeps : ∃ id cs, (sbAdd s core slot ranges).2 = { s with nextId := id, cores := cs } := by
  induction ranges generalizing s with
  | nil => exact ⟨s.nextId, s.cores, rfl⟩
  | cons r ranges ih =>
    obtain ⟨id, cs, h⟩ := ih _
    exact ⟨id, cs, h⟩

end SbAdd

/-! A command in the queue -/

section Enqueue

variable {s : State} {i : Instr} {own : List Nat} {ranges : List (Nat × Nat)} {vdst : Option Nat} {sh : Shadow → Shadow}

theorem enqueue_full (h : 16 ≤ arrayCount (s.core s.coreId).arr) : enqueue i own ranges vdst sh s = .wait 7 .cond s := by
  simp only [enqueue, h, if_true]

theorem enqueue_room (hqueue : arrayCount (s.core s.coreId).arr < 16)
    (hboard : (s.core s.coreId).sb.length + ranges.length ≤ 16) :
    enqueue i own ranges vdst sh s = .done (queuedOn s i (cmdCaps s i (cmdOps s i) own) ranges vdst sh) := by
  obtain ⟨id, cs, hkeeps⟩ := sbAdd_keeps s s.coreId s.slotId ranges
  have hme : (sbAdd s s.coreId s.slotId ranges).2.me = s.me := by rw [hkeeps]; rfl
  have hcore : (sbAdd s s.coreId s.slotId ranges).2.coreId = s.coreId := by rw [hkeeps]; rfl
  have hslot : (sbAdd s s.coreId s.slotId ranges).2.slotId = s.slotId := by rw [hkeeps]; rfl
  have hops : cmdOps (sbAdd s s.coreId s.slotId ranges).2 i = cmdOps s i := by rw [hkeeps]; rfl
  have hcaps : cmdCaps (sbAdd s s.coreId s.slotId ranges).2 i (cmdOps s i) own = cmdCaps s i (cmdOps s i) own := by rw [hkeeps]; rfl
  simp only [enqueue, Nat.not_le.mpr hqueue, Nat.not_lt.mpr hboard, if_false, sbAdd_ids, sbAdd_updCore, hme, hcore, hslot,
    hops, hcaps]
  rfl

end Enqueue

section MatrixIssue

variable {s : State} {checks : List (Option Stop)} {k : State → Res}

theorem matrixIssue_owner (hown : ownsArray s = true) (h : firstStop checks = none) : matrixIssue s checks k = k s := by
  simp only [matrixIssue, hown, h, Bool.not_true, Bool.false_eq_true, if_false]

theorem matrixIssue_stranger (hown : ownsArray s = false) : matrixIssue s checks k = .fault cPRIV s.me.pc := by
  rw [matrixIssue, hown]
  rfl

end MatrixIssue

/-- A command of a task that does not own the array freezes its strand. -/
theorem issue_stranger {s : State} {i : Instr} {g : Guard} (op : State → Res) (hrun : Runs i g s)
    (hop : op s = .fault cPRIV s.me.pc) :
    issue i g op s = .next (freeze s s.coreId s.slotId cPRIV s.me.pc) := by
  rw [issue_runs op hrun, hop, settle_fault]

/-- A command that has passed its checks is queued, or parks where the array holds 16. -/
theorem issue_enqueue {s : State} {i : Instr} {g : Guard} (op : State → Res) {own caps : List Nat} {ranges : List (Nat × Nat)}
    {vdst : Option Nat} {sh : Shadow → Shadow} (hq : s.quiet) (hrun : Runs i g s) (hop : op s = enqueue i own ranges vdst sh s)
    (hcaps : cmdCaps s i (cmdOps s i) own = caps) :
    (arrayCount (s.core s.coreId).arr < 16 → (s.core s.coreId).sb.length + ranges.length ≤ 16 →
      issue i g op s = .next (queuedOn s i caps ranges vdst sh).gone) ∧
    (16 ≤ arrayCount (s.core s.coreId).arr → issue i g op s = .next (s.parkedOn i 7 .cond)) := by
  rw [issue_runs op hrun, hop]
  refine ⟨fun hqueue hboard => ?_, fun hfull => ?_⟩
  · rw [enqueue_room hqueue hboard, hcaps]
    exact congrArg _ (settle_done_beside _ rfl rfl hq)
  · rw [enqueue_full hfull]
    rfl

/-! The operand of a command in the scratchpad -/

theorem checkSpace_tag {s : State} {tags : Nat → Bool} {p : Word} (h : checkSpace s tags p = none) : tags (ptrTag p) = true := by
  rw [checkSpace] at h
  split at h
  · nomatch h
  · rename_i htags
    exact (Bool.and_eq_true_iff.mp ((Bool.not_eq_false _).mp fun hf => htags (by rw [hf]; rfl))).2

/-- A pointer that passes where some tags are accepted passes where its tag is among others. -/
theorem checkSpace_more {s : State} {tags more : Nat → Bool} {p : Word} (h : checkSpace s tags p = none)
    (hmore : more (ptrTag p) = true) : checkSpace s more p = none := by
  have htags := checkSpace_tag h
  rw [checkSpace, htags] at h
  rwa [checkSpace, hmore]

section Scratch

variable {s : State} {p : Word} {al n key : Nat} (h : ScratchAt s p al n key)
include h

theorem scratch_align : alignStop p al = none := by
  obtain ⟨-, halign, -, -, -⟩ := h
  rw [alignStop, if_neg (not_not.mpr halign)]

theorem scratch_localKey : localKey s p n = some key := by
  obtain ⟨-, -, hplace, -, -⟩ := h
  rw [localKey, hplace]

theorem scratch_bounds (info : Word) : boundsStop s p n info = none := by
  rw [boundsStop, scratch_localKey h]
  rfl

theorem scratch_keyOf : keyOf s p n = key := by
  rw [keyOf, scratch_localKey h]
  rfl

theorem scratch_sbRange : sbRange s p n = [(key - scrKey s.coreId 0, key - scrKey s.coreId 0 + n)] := by
  have hkey := scratch_keyOf h
  obtain ⟨hspace, -, -, hn, -⟩ := h
  simp only [sbRange, checkSpace_tag hspace, hkey, hn.ne', ne_eq, not_false_eq_true, decide_true, Bool.and_self, if_true]

theorem scratch_near : (ptrTag p == 3) = false := by
  obtain ⟨-, -, -, -, htag⟩ := h
  exact beq_eq_false_iff_ne.mpr htag.ne

end Scratch

/-! The commands with an operand in the scratchpad: their checks pass, and what they capture. -/

section Operands

variable {s : State} {sa : SReg} {key : Nat}

theorem mlb_passes {i : Instr} {ty : Ty} (hs : ScratchAt s (s.rS sa) 64 4096 key) (hown : ownsArray s = true) :
    opMlb i ty (.plain sa) s = enqueue i [] [(key - scrKey s.coreId 0, key - scrKey s.coreId 0 + 4096)] none
      (fun sh => { sh with loaded := true, lty := BitVec.ofNat 4 (tyCode ty), used := 4096, scale := false }) s := by
  have hspace : checkSpace s (fun t => t == 1 || t == 2 || t == 3) (s.rS sa) = none := by
    have htag := checkSpace_tag hs.1
    refine checkSpace_more hs.1 ?_
    rw [← htag, scratch_near hs, Bool.or_false, tagsScratch]
  have hchecks : firstStop ([checkSpace s (fun t => t == 1 || t == 2 || t == 3) (s.rS sa), alignStop (s.rS sa) 64,
      boundsStop s (s.rS sa) 4096 (s.rS sa)] ++ []) = none := by
    rw [hspace, scratch_align hs, scratch_bounds hs]
    rfl
  refine (matrixIssue_owner hown hchecks).trans ?_
  rw [← scratch_sbRange hs, ← List.append_nil (sbRange s (s.rS sa) 4096)]
  rfl

theorem mlb_caps {g : Guard} {ty : Ty} (hs : ScratchAt s (s.rS sa) 64 4096 key) :
    cmdCaps s (.mlb g ty (.plain sa)) (cmdOps s (.mlb g ty (.plain sa))) [] = [0, key, memNat s key 4096, 0] := by
  change [b2n (ptrTag (s.rS sa) == 3), keyOf s (s.rS sa) 4096, if (ptrTag (s.rS sa) == 3) = true then 0 else
    memNat s (keyOf s (s.rS sa) 4096) 4096, 0] = _
  rw [scratch_near hs, scratch_keyOf hs]
  rfl

theorem mma_passes {i : Instr} {ty : Ty} {sm : SReg} (hs : ScratchAt s (s.rS sa) 64 4096 key)
    (hloaded : (s.core s.coreId).arr.shadow.loaded = true)
    (htype : tyClass (tyOf (s.core s.coreId).arr.shadow.lty.toNat) = tyClass ty) (hown : ownsArray s = true) :
    opMma i false none .dense ty sa sm s = enqueue i [0, 0, stepId s s.me]
      [(key - scrKey s.coreId 0, key - scrKey s.coreId 0 + 4096)] none id s := by
  have hlatch : latchFails (s.core s.coreId).arr.shadow.loaded (s.core s.coreId).arr.shadow.lty (s.core s.coreId).arr.shadow.used
      (s.core s.coreId).arr.shadow.scale .dense ty = none := by
    simp [latchFails, hloaded, htype, mmaIsMx, mmaNeeds]
  have hchecks : firstStop [checkSpace s tagsScratch (s.rS sa), none, alignStop (s.rS sa) 64, none,
      boundsStop s (s.rS sa) 4096 (s.rS sa), none, none, none, none, none] = none := by
    rw [hs.1, scratch_align hs, scratch_bounds hs]
    rfl
  rw [← scratch_sbRange hs, ← List.append_nil (sbRange s (s.rS sa) 4096)]
  simp only [opMma, hlatch]
  exact matrixIssue_owner hown hchecks

theorem mma_caps {g : Guard} {ty : Ty} {sm : SReg} (hs : ScratchAt s (s.rS sa) 64 4096 key) :
    cmdCaps s (.mma g false none .dense ty sa sm) (cmdOps s (.mma g false none .dense ty sa sm)) [0, 0, stepId s s.me] =
      [(s.rS sm).toNat, 0, stepId s s.me, memNat s key 4096, 0] := by
  change [(s.rS sm).toNat, 0, stepId s s.me, memNat s (keyOf s (s.rS sa) 4096) 4096, 0] = _
  rw [scratch_keyOf hs]

theorem mout_passes {i : Instr} {sn sb sr sm : SReg} (hs : ScratchAt s (s.rS sa) 8 (8 * (s.rS sn).toNat) key)
    (hloaded : (s.core s.coreId).arr.shadow.loaded = true) (hown : ownsArray s = true) :
    opMout i sa sn sb sr sm s = enqueue i []
      [(key - scrKey s.coreId 0, key - scrKey s.coreId 0 + 8 * (s.rS sn).toNat)] none id s := by
  have hchecks : firstStop [checkSpace s tagsScratch (s.rS sa), alignStop (s.rS sa) 8,
      if (s.rS sn).toNat = 0 then none else boundsStop s (s.rS sa) (8 * (s.rS sn).toNat) (s.rS sn),
      if (s.core s.coreId).arr.shadow.loaded = true then none else some (.bad cENGINE (engInfo 1))] = none := by
    rw [hs.1, scratch_align hs, scratch_bounds hs, hloaded, ite_self]
    rfl
  rw [← scratch_sbRange hs]
  exact matrixIssue_owner hown hchecks

theorem mout_caps {g : Guard} {sn sb sr sm : SReg} (hs : ScratchAt s (s.rS sa) 8 (8 * (s.rS sn).toNat) key) :
    cmdCaps s (.mout g sa sn sb sr sm) (cmdOps s (.mout g sa sn sb sr sm)) [] =
      [(s.rS sn).toNat, (s.rS sb).toNat, (s.rS sr).toNat, (s.rS sm).toNat, memNat s key (8 * (s.rS sn).toNat)] := by
  change [(s.rS sn).toNat, (s.rS sb).toNat, (s.rS sr).toNat, (s.rS sm).toNat,
    memNat s (keyOf s (s.rS sa) (8 * (s.rS sn).toNat)) (8 * (s.rS sn).toNat)] = _
  rw [scratch_keyOf hs]

theorem mdrain_passes {i : Instr} {ty : Ty} {rm : Rounding} {ns mf z : Bool} {sr sn : SReg}
    (hs : ScratchAt s (s.rS sa) 8 (8 * tyBits ty * (s.rS sn).toNat) key) (hrows : (s.rS sr).toNat + (s.rS sn).toNat ≤ 64)
    (hn : 0 < (s.rS sn).toNat) (hown : ownsArray s = true) :
    opMdrain i (.mem ty rm ns mf z sa sr sn) s = enqueue i []
      [(key - scrKey s.coreId 0, key - scrKey s.coreId 0 + 8 * tyBits ty * (s.rS sn).toNat)] none id s := by
  have hfirst : ¬ 63 < (s.rS sr).toNat := by omega
  have hlast : ¬ (decide ((s.rS sn).toNat < 1) || decide (64 < (s.rS sr).toNat + (s.rS sn).toNat)) = true := by
    rw [Bool.or_eq_true, decide_eq_true_eq, decide_eq_true_eq]
    omega
  have hchecks : firstStop [checkSpace s tagsScratch (s.rS sa), alignStop (s.rS sa) 8,
      if 63 < (s.rS sr).toNat then some (.bad cBOUNDS (s.rS sr)) else none,
      if decide ((s.rS sn).toNat < 1) || decide (64 < (s.rS sr).toNat + (s.rS sn).toNat) then
        some (.bad cBOUNDS (s.rS sn)) else none,
      boundsStop s (s.rS sa) (8 * tyBits ty * (s.rS sn).toNat) (s.rS sa)] = none := by
    rw [hs.1, scratch_align hs, scratch_bounds hs, if_neg hfirst, if_neg hlast]
    rfl
  rw [← scratch_sbRange hs]
  exact matrixIssue_owner hown hchecks

theorem mdrain_caps {g : Guard} {ty : Ty} {rm : Rounding} {ns mf z : Bool} {sr sn : SReg}
    (hs : ScratchAt s (s.rS sa) 8 (8 * tyBits ty * (s.rS sn).toNat) key) :
    cmdCaps s (.mdrain g (.mem ty rm ns mf z sa sr sn)) (cmdOps s (.mdrain g (.mem ty rm ns mf z sa sr sn))) [] =
      [(s.rS sr).toNat, (s.rS sn).toNat, key] := by
  change [(s.rS sr).toNat, (s.rS sn).toNat, keyOf s (s.rS sa) (8 * tyBits ty * (s.rS sn).toNat)] = _
  rw [scratch_keyOf hs]

end Operands

/-- Settles O34: each command passes its own checks, and the rest is the queue's. -/
theorem matrixCommandsAreQueuedAtIssue : Obligations.MatrixCommandsAreQueuedAtIssue := by
  intro s g ty sa sn sb sr sm vs n rm ns mf z key hq arr lo mx queues needsOwner
  have queued {i : Instr} {caps : List Nat} {ranges : List (Nat × Nat)} {vdst : Option Nat} {sh : Shadow → Shadow}
      (op : State → Res) (own : List Nat) (hexec : exec i s = issue i g op s)
      (hop : ownsArray s = true → op s = enqueue i own ranges vdst sh s) (hcaps : cmdCaps s i (cmdOps s i) own = caps) :
      queues i caps ranges vdst sh := by
    intro hrun hown
    rw [hexec]
    exact issue_enqueue op hq hrun (hop hown) hcaps
  have refused {i : Instr} (op : State → Res) (hexec : exec i s = issue i g op s)
      (hop : ownsArray s = false → op s = .fault cPRIV s.me.pc) : needsOwner i := by
    intro hrun hown
    rw [hexec]
    exact issue_stranger op hrun (hop hown)
  refine ⟨?mzero, fun hring => ?mring, ?mlbVec, fun hs => ?mlb, fun hs hloaded htype => ?mma, fun hs hloaded => ?mout,
    fun hs hrows hn => ?mdrain, fun hrow => ?mdrainVec, ?_, ?_, ?_, ?_, ?_, ?_⟩
  case mzero => exact queued (opMzero (.mzero g)) [] rfl (fun hown => matrixIssue_owner hown rfl) rfl
  case mring =>
    refine queued (opMring (.mring g)) [] rfl (fun hown => matrixIssue_owner hown ?_) rfl
    rw [if_pos hring]
    rfl
  case mlbVec =>
    refine queued (opMlb (.mlb g ty (.vec vs n)) ty (.vec vs n)) [(s.rV vs.toNat).toNat] rfl (fun hown => ?_) rfl
    rw [opMlb]
    exact matrixIssue_owner hown rfl
  case mlb => exact queued (opMlb (.mlb g ty (.plain sa)) ty (.plain sa)) [] rfl (mlb_passes hs) (mlb_caps hs)
  case mma =>
    exact queued (opMma (.mma g false none .dense ty sa sm) false none .dense ty sa sm) [0, 0, stepId s s.me] rfl
      (mma_passes hs hloaded htype) (mma_caps hs)
  case mout => exact queued (opMout (.mout g sa sn sb sr sm) sa sn sb sr sm) [] rfl (mout_passes hs hloaded) (mout_caps hs)
  case mdrain =>
    exact queued (opMdrain (.mdrain g (.mem ty rm ns mf z sa sr sn)) (.mem ty rm ns mf z sa sr sn)) [] rfl
      (mdrain_passes hs hrows hn) (mdrain_caps hs)
  case mdrainVec =>
    refine queued (opMdrain (.mdrain g (.vec z vs sr)) (.vec z vs sr)) [] rfl (fun hown => matrixIssue_owner hown ?_) rfl
    rw [if_neg (by omega)]
    rfl
  · exact refused (opMzero (.mzero g)) rfl matrixIssue_stranger
  · exact refused (opMring (.mring g)) rfl matrixIssue_stranger
  · exact refused (opMlb (.mlb g ty (.plain sa)) ty (.plain sa)) rfl matrixIssue_stranger
  · exact refused (opMma (.mma g false none .dense ty sa sm) false none .dense ty sa sm) rfl matrixIssue_stranger
  · exact refused (opMout (.mout g sa sn sb sr sm) sa sn sb sr sm) rfl matrixIssue_stranger
  · exact refused (opMdrain (.mdrain g (.mem ty rm ns mf z sa sr sn)) (.mem ty rm ns mf z sa sr sn)) rfl matrixIssue_stranger

end Sys2Proof.Machine

/-! ### Rings, pairs and the scoreboard (O36; 06 R143, R144; 12 R264 to R266) -/

namespace Sys2Proof.Machine

open Sys2Proof

/-! Folds over places, each step of which changes its own place alone. -/

section Places

variable {σ β : Type} {get : σ → Nat → β} {step : σ → Nat → σ}
  (hother : ∀ t a b, b ≠ a → get (step t a) b = get t b)
include hother

theorem foldl_elsewhere {l : List Nat} {a : Nat} (ha : a ∉ l) (s : σ) : get (l.foldl step s) a = get s a := by
  induction l generalizing s with
  | nil => rfl
  | cons b l ih => rw [List.foldl_cons, ih (List.not_mem_of_not_mem_cons ha), hother _ _ _ (List.ne_of_not_mem_cons ha)]

/-- The fold leaves at a place of its list what the place's own step makes of it. -/
theorem foldl_place {l : List Nat} (hl : l.Nodup) {a : Nat} (ha : a ∈ l) (s : σ) :
    ∃ u, get u a = get s a ∧ get (l.foldl step s) a = get (step u a) a := by
  induction l generalizing s with
  | nil => nomatch ha
  | cons b l ih =>
    obtain ⟨hb, hl⟩ := List.nodup_cons.mp hl
    rw [List.foldl_cons]
    rcases List.mem_cons.mp ha with rfl | ha
    · exact ⟨s, rfl, foldl_elsewhere hother hb _⟩
    · obtain ⟨u, hu, hfold⟩ := ih hl ha (step s b)
      exact ⟨u, hu.trans (hother _ _ _ fun h => hb (h ▸ ha)), hfold⟩

end Places

/-! The cores of a ring or pair -/

theorem coreOf_cluOfCore (core : Nat) : coreOf (cluOfCore core) (core % 16) = core := by
  rw [coreOf, cluOfCore]
  omega

theorem coreOf_injective (clu : Nat) : Function.Injective (coreOf clu) := fun _ _ h => Nat.add_left_cancel h

theorem nodup_halfRing (clu half : Nat) : ((List.range 8).map (fun i => coreOf clu (half + i))).Nodup :=
  List.nodup_range.map fun _ _ h => Nat.add_left_cancel (coreOf_injective clu h)

theorem ringCores_nodup (core : Nat) (pair : Bool) : (ringCores core pair).Nodup := by
  rw [ringCores]
  split
  · refine (nodup_halfRing ..).append (nodup_halfRing ..) fun c hc hc' => ?_
    obtain ⟨i, hi, rfl⟩ := List.mem_map.mp hc
    obtain ⟨j, hj, h⟩ := List.mem_map.mp hc'
    rw [List.mem_range] at hi hj
    rw [coreOf, coreOf] at h
    omega
  · exact nodup_halfRing ..

theorem mem_ringCores (core : Nat) (pair : Bool) : core ∈ ringCores core pair := by
  have hself : coreOf (cluOfCore core) (core % 16 / 8 * 8 + core % 8) = core := by
    rw [← Nat.mod_mod_of_dvd core (by decide : 8 ∣ 16), Nat.div_add_mod', coreOf_cluOfCore]
  have hhalf (clu : Nat) (h : clu = cluOfCore core) :
      core ∈ (List.range 8).map (fun i => coreOf clu (core % 16 / 8 * 8 + i)) :=
    List.mem_map.mpr ⟨core % 8, List.mem_range.mpr (Nat.mod_lt _ (by decide)), h ▸ hself⟩
  rw [ringCores]
  split
  · rw [List.mem_append]
    rcases Nat.mod_two_eq_zero_or_one (cluOfCore core) with h | h
    · exact .inl (hhalf _ (by omega))
    · exact .inr (hhalf _ (by omega))
  · exact hhalf _ rfl

theorem ringOf_nodup (s : State) (core : Nat) (k : Task) : (ringOf s core k).Nodup := ringCores_nodup ..

theorem mem_ringOf (s : State) (core : Nat) (k : Task) : core ∈ ringOf s core k := mem_ringCores ..

/-! The waits for a ring -/

theorem pairNow_le (s : State) (k : Nat) (cs : List Nat) : pairNow s k cs ≤ s.cycle := by
  rw [pairNow]
  generalize s.cycle = n
  induction cs generalizing n with
  | nil => exact Nat.le_refl _
  | cons c cs ih =>
    refine (ih _).trans ?_
    dsimp only
    split
    · exact Nat.min_le_left ..
    · exact Nat.le_refl _

theorem pairNow_of_noSquall {s : State} {k : Nat} {cs : List Nat} (h : ∀ c ∈ cs, underSquall s k c = false) :
    pairNow s k cs = s.cycle := by
  rw [pairNow]
  induction cs with
  | nil => rfl
  | cons c cs ih =>
    rw [List.foldl_cons, h c (List.mem_cons_self ..), if_neg Bool.false_ne_true]
    exact ih fun d hd => h d (List.mem_cons_of_mem _ hd)

theorem noneLate {s : State} {k : Nat} {cs ds : List Nat} (h : ∀ c ∈ ds, s.cycle - (s.core c).arr.runSince ≤ pairTo s c) :
    ds.any (pairLate s k cs) = false := by
  rw [List.any_eq_false]
  intro c hc
  have hle := pairNow_le s k cs
  have := h c hc
  simp only [pairLate, Bool.and_eq_true, decide_eq_true_eq, not_and]
  omega

/-- A core that has finished a ring command of an operation code waits for its ring. -/
theorem ringWaits_eq {s : State} {k c n : Nat} {j : Task} {m : MCmd} (hdone : (s.core c).arr.done = true)
    (hown : gangOwner s c = some j) (hlaunch : j.launch = k) (hrun : (s.core c).arr.run = some m) (n' : Nat)
    (hop : fld m.word 63 56 = n) :
    ringWaits s k n' c = (n == n') := by
  simp only [ringWaits, hown, hlaunch, hdone, hrun, hop, Option.any_some, beq_self_eq_true, Bool.and_self, Bool.true_and,
    Option.map_some, Option.getD_some]

/-! Changes of an array -/

theorem setArr_core_other {s : State} {c d : Nat} (f : MArray → MArray) (h : d ≠ c) : (setArr s c f).core d = s.core d := by
  rw [setArr, State.updCore, State.core, State.setCore, fget_fset, if_neg h.symm]
  rfl

theorem setArr_arr (s : State) (c : Nat) (f : MArray → MArray) : ((setArr s c f).core c).arr = f (s.core c).arr := by
  rw [setArr, State.updCore, State.setCore_core]

section EachArray

variable (F : Nat → MArray → MArray) (cs : List Nat) (s : State)

theorem foldl_setArr_mem : (cs.foldl (fun t c => setArr t c (F c)) s).mem = s.mem :=
  foldl_keeps (fun t c => setArr t c (F c)) State.mem (fun _ _ => rfl) cs s

theorem foldl_setArr_strands : (cs.foldl (fun t c => setArr t c (F c)) s).strands = s.strands :=
  foldl_keeps (fun t c => setArr t c (F c)) State.strands (fun _ _ => rfl) cs s

variable {cs}

theorem foldl_setArr_arr (hcs : cs.Nodup) {c : Nat} (hc : c ∈ cs) :
    ((cs.foldl (fun t c => setArr t c (F c)) s).core c).arr = F c (s.core c).arr := by
  obtain ⟨u, hu, hfold⟩ := foldl_place (get := State.core) (fun t a b hb => setArr_core_other (F a) hb) hcs hc s
  rw [hfold, setArr_arr, hu]

end EachArray

theorem latchErrors_keeps {β : Type} (p : State → β) (h : ∀ (s : State) (x : FMap Bool), p { s with soft := x } = p s)
    (s : State) (cs : List Nat) : p (latchErrors s cs) = p s := by
  rw [latchErrors]
  split
  · rfl
  · refine (foldl_keeps _ p (fun t c => foldl_keeps _ p (fun u k => h ..) _ t) _ _).trans (foldl_keeps _ p (fun t c => ?_) _ _)
    exact (h _ _).trans (h _ _)

/-! The ring established, and a rotating step committed -/

/-- An array whose MRING has established its ring. -/
def MArray.joined (a : MArray) (ring : Nat) : MArray := { a with run := none, done := false, incoming := none, ring := ring }

/-- An array that has committed a rotating step, with the latch that it receives. -/
def MArray.rotated (a : MArray) (m : MCmd) (kind : MmaKind) (ty : Ty) (pred : MArray) : MArray :=
  { a.freshAcc with
    acc := stepAcc a.fresh kind ty (m.caps.getD 0 0) (m.caps.getD 3 0) (m.caps.getD 4 0)
    steps := (a.freshAcc.steps + 1) % 2 ^ 32
    run := none, done := false, incoming := none, latch := pred.latch, loaded := pred.loaded, staleLatch := false }

/-- What a step of a ring makes of the array of one of its cores. -/
def ringArr (old : State) (cs : List Nat) (c : Nat) (a : MArray) : MArray :=
  match (old.core c).arr.run with
  | some m =>
    match decodeTile m.word with
    | .ok (.mma _ _ _ kind ty _ _) => a.rotated m kind ty (old.core (ringPred cs c)).arr.freshLatch
    | _ => a
  | none => a

/-- A core has finished a rotating step and waits for its ring. -/
def rotates (s : State) (c : Nat) : Prop :=
  ∃ m g rag kind ty sa sm, (s.core c).arr.run = some m ∧ decodeTile m.word = .ok (.mma g true rag kind ty sa sm)

theorem ringArr_mma {old : State} {cs : List Nat} {c : Nat} {m : MCmd} {g : Guard} {rot : Bool} {rag : Option SReg} {kind : MmaKind}
    {ty : Ty} {sa sm : SReg} (hrun : (old.core c).arr.run = some m) (hdec : decodeTile m.word = .ok (.mma g rot rag kind ty sa sm))
    (a : MArray) : ringArr old cs c a = a.rotated m kind ty (old.core (ringPred cs c)).arr.freshLatch := by
  simp only [ringArr, hrun, hdec]

section Commit

variable {s : State} {core : Nat} {k : Task} (hown : gangOwner s core = some k)
  (hlate : (ringOf s core k).any (pairLate s k.launch (ringOf s core k)) = false)
include hown hlate

theorem exec_ringStepCommit_mring (hall : (ringOf s core k).all (ringWaits s k.launch 0x85) = true) :
    exec (.ringStepCommit core) s = .next ((ringOf s core k).foldl
      (fun t c => setArr t c (·.joined (if (ringOf s core k).length = 16 then 2 else 1))) s) := by
  change execRingStepCommit core s = _
  simp only [execRingStepCommit, hown, hlate, hall, Bool.false_eq_true, if_false, if_true]
  rfl

theorem exec_ringStepCommit_mma (hnot : (ringOf s core k).all (ringWaits s k.launch 0x85) = false)
    (hall : (ringOf s core k).all (ringWaits s k.launch 0x82) = true) (hmma : ∀ c ∈ ringOf s core k, rotates s c) :
    exec (.ringStepCommit core) s = .next ((ringOf s core k).foldl
      (fun t c => setArr t c (ringArr s (ringOf s core k) c)) (latchErrors s (ringOf s core k))) := by
  change execRingStepCommit core s = _
  simp only [execRingStepCommit, hown, hlate, hnot, hall, Bool.false_eq_true, if_false, if_true]
  refine congrArg _ (List.foldl_ext _ _ _ fun t c hc => ?_)
  obtain ⟨m, g, rag, kind, ty, sa, sm, hrun, hdec⟩ := hmma c hc
  simp only [hrun, hdec, cmdRun, funext (ringArr_mma (cs := ringOf s core k) hrun hdec)]
  exact updCore_updCore ..

end Commit

/-- A core has finished a command of an operation code for the ring of a launch. -/
def finished (s : State) (launch n c : Nat) : Prop :=
  (s.core c).arr.done = true ∧ (∃ j, gangOwner s c = some j ∧ j.launch = launch) ∧
    ∃ m, (s.core c).arr.run = some m ∧ fld m.word 63 56 = n

theorem allWait {s : State} {launch n : Nat} {cs : List Nat} (h : ∀ c ∈ cs, finished s launch n c) :
    cs.all (ringWaits s launch n) = true := by
  rw [List.all_eq_true]
  intro c hc
  obtain ⟨hdone, ⟨j, hown, hlaunch⟩, m, hrun, hop⟩ := h c hc
  rw [ringWaits_eq hdone hown hlaunch hrun n hop, beq_self_eq_true]

theorem notAllWait {s : State} {launch n n' c : Nat} {cs : List Nat} (hc : c ∈ cs) (h : finished s launch n c) (hne : n ≠ n') :
    cs.all (ringWaits s launch n') = false := by
  obtain ⟨hdone, ⟨j, hown, hlaunch⟩, m, hrun, hop⟩ := h
  rw [List.all_eq_false]
  exact ⟨c, hc, by rw [ringWaits_eq hdone hown hlaunch hrun n' hop]; simpa using hne⟩

section Gang

variable {s : State} {core : Nat} {k : Task} (hown : gangOwner s core = some k)
include hown

theorem ringEstablished
    (h : ∀ c ∈ ringOf s core k, finished s k.launch 0x85 c ∧ s.cycle - (s.core c).arr.runSince ≤ pairTo s c) :
    ∃ t, exec (.ringStepCommit core) s = .next t ∧ t.mem = s.mem ∧ t.strands = s.strands ∧
      ∀ c ∈ ringOf s core k, (t.core c).arr = (s.core c).arr.joined (if (ringOf s core k).length = 16 then 2 else 1) :=
  ⟨_, exec_ringStepCommit_mring hown (noneLate fun c hc => (h c hc).2) (allWait fun c hc => (h c hc).1), foldl_setArr_mem ..,
    foldl_setArr_strands .., fun _ hc => foldl_setArr_arr _ s (ringOf_nodup ..) hc⟩

theorem stepCommitted
    (h : ∀ c ∈ ringOf s core k, finished s k.launch 0x82 c ∧ s.cycle - (s.core c).arr.runSince ≤ pairTo s c)
    (hmma : ∀ c ∈ ringOf s core k, rotates s c) :
    ∃ t, exec (.ringStepCommit core) s = .next t ∧ t.mem = s.mem ∧ t.strands = s.strands ∧
      ∀ c ∈ ringOf s core k, (t.core c).arr = ringArr s (ringOf s core k) c (s.core c).arr := by
  have hself := mem_ringOf s core k
  refine ⟨_, exec_ringStepCommit_mma hown (noneLate fun c hc => (h c hc).2) (notAllWait hself (h core hself).1 (by decide))
    (allWait fun c hc => (h c hc).1) hmma, ?_, ?_, fun c hc => ?_⟩
  · exact (foldl_setArr_mem ..).trans (latchErrors_keeps State.mem (fun _ _ => rfl) ..)
  · exact (foldl_setArr_strands ..).trans (latchErrors_keeps State.strands (fun _ _ => rfl) ..)
  · rw [foldl_setArr_arr _ _ (ringOf_nodup ..) hc, latchErrors_keeps (fun s => s.core c) (fun _ _ => rfl)]

end Gang

/-! A gang's commands dropped (R266) -/

theorem core_congr {s t : State} (h : t.cores = s.cores) (c : Nat) : t.core c = s.core c := by rw [State.core, h, State.core]

theorem gangLive_congr {s t : State} (h : t.strands = s.strands) (k c : Nat) : gangLive t k c = gangLive s k c := by
  have hstrand (n : Nat) : t.strand c n = s.strand c n := by rw [State.strand, h, State.strand]
  simp only [gangLive, hstrand]

theorem gangLive_of_task {s : State} {k c n : Nat} {j : Task} (hn : n < 8) (htask : (s.strand c n).task = some j)
    (hlaunch : j.launch = k) (hring : j.ring = true) : (gangLive s k c).isSome = true := by
  rw [gangLive, List.findSome?_isSome_iff]
  refine ⟨n, List.mem_range.mpr hn, ?_⟩
  simp [Strand.gangTask, htask, hlaunch, hring]

/-- The owner of an array that is of a gang is the task of one of its strands. -/
theorem gangOwner_live {s : State} {c : Nat} {k : Task} (h : gangOwner s c = some k) : (gangLive s k.launch c).isSome = true := by
  obtain ⟨n, hn, htask⟩ := Option.bind_eq_some_iff.mp h
  obtain ⟨htask, hring⟩ := Option.filter_eq_some_iff.mp htask
  exact gangLive_of_task (List.mem_range.mp (List.mem_of_find?_eq_some hn)) htask rfl hring

section GangDrop

variable (s : State) (k c : Nat)

theorem gangDrop_strands : (gangDrop s k c).strands = s.strands := by
  rw [gangDrop]
  split
  · rfl
  · split <;> rfl

theorem gangDrop_core_other {d : Nat} (h : d ≠ c) : (gangDrop s k c).core d = s.core d := by
  have hother (f : Core → Core) : (s.updCore c f).core d = s.core d := by
    rw [State.updCore, State.core, State.setCore, fget_fset, if_neg h.symm]
    rfl
  rw [gangDrop]
  split
  · exact hother _
  · split
    · exact hother _
    · rfl

variable {s k c}

theorem gangDrop_arr (h : (gangLive s k c).isSome = true) : ((gangDrop s k c).core c).arr = (s.core c).arr.drop := by
  rw [gangDrop, if_pos h, State.updCore, State.setCore_core]

end GangDrop

/-- Each part of a gang that is in its slot has its array dropped. -/
theorem foldl_gangDrop_arr {s : State} {k c : Nat} {cs : List Nat} (hcs : cs.Nodup) (hc : c ∈ cs)
    (hlive : (gangLive s k c).isSome = true) : ((cs.foldl (fun t d => gangDrop t k d) s).core c).arr = (s.core c).arr.drop := by
  obtain ⟨u, hu, hfold⟩ := foldl_place (get := fun t d => (t.core d, t.strands))
    (fun t a b hb => Prod.ext (gangDrop_core_other t k a hb) (gangDrop_strands t k a)) hcs hc s
  obtain ⟨hcore, hstrands⟩ := Prod.mk.inj hu
  have hlast : (cs.foldl (fun t d => gangDrop t k d) s).core c = (gangDrop u k c).core c := (Prod.mk.inj hfold).1
  rw [hlast, gangDrop_arr (by rwa [gangLive_congr hstrands]), hcore]

/-! Notices change no core (13 R275). -/

section NoticeCores

theorem regFld_cores (s : State) (o hi lo v : Nat) : (regFld s o hi lo v).cores = s.cores := rfl

theorem noticeFull_cores (s : State) (clu : Nat) (p : Packet) : (noticeFull s clu p).cores = s.cores := by
  rw [noticeFull]
  split <;> rfl

theorem frStore_cores (s : State) (clu n : Nat) (p : Packet) : (frStore s clu n p).cores = s.cores := by
  have hkept (u : State) : (unitRelease u).cores = u.cores := rfl
  rw [frStore]
  split <;> simp only [State.send_cores, State.updClu, State.setClu_cores, regFld_cores, hkept, cohWrite_cores]

theorem frFill_cores (s : State) (clu n : Nat) (ps : List Packet) : (frFill s clu n ps).1.cores = s.cores := by
  induction ps generalizing s with
  | nil => rfl
  | cons p ps ih =>
    rw [frFill]
    split
    · rw [ih, frStore_cores]
    · split
      · rfl
      · rw [ih, noticeFull_cores]

theorem frStuck_cores (s : State) (clu : Nat) (new ps : List Packet) : (frStuck s clu new ps).1.cores = s.cores :=
  foldl_keeps _ State.cores (fun t p => by
    split
    · rfl
    · exact noticeFull_cores ..) ps s

theorem frMove_cores (s : State) (clu : Nat) (new : List Packet) (ls : List Nat) (ps : List Packet) :
    (frMove s clu new ls ps).1.cores = s.cores := by
  induction ls generalizing s ps with
  | nil => exact frStuck_cores ..
  | cons n rest ih =>
    have hnext (t : State) (l : List Packet) : (if rest.any (frEnabled t clu) = true then
        frMove (t.updClu clu (fun c => { c with freezes := c.freezes.filter (fun f => f.1 != n) })) clu new rest
          (frPending t clu n ++ l)
        else frStuck t clu new l).1.cores = t.cores := by
      split
      · exact ih ..
      · exact frStuck_cores ..
    rw [frMove]
    dsimp only
    split
    · have hfill := frFill_cores (regFld s (offFLTSTAT clu) 1 0 n) clu n ps
      split
      · next h => rw [h] at hfill; exact hfill
      · next h => rw [h] at hfill; exact (hnext ..).trans hfill
    · exact hnext s ps

theorem heldFlush_cores (n : Nat) (s : State) (clu : Nat) : (heldFlush n s clu).cores = s.cores := by
  induction n generalizing s with
  | zero => rfl
  | succ n ih =>
    rw [heldFlush]
    split
    · split
      · rw [ih, frStore_cores]
        rfl
      · rfl
    · rfl

theorem frSend_cores (s : State) (clu : Nat) (ps : List Packet) : (frSend s clu ps).1.cores = s.cores := by
  have hmove : (frDeliver s clu (frLevels s clu) ps).1.cores = s.cores := frMove_cores ..
  rw [frSend]
  dsimp only
  split
  · exact hmove
  · exact (heldFlush_cores ..).trans hmove

theorem notice_cores (s : State) (clu : Nat) (p : Packet) : (notice s clu p).cores = s.cores := by
  rw [notice]
  split
  · exact frSend_cores ..
  · rfl

end NoticeCores

theorem gangFail_arr {s : State} {k c culprit : Nat} {cs notify : List Nat} (code : BitVec 8) (hcs : cs.Nodup) (hc : c ∈ cs)
    (hlive : (gangLive s k c).isSome = true) : ((gangFail s k cs notify code culprit).core c).arr = (s.core c).arr.drop := by
  rw [← foldl_gangDrop_arr hcs hc hlive, gangFail]
  refine congrArg Core.arr (core_congr (foldl_keeps _ State.cores (fun t d => ?_) notify _) c)
  dsimp only
  split
  · exact notice_cores ..
  · rfl

/-- A wait beyond PAIRTO: no step commits, and the time-out drops the gang's commands. -/
theorem pairTimedOut {s : State} {core : Nat} {k : Task} {m : MCmd} (hown : gangOwner s core = some k)
    (hdone : (s.core core).arr.done = true) (hrun : (s.core core).arr.run = some m)
    (hlate : pairTo s core < s.cycle - (s.core core).arr.runSince)
    (hring : ∀ c ∈ ringOf s core k, underSquall s k.launch c = false ∧ stillHeld s (cluOfCore c) .array c = false) :
    exec (.ringStepCommit core) s = .next s ∧
      exec (.pairTimeout core) s = .next (gangFail s k.launch (ringOf s core k) (ringOf s core k) cPAIR_TIMEOUT core) := by
  have hpair : pairLate s k.launch (ringOf s core k) core = true := by
    simp only [pairLate, pairNow_of_noSquall fun c hc => (hring c hc).1, hdone, hrun, hlate, Option.isSome_some, decide_true,
      Bool.and_self]
  have hany : (ringOf s core k).any (pairLate s k.launch (ringOf s core k)) = true :=
    List.any_eq_true.mpr ⟨core, mem_ringOf .., hpair⟩
  have hheld : (ringOf s core k).any (fun c => stillHeld s (cluOfCore c) .array c) = false :=
    List.any_eq_false.mpr fun c hc => by rw [(hring c hc).2]; exact Bool.false_ne_true
  constructor
  · change execRingStepCommit core s = _
    simp only [execRingStepCommit, hown, hany, if_true]
  · change execPairTimeout core s = _
    simp only [execPairTimeout, hown, hpair, hheld, Bool.not_false, Bool.and_self, if_true]

/-! A scoreboard entry that retires (R143, R144) -/

/-- A strand that waits for scoreboard entries goes on. -/
def Strand.unboarded (x : Strand) : Strand := if x.status = .parked ∧ x.phase = .board then { x with status := .ready } else x

/-- One strand of a core goes on if it waits for scoreboard entries. -/
def unboardOne (core : Nat) (s : State) (n : Nat) : State :=
  if (s.strand core n).status = .parked ∧ (s.strand core n).phase = .board
  then s.setStrand core n { s.strand core n with status := .ready } else s

theorem unboardOne_mem (core : Nat) (s : State) (n : Nat) : (unboardOne core s n).mem = s.mem := by
  rw [unboardOne]
  split <;> rfl

theorem unboardOne_cores (core : Nat) (s : State) (n : Nat) : (unboardOne core s n).cores = s.cores := by
  rw [unboardOne]
  split <;> rfl

theorem unboardOne_other (core : Nat) (s : State) {n n' : Nat} (h : n' ≠ n) :
    (unboardOne core s n).strand core n' = s.strand core n' := by
  rw [unboardOne]
  split
  · rw [State.strand_setStrand, if_neg]
    rw [strandKey, strandKey]
    omega
  · rfl

theorem unboardOne_self (core : Nat) (s : State) (n : Nat) :
    (unboardOne core s n).strand core n = (s.strand core n).unboarded := by
  rw [unboardOne, Strand.unboarded]
  split
  · rw [State.setStrand_strand]
  · rfl

theorem exec_scoreboardRetire {s : State} {core : Nat} {e : SbEntry} (he : e ∈ (s.core core).sb)
    (harr : ∀ m ∈ (s.core core).arr.queue ++ (s.core core).arr.run.toList, e.id ∉ m.sbIds)
    (hcopy : ∀ c ∈ s.clusters, ∀ m ∈ c.2.copies ++ c.2.timed ++ c.2.waiting, e.id ∉ m.sbIds)
    (hhalt : (s.clu (cluOfCore core)).halted = false) :
    exec (.scoreboardRetire core e.id) s = .next ((List.range 8).foldl (unboardOne core)
      (s.setCore core { s.core core with sb := (s.core core).sb.filter (fun x => x.id != e.id) })) := by
  have hcmds : ((s.core core).arr.queue ++ (s.core core).arr.run.toList).any (fun m => m.sbIds.contains e.id) = false :=
    List.any_eq_false.mpr fun m hm => by simpa using harr m hm
  have hcopies : s.clusters.any (fun c => (c.2.copies ++ c.2.timed ++ c.2.waiting).any (fun m => m.sbIds.contains e.id)) = false :=
    List.any_eq_false.mpr fun c hc => (Bool.not_eq_true _).mpr <| List.any_eq_false.mpr fun m hm => by simpa using hcopy c hc m hm
  have hlisted : (s.core core).sb.any (fun x => x.id == e.id) = true := List.any_eq_true.mpr ⟨e, he, beq_self_eq_true _⟩
  change execScoreboardRetire core e.id s = _
  simp only [execScoreboardRetire, hcmds, hcopies, hhalt, hlisted, Bool.or_self, Bool.not_true, Bool.false_eq_true, if_false]
  rfl

theorem scoreboardRetired {s : State} {core : Nat} {e : SbEntry} (he : e ∈ (s.core core).sb)
    (harr : ∀ m ∈ (s.core core).arr.queue ++ (s.core core).arr.run.toList, e.id ∉ m.sbIds)
    (hcopy : ∀ c ∈ s.clusters, ∀ m ∈ c.2.copies ++ c.2.timed ++ c.2.waiting, e.id ∉ m.sbIds)
    (hhalt : (s.clu (cluOfCore core)).halted = false) :
    ∃ t, exec (.scoreboardRetire core e.id) s = .next t ∧ t.mem = s.mem ∧
      (t.core core).sb = (s.core core).sb.filter (fun x => x.id != e.id) ∧
      ∀ n, n < 8 → t.strand core n = (s.strand core n).unboarded := by
  refine ⟨_, exec_scoreboardRetire he harr hcopy hhalt, ?_, ?_, fun n hn => ?_⟩
  · exact foldl_keeps _ State.mem (unboardOne_mem core) _ _
  · rw [core_congr (foldl_keeps _ State.cores (unboardOne_cores core) _ _), State.setCore_core]
  · obtain ⟨u, hu, hfold⟩ := foldl_place (get := fun t n => t.strand core n) (fun t a b hb => unboardOne_other core t hb)
      List.nodup_range (List.mem_range.mpr hn)
      (s.setCore core { s.core core with sb := (s.core core).sb.filter (fun x => x.id != e.id) })
    dsimp only at hu hfold
    rw [hfold, unboardOne_self, hu]
    rfl

/-- Settles O36: the cores of a ring are different, so each takes its own part of what they commit or lose together. -/
theorem ringsCommitTogetherAndScoreboardEntriesRetire : Obligations.RingsCommitTogetherAndScoreboardEntriesRetire := by
  intro s core
  refine ⟨fun k hown => ⟨fun h => ?ring, fun h => ?step, fun hdone ⟨m, hrun, hrings⟩ hlate hcs => ?timeout⟩,
    fun e => scoreboardRetired⟩
  case ring =>
    obtain ⟨t, hexec, hmem, hstrands, harr⟩ := ringEstablished hown h
    refine ⟨t, hexec, hmem, hstrands, fun c hc => ?_⟩
    rw [harr c hc]
    exact ⟨rfl, rfl, rfl, rfl⟩
  case step =>
    obtain ⟨t, hexec, hmem, hstrands, harr⟩ := stepCommitted hown
      (fun c hc => ⟨(h c hc).1, (h c hc).2.1⟩) (fun c hc => (h c hc).2.2)
    refine ⟨t, hexec, hmem, hstrands, fun c hc => ?_⟩
    obtain ⟨-, -, m, g, rag, kind, ty, sa, sm, hrun, hdec⟩ := h c hc
    have hrotated := (harr c hc).trans (ringArr_mma hrun hdec _)
    refine ⟨?_, ?_, ?_, ?_, fun m' g' rag' kind' ty' sa' sm' hrun' hdec' => ?_⟩
    case refine_5 => rw [(harr c hc).trans (ringArr_mma hrun' hdec' _), MArray.rotated]
    all_goals rw [hrotated, MArray.rotated]
  case timeout =>
    obtain ⟨hcommit, hexec⟩ := pairTimedOut hown hdone hrun hlate hcs
    have hself := gangFail_arr (culprit := core) (notify := ringOf s core k) cPAIR_TIMEOUT
      (ringOf_nodup s core k) (mem_ringOf s core k) (gangOwner_live hown)
    refine ⟨hcommit, _, hexec, ?_, ?_, fun c hc ⟨n, j, hn, htask, hlaunch, hring⟩ => ?_⟩
    · rw [hself, MArray.drop, MArray.reshadow]
      simp [hrun, hrings]
    · rw [hself, MArray.drop, MArray.reshadow]
    · rw [gangFail_arr _ (ringOf_nodup s core k) hc (gangLive_of_task hn htask hlaunch hring), MArray.drop, MArray.reshadow]

end Sys2Proof.Machine

/-! ### An SC write of a cluster that does not exist (O55; 01 R12, 08 R173) -/

namespace Sys2Proof.Machine

open Sys2Proof

section SoleLine

variable {s : State} {who key k : Nat} {l : CLine}

/-- In a full cache all of whose places list one line, room for another line is made by dropping that line, whatever the free
value that chooses. -/
theorem roomIn_of_soleLine (hwho : who < 192) (hfull : (s.clu (cluOfIndex who)).lines = List.replicate cluLines (k, l))
    (hkey : key ≠ k) : roomIn s who key = dropLine s.free.2 who k := by
  have hkeys : (s.clu (cluOfIndex who)).lines.map (·.1) = List.replicate cluLines k := by rw [hfull, List.map_replicate]
  have habsent : (List.replicate cluLines k).contains key = false := by simp [hkey]
  have hvictim (n : Nat) : (List.replicate cluLines k).getD (n % cluLines) 0 = k := by
    rw [List.getD_eq_getElem _ 0 (by rw [List.length_replicate]; exact Nat.mod_lt _ (by decide)), List.getElem_replicate]
  simp only [roomIn, hwho, hkeys, habsent, List.length_replicate, if_true, hvictim, Nat.lt_irrefl, decide_false, Bool.or_self,
    Bool.false_eq_true, if_false]

/-- Dropping a CP line changes memory by its writeback alone. -/
theorem dropLine_cp_mem (hwho : who < 192) (hline : fget? (s.clu (cluOfIndex who)).lines key = some l) (hcp : l.attr = .cp) :
    (dropLine s who key).mem = (cpWriteBack s (key / 4) l).mem := by
  simp only [dropLine, Nat.not_le.mpr hwho, hline, hcp, if_true, if_false, reduceCtorEq]
  exact softLeave_keeps State.mem (fun _ _ => rfl) ..

end SoleLine

theorem homePut_mem_of_untracked {s : State} {pa : Nat} {bs : List (Option Byte)} (hpa : physOk pa = true)
    (hline : tracked s (lineOf pa) = false) : (homePut s pa bs).mem = homePut.putOpt s.mem pa bs := by
  simp only [homePut, untrack, hpa, hline, Bool.not_true, Bool.false_eq_true, if_false]
  split <;> rfl

/-- A cluster's SC copy of a line takes a write; memory changes only by the room that is made for the line. -/
theorem scUpdate_mem {s : State} {clu pa : Nat} {l : CLine} (bs : List (Option Byte))
    (hline : cluLine s clu 1 (lineOf pa) = some l) :
    (scUpdate s clu pa bs).mem = (roomIn s (cluIndex clu) (lineKey 1 (lineOf pa))).mem := by
  simp only [scUpdate, hline]
  rfl

theorem markDone_mem (s : State) (p : Posted) : (markDone s p).mem = s.mem := rfl

theorem exec_scWriteAtHome {s : State} {p : Posted} (hposted : s.posted = [p]) (hfirst : postedFirst s p = true)
    (hkind : p.kind = .sc) (hop : p.op = .st) (hdone : p.done = false) (hbusy : lineBusy s (lineOf p.key) = false)
    (hline : tracked s (lineOf p.key) = false) :
    exec (.scWriteAtHome p.id) s = .next (markDone (scUpdate (homePut s p.key p.data) p.clu p.key p.data) p) := by
  change execScWriteAtHome p.id s = _
  simp [execScWriteAtHome, performPosted, doPosted, untrack, applyWord, hposted, hfirst, hkind, hop, hdone, hbusy, hline]

/-- A one-byte SC write to the first line of HBM4E of cluster 48, which no die has: die 0 ends at cluster 47. -/
def strayWrite : Posted :=
  { id := 0, core := 0, slot := 0, clu := 48, kind := .sc, key := 0x10000000000, op := .st, data := [some 1#8], done := false,
    vis := 0 }

/-- Cluster 48's copy of that line. -/
def strayLine : CLine := { attr := .sc, st := .i, td := 0, tv := 0, ts := 0, dirty := 0, data := List.replicate 128 0#8 }

/-- A CP line whose first byte has been written and not written back. -/
def dirtyCpLine : CLine := { attr := .cp, st := .i, td := 0, tv := 0, ts := 0, dirty := 1, data := List.replicate 128 1#8 }

/-- The line after the one that the write is to, under CP. -/
def victimKey : Nat := lineKey 2 (0x10000000000 / 128 + 1)

/-- The stray write is posted; the cache of cluster 64, the cluster of index 48, is full of the dirty CP line. -/
def strayState : State :=
  { State.reset with
    posted := [strayWrite]
    clusters := [(48, { Cluster.init with lines := [(lineKey 1 (lineOf strayWrite.key), strayLine)] }),
      (64, { Cluster.init with lines := List.replicate cluLines (victimKey, dirtyCpLine) })] }

/-- The stray write's byte put at its home. -/
def strayPut : State := homePut strayState strayWrite.key strayWrite.data

theorem strayPut_clusters : strayPut.clusters = strayState.clusters := rfl

theorem strayPut_mem : strayPut.mem = writeByte [] strayWrite.key 1#8 :=
  homePut_mem_of_untracked (by decide) (by decide)

/-- What the victim's writeback puts at its home: its first byte. -/
theorem dirtyCpLine_bytes :
    (List.range 128).map (fun i => if bitN dirtyCpLine.dirty i then dirtyCpLine.data[i]? else none) =
      [1#8].map some ++ (List.replicate 127 none ++ []) := by
  decide +kernel

/-- The update of the stray copy writes the victim back. -/
theorem strayUpdate_mem : (scUpdate strayPut strayWrite.clu strayWrite.key strayWrite.data).mem =
    writeByte strayPut.mem (128 * (victimKey / 4)) 1#8 := by
  have hcopy : cluLine strayPut 48 1 (lineOf strayWrite.key) = some strayLine := rfl
  have hfull : (strayPut.clu (cluOfIndex 48)).lines = List.replicate cluLines (victimKey, dirtyCpLine) := by
    rw [State.clu, strayPut_clusters]
    rfl
  have hline : fget? (strayPut.free.2.clu (cluOfIndex 48)).lines victimKey = some dirtyCpLine := by
    change fget? (strayPut.clu (cluOfIndex 48)).lines victimKey = _
    rw [hfull, cluLines, List.replicate_succ, fget?, if_pos rfl]
  calc (scUpdate strayPut strayWrite.clu strayWrite.key strayWrite.data).mem
      = (roomIn strayPut 48 (lineKey 1 (lineOf strayWrite.key))).mem := scUpdate_mem _ hcopy
    _ = (dropLine strayPut.free.2 48 victimKey).mem := by rw [roomIn_of_soleLine (by decide) hfull (by decide)]
    _ = (cpWriteBack strayPut.free.2 (victimKey / 4) dirtyCpLine).mem := dropLine_cp_mem (by decide) hline rfl
    _ = homePut.putOpt strayPut.mem (128 * (victimKey / 4)) ([1#8].map some ++ (List.replicate 127 none ++ [])) := by
      rw [← dirtyCpLine_bytes, cpWriteBack, if_neg (by decide), homePut_mem_of_untracked (by decide) (by rfl)]
      rfl
    _ = writeByte strayPut.mem (128 * (victimKey / 4)) 1#8 := by
      rw [putOpt_somes, putOpt_nones]
      rfl

/-- Refutes O55: the clause on an SC write lets the write come from any cluster number. For 48, which names no cluster, `scUpdate`
finds the copy under 48 and makes room in the cache of the cluster of index 48, which is cluster 64: a dirty CP line of another
page is written back, beside the bytes of the write. -/
theorem not_shootdownsSideLogsAndHomes : ¬ Obligations.ShootdownsSideLogsAndHomes := by
  unfold Obligations.ShootdownsSideLogsAndHomes
  rintro ⟨-, -, h⟩
  obtain ⟨-, -, hwrite, -⟩ := h strayState 0 0 0 0 strayWrite.id .read [] { code := 0, data := [] } strayWrite [1#8] 0 .i
  obtain ⟨t, hexec, -, -, hframe⟩ :=
    hwrite rfl (by decide) rfl rfl rfl rfl (by decide) (by decide) (by decide) rfl
  rw [exec_scWriteAtHome rfl (by decide) rfl rfl rfl (by decide) (by decide)] at hexec
  injection hexec with ht
  have hmem : t.mem = writeByte strayPut.mem (128 * (victimKey / 4)) 1#8 := by
    rw [← strayUpdate_mem, strayPut, ← ht, markDone_mem]
  have hbefore := hframe (128 * (victimKey / 4)) (.inr (by decide))
  rw [hmem, readByte_writeByte, if_pos rfl] at hbefore
  exact absurd hbefore (by decide)

end Sys2Proof.Machine

/-! ### Near loads, stores and atomics (O20 to O22; 06 R124; 08 R177, R184; 16 R348 to R350, R357; 17 R385; 18 R413; 19 R429) -/

namespace Sys2Proof.Machine

open Sys2Proof

theorem lookupKeys_near {s : State} {q : Ask} {p : Word} {n key : Nat} {i : Instr} (h : NearAt s q (.ptr p) n key)
    (hfirst : firstPtr s i = some p) : lookupKeys s i = [] := by
  obtain ⟨hplace, -, -⟩ := h
  rw [placed] at hplace
  unfold lookupKeys
  split
  · rfl
  · next hkept =>
    rw [if_neg hkept, resolve] at hplace
    have htag : fld p 63 60 ≠ 0 := resolvePtr_bank hplace (List.mem_singleton_self _) rfl
    split
    case h_8 => simp only [hfirst, Option.any_some, htag, decide_false, Bool.false_eq_true, if_false]
    all_goals nomatch hfirst

/-- A scalar access to near memory issues wherever its guard is true and its registers hold no soft error. -/
theorem issue_near {s : State} {g : Guard} {i : Instr} {q : Ask} {p : Word} {n key : Nat} (op : State → Res) (h : s.guarded g)
    (near : NearAt s q (.ptr p) n key) (hfirst : firstPtr s i = some p) (hg : i.guard? = some g) (hr : i.vregs = [])
    (hv : vsrcs i = []) (hp : psrcs i = []) (hk : keptKeys s i = []) :
    issue i g op s = .next (settle s ((encodeTile i).getD 0) (op s)) :=
  issue_guarded op h hg hr hv hp hk (lookup_nothing (lookupKeys_near near hfirst))

theorem settle_wait_parkedOn {s t : State} (i : Instr) (kind : BitVec 4) (ph : Phase) (hcur : t.cur = s.cur) :
    settle s ((encodeTile i).getD 0) (.wait kind ph t) = t.parkedOn i kind ph := by
  rw [settle_wait, State.parkedOn, State.coreId, State.slotId, State.at, ← hcur]
  rfl

/-- An access that ends in an acquire parks for the counts only where the scope has instances (R177). -/
theorem settle_thenAcquire {s t : State} (i : Instr) (acq : Option Scope) (hcur : t.cur = s.cur) (hq : t.quiet) :
    settle s ((encodeTile i).getD 0) (thenAcquire acq t) =
      if acq = none ∨ acq = some .cor ∨ acq = some .clu then t.gone else t.parkedOn i 0 .acquire := by
  rcases acq with - | (- | - | - | - | -)
  case none | some.cor | some.clu => exact settle_done_gone _ hcur hq
  all_goals exact settle_wait_parkedOn i 0 .acquire hcur

/-- Bytes put in local memory leave the issuing strand as it is. -/
theorem memPut_keeps {s : State} (hq : s.quiet) (key : Nat) (bs : List Byte) :
    (memPut s key bs).cur = s.cur ∧ (memPut s key bs).quiet := ⟨rfl, hq⟩

theorem settle_memPut_done {s : State} (hq : s.quiet) (w : Word) (key : Nat) (bs : List Byte) :
    settle s w (.done (memPut s key bs)) = (memPut s key bs).gone := by
  obtain ⟨hcur, hquiet⟩ := memPut_keeps hq key bs
  exact settle_done_gone w hcur hquiet

/-- Settles O20: the load writes its register at issue, and its acquire decides how it ends. -/
theorem nearLoadsExtendTheBytesRead : Obligations.NearLoadsExtendTheBytesRead := by
  intro s g u sz acq sd sa sb imm sc key hg hq n q after
  have hload (i : Instr) (p : Word) (near : NearAt s q (.ptr p) n key) :
      settle s ((encodeTile i).getD 0) (loadAt u n acq sd (.ptr p) none s) = after i := by
    rw [loadAt_near u sd near, loadVal_one _ _ _ _ (sizeBytes_cases sz)]
    exact settle_thenAcquire i acq rfl (quiet_wS hq ..)
  refine ⟨fun near => ?_, fun near => ?_⟩
  · rw [← hload _ _ near]
    exact issue_near (i := .ld g u sz acq sd sa imm) (opLd u sz acq sd sa imm none) hg near rfl rfl rfl rfl rfl rfl
  · rw [← mul_pow_shift] at near
    rw [← hload _ _ near]
    exact issue_near (i := .ldIndexed g u sz acq sd (.gen sa sb sc)) (opLdIndexed u sz acq sd (.gen sa sb sc) none) hg near
      rfl rfl rfl rfl rfl rfl

/-- Settles O21: the store puts its bytes at issue and ends. -/
theorem nearStoresWriteTheirBytes : Obligations.NearStoresWriteTheirBytes := by
  intro s g sz rl sd sa sb imm sc key hg hq hrel n t q
  have hstore (w p : Word) (near : NearAt s q (.ptr p) n key) : settle s w (storeAt n rl sd (.ptr p) none s) = t.gone := by
    rw [storeAt_near sd near hrel, settle_memPut_done hq]
  refine ⟨fun near => ?_, fun near => ?_, ?_, fun a ha => ?_⟩
  · rw [← hstore _ _ near]
    exact issue_near (i := .st g sz rl sd sa imm) (opSt sz rl sd sa imm none) hg near rfl rfl rfl rfl rfl rfl
  · rw [← mul_pow_shift] at near
    rw [← hstore _ _ near]
    exact issue_near (i := .stIndexed g sz rl sd (.gen sa sb sc)) (opStIndexed sz rl sd (.gen sa sb sc) none) hg near
      rfl rfl rfl rfl rfl rfl
  · have hread := memGet_memPut s key (toBytes n (s.rS sd).toNat)
    rw [toBytes_length] at hread
    rw [hread, fromBytes_toBytes]
  · exact readByte_memPut_outside s key _ a (by rwa [toBytes_length])

/-! What an atomic puts in memory, in terms of the operands as bit vectors. -/

section Operand

variable (s : State) (key n : Nat)

/-- The operand of an atomic in memory, as a bit vector. -/
def memOperand : BitVec (8 * n) := BitVec.ofNat (8 * n) (fromBytes (memGet s key n))

/-- The operand of an atomic in a register. -/
def regOperand (r : SReg) : BitVec (8 * n) := (s.rS r).setWidth (8 * n)

theorem memOperand_toNat : (memOperand s key n).toNat = fromBytes (memGet s key n) := by
  have hlt := fromBytes_lt (memGet s key n)
  rw [memGet, readBytes_length] at hlt
  rw [memOperand, BitVec.toNat_ofNat]
  exact Nat.mod_eq_of_lt hlt

theorem regOperand_toNat (r : SReg) : (regOperand s n r).toNat = lowBytes s r n := BitVec.toNat_setWidth ..

theorem intOp_operands (op : IntOp) (hn : 0 < n) (r : SReg) :
    intOp op n (fromBytes (memGet s key n)) (lowBytes s r n) = (atomicNew op (memOperand s key n) (regOperand s n r)).toNat := by
  rw [← intOp_eq_atomicNew op n hn, memOperand_toNat, regOperand_toNat]

theorem fromBytes_memGet_eq_lowBytes (r : SReg) :
    fromBytes (memGet s key n) = lowBytes s r n ↔ memOperand s key n = regOperand s n r := by
  rw [← memOperand_toNat, ← regOperand_toNat, BitVec.toNat_inj]

theorem sextN_operand (hn : 0 < n) (h8 : n ≤ 8) :
    sextN (8 * n) (fromBytes (memGet s key n)) = (memOperand s key n).signExtend 64 :=
  sextN_eq _ _ (by omega) (by omega)

end Operand

section Atomic

variable {s : State} {p : Word} {n key : Nat} {ord : MemOrd} (sd sb : SReg) (hpos : 0 < n)
include hpos

theorem amoAt_near (op : IntOp) (hle : n ≤ 8) (near : NearAt s (askAtomic n) (.ptr p) n key)
    (hrel : ordRel ord = none ∨ s.me.prel = true) :
    atomicAt n ord (.ptr p) (fun old => some (intOp op n old (lowBytes s sb n))) (fun old s => s.wS sd (sextN (8 * n) old)) none s =
    thenAcquire (ordAcq ord) ((memPut s key (toBytes n (atomicNew op (memOperand s key n) (regOperand s n sb)).toNat)).wS sd
      ((memOperand s key n).signExtend 64)) := by
  rw [atomicAt_near _ _ near hrel, Option.map_some, Option.getD_some, intOp_operands _ _ _ _ hpos, sextN_operand _ _ _ hpos hle]

theorem casAt_near (sc : SReg) (hle : n ≤ 8) (near : NearAt s (askAtomic n) (.ptr p) n key)
    (hrel : ordRel ord = none ∨ s.me.prel = true) :
    atomicAt n ord (.ptr p) (fun old => if old = lowBytes s sb n then some (lowBytes s sc n) else none)
      (fun old s => s.wS sd (sextN (8 * n) old)) none s =
    thenAcquire (ordAcq ord) ((if memOperand s key n = regOperand s n sb then memPut s key (toBytes n (regOperand s n sc).toNat)
      else s).wS sd ((memOperand s key n).signExtend 64)) := by
  rw [atomicAt_near _ _ near hrel, sextN_operand _ _ _ hpos hle]
  by_cases heq : memOperand s key n = regOperand s n sb
  · rw [if_pos ((fromBytes_memGet_eq_lowBytes ..).mpr heq), if_pos heq, regOperand_toNat]
    rfl
  · rw [if_neg (mt (fromBytes_memGet_eq_lowBytes ..).mp heq), if_neg heq]
    rfl

theorem redAt_near (op : IntOp) (d : Bool) (hd : n = if d then 8 else 4) {rl : Option Scope}
    (near : NearAt s (askReduce n) (.ptr p) n key) (hrel : rl = none ∨ s.me.prel = true) :
    reduceAt n rl (.ptr p) (.red op d) sb none s =
      .done (memPut s key (toBytes n (atomicNew op (memOperand s key n) (regOperand s n sb)).toNat)) := by
  rw [reduceAt_near _ _ near hrel, StoreOp.apply, ← hd, intOp_operands _ _ _ _ hpos]

end Atomic

section Issued

variable {s : State} {g : Guard} {q : Ask} {sa : SReg} {n key : Nat} (h : s.guarded g) (near : NearAt s q (.ptr (s.rS sa)) n key)
include h near

theorem exec_amo_near (op : IntOp) (d : Bool) (ord : MemOrd) (sd sb : SReg) : exec (.amo g op d ord sd (.gen sa) sb) s =
    .next (settle s ((encodeTile (.amo g op d ord sd (.gen sa) sb)).getD 0) (opAmo op d ord sd (.gen sa) sb none s)) :=
  issue_near (i := .amo g op d ord sd (.gen sa) sb) (opAmo op d ord sd (.gen sa) sb none) h near rfl rfl rfl rfl rfl rfl

theorem exec_cas_near (d : Bool) (ord : MemOrd) (sd sb sc : SReg) : exec (.cas g d ord sd sa sb sc) s =
    .next (settle s ((encodeTile (.cas g d ord sd sa sb sc)).getD 0) (opCas d ord sd sa sb sc none s)) :=
  issue_near (i := .cas g d ord sd sa sb sc) (opCas d ord sd sa sb sc none) h near rfl rfl rfl rfl rfl rfl

theorem exec_amof_near (op : FloatOp) (ord : MemOrd) (sd sb : SReg) : exec (.amof g op ord sd (.gen sa) sb) s =
    .next (settle s ((encodeTile (.amof g op ord sd (.gen sa) sb)).getD 0) (opAmof op ord sd (.gen sa) sb none s)) :=
  issue_near (i := .amof g op ord sd (.gen sa) sb) (opAmof op ord sd (.gen sa) sb none) h near rfl rfl rfl rfl rfl rfl

theorem exec_red_near (op : IntOp) (d : Bool) (rl : Option Scope) (sb : SReg) : exec (.red g op d rl (.gen sa) sb) s =
    .next (settle s ((encodeTile (.red g op d rl (.gen sa) sb)).getD 0) (opRed op d rl (.gen sa) sb none s)) :=
  issue_near (i := .red g op d rl (.gen sa) sb) (opRed op d rl (.gen sa) sb none) h near rfl rfl rfl rfl rfl rfl

theorem exec_redf_near (op : FloatOp) (rl : Option Scope) (sb : SReg) : exec (.redf g op rl (.gen sa) sb) s =
    .next (settle s ((encodeTile (.redf g op rl (.gen sa) sb)).getD 0) (opRedf op rl (.gen sa) sb none s)) :=
  issue_near (i := .redf g op rl (.gen sa) sb) (opRedf op rl (.gen sa) sb none) h near rfl rfl rfl rfl rfl rfl

end Issued

/-- Settles O22: each form exchanges its bytes at issue; those with an acquire then park for it. -/
theorem nearAtomicsExchange : Obligations.NearAtomicsExchange := by
  intro s g d ord rl sd sa sb sc key hg hq rd acq after n old low old4 put putF
  have hpos : 0 < n := by cases d <;> decide
  have hle : n ≤ 8 := by cases d <;> decide
  have hacquired (i : Instr) (t : State) (w : Word) (ht : t.cur = s.cur ∧ t.quiet) :
      settle s ((encodeTile i).getD 0) (thenAcquire (ordAcq ord) (t.wS sd w)) = after i (t.wS sd w) :=
    settle_thenAcquire i _ ht.1 (quiet_wS ht.2 ..)
  refine ⟨fun hrel near => ⟨fun op => ?amo, ?cas⟩, fun hrel near op => ?red, fun hrel near op => ?amof, fun hrel near op => ?redf⟩
  case amo =>
    have hop : opAmo op d ord sd (.gen sa) sb none s = thenAcquire (ordAcq ord)
        ((put (atomicNew op old (low sb)).toNat).wS sd (old.signExtend 64)) := amoAt_near sd sb hpos op hle near hrel
    rw [exec_amo_near hg near, hop, hacquired _ _ _ (memPut_keeps hq ..)]
  case cas =>
    have hop : opCas d ord sd sa sb sc none s = thenAcquire (ordAcq ord)
        ((if old = low sb then put (low sc).toNat else s).wS sd (old.signExtend 64)) := casAt_near sd sb hpos sc hle near hrel
    have ht : (if old = low sb then put (low sc).toNat else s).cur = s.cur ∧
        (if old = low sb then put (low sc).toNat else s).quiet := by
      split
      · exact memPut_keeps hq ..
      · exact ⟨rfl, hq⟩
    rw [exec_cas_near hg near, hop, hacquired _ _ _ ht]
  case red =>
    have hop : opRed op d rl (.gen sa) sb none s = .done (put (atomicNew op old (low sb)).toNat) :=
      redAt_near sb hpos op d rfl near hrel
    rw [exec_red_near hg near, hop, settle_memPut_done hq]
  case amof =>
    have hop : opAmof op ord sd (.gen sa) sb none s = thenAcquire (ordAcq ord) ((putF op).wS sd (w64 old4)) :=
      atomicAt_near _ _ near hrel
    rw [exec_amof_near hg near, hop, hacquired _ _ _ (memPut_keeps hq ..)]
  case redf =>
    have hop : opRedf op rl (.gen sa) sb none s = .done (putF op) := reduceAt_near _ _ near hrel
    rw [exec_redf_near hg near, hop, settle_memPut_done hq]

end Sys2Proof.Machine

/-! ### Releases and acquires (O43; 08 R176, R177; 16 R346, R366; 18 R414; 19 R434) -/

namespace Sys2Proof.Machine

open Sys2Proof

section Release

variable {s : State} {sc : Scope}

theorem releaseReady_no_flush (h : ReleaseReady s sc) :
    ((sc = .dev || sc = .sys) && cpDirty s (cluOfCore s.coreId)) = false := by
  obtain ⟨-, -, -, hclean⟩ := h
  rw [Bool.and_eq_false_imp]
  intro hsc
  have hsc : sc = .dev ∨ sc = .sys := by simpa using hsc
  exact List.any_eq_false.mpr fun e he => by simpa using hclean hsc e he

/-- A release of a strand that still has a write to be acknowledged does nothing (R176 step 1). -/
theorem tryRelease_unready (hptime : s.me.ptime = 0) (hready : releaseReady s s.coreId s.slotId sc = false) :
    tryRelease s s.coreId s.slotId sc = (s, false) := by
  simp only [tryRelease, State.strand_me, hptime, hready, decide_true, Bool.not_false, Bool.and_self, if_true]

/-- A release whose timestamp has not come keeps it (R176 step 3). -/
theorem tryRelease_early (h : ReleaseReady s sc) (hearly : ccnt s < holdUntil s sc) :
    tryRelease s s.coreId s.slotId sc =
      (s.setMe { s.me with ptime := releaseTime s s.coreId s.slotId sc 0 + 1 }, false) := by
  have hflush := releaseReady_no_flush h
  obtain ⟨-, hptime, hready, -⟩ := h
  unfold tryRelease
  simp only [State.strand_me, hptime, hready, decide_true, Bool.true_and, Bool.not_true, Bool.false_eq_true, hflush, if_true, if_false]
  have hhold : ¬ releaseHold s s.coreId s.slotId sc (releaseTime s s.coreId s.slotId sc 0) ≤ ccnt s := Nat.not_le.mpr hearly
  rw [if_neg hhold]
  rfl

theorem afterRelease_parks {t : State} (k : State → Res) (hprel : s.me.prel = false)
    (h : tryRelease s s.coreId s.slotId sc = (t, false)) : afterRelease (some sc) s k = .wait 0 .release t := by
  simp only [afterRelease, afterReleaseAt, hprel, h, Bool.false_eq_true, if_false, State.keepPlaces]

theorem releasedState_cur : (releasedState s sc).cur = s.cur := publish_cur ..

theorem releasedState_me : (releasedState s sc).me = s.me := by
  rw [releasedState, State.me, publish_strands, State.meKey, State.at, publish_cur]
  rfl

theorem releasedState_quiet (hq : s.quiet) : (releasedState s sc).quiet := by
  rw [State.quiet, releasedState_me]
  exact hq

end Release

/-- The issuing strand with its release noted as done, or as not. -/
def State.setPrel (s : State) (b : Bool) : State := s.setMe { s.me with prel := b }

theorem gone_setPrel (s : State) (b : Bool) : (s.setPrel b).gone = s.gone := by
  simp only [State.gone, State.goneTo, State.setPrel, State.setMe_me, State.setMe_setMe]
  rfl

theorem released_setPrel (s : State) (sc : Scope) :
    (releasedState s sc).setMe { s.me with prel := true } = (releasedState s sc).setPrel true := by
  rw [State.setPrel, releasedState_me]

theorem quiet_setPrel {s : State} (b : Bool) (hq : s.quiet) : (s.setPrel b).quiet := quiet_setMe hq rfl rfl

/-- A completed release of the issuing strand, after which its instruction ends. -/
theorem settle_setPrel_done {s t : State} (w : Word) (b : Bool) (hcur : t.cur = s.cur) (hq : t.quiet) :
    settle s w (.done (t.setPrel b)) = t.gone := by
  rw [settle_done_gone (s' := t.setPrel b) w hcur (quiet_setPrel b hq), gone_setPrel]

/-! The instances of a scope. -/

theorem dieId_lt {s : State} (h : coreExists s.coreId = true) : s.dieId < 4 := by
  simp only [coreExists, Bool.and_eq_true, decide_eq_true_eq] at h
  simp only [State.dieId, dieOfCore]
  omega

theorem dieOfClu_cluId (s : State) : dieOfClu s.cluId = s.dieId := by
  simp only [State.cluId, State.dieId, dieOfClu, cluOfCore, dieOfCore]
  omega

section Scopes

variable {sc : Scope} {die : Nat}

theorem scopeInsts_nodup (h : die < 4) : (scopeInsts sc die).Nodup := by
  cases sc <;> simp [scopeInsts] <;> omega

theorem mem_scopeInsts_die : die ∈ scopeInsts sc die ↔ ¬ (sc = .cor ∨ sc = .clu) := by
  cases sc <;> simp [scopeInsts]

theorem mem_scopeInsts_dev (h : die < 4) : 4 ∈ scopeInsts sc die ↔ sc = .dev ∨ sc = .sys := by
  have hne : 4 ≠ die := by omega
  cases sc <;> simp [scopeInsts, hne]

theorem mem_scopeInsts_sys (h : die < 4) : 5 ∈ scopeInsts sc die ↔ sc = .sys := by
  have hne : 5 ≠ die := by omega
  cases sc <;> simp [scopeInsts, hne]

end Scopes

theorem publish_one_scope (s : State) (t i n : Nat) : (publish s t [i]).scope n =
    if i = n then { ts := max (s.scope i).ts t, gen := ((s.scope i).gen + 1) % 2 ^ 32 } else s.scope n := fget_fset ..

/-- A publication raises each of its instances once and leaves every other (R176 steps 4 and 5). -/
theorem publish_scope (s : State) (t : Nat) {is : List Nat} (hnodup : is.Nodup) (n : Nat) :
    (publish s t is).scope n =
      if n ∈ is then { ts := max (s.scope n).ts t, gen := ((s.scope n).gen + 1) % 2 ^ 32 } else s.scope n := by
  induction is generalizing s with
  | nil => rfl
  | cons i is ih =>
    obtain ⟨hi, hnodup⟩ := List.nodup_cons.mp hnodup
    change (publish (publish s t [i]) t is).scope n = _
    rw [ih _ hnodup, publish_one_scope]
    by_cases hn : i = n
    · subst hn
      simp [hi]
    · simp [hn, Ne.symm hn]

/-! The counts that an acquire reads (R177). -/

/-- A cluster with the counts of a scope's instances read into its view. -/
def readCounts (s : State) (sc : Scope) (die : Nat) (c : Cluster) : Cluster :=
  { c with
    vd := if (scopeInsts sc die).contains die then viewMax c.vd (s.scope die).gen else c.vd,
    vv := if (scopeInsts sc die).contains 4 then viewMax c.vv (s.scope 4).gen else c.vv,
    vs := if (scopeInsts sc die).contains 5 then viewMax c.vs (s.scope 5).gen else c.vs }

section Counts

variable {s : State} {sc : Scope} {die : Nat} (c : Cluster)

theorem readCounts_vd : (readCounts s sc die c).vd = if sc = .cor ∨ sc = .clu then c.vd else viewMax c.vd (s.scope die).gen := by
  simp only [readCounts, List.contains_iff_mem, mem_scopeInsts_die, ite_not]

variable (hdie : die < 4)
include hdie

theorem readCounts_vv : (readCounts s sc die c).vv = if sc = .dev ∨ sc = .sys then viewMax c.vv (s.scope 4).gen else c.vv := by
  simp only [readCounts, List.contains_iff_mem, mem_scopeInsts_dev hdie]

theorem readCounts_vs : (readCounts s sc die c).vs = if sc = .sys then viewMax c.vs (s.scope 5).gen else c.vs := by
  simp only [readCounts, List.contains_iff_mem, mem_scopeInsts_sys hdie]

end Counts

/-- Some field of a cluster's view is 8 ahead of its base. -/
def Cluster.viewIsFar (c : Cluster) : Bool := viewFar c.vd c.bd || viewFar c.vv c.bv || viewFar c.vs c.bs

/-- The SC lines discarded if the view has gone too far. -/
def refreshSc (c : Cluster) : Cluster := if c.viewIsFar then flashInvalidate c else c

/-- The clean CP lines discarded at the scopes that discard them (R180). -/
def dropCleanCp (sc : Scope) (c : Cluster) : Cluster :=
  if sc = .dev || sc = .sys then { c with lines := c.lines.filter (fun e => !(e.2.attr == .cp && e.2.dirty == 0)) } else c

theorem acquireAt_clu (s : State) (clu : Nat) (sc : Scope) :
    (acquireAt s clu sc).clu clu = dropCleanCp sc (refreshSc (readCounts s sc (dieOfClu clu) (s.clu clu))) :=
  State.setClu_clu ..

theorem refreshSc_view (c : Cluster) : (refreshSc c).vd = c.vd ∧ (refreshSc c).vv = c.vv ∧ (refreshSc c).vs = c.vs := by
  rw [refreshSc]
  split <;> exact ⟨rfl, rfl, rfl⟩

theorem dropCleanCp_view (sc : Scope) (c : Cluster) :
    (dropCleanCp sc c).vd = c.vd ∧ (dropCleanCp sc c).vv = c.vv ∧ (dropCleanCp sc c).vs = c.vs := by
  rw [dropCleanCp]
  split <;> exact ⟨rfl, rfl, rfl⟩

theorem refreshSc_far {c : Cluster} (h : c.viewIsFar = true) : ∀ e ∈ (refreshSc c).lines, e.2.attr ≠ .sc := by
  rw [refreshSc, if_pos h]
  intro e he
  simpa using (List.mem_filter.mp he).2

theorem refreshSc_near {c : Cluster} (h : c.viewIsFar = false) : refreshSc c = c := by
  rw [refreshSc, h, if_neg Bool.false_ne_true]

theorem mem_dropCleanCp {sc : Scope} {c : Cluster} {e : Nat × CLine} (h : e ∈ (dropCleanCp sc c).lines) : e ∈ c.lines := by
  rw [dropCleanCp] at h
  split at h
  · exact List.mem_of_mem_filter h
  · exact h

theorem dropCleanCp_inner {sc : Scope} (c : Cluster) (hdev : sc ≠ .dev) (hsys : sc ≠ .sys) : dropCleanCp sc c = c := by
  simp only [dropCleanCp, hdev, hsys, decide_false, Bool.or_self, Bool.false_eq_true, if_false]

theorem viewIsFar_iff (c : Cluster) :
    c.viewIsFar = true ↔ viewFar c.vd c.bd = true ∨ viewFar c.vv c.bv = true ∨ viewFar c.vs c.bs = true := by
  rw [Cluster.viewIsFar, Bool.or_eq_true, Bool.or_eq_true, or_assoc]

section Acquire

variable (s : State) (clu : Nat) (sc : Scope)

/-- The view that an acquire leaves is the one that its counts make. -/
theorem acquireAt_view : ((acquireAt s clu sc).clu clu).vd = (readCounts s sc (dieOfClu clu) (s.clu clu)).vd ∧
    ((acquireAt s clu sc).clu clu).vv = (readCounts s sc (dieOfClu clu) (s.clu clu)).vv ∧
    ((acquireAt s clu sc).clu clu).vs = (readCounts s sc (dieOfClu clu) (s.clu clu)).vs := by
  obtain ⟨hd, hv, hs⟩ := dropCleanCp_view sc (refreshSc (readCounts s sc (dieOfClu clu) (s.clu clu)))
  obtain ⟨hd', hv', hs'⟩ := refreshSc_view (readCounts s sc (dieOfClu clu) (s.clu clu))
  rw [acquireAt_clu, hd, hv, hs]
  exact ⟨hd', hv', hs'⟩

theorem acquireAt_far (h : (readCounts s sc (dieOfClu clu) (s.clu clu)).viewIsFar = true) :
    ∀ e ∈ ((acquireAt s clu sc).clu clu).lines, e.2.attr ≠ .sc := by
  rw [acquireAt_clu]
  exact fun e he => refreshSc_far h e (mem_dropCleanCp he)

theorem acquireAt_near (h : (readCounts s sc (dieOfClu clu) (s.clu clu)).viewIsFar = false) (hdev : sc ≠ .dev) (hsys : sc ≠ .sys) :
    ((acquireAt s clu sc).clu clu).lines = (s.clu clu).lines := by
  rw [acquireAt_clu, dropCleanCp_inner _ hdev hsys, refreshSc_near h]
  rfl

end Acquire

/-! FENCE, ACQ, REL and TRIG at their issue. -/

section Issued

variable {s : State} {g : Guard} (h : s.guarded g) (sc : Scope)
include h

theorem exec_rel : exec (.rel g sc) s = .next (settle s ((encodeTile (.rel g sc)).getD 0) (opRel sc s)) :=
  issue_guarded (i := .rel g sc) (opRel sc) h rfl rfl rfl rfl rfl (lookup_nothing (by simp [lookupKeys, firstPtr]))

theorem exec_fence : exec (.fence g sc) s = .next (settle s ((encodeTile (.fence g sc)).getD 0) (opFence sc s)) :=
  issue_guarded (i := .fence g sc) (opFence sc) h rfl rfl rfl rfl rfl (lookup_nothing (by simp [lookupKeys, firstPtr]))

theorem exec_acq : exec (.acq g sc) s = .next (settle s ((encodeTile (.acq g sc)).getD 0) (opAcq sc s)) :=
  issue_guarded (i := .acq g sc) (opAcq sc) h rfl rfl rfl rfl rfl (lookup_nothing (by simp [lookupKeys, firstPtr]))

theorem exec_trig : exec (.trig g) s = .next (settle s ((encodeTile (.trig g)).getD 0) (opTrig s)) :=
  issue_guarded (i := .trig g) opTrig h rfl rfl rfl rfl rfl (lookup_nothing (by simp [lookupKeys, firstPtr]))

end Issued

/-- A FENCE or REL whose release cannot be completed parks for it. -/
theorem release_parks {s t : State} {g : Guard} {sc : Scope} (h : s.guarded g) (hprel : s.me.prel = false)
    (htry : tryRelease s s.coreId s.slotId sc = (t, false)) (hcur : t.cur = s.cur) :
    exec (.rel g sc) s = .next (t.parkedOn (.rel g sc) 0 .release) ∧
    exec (.fence g sc) s = .next (t.parkedOn (.fence g sc) 0 .release) := by
  constructor
  · rw [exec_rel h, opRel, afterRelease_parks _ hprel htry, settle_wait_parkedOn _ _ _ hcur]
  · rw [exec_fence h, opFence, afterRelease_parks _ hprel htry, settle_wait_parkedOn _ _ _ hcur]

theorem rel_due {s : State} {g : Guard} {sc : Scope} (h : s.guarded g) (hq : s.quiet) (hdue : ReleaseDue s sc) :
    exec (.rel g sc) s = .next (releasedState s sc).gone := by
  rw [exec_rel h, opRel, afterRelease_due _ hdue, released_setPrel, settle_setPrel_done _ _ releasedState_cur (releasedState_quiet hq)]

theorem fence_due {s : State} {g : Guard} {sc : Scope} (h : s.guarded g) (hdue : ReleaseDue s sc) :
    exec (.fence g sc) s = .next (settle s ((encodeTile (.fence g sc)).getD 0)
      (thenAcquire (some sc) ((releasedState s sc).setMe { s.me with prel := true }))) := by
  rw [exec_fence h, opFence, afterRelease_due _ hdue]

theorem thenAcquire_inner {sc : Scope} (s : State) (h : sc = .cor ∨ sc = .clu) : thenAcquire (some sc) s = .done s := by
  rcases h with rfl | rfl <;> rfl

theorem thenAcquire_outer {sc : Scope} (s : State) (h : ¬ (sc = .cor ∨ sc = .clu)) :
    thenAcquire (some sc) s = .wait 0 .acquire s := by
  cases sc
  case cor | clu => simp at h
  all_goals rfl

/-! The reply to a strand in a release or an acquire. -/

theorem accessReply_replyTo {s : State} {i : Instr} {ph : Phase} (r : Reply) (hcur : s.cur = .strand s.coreId s.slotId)
    (hw : Waits s s.coreId s.slotId ph i) (hph : ph ≠ .restart) :
    exec (.accessReply s.coreId s.slotId r) s = .next (replyTo i s.coreId s.slotId r s) := by
  obtain ⟨hstatus, hphase, hdec⟩ := hw
  have hself : ({ s with cur := .strand s.coreId s.slotId } : State) = s := asStrand_self hcur
  change execAccessReply s.coreId s.slotId r s = _
  simp only [execAccessReply, hstatus, hphase, hph, hdec, hself, and_false, if_true, if_false]

theorem wake_setMe {s t : State} (x : Strand) (hcur : t.cur = s.cur) :
    wake (t.setMe x) s.coreId s.slotId = t.setMe { x with status := .ready } := by
  rw [State.coreId, State.slotId, State.at, ← hcur]
  change (t.setMe x).setMe { (t.setMe x).me with status := .ready } = _
  rw [State.setMe_me, State.setMe_setMe]

/-- A release that is due is completed, and its strand issues again. -/
theorem accessReply_release {s : State} {i : Instr} {sc : Scope} (r : Reply) (hcur : s.cur = .strand s.coreId s.slotId)
    (hw : Waits s s.coreId s.slotId .release i) (hscope : relScope i = some sc) (hdue : ReleaseDue s sc) :
    exec (.accessReply s.coreId s.slotId r) s =
      .next ((releasedState s sc).setMe { s.me with prel := true, status := .ready }) := by
  rw [accessReply_replyTo r hcur hw (by decide)]
  obtain ⟨-, hphase, -⟩ := hw
  simp only [replyTo, hphase, hscope, tryRelease_due hdue]
  exact congrArg _ (wake_setMe _ releasedState_cur)

theorem acquireAt_quiet {s : State} (clu : Nat) (sc : Scope) (hq : s.quiet) : (acquireAt s clu sc).quiet := hq

/-- An acquire's reply reads the counts and completes its instruction. -/
theorem accessReply_acquire {s : State} {i : Instr} {sc : Scope} (r : Reply) (hq : s.quiet)
    (hcur : s.cur = .strand s.coreId s.slotId) (hw : Waits s s.coreId s.slotId .acquire i) (hscope : acqScope i = some sc)
    (hflds : isAcq i = false ∨ fldsOut s s.coreId s.slotId = false) :
    exec (.accessReply s.coreId s.slotId r) s = .next (acquireAt s s.cluId sc).gone := by
  have hanswered : (isAcq i && fldsOut s s.coreId s.slotId) = false := Bool.and_eq_false_iff.mpr hflds
  rw [accessReply_replyTo r hcur hw (by decide)]
  obtain ⟨-, hphase, -⟩ := hw
  simp only [replyTo, hphase, hscope, hanswered, Bool.false_eq_true, if_false]
  exact congrArg _ (retire_me (acquireAt_quiet s.cluId sc hq))

/-! The trigger of a task (R38, R434). -/

theorem countTrig_counted {s : State} {k : Task} (hk : s.me.task = some k) (htrig : k.trig = true) : countTrig s = s := by
  simp only [countTrig, hk, htrig, if_true]

/-- A launch with one more of its tasks triggered. -/
def Launch.triggered (l : Launch) : Launch :=
  { l with trigd := l.trigd + 1, met := l.met || (l.outcome == 0 && l.placed ≥ l.tasks && l.trigd + 1 ≥ l.tasks) }

/-- The launches once the issuing strand's task `k` has triggered. -/
def triggeredLaunches (s : State) (k : Task) : FMap Launch :=
  match s.launch k.launch with
  | none => s.launches
  | some l => fset s.launches k.launch l.triggered

theorem launch_setMe (s : State) (x : Strand) (k : Nat) : (s.setMe x).launch k = s.launch k := rfl

/-- The issuing strand with a task. -/
def State.setTask (s : State) (k : Task) : State := s.setMe { s.me with task := some k }

/-- The device with other launches. -/
def State.withLaunches (s : State) (ls : FMap Launch) : State := { s with launches := ls }

theorem countTrig_first {s : State} {k : Task} (hk : s.me.task = some k) (htrig : k.trig = false) :
    countTrig s = (s.setTask { k with trig := true }).withLaunches (triggeredLaunches s k) := by
  simp only [countTrig, hk, htrig, Bool.false_eq_true, if_false, triggeredLaunches, launch_setMe]
  cases s.launch k.launch <;> rfl

theorem setPrel_setTask (s : State) (b : Bool) (k : Task) : (s.setPrel b).setTask k = (s.setTask k).setPrel b := by
  simp only [State.setTask, State.setPrel, State.setMe_me, State.setMe_setMe]

/-- A trigger changes no more of its strand than the task's mark. -/
theorem countTrig_setPrel (s : State) (b : Bool) : countTrig (s.setPrel b) = (countTrig s).setPrel b := by
  have hme : (s.setPrel b).me = { s.me with prel := b } := State.setMe_me ..
  cases hk : s.me.task with
  | none => simp only [countTrig, hme, hk]
  | some k =>
    have hk' : (s.setPrel b).me.task = some k := by rw [hme]; exact hk
    cases htrig : k.trig with
    | true => rw [countTrig_counted hk htrig, countTrig_counted hk' htrig]
    | false =>
      rw [countTrig_first hk htrig, countTrig_first hk' htrig]
      exact congrArg (State.withLaunches · (triggeredLaunches s k)) (setPrel_setTask ..)

theorem countTrig_beside {s : State} (hq : s.quiet) : (countTrig s).cur = s.cur ∧ (countTrig s).quiet := by
  cases hk : s.me.task with
  | none =>
    simp only [countTrig, hk]
    exact ⟨trivial, hq⟩
  | some k =>
    cases htrig : k.trig with
    | true =>
      rw [countTrig_counted hk htrig]
      exact ⟨rfl, hq⟩
    | false =>
      rw [countTrig_first hk htrig]
      exact ⟨rfl, quiet_setMe hq rfl rfl⟩

theorem trig_due {s : State} {g : Guard} (h : s.guarded g) (hq : s.quiet) (hdue : ReleaseDue s .dev) :
    exec (.trig g) s = .next (countTrig (releasedState s .dev)).gone := by
  obtain ⟨hcur, hquiet⟩ := countTrig_beside (releasedState_quiet (sc := .dev) hq)
  rw [exec_trig h, opTrig, afterRelease_due _ hdue, released_setPrel, countTrig_setPrel,
    settle_setPrel_done _ _ (hcur.trans releasedState_cur) hquiet]

/-- Settles O43: the releases by what `tryRelease` can do, the acquires by the counts that they read. -/
theorem releasesPublishAndAcquiresRead : Obligations.ReleasesPublishAndAcquiresRead := by
  intro s g sc r i hg hq hcore core inner t c c' far
  have hdie := dieId_lt hcore
  obtain ⟨hvd, hvv, hvs⟩ := acquireAt_view s s.cluId sc
  have hfar : far ↔ (readCounts s sc (dieOfClu s.cluId) c).viewIsFar = true := by
    rw [viewIsFar_iff, ← hvd, ← hvv, ← hvs]
    rfl
  refine ⟨fun hdue => ⟨rel_due hg hq hdue, fun hinner => ?fenceInner, fun houter => ?fenceOuter,
      publish_scope s _ (scopeInsts_nodup hdie)⟩,
    fun hprel hptime hready => release_parks hg hprel (tryRelease_unready hptime hready) rfl,
    fun hready hearly => ?early, fun hcur hw hscope hdue => accessReply_release r hcur hw hscope hdue,
    fun hinner hflds => ?acqInner, fun hparks => ?acqParks,
    fun hcur hw hscope hflds => accessReply_acquire r hq hcur hw hscope hflds, ?vd, ?vv, ?vs,
    fun h => acquireAt_far _ _ _ (hfar.mp h),
    fun h hdev hsys => acquireAt_near _ _ _ (Bool.eq_false_iff.mpr (mt hfar.mpr h)) hdev hsys,
    trig_due hg hq, fun k l hk htrig hl => ?counted, fun k => countTrig_counted⟩
  case fenceInner =>
    rw [fence_due hg hdue, thenAcquire_inner _ hinner, released_setPrel,
      settle_setPrel_done _ _ releasedState_cur (releasedState_quiet hq)]
  case fenceOuter =>
    rw [fence_due hg hdue, thenAcquire_outer _ houter]
    exact congrArg _ (settle_wait_parkedOn (.fence g sc) 0 .acquire (releasedState_cur (sc := sc)))
  case early =>
    obtain ⟨hrel, -⟩ := release_parks hg hready.1 (tryRelease_early hready hearly) rfl
    exact hrel
  case acqInner =>
    have hop : opAcq sc s = .done s := by rw [opAcq, if_neg (Bool.not_eq_true _ ▸ hflds), thenAcquire_inner _ hinner]
    rw [exec_acq hg, hop, settle_done_gone _ rfl hq]
  case acqParks =>
    have hop : opAcq sc s = .wait 0 .acquire s := by
      rw [opAcq]
      split
      · rfl
      · next hnone => exact thenAcquire_outer _ (hparks.resolve_right hnone)
    rw [exec_acq hg, hop, settle_wait_parkedOn _ _ _ rfl]
  case vd => exact hvd.trans (dieOfClu_cluId s ▸ readCounts_vd c)
  case vv => exact hvv.trans (dieOfClu_cluId s ▸ readCounts_vv c hdie)
  case vs => exact hvs.trans (dieOfClu_cluId s ▸ readCounts_vs c hdie)
  case counted =>
    rw [countTrig_first hk htrig, triggeredLaunches, hl]
    exact ⟨l.triggered, fget?_fset_self .., rfl, rfl, congrArg Strand.task (State.setMe_me ..)⟩

end Sys2Proof.Machine
